-- ==== Sys2Proof/Word.lean ====
section
/-! DEFINITION. The word sizes of the Tycel 8140 (spec 00, "Numbers, units and bits") and the plainest arithmetic on them. -/

namespace Sys2Proof

/-- 8 bits. -/
abbrev Byte := BitVec 8
/-- 16 bits. -/
abbrev Half := BitVec 16
/-- 32 bits; one lane of a vector register, one uniform register. -/
abbrev Word := BitVec 32
/-- 64 bits; a virtual address, the program counter, a pair of uniform registers. -/
abbrev Dword := BitVec 64

/-- One vector register: 32 lanes of 32 bits (R8, R13). -/
abbrev Line := Vector Word 32

/-- Bytes at addresses in the canonical sparse form of `Machine/Store.lean`. -/
abbrev Cells := List (Nat × Byte)

/-- A stamp (LC, gid) of R80. Clocks and gids are counts and identities; both compare as unsigned numbers. -/
structure Stamp where
  lc : Nat
  gid : Nat
  deriving DecidableEq, Repr

/-- The three scopes of R82. -/
inductive Scope where
  | block
  | device
  | system
  deriving DecidableEq, Repr

end Sys2Proof
end

