-- ==== Sys2Proof/Config.lean ====
section
/-! DEFINITION. What an implementation fixes and the values the spec leaves free. A free value is an opaque constant: nothing can
evaluate it, so a statement about it holds whatever it is. -/

namespace Sys2Proof.Config

/-- DESIGN CHOICE, log 5. The timestamp counter's reading at the n-th time it is read (R270, R370: "its value is taken at some moment between
issue and retirement"). A free value for every reading. -/
opaque tscReading : Nat → BitVec 64

/-- DESIGN CHOICE, log 9. SHA-512 of a byte string (R372, R373). The spec names the standard and gives no table of it: an uninterpreted function. -/
opaque sha512 : List (BitVec 8) → BitVec 512

/-- DESIGN CHOICE, log 9. The device's answer to an SPDM request, given the request and the measurement registers (R373). -/
opaque spdmAnswer : List (BitVec 8) → List (BitVec 512) → List (BitVec 8)

/-- DESIGN CHOICE, log 9. The digest of the boot ROM (R373), whose bytes the spec does not give. -/
opaque romHash : BitVec 512

/-- DESIGN CHOICE, log 9. The binding tables as the bytes that are measured (R373): quadrant, stop and core of each stop bound. -/
opaque bindingBytes : List (Nat × Nat × Option Nat) → List (BitVec 8)

/-- DESIGN CHOICE, log 17. The code under class 36 of the machine check that R351 logs for a multicast line; the spec names none. -/
opaque multicastCode : BitVec 8

/-- DESIGN CHOICE, log 41. The home slice of a line within its die, by object index and line offset (R279); the spec does not give the
function. -/
opaque homeSlice : Nat → Nat → Nat

/-- DESIGN CHOICE, log 42. Die and unit, 16 × die + unit, that report an event kind or a log class (R370); the spec does not number the
units. -/
opaque reportUnit : Nat → Nat

/-- DESIGN CHOICE, log 43. Whether an SPDM session is open after a request, and the IDE key that the request sets (R373), whose forms
the spec leaves to SPDM 1.3. -/
opaque spdmOpens : List (BitVec 8) → Bool → Bool
opaque spdmKey : List (BitVec 8) → Option (List (BitVec 8))

/-- DESIGN CHOICE, log 19. The stop at which a ring of a quadrant meets the ring-to-ring station after it, and the one before it (R326);
the spec names no stop. -/
opaque stationStop : Nat → Nat → Nat

/-- DESIGN CHOICE, log 46. Lane of a register whose slot in the image bears a reserved format byte (R17): by the byte and the lane. -/
opaque reservedLine : Nat → Nat → BitVec 32

/-- DESIGN CHOICE, log 55. The OP field of a fabric packet (R334), by operation and element type, and the payload flits of a combined
reduction of n contributions (R345): the spec gives neither coding. -/
opaque packetOp : Nat → Nat → BitVec 16
opaque combinedFlits : Nat → Nat

/-- Bytes in a line (spec 00). -/
abbrev lineBytes : Nat := 128
/-- Bytes in a scratchpad granule (R108). -/
abbrev granuleBytes : Nat := 256
/-- Lines a sketch buffer holds (R88). -/
abbrev sketchLines : Nat := 16
/-- Pinned register lines of a core never exceed this (R14). -/
abbrev pinLimit : Nat := 15872
/-- Launches pending in one queue (R259). -/
abbrev queueLimit : Nat := 256
/-- Packets outstanding to one destination span at most this many sequence numbers (R338). -/
abbrev seqWindow : Nat := 4096
/-- Entries of a router's combining table (R345). -/
abbrev combineEntries : Nat := 1024
/-- Contributions that one combined packet holds at most (R345). -/
abbrev combineMax : Nat := 16
/-- On-chip overlay entries of one slice (R90). -/
abbrev overlayOnChip : Nat := 4096
/-- Bytes of DRAM of one die (R275). -/
abbrev dieBytes : Nat := 0x3000000000

end Sys2Proof.Config
end

