-- ==== Sys2Proof/Syntax.lean ====
section
/-! DEFINITION. The syntax: one constructor of `Instr` per row of spec/opcode_table.json. A word row's constructor holds the raw fields
that R35 and the instruction's description give the word; the fields that are reserved are dropped (the decoder refuses a word that
sets one). `lit l w` is a `lit` with the word after it (R49: the two are one instruction). The rows after `lit` are the steps of the
other agents of the module; their arguments say which pending work or which outside event the step is about. -/

namespace Sys2Proof

/-- The ordering operations of R183. -/
inductive AOp where
  | axchg | acas | aadd | amin | amax | aand | aor | axor | ldacq | strel | waita
  deriving DecidableEq, Repr

/-- The deferred reductions of R188, in opcode order (R106 takes kinds in that order). -/
inductive ROp where
  | radd | rfadd | rmin | rmax | rfmin | rfmax | rand | ror | rxor
  deriving DecidableEq, Repr

/-- What a turn entry does at its turn (R81, R259, R272). Addresses are virtual addresses, or scratchpad addresses under block scope. -/
inductive TurnOp where
  /-- An ordering operation on a word or a dword. `sgn`: min, max and conditions compare signed. -/
  | atomic (op : AOp) (cond : BitVec 4) (addr : Nat) (wide sgn : Bool) (src cmp : Dword)
  /-- A barrier arrival: the barrier, the stated count, and whether the group waits (`bar`) or goes on (`bara`). -/
  | arrive (bar count : Nat) (waits : Bool)
  /-- A launch, with its record w0 to w7. -/
  | launch (rec : List Word)
  /-- A deferred translation write. -/
  | objw (pa : Nat) (val : Dword)
  deriving DecidableEq, Repr

/-- One contribution of a deferred reduction: the element's address, its operation and element type (the kind of R106), its width
in bits, its value, and the contributing group. `exact` holds a copy's amax magnitude when FP32 cannot hold it (R231), as
significand and exponent. -/
structure Contrib where
  addr : Nat
  op : ROp
  ety : BitVec 4
  bits : Nat
  val : Nat
  exact : Option (Int × Int)
  gid : Nat
  deriving DecidableEq, Repr

/-- What a trap reports (R295, R299). -/
structure Trap where
  cls : Nat
  code : Nat
  faddr : Dword
  fmask : Word
  info0 : Dword
  info1 : Dword
  deriving DecidableEq, Repr

/-- Why a group has stopped as at a leg boundary (R267, R268, R274). -/
inductive Stop where
  | brkp
  | asrt
  | halt
  deriving DecidableEq, Repr

/-- A `brkp`, a failing `asrt` or a `halt` of the leg (R267, R268, R274): `n` is the code or the status word, `lane` the lowest failing
lane, `msg` the message pointer. -/
structure StopRec where
  why : Stop
  stamp : Stamp
  pc : Dword
  n : Word
  lane : Nat
  msg : Dword
  deriving DecidableEq, Repr

/-- A kill requested (R313). -/
inductive Kill where
  | context
  | launch (ord : Nat)
  | block (lord blk : Nat)
  deriving DecidableEq, Repr

/-- What a module finds at the end of a leg for the whole domain (R96, R97; DESIGN CHOICE, log 14): the faults of the words and lines homed
there, each with the gids it names; its live groups; whether every one of them waits with nothing here that could end a wait (R22); its
stops. -/
structure Found where
  leg : Nat
  faults : List (List Nat × Trap)
  alive : List Nat
  dead : Bool
  stops : List StopRec
  /-- Groups on other modules that watch a line which this leg end changes here (R94): the gid, the line, and the clock at which the group
  began to wait. -/
  woken : List (Nat × Nat × Nat)
  /-- Faults of killed groups, each with its leg and the gids it names (R313). -/
  moved : List (Nat × List Nat × Trap)
  /-- `csrw` of OBJTB (false) and TMPLB (true) in the leg (R255), and the objects of its `icinv` (R271). -/
  csrs : List (Bool × Stamp × Dword)
  icinvs : List Nat
  /-- Launches that are not complete here, with 2^24 while a copy is pending (R252, R261). -/
  live : List Nat
  /-- Blocks that step 9 would place here, each with the launch that must first be complete, if any (R22, R261). -/
  places : List (Option Nat)
  deriving DecidableEq, Repr

/-- What a type 11 packet says of its module and a context (R346; DESIGN CHOICE, log 14): the leg and the phase of its end; the serial
number of the report in the leg; whether the module meets the condition of the phase; its contributions to the system horizon; the
wake bounds of its ceded groups; its launches that are not fully placed; the packets it has sent and received in the
leg, each with the other module and its sequence number; what it found at the leg end it reached last; the kills requested on it that the leg
end is to apply; the next launch ordinal that it knows of; and its blocks, placed or queued, each range by launch, first block, step and
limit. -/
structure Report where
  leg : Nat
  phase : Nat
  serial : Nat
  ready : Bool
  horizon : List Stamp
  bounds : List Stamp
  pending : List Nat
  sent : List (Nat × Nat)
  got : List (Nat × Nat)
  found : Option Found
  kills : List Kill
  nextOrd : Nat
  blocks : List (Nat × Nat × Nat × Nat)
  deriving DecidableEq, Repr

/-- Who asks another module for a line: a plain load, which sets a tag (R104), a fetch, which reads the code image (R271), or a copy. -/
inductive ReadUse where
  | load | fetch | copy
  deriving DecidableEq, Repr

/-- What a fabric packet carries (R335). Byte addresses are virtual addresses. A line write that is a copy's landing carries its stamp,
and 4-bit elements by 2 · address + half. A read request says what it is for. A publication may come from a killed group, whose bytes are discarded (R313) but whose words are marked (R106). A failure notice says whether a second
link still joins the two modules (R330). `watch` (type 0), `wake` and `performed` (type 5) serve waits on another module's line; `since` is
the clock at which the group began to wait (DESIGN CHOICE, log 15). A combined reduction lists the packets that its contributions came in, and the combined packets that it took up
(R345; DESIGN CHOICE, log 18). A multicast line says what the issuing module's record gives its object (DESIGN CHOICE, log 17). -/
inductive PBody where
  | readReq (line : Nat) (gid : Nat) (view : Option (Stamp × Scope)) (use : ReadUse)
  | readResp (answers : Nat) (line : Nat) (cells : Cells) (lost : Bool)
  | lineWrite (gid : Nat) (landing : Option Stamp) (cells nibs : Cells)
  | publication (stamp : Stamp) (line : Nat) (cells : Cells) (killed : Bool)
  | turn (stamp : Stamp) (op : TurnOp)
  | result (answers : Nat) (gid : Nat) (val : Dword) (ok : Bool)
  | reduction (c : Contrib)
  | combined (parts via : List (Nat × Nat)) (cs : List Contrib)
  | multicast (gid : Nat) (cells : Cells) (ext mode perm : Nat)
  | ack (seqs : List Nat)
  | failure (a b : Nat) (joined : Bool)
  | agree (report : Report)
  | watch (line : Nat) (gid since : Nat)
  | wake (gid line since : Nat) (stamp : Stamp)
  | performed (stamp : Stamp) (lines : List Nat)
  | reserved
  deriving DecidableEq, Repr

/-- A fabric packet (R334): its type, source and destination module, sequence number, leg, hop index, context and contents. -/
structure Packet where
  typ : Nat
  src : Nat
  dst : Nat
  seq : Nat
  leg : Nat
  hop : Nat
  ctx : Nat
  body : PBody
  deriving DecidableEq, Repr

/-- What travels on the on-chip network (R320, R321). -/
inductive NetKind where
  | readRequest
  | turnEntry
  | barrierArrival
  | acknowledgement
  | lineWrite
  | publication
  | copyWrite
  | readResponse
  | padRequest
  | padResponse
  deriving DecidableEq, Repr

/-- Where a packet of the on-chip network starts or ends: the core or the slice at a stop of a quadrant (R320), or the gateway of a die
(R327), with the other module that lies beyond it. -/
inductive NetPlace where
  | core (die quad stop : Nat)
  | slice (die quad stop : Nat)
  | gateway (die module : Nat)
  deriving DecidableEq, Repr

/-- A packet of the on-chip network (R321): the fields of its header, and its payload bytes, 64 to a flit. -/
structure NetPacket where
  kind : NetKind
  src : NetPlace
  dst : NetPlace
  addr : Nat
  mask : BitVec 128
  stamp : Option Stamp
  payload : List Byte
  deriving DecidableEq, Repr

/-- A link of the on-chip network: the stop before it, and what the core or slice of that stop may offer for injection (R322). -/
structure RingLink where
  stop : Nat
  offer : Option NetPacket
  deriving DecidableEq, Repr

/-- An endpoint of a ring: the slice or the core of a stop (R325). -/
structure RingEndpoint where
  stop : Nat
  slice : Bool
  deriving DecidableEq, Repr

/-- The masters of the management window (R365). -/
inductive Master where
  | hostA | hostB | controller
  deriving DecidableEq, Repr

/-- A firmware image as the boot ROM sees it (R372): whether its RSASSA-PSS signature verifies under the enclosed key, the SHA-512
of that key, its version and its bytes. -/
structure FwImage where
  sigValid : Bool
  keyHash : BitVec 512
  version : Nat
  bytes : List Byte
  deriving DecidableEq, Repr

/-- Test results at bring-up (R372), one bit each: the DRAM layers of the four dies (six each), the stop cores and slices of the 128
stops, the two spare cores of each die, and the 64 rings (quadrant, pair, direction). A set bit passed. -/
structure TestResults where
  layers : BitVec 24
  stopCores : BitVec 128
  spares : BitVec 8
  slices : BitVec 128
  rings : BitVec 64
  deriving DecidableEq, Repr

/-- The rows of spec/opcode_table.json: the words in the table's order, then the two fetch rows, then the steps of the other agents. -/
inductive Instr where

  | add (d : BitVec 8) (a : BitVec 8) (b : BitVec 8)
  | addVk (d : BitVec 8) (a : BitVec 8) (b : BitVec 8)
  | sub (d : BitVec 8) (a : BitVec 8) (b : BitVec 8)
  | subVk (d : BitVec 8) (a : BitVec 8) (b : BitVec 8)
  | mul (d : BitVec 8) (a : BitVec 8) (b : BitVec 8)
  | mulVk (d : BitVec 8) (a : BitVec 8) (b : BitVec 8)
  | mulh (d : BitVec 8) (a : BitVec 8) (b : BitVec 8)
  | mulhVk (d : BitVec 8) (a : BitVec 8) (b : BitVec 8)
  | mad (d : BitVec 8) (a : BitVec 8) (b : BitVec 8)
  | madVk (d : BitVec 8) (a : BitVec 8) (b : BitVec 8)
  | minV (d : BitVec 8) (a : BitVec 8) (b : BitVec 8)
  | minVk (d : BitVec 8) (a : BitVec 8) (b : BitVec 8)
  | maxV (d : BitVec 8) (a : BitVec 8) (b : BitVec 8)
  | maxVk (d : BitVec 8) (a : BitVec 8) (b : BitVec 8)
  | absV (d : BitVec 8) (b : BitVec 8)
  | absVk (d : BitVec 8) (b : BitVec 8)
  | negV (d : BitVec 8) (b : BitVec 8)
  | negVk (d : BitVec 8) (b : BitVec 8)
  | andV (d : BitVec 8) (a : BitVec 8) (b : BitVec 8)
  | andVk (d : BitVec 8) (a : BitVec 8) (b : BitVec 8)
  | orV (d : BitVec 8) (a : BitVec 8) (b : BitVec 8)
  | orVk (d : BitVec 8) (a : BitVec 8) (b : BitVec 8)
  | xorV (d : BitVec 8) (a : BitVec 8) (b : BitVec 8)
  | xorVk (d : BitVec 8) (a : BitVec 8) (b : BitVec 8)
  | andn (d : BitVec 8) (a : BitVec 8) (b : BitVec 8)
  | andnVk (d : BitVec 8) (a : BitVec 8) (b : BitVec 8)
  | notV (d : BitVec 8) (b : BitVec 8)
  | notVk (d : BitVec 8) (b : BitVec 8)
  | shl (d : BitVec 8) (a : BitVec 8) (b : BitVec 8)
  | shlVk (d : BitVec 8) (a : BitVec 8) (b : BitVec 8)
  | shr (d : BitVec 8) (a : BitVec 8) (b : BitVec 8)
  | shrVk (d : BitVec 8) (a : BitVec 8) (b : BitVec 8)
  | sar (d : BitVec 8) (a : BitVec 8) (b : BitVec 8)
  | sarVk (d : BitVec 8) (a : BitVec 8) (b : BitVec 8)
  | rot (d : BitVec 8) (a : BitVec 8) (b : BitVec 8)
  | rotVk (d : BitVec 8) (a : BitVec 8) (b : BitVec 8)
  | clz (d : BitVec 8) (b : BitVec 8)
  | clzVk (d : BitVec 8) (b : BitVec 8)
  | popc (d : BitVec 8) (b : BitVec 8)
  | popcVk (d : BitVec 8) (b : BitVec 8)
  | brev (d : BitVec 8) (b : BitVec 8)
  | brevVk (d : BitVec 8) (b : BitVec 8)
  | bfx (d : BitVec 8) (a : BitVec 8) (b : BitVec 8)
  | bfxVk (d : BitVec 8) (a : BitVec 8) (b : BitVec 8)
  | bfi (d : BitVec 8) (a : BitVec 8) (b : BitVec 8)
  | bfiVk (d : BitVec 8) (a : BitVec 8) (b : BitVec 8)
  | sel (d : BitVec 8) (a : BitVec 8) (b : BitVec 8)
  | selVk (d : BitVec 8) (a : BitVec 8) (b : BitVec 8)
  | mov (d : BitVec 8) (b : BitVec 8)
  | movk (d : BitVec 8) (b : BitVec 8)
  | cmp (d : BitVec 8) (a : BitVec 8) (b : BitVec 8)
  | cmpVk (d : BitVec 8) (a : BitVec 8) (b : BitVec 8)
  | movi (d : BitVec 8) (imm : BitVec 16)
  | fadd (d : BitVec 8) (a : BitVec 8) (b : BitVec 8)
  | faddVk (d : BitVec 8) (a : BitVec 8) (b : BitVec 8)
  | fsub (d : BitVec 8) (a : BitVec 8) (b : BitVec 8)
  | fsubVk (d : BitVec 8) (a : BitVec 8) (b : BitVec 8)
  | fmul (d : BitVec 8) (a : BitVec 8) (b : BitVec 8)
  | fmulVk (d : BitVec 8) (a : BitVec 8) (b : BitVec 8)
  | fma (d : BitVec 8) (a : BitVec 8) (b : BitVec 8)
  | fmaVk (d : BitVec 8) (a : BitVec 8) (b : BitVec 8)
  | fms (d : BitVec 8) (a : BitVec 8) (b : BitVec 8)
  | fmsVk (d : BitVec 8) (a : BitVec 8) (b : BitVec 8)
  | fmin (d : BitVec 8) (a : BitVec 8) (b : BitVec 8)
  | fminVk (d : BitVec 8) (a : BitVec 8) (b : BitVec 8)
  | fmax (d : BitVec 8) (a : BitVec 8) (b : BitVec 8)
  | fmaxVk (d : BitVec 8) (a : BitVec 8) (b : BitVec 8)
  | fabs (d : BitVec 8) (b : BitVec 8)
  | fabsVk (d : BitVec 8) (b : BitVec 8)
  | fneg (d : BitVec 8) (b : BitVec 8)
  | fnegVk (d : BitVec 8) (b : BitVec 8)
  | fcmp (d : BitVec 8) (a : BitVec 8) (b : BitVec 8)
  | fcmpVk (d : BitVec 8) (a : BitVec 8) (b : BitVec 8)
  | fcvt (d : BitVec 8) (a : BitVec 8) (b : BitVec 8)
  | fcvtVk (d : BitVec 8) (a : BitVec 8) (b : BitVec 8)
  | frnd (d : BitVec 8) (b : BitVec 8)
  | frndVk (d : BitVec 8) (b : BitVec 8)
  | fclass (d : BitVec 8) (b : BitVec 8)
  | fclassVk (d : BitVec 8) (b : BitVec 8)
  | fdot2 (d : BitVec 8) (a : BitVec 8) (b : BitVec 8)
  | fdot2Vk (d : BitVec 8) (a : BitVec 8) (b : BitVec 8)
  | idot4 (d : BitVec 8) (a : BitVec 8) (b : BitVec 8)
  | idot4Vk (d : BitVec 8) (a : BitVec 8) (b : BitVec 8)
  | frcp (d : BitVec 8) (b : BitVec 8)
  | frcpVk (d : BitVec 8) (b : BitVec 8)
  | frsq (d : BitVec 8) (b : BitVec 8)
  | frsqVk (d : BitVec 8) (b : BitVec 8)
  | fsqrt (d : BitVec 8) (b : BitVec 8)
  | fsqrtVk (d : BitVec 8) (b : BitVec 8)
  | fex2 (d : BitVec 8) (b : BitVec 8)
  | fex2Vk (d : BitVec 8) (b : BitVec 8)
  | flg2 (d : BitVec 8) (b : BitVec 8)
  | flg2Vk (d : BitVec 8) (b : BitVec 8)
  | ftanh (d : BitVec 8) (b : BitVec 8)
  | ftanhVk (d : BitVec 8) (b : BitVec 8)
  | pand (d : BitVec 8) (a : BitVec 8) (b : BitVec 8)
  | por (d : BitVec 8) (a : BitVec 8) (b : BitVec 8)
  | pxor (d : BitVec 8) (a : BitVec 8) (b : BitVec 8)
  | pnot (d : BitVec 8) (b : BitVec 8)
  | pmov (d : BitVec 8) (b : BitVec 8)
  | shfl (d : BitVec 8) (a : BitVec 8) (b : BitVec 8)
  | shflVk (d : BitVec 8) (a : BitVec 8) (b : BitVec 8)
  | bcast (d : BitVec 8) (a : BitVec 8) (n : BitVec 5)
  | vote (d : BitVec 8) (a : BitVec 8) (op : BitVec 3)
  | lsum (d : BitVec 8) (f : BitVec 1) (b : BitVec 8)
  | lscan (d : BitVec 8) (f : BitVec 1) (b : BitVec 8)
  | kadd (d : BitVec 8) (a : BitVec 8) (b : BitVec 8)
  | ksub (d : BitVec 8) (a : BitVec 8) (b : BitVec 8)
  | kmul (d : BitVec 8) (a : BitVec 8) (b : BitVec 8)
  | kmulh (d : BitVec 8) (a : BitVec 8) (b : BitVec 8)
  | kand (d : BitVec 8) (a : BitVec 8) (b : BitVec 8)
  | kor (d : BitVec 8) (a : BitVec 8) (b : BitVec 8)
  | kxor (d : BitVec 8) (a : BitVec 8) (b : BitVec 8)
  | kshl (d : BitVec 8) (a : BitVec 8) (b : BitVec 8)
  | kshr (d : BitVec 8) (a : BitVec 8) (b : BitVec 8)
  | ksar (d : BitVec 8) (a : BitVec 8) (b : BitVec 8)
  | kmin (d : BitVec 8) (a : BitVec 8) (b : BitVec 8)
  | kmax (d : BitVec 8) (a : BitVec 8) (b : BitVec 8)
  | kmov (d : BitVec 8) (b : BitVec 8)
  | kmovi (d : BitVec 8) (imm : BitVec 16)
  | kcmp (d : BitVec 8) (a : BitVec 8) (b : BitVec 8)
  | ksel (d : BitVec 8) (a : BitVec 8) (b : BitVec 8)
  | qand (d : BitVec 8) (a : BitVec 8) (b : BitVec 8)
  | qor (d : BitVec 8) (a : BitVec 8) (b : BitVec 8)
  | qnot (d : BitVec 8) (b : BitVec 8)
  | rqmove (d : BitVec 8) (a : BitVec 8)
  | br (d : BitVec 8) (imm : BitVec 16)
  | jmp (off : BitVec 24)
  | call (off : BitVec 24)
  | ret (a : BitVec 8)
  | jmpk (a : BitVec 8)
  | mkj (imm : BitVec 16)
  | brv (d : BitVec 8) (imm : BitVec 16)
  | jn
  | exitI
  | nop
  | mdset (imm : BitVec 16)
  | mdget (d : BitVec 8)
  | lcrd (d : BitVec 8)
  | lcadv (a : BitVec 8)
  | cede (a : BitVec 8)
  | rqset (a : BitVec 8)
  | ldB (d : BitVec 8) (a : BitVec 8) (b : BitVec 8)
  | ldH (d : BitVec 8) (a : BitVec 8) (b : BitVec 8)
  | ldW (d : BitVec 8) (a : BitVec 8) (b : BitVec 8)
  | ldD (d : BitVec 8) (a : BitVec 8) (b : BitVec 8)
  | ldQ (d : BitVec 8) (a : BitVec 8) (b : BitVec 8)
  | stB (d : BitVec 8) (a : BitVec 8) (b : BitVec 8)
  | stH (d : BitVec 8) (a : BitVec 8) (b : BitVec 8)
  | stW (d : BitVec 8) (a : BitVec 8) (b : BitVec 8)
  | stD (d : BitVec 8) (a : BitVec 8) (b : BitVec 8)
  | stQ (d : BitVec 8) (a : BitVec 8) (b : BitVec 8)
  | ldk (d : BitVec 8) (a : BitVec 8) (n : BitVec 4)
  | stk (d : BitVec 8) (a : BitVec 8) (n : BitVec 4)
  | ldsB (d : BitVec 8) (a : BitVec 8) (b : BitVec 8)
  | ldsH (d : BitVec 8) (a : BitVec 8) (b : BitVec 8)
  | ldsW (d : BitVec 8) (a : BitVec 8) (b : BitVec 8)
  | ldsD (d : BitVec 8) (a : BitVec 8) (b : BitVec 8)
  | ldsQ (d : BitVec 8) (a : BitVec 8) (b : BitVec 8)
  | stsB (d : BitVec 8) (a : BitVec 8) (b : BitVec 8)
  | stsH (d : BitVec 8) (a : BitVec 8) (b : BitVec 8)
  | stsW (d : BitVec 8) (a : BitVec 8) (b : BitVec 8)
  | stsD (d : BitVec 8) (a : BitVec 8) (b : BitVec 8)
  | stsQ (d : BitVec 8) (a : BitVec 8) (b : BitVec 8)
  | pf (h : BitVec 2) (a : BitVec 8) (b : BitVec 8)
  | radd (d : BitVec 8) (a : BitVec 8) (b : BitVec 8)
  | rfadd (d : BitVec 8) (a : BitVec 8) (b : BitVec 8)
  | rmin (d : BitVec 8) (a : BitVec 8) (b : BitVec 8)
  | rmax (d : BitVec 8) (a : BitVec 8) (b : BitVec 8)
  | rfmin (d : BitVec 8) (a : BitVec 8) (b : BitVec 8)
  | rfmax (d : BitVec 8) (a : BitVec 8) (b : BitVec 8)
  | rand (d : BitVec 8) (a : BitVec 8) (b : BitVec 8)
  | ror (d : BitVec 8) (a : BitVec 8) (b : BitVec 8)
  | rxor (d : BitVec 8) (a : BitVec 8) (b : BitVec 8)
  | axchg (d : BitVec 8) (a : BitVec 8) (b : BitVec 8)
  | acas (d : BitVec 8) (a : BitVec 8) (b : BitVec 8)
  | aadd (d : BitVec 8) (a : BitVec 8) (b : BitVec 8)
  | amin (d : BitVec 8) (a : BitVec 8) (b : BitVec 8)
  | amax (d : BitVec 8) (a : BitVec 8) (b : BitVec 8)
  | aand (d : BitVec 8) (a : BitVec 8) (b : BitVec 8)
  | aor (d : BitVec 8) (a : BitVec 8) (b : BitVec 8)
  | axor (d : BitVec 8) (a : BitVec 8) (b : BitVec 8)
  | ldacq (d : BitVec 8) (a : BitVec 8)
  | strel (a : BitVec 8) (b : BitVec 8)
  | waita (c : BitVec 4) (a : BitVec 8) (b : BitVec 8)
  | bar (n : BitVec 4) (cnt : BitVec 10)
  | bara (n : BitVec 4) (cnt : BitVec 10)
  | barw (n : BitVec 4)
  | mma (t : BitVec 4) (a : BitVec 8)
  | mmaz (t : BitVec 4) (a : BitVec 8)
  | mfence (d : BitVec 8)
  | mwait (n : BitVec 4)
  | acczero (t : BitVec 4)
  | accrd (d : BitVec 8) (t : BitVec 4) (b : BitVec 8)
  | accwr (t : BitVec 4) (a : BitVec 8) (b : BitVec 8)
  | accdrain (t : BitVec 4) (a : BitVec 8) (z : BitVec 1) (way : BitVec 2)
  | xfr (ch : BitVec 2) (a : BitVec 8) (b : BitVec 8)
  | xfrw
  | xfrq (d : BitVec 8)
  | stmc (d : BitVec 8) (a : BitVec 8) (b : BitVec 8)
  | fenceSys
  | fstat (d : BitVec 8)
  | fclr (a : BitVec 8)
  | trap (n : BitVec 8)
  | asrt (d : BitVec 8) (b : BitVec 8)
  | rfe
  | csrr (d : BitVec 8) (n : BitVec 8)
  | csrw (a : BitVec 8) (n : BitVec 8)
  | launch (d : BitVec 8) (a : BitVec 8)
  | objw (a : BitVec 8) (b : BitVec 8)
  | objfence
  | tscrd (d : BitVec 8)
  | icinv (a : BitVec 8)
  | brkp (n : BitVec 8)
  | halt (a : BitVec 8)
  | lit (l : BitVec 24) (w : Word)
  | unassignedFirstByte (w : Word)
  | instructionFetchFault (l : Option (BitVec 24))
  | turnPerform (gid : Nat)
  | cedeReentry (gid : Nat)
  | publicationApply (n : Nat)
  | reductionContributionArrive (n : Nat)
  | copyEngineRead (id : Nat)
  | matrixProductComplete (gid : Nat)
  | systemCopyComplete (id : Nat)
  | legEnd
  | progressMonitorTimeout (part : Nat)
  | serviceWriteApply (n : Nat)
  | translationChangeComplete (n : Nat)
  | movingDrainComplete (n : Nat)
  | directoryEntryDrop (ln : Nat)
  | directoryError (ln : Nat)
  | uncorrectableData (cno : Nat)
  | hostMemRead (pa : Nat)
  | hostMemWrite (cno : Nat) (cells : Cells)
  | translationApertureWrite (x : Nat) (val : Dword)
  | hostSnoop (ln : Nat)
  | owner (m : Master) (val : Word)
  | hbeat (m : Master)
  | heartbeatLapse
  | dpcfg (m : Master) (val : Word)
  | pstat (m : Master) (port : BitVec 4) (val : Word)
  | sparePortBind (m : Master) (i : BitVec 1) (val : Word)
  | mgmtRegisterWrite (m : Master) (off : Nat) (val : Dword)
  | contextStart (m : Master) (part : BitVec 4) (cmd : Dword) (span : Bool)
  | contextSuspend (m : Master) (part : BitVec 4) (cmd : Dword)
  | contextResume (m : Master) (part : BitVec 4) (cmd : Dword)
  | killContext (m : Master) (part : BitVec 4) (cmd : Dword)
  | killLaunch (m : Master) (part : BitVec 4) (cmd : Dword)
  | killBlock (m : Master) (part : BitVec 4) (cmd : Dword)
  | preEmptBlock (m : Master) (part : BitVec 4) (cmd : Dword)
  | setParameterLegq (m : Master) (part : BitVec 4) (cmd : Dword)
  | setParameterSeed (m : Master) (part : BitVec 4) (cmd : Dword)
  | setParameterNondet (m : Master) (part : BitVec 4) (cmd : Dword)
  | setParameterQuota (m : Master) (part : BitVec 4) (cmd : Dword)
  | setParameterOvlb (m : Master) (part : BitVec 4) (cmd : Dword)
  | setParameterScrb (m : Master) (part : BitVec 4) (cmd : Dword)
  | setParameterMctb (m : Master) (part : BitVec 4) (cmd : Dword)
  | flitReceive (port : BitVec 4) (crcOk : Bool)
  | linkSilenceTimeout (port : BitVec 4)
  | routerFailure
  | fabricReadRequest (p : Packet)
  | readResponse (p : Packet)
  | lineWrite (p : Packet)
  | fabricPublication (p : Packet)
  | fabricTurnEntry (p : Packet)
  | turnResult (p : Packet)
  | fabricDeferredReduction (p : Packet)
  | combinedReduction (p : Packet)
  | routerCombine (p : Packet)
  | multicastWrite (p : Packet)
  | acknowledgement (p : Packet)
  | failureNotice (p : Packet)
  | legEndAgreement (p : Packet)
  | reservedPacketType (p : Packet)
  | writeCombiningTimer (n : Nat)
  | ringHop (ring : Nat) (link : RingLink)
  | packetEject (ring : Nat) (endpoint : RingEndpoint)
  | powerOn (fw : FwImage)
  | dramTrainingComplete (t : TestResults)
  | firmwareImageLoad (fw : FwImage)
  | thermalTrip (part : Nat)
  | spdmRequest (req : List Byte)
  | linkTrained (port : BitVec 4)
  deriving DecidableEq, Repr

end Sys2Proof
end

