-- ==== Sys2Proof/WellFormed.lean ====
section
/-! DEFINITION. Which instruction words are legal (R54, checks 3 and 5), which name a register the trap window lacks (R300), and each
instruction's weight and whether it takes a `lit` (R52). Check 4 (reserved bits) is the decoder's: the constructors hold no
reserved bit. For the steps of the other agents: that the argument is of the kind the row names. -/

namespace Sys2Proof

/-! ### Names (R36 to R38) -/

/-- A readable vector name (R36). -/
def vRead (n : BitVec 8) : Bool := n.toNat ≤ 243 || (252 ≤ n.toNat && n.toNat ≤ 254)
/-- A writable vector name (R36). -/
def vWrite (n : BitVec 8) : Bool := n.toNat ≤ 239
/-- A readable uniform name, `kz` included (R37). -/
def kRead (n : BitVec 8) : Bool := n.toNat < 160 || n.toNat = 248
/-- A uniform destination (R37). -/
def kWrite (n : BitVec 8) : Bool := n.toNat < 160
/-- An even uniform pair (R37). -/
def kPair (n : BitVec 8) : Bool := n.toNat < 160 && n.toNat % 2 = 0
/-- A P field read as a source: the four bits above the predicate are zero (R38, R149). -/
def pSrc (n : BitVec 8) : Bool := n.toNat < 16
/-- A P field that is a destination: not p7 or q7, not inverted (R38). -/
def pDst (n : BitVec 8) : Bool := n.toNat < 7
/-- The destination predicate of a compare, in d[3:0] (R48). -/
def pDstLow (n : BitVec 8) : Bool := n.toNat % 16 < 7
/-- Destination of a d access (R176). -/
def vDstD (n : BitVec 8) : Bool := n.toNat % 2 = 0 && (n.toNat ≤ 230 || (232 ≤ n.toNat && n.toNat ≤ 238))
/-- Destination of a q access (R176). -/
def vDstQ (n : BitVec 8) : Bool := (n.toNat % 4 = 0 && n.toNat ≤ 228) || n.toNat = 232 || n.toNat = 236
/-- Source of a d access (R176). -/
def vSrcD (n : BitVec 8) : Bool := vDstD n || n.toNat = 240 || n.toNat = 242 || (252 ≤ n.toNat && n.toNat ≤ 254)
/-- Source of a q access (R176). -/
def vSrcQ (n : BitVec 8) : Bool := vDstQ n || n.toNat = 252
/-- The uniform registers k(d) to k(d + n) of `ldk` (R177). -/
def kRun (d : BitVec 8) (n : BitVec 4) : Bool := d.toNat + n.toNat ≤ 159
/-- The same as a source of `stk`: `kz` only for one word (R177). -/
def kRunSrc (d : BitVec 8) (n : BitVec 4) : Bool := kRun d n || (d.toNat = 248 && n.toNat = 0)
/-- The four descriptor words of `mma` (R213). -/
def kDesc (n : BitVec 8) : Bool := n.toNat ≤ 156
/-- The eight record words of `launch` (R258). -/
def kLaunch (n : BitVec 8) : Bool := n.toNat ≤ 152
/-- The destination of `vote` by its op (R153). -/
def voteDst (op : BitVec 3) (d : BitVec 8) : Bool :=
  if op.toNat < 3 then pDst d else if op.toNat < 6 then kWrite d else true
/-- A format code of 64 bits (R60). -/
def code64 (c : Nat) : Bool := c = 12 || c = 13
/-- The names of `fcvt` (R70): a 64-bit side names a pair. -/
def fcvtNames (vk : Bool) (d a b : BitVec 8) : Bool :=
  (if code64 (a.toNat / 16) then vDstD d else vWrite d) &&
  (if vk then (if code64 (a.toNat % 16) then kPair b || b.toNat = 248 else kRead b)
   else (if code64 (a.toNat % 16) then vSrcD b else vRead b))
/-- The space field of R173 as names; `red`: of a reduction. -/
def spaceNames (red : Bool) (a : BitVec 8) : Bool :=
  let scope := a.toNat / 64
  if scope = 0 || scope = 3 || (red && scope = 2) then true else a.toNat % 2 = 0
/-- A control register of 64 bits (R253). -/
def csr64 (n : BitVec 8) : Bool := n.toNat = 5 || (8 ≤ n.toNat && n.toNat ≤ 12)
/-- The uniform field of `csrr` (R256). -/
def csrrNames (n d : BitVec 8) : Bool := if n.toNat > 12 then true else if csr64 n then kPair d else kWrite d
/-- A control register that `csrw` can name (R253). -/
def csrwCode (n : BitVec 8) : Bool := n.toNat = 4 || n.toNat = 5 || n.toNat = 8 || n.toNat = 9
/-- The uniform field of `csrw` (R256). -/
def csrwNames (n a : BitVec 8) : Bool := if csrwCode n then (if csr64 n then kPair a else kRead a) else true

/-! ### Codes (check 5 of R54) -/

/-- A condition of `cmp` and `kcmp` in d[7:4] (R48). -/
def condInt (d : BitVec 8) : Bool := d.toNat / 16 < 10
/-- A condition of `fcmp` in d[7:4] (R48). -/
def condFloat (d : BitVec 8) : Bool := d.toNat / 16 < 6 || d.toNat / 16 = 10 || d.toNat / 16 = 11
/-- A conversion code of `fcvt` (R70). -/
def fcvtCode (a : BitVec 8) : Bool :=
  let dst := a.toNat / 16
  let src := a.toNat % 16
  dst ≠ src && dst < 14 && src < 14 && (dst < 6 || src < 6) && (dst < 6 || src < 3) && (src < 6 || dst < 3)
/-- An op of `vote` (R153). -/
def voteOp (op : BitVec 3) : Bool := op.toNat < 6
/-- A value MD may hold (R45). -/
def mdLegal (m : BitVec 16) : Bool := m.toNat / 8192 = 0 && m.toNat / 256 % 8 ≤ 4 && m.toNat / 16 % 16 ≤ 8
/-- The scope code of R173. -/
def spaceCode (red : Bool) (a : BitVec 8) : Bool := if red then a.toNat / 64 < 2 else a.toNat / 64 < 3
/-- A control register that `csrr` can name (R253). -/
def csrrCode (n : BitVec 8) : Bool := n.toNat ≤ 12
/-- An unassigned first byte (R53). -/
def unassigned (op : Nat) : Bool :=
  (0x35 ≤ op && op ≤ 0x3F) || (0x6A ≤ op && op ≤ 0x6F) || (0x7B ≤ op && op ≤ 0x7F) || (0x93 ≤ op && op ≤ 0x9E) ||
  op = 0xDE || op = 0xDF || op = 0xEB || op = 0xFC || op = 0xFD || op = 0xFF
/-- A CTXCMD value with this command code (R368). -/
def cmdIs (cmd : Dword) (c : Nat) : Bool := cmd.toNat / 2 ^ 60 = c
/-- A CTXCMD value of command 8 with this selector (R368). -/
def selIs (cmd : Dword) (c : Nat) : Bool := cmdIs cmd 8 && cmd.toNat / 2 ^ 56 % 16 = c

/-! ### Names inside the trap window (R300) -/

/-- A vector name the window has. -/
def vIn (n : BitVec 8) : Bool := n.toNat < 32 || 232 ≤ n.toNat
/-- A uniform name the window has; `more` further registers follow it. -/
def kIn (n : BitVec 8) (more : Nat := 0) : Bool := n.toNat + more < 32 || n.toNat = 248
/-- The base register of a space field, in the window. -/
def spaceIn (a : BitVec 8) : Bool :=
  let base := a.toNat % 64
  if a.toNat / 64 = 0 then base < 32 || base = 63 else base + 1 < 32


/-- Check 3 of R54: every register field names a legal register for its use. -/
def namesOk : Instr → Bool
  | .add d a b => vWrite d && vRead a && vRead b
  | .addVk d a b => vWrite d && vRead a && kRead b
  | .sub d a b => vWrite d && vRead a && vRead b
  | .subVk d a b => vWrite d && vRead a && kRead b
  | .mul d a b => vWrite d && vRead a && vRead b
  | .mulVk d a b => vWrite d && vRead a && kRead b
  | .mulh d a b => vWrite d && vRead a && vRead b
  | .mulhVk d a b => vWrite d && vRead a && kRead b
  | .mad d a b => vWrite d && vRead a && vRead b
  | .madVk d a b => vWrite d && vRead a && kRead b
  | .minV d a b => vWrite d && vRead a && vRead b
  | .minVk d a b => vWrite d && vRead a && kRead b
  | .maxV d a b => vWrite d && vRead a && vRead b
  | .maxVk d a b => vWrite d && vRead a && kRead b
  | .absV d b => vWrite d && vRead b
  | .absVk d b => vWrite d && kRead b
  | .negV d b => vWrite d && vRead b
  | .negVk d b => vWrite d && kRead b
  | .andV d a b => vWrite d && vRead a && vRead b
  | .andVk d a b => vWrite d && vRead a && kRead b
  | .orV d a b => vWrite d && vRead a && vRead b
  | .orVk d a b => vWrite d && vRead a && kRead b
  | .xorV d a b => vWrite d && vRead a && vRead b
  | .xorVk d a b => vWrite d && vRead a && kRead b
  | .andn d a b => vWrite d && vRead a && vRead b
  | .andnVk d a b => vWrite d && vRead a && kRead b
  | .notV d b => vWrite d && vRead b
  | .notVk d b => vWrite d && kRead b
  | .shl d a b => vWrite d && vRead a && vRead b
  | .shlVk d a b => vWrite d && vRead a && kRead b
  | .shr d a b => vWrite d && vRead a && vRead b
  | .shrVk d a b => vWrite d && vRead a && kRead b
  | .sar d a b => vWrite d && vRead a && vRead b
  | .sarVk d a b => vWrite d && vRead a && kRead b
  | .rot d a b => vWrite d && vRead a && vRead b
  | .rotVk d a b => vWrite d && vRead a && kRead b
  | .clz d b => vWrite d && vRead b
  | .clzVk d b => vWrite d && kRead b
  | .popc d b => vWrite d && vRead b
  | .popcVk d b => vWrite d && kRead b
  | .brev d b => vWrite d && vRead b
  | .brevVk d b => vWrite d && kRead b
  | .bfx d a b => vWrite d && vRead a && vRead b
  | .bfxVk d a b => vWrite d && vRead a && kRead b
  | .bfi d a b => vWrite d && vRead a && vRead b
  | .bfiVk d a b => vWrite d && vRead a && kRead b
  | .sel d a b => vWrite d && vRead a && vRead b
  | .selVk d a b => vWrite d && vRead a && kRead b
  | .mov d b => vWrite d && vRead b
  | .movk d b => vWrite d && kRead b
  | .cmp d a b => pDstLow d && vRead a && vRead b
  | .cmpVk d a b => pDstLow d && vRead a && kRead b
  | .movi d _ => vWrite d
  | .fadd d a b => vWrite d && vRead a && vRead b
  | .faddVk d a b => vWrite d && vRead a && kRead b
  | .fsub d a b => vWrite d && vRead a && vRead b
  | .fsubVk d a b => vWrite d && vRead a && kRead b
  | .fmul d a b => vWrite d && vRead a && vRead b
  | .fmulVk d a b => vWrite d && vRead a && kRead b
  | .fma d a b => vWrite d && vRead a && vRead b
  | .fmaVk d a b => vWrite d && vRead a && kRead b
  | .fms d a b => vWrite d && vRead a && vRead b
  | .fmsVk d a b => vWrite d && vRead a && kRead b
  | .fmin d a b => vWrite d && vRead a && vRead b
  | .fminVk d a b => vWrite d && vRead a && kRead b
  | .fmax d a b => vWrite d && vRead a && vRead b
  | .fmaxVk d a b => vWrite d && vRead a && kRead b
  | .fabs d b => vWrite d && vRead b
  | .fabsVk d b => vWrite d && kRead b
  | .fneg d b => vWrite d && vRead b
  | .fnegVk d b => vWrite d && kRead b
  | .fcmp d a b => pDstLow d && vRead a && vRead b
  | .fcmpVk d a b => pDstLow d && vRead a && kRead b
  | .fcvt d a b => fcvtNames false d a b
  | .fcvtVk d a b => fcvtNames true d a b
  | .frnd d b => vWrite d && vRead b
  | .frndVk d b => vWrite d && kRead b
  | .fclass d b => vWrite d && vRead b
  | .fclassVk d b => vWrite d && kRead b
  | .fdot2 d a b => vWrite d && vRead a && vRead b
  | .fdot2Vk d a b => vWrite d && vRead a && kRead b
  | .idot4 d a b => vWrite d && vRead a && vRead b
  | .idot4Vk d a b => vWrite d && vRead a && kRead b
  | .frcp d b => vWrite d && vRead b
  | .frcpVk d b => vWrite d && kRead b
  | .frsq d b => vWrite d && vRead b
  | .frsqVk d b => vWrite d && kRead b
  | .fsqrt d b => vWrite d && vRead b
  | .fsqrtVk d b => vWrite d && kRead b
  | .fex2 d b => vWrite d && vRead b
  | .fex2Vk d b => vWrite d && kRead b
  | .flg2 d b => vWrite d && vRead b
  | .flg2Vk d b => vWrite d && kRead b
  | .ftanh d b => vWrite d && vRead b
  | .ftanhVk d b => vWrite d && kRead b
  | .pand d a b => pDst d && pSrc a && pSrc b
  | .por d a b => pDst d && pSrc a && pSrc b
  | .pxor d a b => pDst d && pSrc a && pSrc b
  | .pnot d b => pDst d && pSrc b
  | .pmov d b => pDst d && vRead b
  | .shfl d a b => vWrite d && vRead a && vRead b
  | .shflVk d a b => vWrite d && vRead a && kRead b
  | .bcast d a _ => vWrite d && vRead a
  | .vote d a op => voteDst op d && pSrc a
  | .lsum d _ b => vWrite d && vRead b
  | .lscan d _ b => vWrite d && vRead b
  | .kadd d a b => kWrite d && kRead a && kRead b
  | .ksub d a b => kWrite d && kRead a && kRead b
  | .kmul d a b => kWrite d && kRead a && kRead b
  | .kmulh d a b => kWrite d && kRead a && kRead b
  | .kand d a b => kWrite d && kRead a && kRead b
  | .kor d a b => kWrite d && kRead a && kRead b
  | .kxor d a b => kWrite d && kRead a && kRead b
  | .kshl d a b => kWrite d && kRead a && kRead b
  | .kshr d a b => kWrite d && kRead a && kRead b
  | .ksar d a b => kWrite d && kRead a && kRead b
  | .kmin d a b => kWrite d && kRead a && kRead b
  | .kmax d a b => kWrite d && kRead a && kRead b
  | .kmov d b => kWrite d && kRead b
  | .kmovi d _ => kWrite d
  | .kcmp d a b => pDstLow d && kRead a && kRead b
  | .ksel d a b => kWrite d && kRead a && pSrc b
  | .qand d a b => pDst d && pSrc a && pSrc b
  | .qor d a b => pDst d && pSrc a && pSrc b
  | .qnot d b => pDst d && pSrc b
  | .rqmove d a => kRead d && kRead a
  | .br d _ => pSrc d
  | .jmp _ => true
  | .call _ => true
  | .ret a => kPair a
  | .jmpk a => kPair a
  | .mkj _ => true
  | .brv d _ => pSrc d
  | .jn => true
  | .exitI => true
  | .nop => true
  | .mdset _ => true
  | .mdget d => kWrite d
  | .lcrd d => kPair d
  | .lcadv a => kRead a
  | .cede a => kPair a
  | .rqset a => kRead a
  | .ldB d a b => vWrite d && kPair a && vRead b
  | .ldH d a b => vWrite d && kPair a && vRead b
  | .ldW d a b => vWrite d && kPair a && vRead b
  | .ldD d a b => vDstD d && kPair a && vRead b
  | .ldQ d a b => vDstQ d && kPair a && vRead b
  | .stB d a b => vRead d && kPair a && vRead b
  | .stH d a b => vRead d && kPair a && vRead b
  | .stW d a b => vRead d && kPair a && vRead b
  | .stD d a b => vSrcD d && kPair a && vRead b
  | .stQ d a b => vSrcQ d && kPair a && vRead b
  | .ldk d a n => kRun d n && kPair a
  | .stk d a n => kRunSrc d n && kPair a
  | .ldsB d a b => vWrite d && kRead a && vRead b
  | .ldsH d a b => vWrite d && kRead a && vRead b
  | .ldsW d a b => vWrite d && kRead a && vRead b
  | .ldsD d a b => vDstD d && kRead a && vRead b
  | .ldsQ d a b => vDstQ d && kRead a && vRead b
  | .stsB d a b => vRead d && kRead a && vRead b
  | .stsH d a b => vRead d && kRead a && vRead b
  | .stsW d a b => vRead d && kRead a && vRead b
  | .stsD d a b => vSrcD d && kRead a && vRead b
  | .stsQ d a b => vSrcQ d && kRead a && vRead b
  | .pf _ a b => kPair a && vRead b
  | .radd d a b => vRead d && spaceNames true a && vRead b
  | .rfadd d a b => vRead d && spaceNames true a && vRead b
  | .rmin d a b => vRead d && spaceNames true a && vRead b
  | .rmax d a b => vRead d && spaceNames true a && vRead b
  | .rfmin d a b => vRead d && spaceNames true a && vRead b
  | .rfmax d a b => vRead d && spaceNames true a && vRead b
  | .rand d a b => vRead d && spaceNames true a && vRead b
  | .ror d a b => vRead d && spaceNames true a && vRead b
  | .rxor d a b => vRead d && spaceNames true a && vRead b
  | .axchg d a b => vWrite d && spaceNames false a && vRead b
  | .acas d a b => vWrite d && spaceNames false a && vRead b
  | .aadd d a b => vWrite d && spaceNames false a && vRead b
  | .amin d a b => vWrite d && spaceNames false a && vRead b
  | .amax d a b => vWrite d && spaceNames false a && vRead b
  | .aand d a b => vWrite d && spaceNames false a && vRead b
  | .aor d a b => vWrite d && spaceNames false a && vRead b
  | .axor d a b => vWrite d && spaceNames false a && vRead b
  | .ldacq d a => vWrite d && spaceNames false a
  | .strel a b => spaceNames false a && vRead b
  | .waita _ a b => spaceNames false a && vRead b
  | .bar _ _ => true
  | .bara _ _ => true
  | .barw _ => true
  | .mma _ a => kDesc a
  | .mmaz _ a => kDesc a
  | .mfence d => kRead d
  | .mwait _ => true
  | .acczero _ => true
  | .accrd d _ b => vDstQ d && kRead b
  | .accwr _ a b => kRead a && vSrcQ b
  | .accdrain _ a _ _ => kRead a
  | .xfr _ a b => kRead a && kWrite b
  | .xfrw => true
  | .xfrq d => kWrite d
  | .stmc d a b => vRead d && kPair a && kRead b
  | .fenceSys => true
  | .fstat d => kWrite d
  | .fclr a => kRead a
  | .trap _ => true
  | .asrt d b => pSrc d && kPair b
  | .rfe => true
  | .csrr d n => csrrNames n d
  | .csrw a n => csrwNames n a
  | .launch d a => kRead d && kLaunch a
  | .objw a b => kPair a && kPair b
  | .objfence => true
  | .tscrd d => kPair d
  | .icinv a => kPair a
  | .brkp _ => true
  | .halt a => kRead a
  | .lit _ _ => true
  | .turnPerform _ => true
  | .cedeReentry _ => true
  | .publicationApply _ => true
  | .reductionContributionArrive _ => true
  | .copyEngineRead _ => true
  | .matrixProductComplete _ => true
  | .systemCopyComplete _ => true
  | .legEnd => true
  | .progressMonitorTimeout _ => true
  | .serviceWriteApply _ => true
  | .translationChangeComplete _ => true
  | .movingDrainComplete _ => true
  | .directoryEntryDrop _ => true
  | .directoryError _ => true
  | .uncorrectableData _ => true
  | .hostMemRead _ => true
  | .hostMemWrite _ _ => true
  | .translationApertureWrite _ _ => true
  | .hostSnoop _ => true
  | .owner _ _ => true
  | .hbeat _ => true
  | .heartbeatLapse => true
  | .dpcfg _ _ => true
  | .pstat _ _ _ => true
  | .sparePortBind _ _ _ => true
  | .mgmtRegisterWrite _ _ _ => true
  | .contextStart _ _ _ _ => true
  | .contextSuspend _ _ _ => true
  | .contextResume _ _ _ => true
  | .killContext _ _ _ => true
  | .killLaunch _ _ _ => true
  | .killBlock _ _ _ => true
  | .preEmptBlock _ _ _ => true
  | .setParameterLegq _ _ _ => true
  | .setParameterSeed _ _ _ => true
  | .setParameterNondet _ _ _ => true
  | .setParameterQuota _ _ _ => true
  | .setParameterOvlb _ _ _ => true
  | .setParameterScrb _ _ _ => true
  | .setParameterMctb _ _ _ => true
  | .flitReceive _ _ => true
  | .linkSilenceTimeout _ => true
  | .routerFailure => true
  | .fabricReadRequest _ => true
  | .readResponse _ => true
  | .lineWrite _ => true
  | .fabricPublication _ => true
  | .fabricTurnEntry _ => true
  | .turnResult _ => true
  | .fabricDeferredReduction _ => true
  | .combinedReduction _ => true
  | .routerCombine _ => true
  | .multicastWrite _ => true
  | .acknowledgement _ => true
  | .failureNotice _ => true
  | .legEndAgreement _ => true
  | .reservedPacketType _ => true
  | .writeCombiningTimer _ => true
  | .ringHop _ _ => true
  | .packetEject _ _ => true
  | .powerOn _ => true
  | .dramTrainingComplete _ => true
  | .firmwareImageLoad _ => true
  | .thermalTrip _ => true
  | .spdmRequest _ => true
  | .unassignedFirstByte _ => true
  | .instructionFetchFault _ => true
  | .linkTrained _ => true

/-- Check 5 of R54: every coded value of the word is defined. -/
def codesOk : Instr → Bool
  | .add _ _ _ => true
  | .addVk _ _ _ => true
  | .sub _ _ _ => true
  | .subVk _ _ _ => true
  | .mul _ _ _ => true
  | .mulVk _ _ _ => true
  | .mulh _ _ _ => true
  | .mulhVk _ _ _ => true
  | .mad _ _ _ => true
  | .madVk _ _ _ => true
  | .minV _ _ _ => true
  | .minVk _ _ _ => true
  | .maxV _ _ _ => true
  | .maxVk _ _ _ => true
  | .absV _ _ => true
  | .absVk _ _ => true
  | .negV _ _ => true
  | .negVk _ _ => true
  | .andV _ _ _ => true
  | .andVk _ _ _ => true
  | .orV _ _ _ => true
  | .orVk _ _ _ => true
  | .xorV _ _ _ => true
  | .xorVk _ _ _ => true
  | .andn _ _ _ => true
  | .andnVk _ _ _ => true
  | .notV _ _ => true
  | .notVk _ _ => true
  | .shl _ _ _ => true
  | .shlVk _ _ _ => true
  | .shr _ _ _ => true
  | .shrVk _ _ _ => true
  | .sar _ _ _ => true
  | .sarVk _ _ _ => true
  | .rot _ _ _ => true
  | .rotVk _ _ _ => true
  | .clz _ _ => true
  | .clzVk _ _ => true
  | .popc _ _ => true
  | .popcVk _ _ => true
  | .brev _ _ => true
  | .brevVk _ _ => true
  | .bfx _ _ _ => true
  | .bfxVk _ _ _ => true
  | .bfi _ _ _ => true
  | .bfiVk _ _ _ => true
  | .sel _ _ _ => true
  | .selVk _ _ _ => true
  | .mov _ _ => true
  | .movk _ _ => true
  | .cmp d _ _ => condInt d
  | .cmpVk d _ _ => condInt d
  | .movi _ _ => true
  | .fadd _ _ _ => true
  | .faddVk _ _ _ => true
  | .fsub _ _ _ => true
  | .fsubVk _ _ _ => true
  | .fmul _ _ _ => true
  | .fmulVk _ _ _ => true
  | .fma _ _ _ => true
  | .fmaVk _ _ _ => true
  | .fms _ _ _ => true
  | .fmsVk _ _ _ => true
  | .fmin _ _ _ => true
  | .fminVk _ _ _ => true
  | .fmax _ _ _ => true
  | .fmaxVk _ _ _ => true
  | .fabs _ _ => true
  | .fabsVk _ _ => true
  | .fneg _ _ => true
  | .fnegVk _ _ => true
  | .fcmp d _ _ => condFloat d
  | .fcmpVk d _ _ => condFloat d
  | .fcvt _ a _ => fcvtCode a
  | .fcvtVk _ a _ => fcvtCode a
  | .frnd _ _ => true
  | .frndVk _ _ => true
  | .fclass _ _ => true
  | .fclassVk _ _ => true
  | .fdot2 _ _ _ => true
  | .fdot2Vk _ _ _ => true
  | .idot4 _ _ _ => true
  | .idot4Vk _ _ _ => true
  | .frcp _ _ => true
  | .frcpVk _ _ => true
  | .frsq _ _ => true
  | .frsqVk _ _ => true
  | .fsqrt _ _ => true
  | .fsqrtVk _ _ => true
  | .fex2 _ _ => true
  | .fex2Vk _ _ => true
  | .flg2 _ _ => true
  | .flg2Vk _ _ => true
  | .ftanh _ _ => true
  | .ftanhVk _ _ => true
  | .pand _ _ _ => true
  | .por _ _ _ => true
  | .pxor _ _ _ => true
  | .pnot _ _ => true
  | .pmov _ _ => true
  | .shfl _ _ _ => true
  | .shflVk _ _ _ => true
  | .bcast _ _ _ => true
  | .vote _ _ op => voteOp op
  | .lsum _ _ _ => true
  | .lscan _ _ _ => true
  | .kadd _ _ _ => true
  | .ksub _ _ _ => true
  | .kmul _ _ _ => true
  | .kmulh _ _ _ => true
  | .kand _ _ _ => true
  | .kor _ _ _ => true
  | .kxor _ _ _ => true
  | .kshl _ _ _ => true
  | .kshr _ _ _ => true
  | .ksar _ _ _ => true
  | .kmin _ _ _ => true
  | .kmax _ _ _ => true
  | .kmov _ _ => true
  | .kmovi _ _ => true
  | .kcmp d _ _ => condInt d
  | .ksel _ _ _ => true
  | .qand _ _ _ => true
  | .qor _ _ _ => true
  | .qnot _ _ => true
  | .rqmove _ _ => true
  | .br _ _ => true
  | .jmp _ => true
  | .call _ => true
  | .ret _ => true
  | .jmpk _ => true
  | .mkj _ => true
  | .brv _ _ => true
  | .jn => true
  | .exitI => true
  | .nop => true
  | .mdset imm => mdLegal imm
  | .mdget _ => true
  | .lcrd _ => true
  | .lcadv _ => true
  | .cede _ => true
  | .rqset _ => true
  | .ldB _ _ _ => true
  | .ldH _ _ _ => true
  | .ldW _ _ _ => true
  | .ldD _ _ _ => true
  | .ldQ _ _ _ => true
  | .stB _ _ _ => true
  | .stH _ _ _ => true
  | .stW _ _ _ => true
  | .stD _ _ _ => true
  | .stQ _ _ _ => true
  | .ldk _ _ _ => true
  | .stk _ _ _ => true
  | .ldsB _ _ _ => true
  | .ldsH _ _ _ => true
  | .ldsW _ _ _ => true
  | .ldsD _ _ _ => true
  | .ldsQ _ _ _ => true
  | .stsB _ _ _ => true
  | .stsH _ _ _ => true
  | .stsW _ _ _ => true
  | .stsD _ _ _ => true
  | .stsQ _ _ _ => true
  | .pf h _ _ => h.toNat < 2
  | .radd _ a _ => spaceCode true a
  | .rfadd _ a _ => spaceCode true a
  | .rmin _ a _ => spaceCode true a
  | .rmax _ a _ => spaceCode true a
  | .rfmin _ a _ => spaceCode true a
  | .rfmax _ a _ => spaceCode true a
  | .rand _ a _ => spaceCode true a
  | .ror _ a _ => spaceCode true a
  | .rxor _ a _ => spaceCode true a
  | .axchg _ a _ => spaceCode false a
  | .acas _ a _ => spaceCode false a
  | .aadd _ a _ => spaceCode false a
  | .amin _ a _ => spaceCode false a
  | .amax _ a _ => spaceCode false a
  | .aand _ a _ => spaceCode false a
  | .aor _ a _ => spaceCode false a
  | .axor _ a _ => spaceCode false a
  | .ldacq _ a => spaceCode false a
  | .strel a _ => spaceCode false a
  | .waita c a _ => spaceCode false a && c.toNat < 10
  | .bar _ cnt => cnt.toNat < 513
  | .bara _ cnt => cnt.toNat < 513
  | .barw _ => true
  | .mma _ _ => true
  | .mmaz _ _ => true
  | .mfence _ => true
  | .mwait _ => true
  | .acczero _ => true
  | .accrd _ _ _ => true
  | .accwr _ _ _ => true
  | .accdrain _ _ _ way => way.toNat < 3
  | .xfr _ _ _ => true
  | .xfrw => true
  | .xfrq _ => true
  | .stmc _ _ _ => true
  | .fenceSys => true
  | .fstat _ => true
  | .fclr _ => true
  | .trap _ => true
  | .asrt _ _ => true
  | .rfe => true
  | .csrr _ n => csrrCode n
  | .csrw _ n => csrwCode n
  | .launch _ _ => true
  | .objw _ _ => true
  | .objfence => true
  | .tscrd _ => true
  | .icinv _ => true
  | .brkp _ => true
  | .halt _ => true
  | .lit _ _ => true
  | .turnPerform _ => true
  | .cedeReentry _ => true
  | .publicationApply _ => true
  | .reductionContributionArrive _ => true
  | .copyEngineRead _ => true
  | .matrixProductComplete _ => true
  | .systemCopyComplete _ => true
  | .legEnd => true
  | .progressMonitorTimeout _ => true
  | .serviceWriteApply _ => true
  | .translationChangeComplete _ => true
  | .movingDrainComplete _ => true
  | .directoryEntryDrop _ => true
  | .directoryError _ => true
  | .uncorrectableData _ => true
  | .hostMemRead _ => true
  | .hostMemWrite _ _ => true
  | .translationApertureWrite _ _ => true
  | .hostSnoop _ => true
  | .owner _ _ => true
  | .hbeat _ => true
  | .heartbeatLapse => true
  | .dpcfg _ _ => true
  | .pstat _ _ _ => true
  | .sparePortBind _ _ _ => true
  | .mgmtRegisterWrite _ _ _ => true
  | .contextStart _ _ cmd _ => cmdIs cmd 1
  | .contextSuspend _ _ cmd => cmdIs cmd 2
  | .contextResume _ _ cmd => cmdIs cmd 3
  | .killContext _ _ cmd => cmdIs cmd 4
  | .killLaunch _ _ cmd => cmdIs cmd 5
  | .killBlock _ _ cmd => cmdIs cmd 6
  | .preEmptBlock _ _ cmd => cmdIs cmd 7
  | .setParameterLegq _ _ cmd => selIs cmd 1
  | .setParameterSeed _ _ cmd => selIs cmd 2
  | .setParameterNondet _ _ cmd => selIs cmd 3
  | .setParameterQuota _ _ cmd => selIs cmd 4
  | .setParameterOvlb _ _ cmd => selIs cmd 5
  | .setParameterScrb _ _ cmd => selIs cmd 6
  | .setParameterMctb _ _ cmd => selIs cmd 7
  | .flitReceive _ _ => true
  | .linkSilenceTimeout _ => true
  | .routerFailure => true
  | .fabricReadRequest p => p.typ = 0
  | .readResponse p => p.typ = 1
  | .lineWrite p => p.typ = 2
  | .fabricPublication p => p.typ = 3
  | .fabricTurnEntry p => p.typ = 4
  | .turnResult p => p.typ = 5
  | .fabricDeferredReduction p => p.typ = 6
  | .combinedReduction p => p.typ = 7
  | .routerCombine p => p.typ = 6 || p.typ = 7
  | .multicastWrite p => p.typ = 8
  | .acknowledgement p => p.typ = 9
  | .failureNotice p => p.typ = 10
  | .legEndAgreement p => p.typ = 11
  | .reservedPacketType p => 12 ≤ p.typ && p.typ ≤ 15
  | .writeCombiningTimer _ => true
  | .ringHop _ _ => true
  | .packetEject _ _ => true
  | .powerOn _ => true
  | .dramTrainingComplete _ => true
  | .firmwareImageLoad _ => true
  | .thermalTrip _ => true
  | .spdmRequest _ => true
  | .unassignedFirstByte w => unassigned (w.toNat / 2 ^ 24)
  | .instructionFetchFault _ => true
  | .linkTrained _ => true

/-- R300: the word names no register that the trap window lacks. (`call` writes k158:k159; DEDUCED, log 10.) -/
def windowOk : Instr → Bool
  | .add d a b => vIn d && vIn a && vIn b
  | .addVk d a b => vIn d && vIn a && kIn b
  | .sub d a b => vIn d && vIn a && vIn b
  | .subVk d a b => vIn d && vIn a && kIn b
  | .mul d a b => vIn d && vIn a && vIn b
  | .mulVk d a b => vIn d && vIn a && kIn b
  | .mulh d a b => vIn d && vIn a && vIn b
  | .mulhVk d a b => vIn d && vIn a && kIn b
  | .mad d a b => vIn d && vIn a && vIn b
  | .madVk d a b => vIn d && vIn a && kIn b
  | .minV d a b => vIn d && vIn a && vIn b
  | .minVk d a b => vIn d && vIn a && kIn b
  | .maxV d a b => vIn d && vIn a && vIn b
  | .maxVk d a b => vIn d && vIn a && kIn b
  | .absV d b => vIn d && vIn b
  | .absVk d b => vIn d && kIn b
  | .negV d b => vIn d && vIn b
  | .negVk d b => vIn d && kIn b
  | .andV d a b => vIn d && vIn a && vIn b
  | .andVk d a b => vIn d && vIn a && kIn b
  | .orV d a b => vIn d && vIn a && vIn b
  | .orVk d a b => vIn d && vIn a && kIn b
  | .xorV d a b => vIn d && vIn a && vIn b
  | .xorVk d a b => vIn d && vIn a && kIn b
  | .andn d a b => vIn d && vIn a && vIn b
  | .andnVk d a b => vIn d && vIn a && kIn b
  | .notV d b => vIn d && vIn b
  | .notVk d b => vIn d && kIn b
  | .shl d a b => vIn d && vIn a && vIn b
  | .shlVk d a b => vIn d && vIn a && kIn b
  | .shr d a b => vIn d && vIn a && vIn b
  | .shrVk d a b => vIn d && vIn a && kIn b
  | .sar d a b => vIn d && vIn a && vIn b
  | .sarVk d a b => vIn d && vIn a && kIn b
  | .rot d a b => vIn d && vIn a && vIn b
  | .rotVk d a b => vIn d && vIn a && kIn b
  | .clz d b => vIn d && vIn b
  | .clzVk d b => vIn d && kIn b
  | .popc d b => vIn d && vIn b
  | .popcVk d b => vIn d && kIn b
  | .brev d b => vIn d && vIn b
  | .brevVk d b => vIn d && kIn b
  | .bfx d a b => vIn d && vIn a && vIn b
  | .bfxVk d a b => vIn d && vIn a && kIn b
  | .bfi d a b => vIn d && vIn a && vIn b
  | .bfiVk d a b => vIn d && vIn a && kIn b
  | .sel d a b => vIn d && vIn a && vIn b
  | .selVk d a b => vIn d && vIn a && kIn b
  | .mov d b => vIn d && vIn b
  | .movk d b => vIn d && kIn b
  | .cmp _ a b => vIn a && vIn b
  | .cmpVk _ a b => vIn a && kIn b
  | .movi d _ => vIn d
  | .fadd d a b => vIn d && vIn a && vIn b
  | .faddVk d a b => vIn d && vIn a && kIn b
  | .fsub d a b => vIn d && vIn a && vIn b
  | .fsubVk d a b => vIn d && vIn a && kIn b
  | .fmul d a b => vIn d && vIn a && vIn b
  | .fmulVk d a b => vIn d && vIn a && kIn b
  | .fma d a b => vIn d && vIn a && vIn b
  | .fmaVk d a b => vIn d && vIn a && kIn b
  | .fms d a b => vIn d && vIn a && vIn b
  | .fmsVk d a b => vIn d && vIn a && kIn b
  | .fmin d a b => vIn d && vIn a && vIn b
  | .fminVk d a b => vIn d && vIn a && kIn b
  | .fmax d a b => vIn d && vIn a && vIn b
  | .fmaxVk d a b => vIn d && vIn a && kIn b
  | .fabs d b => vIn d && vIn b
  | .fabsVk d b => vIn d && kIn b
  | .fneg d b => vIn d && vIn b
  | .fnegVk d b => vIn d && kIn b
  | .fcmp _ a b => vIn a && vIn b
  | .fcmpVk _ a b => vIn a && kIn b
  | .fcvt d _ b => vIn d && vIn b
  | .fcvtVk d _ b => vIn d && kIn b
  | .frnd d b => vIn d && vIn b
  | .frndVk d b => vIn d && kIn b
  | .fclass d b => vIn d && vIn b
  | .fclassVk d b => vIn d && kIn b
  | .fdot2 d a b => vIn d && vIn a && vIn b
  | .fdot2Vk d a b => vIn d && vIn a && kIn b
  | .idot4 d a b => vIn d && vIn a && vIn b
  | .idot4Vk d a b => vIn d && vIn a && kIn b
  | .frcp d b => vIn d && vIn b
  | .frcpVk d b => vIn d && kIn b
  | .frsq d b => vIn d && vIn b
  | .frsqVk d b => vIn d && kIn b
  | .fsqrt d b => vIn d && vIn b
  | .fsqrtVk d b => vIn d && kIn b
  | .fex2 d b => vIn d && vIn b
  | .fex2Vk d b => vIn d && kIn b
  | .flg2 d b => vIn d && vIn b
  | .flg2Vk d b => vIn d && kIn b
  | .ftanh d b => vIn d && vIn b
  | .ftanhVk d b => vIn d && kIn b
  | .pand _ _ _ => true
  | .por _ _ _ => true
  | .pxor _ _ _ => true
  | .pnot _ _ => true
  | .pmov _ b => vIn b
  | .shfl d a b => vIn d && vIn a && vIn b
  | .shflVk d a b => vIn d && vIn a && kIn b
  | .bcast d a _ => vIn d && vIn a
  | .vote d _ op => if op.toNat < 3 then true else kIn d
  | .lsum d _ b => vIn d && vIn b
  | .lscan d _ b => vIn d && vIn b
  | .kadd d a b => kIn d && kIn a && kIn b
  | .ksub d a b => kIn d && kIn a && kIn b
  | .kmul d a b => kIn d && kIn a && kIn b
  | .kmulh d a b => kIn d && kIn a && kIn b
  | .kand d a b => kIn d && kIn a && kIn b
  | .kor d a b => kIn d && kIn a && kIn b
  | .kxor d a b => kIn d && kIn a && kIn b
  | .kshl d a b => kIn d && kIn a && kIn b
  | .kshr d a b => kIn d && kIn a && kIn b
  | .ksar d a b => kIn d && kIn a && kIn b
  | .kmin d a b => kIn d && kIn a && kIn b
  | .kmax d a b => kIn d && kIn a && kIn b
  | .kmov d b => kIn d && kIn b
  | .kmovi d _ => kIn d
  | .kcmp _ a b => kIn a && kIn b
  | .ksel d a _ => kIn d && kIn a
  | .qand _ _ _ => true
  | .qor _ _ _ => true
  | .qnot _ _ => true
  | .rqmove d a => kIn d && kIn a
  | .br _ _ => true
  | .jmp _ => true
  | .call _ => false
  | .ret a => kIn a 1
  | .jmpk a => kIn a 1
  | .mkj _ => true
  | .brv _ _ => true
  | .jn => true
  | .exitI => true
  | .nop => true
  | .mdset _ => true
  | .mdget d => kIn d
  | .lcrd d => kIn d 1
  | .lcadv a => kIn a
  | .cede a => kIn a 1
  | .rqset a => kIn a
  | .ldB d a b => vIn d && kIn a 1 && vIn b
  | .ldH d a b => vIn d && kIn a 1 && vIn b
  | .ldW d a b => vIn d && kIn a 1 && vIn b
  | .ldD d a b => vIn d && kIn a 1 && vIn b
  | .ldQ d a b => vIn d && kIn a 1 && vIn b
  | .stB d a b => vIn d && kIn a 1 && vIn b
  | .stH d a b => vIn d && kIn a 1 && vIn b
  | .stW d a b => vIn d && kIn a 1 && vIn b
  | .stD d a b => vIn d && kIn a 1 && vIn b
  | .stQ d a b => vIn d && kIn a 1 && vIn b
  | .ldk d a n => kIn d n.toNat && kIn a 1
  | .stk d a n => kIn d n.toNat && kIn a 1
  | .ldsB d a b => vIn d && kIn a && vIn b
  | .ldsH d a b => vIn d && kIn a && vIn b
  | .ldsW d a b => vIn d && kIn a && vIn b
  | .ldsD d a b => vIn d && kIn a && vIn b
  | .ldsQ d a b => vIn d && kIn a && vIn b
  | .stsB d a b => vIn d && kIn a && vIn b
  | .stsH d a b => vIn d && kIn a && vIn b
  | .stsW d a b => vIn d && kIn a && vIn b
  | .stsD d a b => vIn d && kIn a && vIn b
  | .stsQ d a b => vIn d && kIn a && vIn b
  | .pf _ a b => kIn a 1 && vIn b
  | .radd d a b => vIn d && spaceIn a && vIn b
  | .rfadd d a b => vIn d && spaceIn a && vIn b
  | .rmin d a b => vIn d && spaceIn a && vIn b
  | .rmax d a b => vIn d && spaceIn a && vIn b
  | .rfmin d a b => vIn d && spaceIn a && vIn b
  | .rfmax d a b => vIn d && spaceIn a && vIn b
  | .rand d a b => vIn d && spaceIn a && vIn b
  | .ror d a b => vIn d && spaceIn a && vIn b
  | .rxor d a b => vIn d && spaceIn a && vIn b
  | .axchg d a b => vIn d && spaceIn a && vIn b
  | .acas d a b => vIn d && spaceIn a && vIn b
  | .aadd d a b => vIn d && spaceIn a && vIn b
  | .amin d a b => vIn d && spaceIn a && vIn b
  | .amax d a b => vIn d && spaceIn a && vIn b
  | .aand d a b => vIn d && spaceIn a && vIn b
  | .aor d a b => vIn d && spaceIn a && vIn b
  | .axor d a b => vIn d && spaceIn a && vIn b
  | .ldacq d a => vIn d && spaceIn a
  | .strel a b => spaceIn a && vIn b
  | .waita _ a b => spaceIn a && vIn b
  | .bar _ _ => true
  | .bara _ _ => true
  | .barw _ => true
  | .mma _ a => kIn a 3
  | .mmaz _ a => kIn a 3
  | .mfence d => kIn d
  | .mwait _ => true
  | .acczero _ => true
  | .accrd d _ b => vIn d && kIn b
  | .accwr _ a b => kIn a && vIn b
  | .accdrain _ a _ _ => kIn a
  | .xfr _ a b => kIn a && kIn b
  | .xfrw => true
  | .xfrq d => kIn d
  | .stmc d a b => vIn d && kIn a 1 && kIn b
  | .fenceSys => true
  | .fstat d => kIn d
  | .fclr a => kIn a
  | .trap _ => true
  | .asrt _ b => kIn b 1
  | .rfe => true
  | .csrr d _ => kIn d
  | .csrw a _ => kIn a
  | .launch d a => kIn d && kIn a 7
  | .objw a b => kIn a 1 && kIn b 1
  | .objfence => true
  | .tscrd d => kIn d 1
  | .icinv a => kIn a 1
  | .brkp _ => true
  | .halt a => kIn a
  | .lit _ _ => true
  | .turnPerform _ => true
  | .cedeReentry _ => true
  | .publicationApply _ => true
  | .reductionContributionArrive _ => true
  | .copyEngineRead _ => true
  | .matrixProductComplete _ => true
  | .systemCopyComplete _ => true
  | .legEnd => true
  | .progressMonitorTimeout _ => true
  | .serviceWriteApply _ => true
  | .translationChangeComplete _ => true
  | .movingDrainComplete _ => true
  | .directoryEntryDrop _ => true
  | .directoryError _ => true
  | .uncorrectableData _ => true
  | .hostMemRead _ => true
  | .hostMemWrite _ _ => true
  | .translationApertureWrite _ _ => true
  | .hostSnoop _ => true
  | .owner _ _ => true
  | .hbeat _ => true
  | .heartbeatLapse => true
  | .dpcfg _ _ => true
  | .pstat _ _ _ => true
  | .sparePortBind _ _ _ => true
  | .mgmtRegisterWrite _ _ _ => true
  | .contextStart _ _ _ _ => true
  | .contextSuspend _ _ _ => true
  | .contextResume _ _ _ => true
  | .killContext _ _ _ => true
  | .killLaunch _ _ _ => true
  | .killBlock _ _ _ => true
  | .preEmptBlock _ _ _ => true
  | .setParameterLegq _ _ _ => true
  | .setParameterSeed _ _ _ => true
  | .setParameterNondet _ _ _ => true
  | .setParameterQuota _ _ _ => true
  | .setParameterOvlb _ _ _ => true
  | .setParameterScrb _ _ _ => true
  | .setParameterMctb _ _ _ => true
  | .flitReceive _ _ => true
  | .linkSilenceTimeout _ => true
  | .routerFailure => true
  | .fabricReadRequest _ => true
  | .readResponse _ => true
  | .lineWrite _ => true
  | .fabricPublication _ => true
  | .fabricTurnEntry _ => true
  | .turnResult _ => true
  | .fabricDeferredReduction _ => true
  | .combinedReduction _ => true
  | .routerCombine _ => true
  | .multicastWrite _ => true
  | .acknowledgement _ => true
  | .failureNotice _ => true
  | .legEndAgreement _ => true
  | .reservedPacketType _ => true
  | .writeCombiningTimer _ => true
  | .ringHop _ _ => true
  | .packetEject _ _ => true
  | .powerOn _ => true
  | .dramTrainingComplete _ => true
  | .firmwareImageLoad _ => true
  | .thermalTrip _ => true
  | .spdmRequest _ => true
  | .unassignedFirstByte _ => true
  | .instructionFetchFault _ => true
  | .linkTrained _ => true

/-- R52: the weight that retirement adds to LC. -/
def weight : Instr → Nat
  | .add _ _ _ => 1
  | .addVk _ _ _ => 1
  | .sub _ _ _ => 1
  | .subVk _ _ _ => 1
  | .mul _ _ _ => 1
  | .mulVk _ _ _ => 1
  | .mulh _ _ _ => 1
  | .mulhVk _ _ _ => 1
  | .mad _ _ _ => 1
  | .madVk _ _ _ => 1
  | .minV _ _ _ => 1
  | .minVk _ _ _ => 1
  | .maxV _ _ _ => 1
  | .maxVk _ _ _ => 1
  | .absV _ _ => 1
  | .absVk _ _ => 1
  | .negV _ _ => 1
  | .negVk _ _ => 1
  | .andV _ _ _ => 1
  | .andVk _ _ _ => 1
  | .orV _ _ _ => 1
  | .orVk _ _ _ => 1
  | .xorV _ _ _ => 1
  | .xorVk _ _ _ => 1
  | .andn _ _ _ => 1
  | .andnVk _ _ _ => 1
  | .notV _ _ => 1
  | .notVk _ _ => 1
  | .shl _ _ _ => 1
  | .shlVk _ _ _ => 1
  | .shr _ _ _ => 1
  | .shrVk _ _ _ => 1
  | .sar _ _ _ => 1
  | .sarVk _ _ _ => 1
  | .rot _ _ _ => 1
  | .rotVk _ _ _ => 1
  | .clz _ _ => 1
  | .clzVk _ _ => 1
  | .popc _ _ => 1
  | .popcVk _ _ => 1
  | .brev _ _ => 1
  | .brevVk _ _ => 1
  | .bfx _ _ _ => 1
  | .bfxVk _ _ _ => 1
  | .bfi _ _ _ => 1
  | .bfiVk _ _ _ => 1
  | .sel _ _ _ => 1
  | .selVk _ _ _ => 1
  | .mov _ _ => 1
  | .movk _ _ => 1
  | .cmp _ _ _ => 1
  | .cmpVk _ _ _ => 1
  | .movi _ _ => 1
  | .fadd _ _ _ => 1
  | .faddVk _ _ _ => 1
  | .fsub _ _ _ => 1
  | .fsubVk _ _ _ => 1
  | .fmul _ _ _ => 1
  | .fmulVk _ _ _ => 1
  | .fma _ _ _ => 1
  | .fmaVk _ _ _ => 1
  | .fms _ _ _ => 1
  | .fmsVk _ _ _ => 1
  | .fmin _ _ _ => 1
  | .fminVk _ _ _ => 1
  | .fmax _ _ _ => 1
  | .fmaxVk _ _ _ => 1
  | .fabs _ _ => 1
  | .fabsVk _ _ => 1
  | .fneg _ _ => 1
  | .fnegVk _ _ => 1
  | .fcmp _ _ _ => 1
  | .fcmpVk _ _ _ => 1
  | .fcvt _ _ _ => 1
  | .fcvtVk _ _ _ => 1
  | .frnd _ _ => 1
  | .frndVk _ _ => 1
  | .fclass _ _ => 1
  | .fclassVk _ _ => 1
  | .fdot2 _ _ _ => 2
  | .fdot2Vk _ _ _ => 2
  | .idot4 _ _ _ => 2
  | .idot4Vk _ _ _ => 2
  | .frcp _ _ => 4
  | .frcpVk _ _ => 4
  | .frsq _ _ => 4
  | .frsqVk _ _ => 4
  | .fsqrt _ _ => 4
  | .fsqrtVk _ _ => 4
  | .fex2 _ _ => 4
  | .fex2Vk _ _ => 4
  | .flg2 _ _ => 4
  | .flg2Vk _ _ => 4
  | .ftanh _ _ => 4
  | .ftanhVk _ _ => 4
  | .pand _ _ _ => 1
  | .por _ _ _ => 1
  | .pxor _ _ _ => 1
  | .pnot _ _ => 1
  | .pmov _ _ => 1
  | .shfl _ _ _ => 1
  | .shflVk _ _ _ => 1
  | .bcast _ _ _ => 1
  | .vote _ _ _ => 1
  | .lsum _ _ _ => 1
  | .lscan _ _ _ => 1
  | .kadd _ _ _ => 1
  | .ksub _ _ _ => 1
  | .kmul _ _ _ => 1
  | .kmulh _ _ _ => 1
  | .kand _ _ _ => 1
  | .kor _ _ _ => 1
  | .kxor _ _ _ => 1
  | .kshl _ _ _ => 1
  | .kshr _ _ _ => 1
  | .ksar _ _ _ => 1
  | .kmin _ _ _ => 1
  | .kmax _ _ _ => 1
  | .kmov _ _ => 1
  | .kmovi _ _ => 1
  | .kcmp _ _ _ => 1
  | .ksel _ _ _ => 1
  | .qand _ _ _ => 1
  | .qor _ _ _ => 1
  | .qnot _ _ => 1
  | .rqmove _ _ => 1
  | .br _ _ => 1
  | .jmp _ => 1
  | .call _ => 1
  | .ret _ => 1
  | .jmpk _ => 1
  | .mkj _ => 1
  | .brv _ _ => 1
  | .jn => 1
  | .exitI => 1
  | .nop => 1
  | .mdset _ => 1
  | .mdget _ => 1
  | .lcrd _ => 1
  | .lcadv _ => 1
  | .cede _ => 1
  | .rqset _ => 1
  | .ldB _ _ _ => 2
  | .ldH _ _ _ => 2
  | .ldW _ _ _ => 2
  | .ldD _ _ _ => 2
  | .ldQ _ _ _ => 2
  | .stB _ _ _ => 2
  | .stH _ _ _ => 2
  | .stW _ _ _ => 2
  | .stD _ _ _ => 2
  | .stQ _ _ _ => 2
  | .ldk _ _ _ => 2
  | .stk _ _ _ => 2
  | .ldsB _ _ _ => 2
  | .ldsH _ _ _ => 2
  | .ldsW _ _ _ => 2
  | .ldsD _ _ _ => 2
  | .ldsQ _ _ _ => 2
  | .stsB _ _ _ => 2
  | .stsH _ _ _ => 2
  | .stsW _ _ _ => 2
  | .stsD _ _ _ => 2
  | .stsQ _ _ _ => 2
  | .pf _ _ _ => 2
  | .radd _ _ _ => 4
  | .rfadd _ _ _ => 4
  | .rmin _ _ _ => 4
  | .rmax _ _ _ => 4
  | .rfmin _ _ _ => 4
  | .rfmax _ _ _ => 4
  | .rand _ _ _ => 4
  | .ror _ _ _ => 4
  | .rxor _ _ _ => 4
  | .axchg _ _ _ => 64
  | .acas _ _ _ => 64
  | .aadd _ _ _ => 64
  | .amin _ _ _ => 64
  | .amax _ _ _ => 64
  | .aand _ _ _ => 64
  | .aor _ _ _ => 64
  | .axor _ _ _ => 64
  | .ldacq _ _ => 64
  | .strel _ _ => 64
  | .waita _ _ _ => 64
  | .bar _ _ => 16
  | .bara _ _ => 16
  | .barw _ => 16
  | .mma _ _ => 32
  | .mmaz _ _ => 32
  | .mfence _ => 1
  | .mwait _ => 1
  | .acczero _ => 1
  | .accrd _ _ _ => 8
  | .accwr _ _ _ => 8
  | .accdrain _ _ _ _ => 8
  | .xfr _ _ _ => 16
  | .xfrw => 1
  | .xfrq _ => 1
  | .stmc _ _ _ => 4
  | .fenceSys => 16
  | .fstat _ => 1
  | .fclr _ => 1
  | .trap _ => 1
  | .asrt _ _ => 1
  | .rfe => 1
  | .csrr _ _ => 1
  | .csrw _ _ => 1
  | .launch _ _ => 64
  | .objw _ _ => 64
  | .objfence => 16
  | .tscrd _ => 1
  | .icinv _ => 1
  | .brkp _ => 1
  | .halt _ => 1
  | .lit _ _ => 0
  | .turnPerform _ => 0
  | .cedeReentry _ => 0
  | .publicationApply _ => 0
  | .reductionContributionArrive _ => 0
  | .copyEngineRead _ => 0
  | .matrixProductComplete _ => 0
  | .systemCopyComplete _ => 0
  | .legEnd => 0
  | .progressMonitorTimeout _ => 0
  | .serviceWriteApply _ => 0
  | .translationChangeComplete _ => 0
  | .movingDrainComplete _ => 0
  | .directoryEntryDrop _ => 0
  | .directoryError _ => 0
  | .uncorrectableData _ => 0
  | .hostMemRead _ => 0
  | .hostMemWrite _ _ => 0
  | .translationApertureWrite _ _ => 0
  | .hostSnoop _ => 0
  | .owner _ _ => 0
  | .hbeat _ => 0
  | .heartbeatLapse => 0
  | .dpcfg _ _ => 0
  | .pstat _ _ _ => 0
  | .sparePortBind _ _ _ => 0
  | .mgmtRegisterWrite _ _ _ => 0
  | .contextStart _ _ _ _ => 0
  | .contextSuspend _ _ _ => 0
  | .contextResume _ _ _ => 0
  | .killContext _ _ _ => 0
  | .killLaunch _ _ _ => 0
  | .killBlock _ _ _ => 0
  | .preEmptBlock _ _ _ => 0
  | .setParameterLegq _ _ _ => 0
  | .setParameterSeed _ _ _ => 0
  | .setParameterNondet _ _ _ => 0
  | .setParameterQuota _ _ _ => 0
  | .setParameterOvlb _ _ _ => 0
  | .setParameterScrb _ _ _ => 0
  | .setParameterMctb _ _ _ => 0
  | .flitReceive _ _ => 0
  | .linkSilenceTimeout _ => 0
  | .routerFailure => 0
  | .fabricReadRequest _ => 0
  | .readResponse _ => 0
  | .lineWrite _ => 0
  | .fabricPublication _ => 0
  | .fabricTurnEntry _ => 0
  | .turnResult _ => 0
  | .fabricDeferredReduction _ => 0
  | .combinedReduction _ => 0
  | .routerCombine _ => 0
  | .multicastWrite _ => 0
  | .acknowledgement _ => 0
  | .failureNotice _ => 0
  | .legEndAgreement _ => 0
  | .reservedPacketType _ => 0
  | .writeCombiningTimer _ => 0
  | .ringHop _ _ => 0
  | .packetEject _ _ => 0
  | .powerOn _ => 0
  | .dramTrainingComplete _ => 0
  | .firmwareImageLoad _ => 0
  | .thermalTrip _ => 0
  | .spdmRequest _ => 0
  | .unassignedFirstByte _ => 0
  | .instructionFetchFault _ => 0
  | .linkTrained _ => 0

/-- The whole check of a word's operands: 3 for an illegal name, 5 for an undefined code (R54), none for a legal word. -/
def illegalCode (i : Instr) : Option Nat :=
  if namesOk i then (if codesOk i then none else some 5) else some 3

/-- A well-formed instruction: every name legal for its use, every code defined. -/
def wellFormed (i : Instr) : Bool := namesOk i && codesOk i

/-- The forms of R35. -/
inductive Form where
  | t3 | ti | w | j | litWord
  deriving DecidableEq, Repr

/-- Which opcodes take a `lit`, and of which form they are (R52). -/
def litForm (op : Nat) : Option Form :=
  if op = 0x34 || op = 0x8D || op = 0xA0 || op = 0xA5 || op = 0xA6 then some .w
  else if (0xB0 ≤ op && op ≤ 0xDA) || op = 0xEC then some .t3
  else none

end Sys2Proof
end

