-- ==== Sys2Proof/Decode.lean ====
section
/-! DEFINITION. The decoder, total on any bytes, and after it the encoder, both from the encodings of R35, R51 and the descriptions of
the instructions. The decoder refuses by name bytes that are no whole instruction and a word with a reserved bit set; an illegal
name or code is a legal row's word that `exec` traps on (R54), and an unassigned first byte has a row of its own (R53). -/

namespace Sys2Proof

/-- The encoder: the words of an instruction, the first at the lowest address. The steps of other agents have no words. -/
def encode : Instr → List Word
  | .add d a b => [0x00#8 ++ d ++ a ++ b]
  | .addVk d a b => [0x01#8 ++ d ++ a ++ b]
  | .sub d a b => [0x02#8 ++ d ++ a ++ b]
  | .subVk d a b => [0x03#8 ++ d ++ a ++ b]
  | .mul d a b => [0x04#8 ++ d ++ a ++ b]
  | .mulVk d a b => [0x05#8 ++ d ++ a ++ b]
  | .mulh d a b => [0x06#8 ++ d ++ a ++ b]
  | .mulhVk d a b => [0x07#8 ++ d ++ a ++ b]
  | .mad d a b => [0x08#8 ++ d ++ a ++ b]
  | .madVk d a b => [0x09#8 ++ d ++ a ++ b]
  | .minV d a b => [0x0A#8 ++ d ++ a ++ b]
  | .minVk d a b => [0x0B#8 ++ d ++ a ++ b]
  | .maxV d a b => [0x0C#8 ++ d ++ a ++ b]
  | .maxVk d a b => [0x0D#8 ++ d ++ a ++ b]
  | .absV d b => [0x0E#8 ++ d ++ 0#8 ++ b]
  | .absVk d b => [0x0F#8 ++ d ++ 0#8 ++ b]
  | .negV d b => [0x10#8 ++ d ++ 0#8 ++ b]
  | .negVk d b => [0x11#8 ++ d ++ 0#8 ++ b]
  | .andV d a b => [0x12#8 ++ d ++ a ++ b]
  | .andVk d a b => [0x13#8 ++ d ++ a ++ b]
  | .orV d a b => [0x14#8 ++ d ++ a ++ b]
  | .orVk d a b => [0x15#8 ++ d ++ a ++ b]
  | .xorV d a b => [0x16#8 ++ d ++ a ++ b]
  | .xorVk d a b => [0x17#8 ++ d ++ a ++ b]
  | .andn d a b => [0x18#8 ++ d ++ a ++ b]
  | .andnVk d a b => [0x19#8 ++ d ++ a ++ b]
  | .notV d b => [0x1A#8 ++ d ++ 0#8 ++ b]
  | .notVk d b => [0x1B#8 ++ d ++ 0#8 ++ b]
  | .shl d a b => [0x1C#8 ++ d ++ a ++ b]
  | .shlVk d a b => [0x1D#8 ++ d ++ a ++ b]
  | .shr d a b => [0x1E#8 ++ d ++ a ++ b]
  | .shrVk d a b => [0x1F#8 ++ d ++ a ++ b]
  | .sar d a b => [0x20#8 ++ d ++ a ++ b]
  | .sarVk d a b => [0x21#8 ++ d ++ a ++ b]
  | .rot d a b => [0x22#8 ++ d ++ a ++ b]
  | .rotVk d a b => [0x23#8 ++ d ++ a ++ b]
  | .clz d b => [0x24#8 ++ d ++ 0#8 ++ b]
  | .clzVk d b => [0x25#8 ++ d ++ 0#8 ++ b]
  | .popc d b => [0x26#8 ++ d ++ 0#8 ++ b]
  | .popcVk d b => [0x27#8 ++ d ++ 0#8 ++ b]
  | .brev d b => [0x28#8 ++ d ++ 0#8 ++ b]
  | .brevVk d b => [0x29#8 ++ d ++ 0#8 ++ b]
  | .bfx d a b => [0x2A#8 ++ d ++ a ++ b]
  | .bfxVk d a b => [0x2B#8 ++ d ++ a ++ b]
  | .bfi d a b => [0x2C#8 ++ d ++ a ++ b]
  | .bfiVk d a b => [0x2D#8 ++ d ++ a ++ b]
  | .sel d a b => [0x2E#8 ++ d ++ a ++ b]
  | .selVk d a b => [0x2F#8 ++ d ++ a ++ b]
  | .mov d b => [0x30#8 ++ d ++ 0#8 ++ b]
  | .movk d b => [0x31#8 ++ d ++ 0#8 ++ b]
  | .cmp d a b => [0x32#8 ++ d ++ a ++ b]
  | .cmpVk d a b => [0x33#8 ++ d ++ a ++ b]
  | .movi d imm => [0x34#8 ++ d ++ imm]
  | .fadd d a b => [0x40#8 ++ d ++ a ++ b]
  | .faddVk d a b => [0x41#8 ++ d ++ a ++ b]
  | .fsub d a b => [0x42#8 ++ d ++ a ++ b]
  | .fsubVk d a b => [0x43#8 ++ d ++ a ++ b]
  | .fmul d a b => [0x44#8 ++ d ++ a ++ b]
  | .fmulVk d a b => [0x45#8 ++ d ++ a ++ b]
  | .fma d a b => [0x46#8 ++ d ++ a ++ b]
  | .fmaVk d a b => [0x47#8 ++ d ++ a ++ b]
  | .fms d a b => [0x48#8 ++ d ++ a ++ b]
  | .fmsVk d a b => [0x49#8 ++ d ++ a ++ b]
  | .fmin d a b => [0x4A#8 ++ d ++ a ++ b]
  | .fminVk d a b => [0x4B#8 ++ d ++ a ++ b]
  | .fmax d a b => [0x4C#8 ++ d ++ a ++ b]
  | .fmaxVk d a b => [0x4D#8 ++ d ++ a ++ b]
  | .fabs d b => [0x4E#8 ++ d ++ 0#8 ++ b]
  | .fabsVk d b => [0x4F#8 ++ d ++ 0#8 ++ b]
  | .fneg d b => [0x50#8 ++ d ++ 0#8 ++ b]
  | .fnegVk d b => [0x51#8 ++ d ++ 0#8 ++ b]
  | .fcmp d a b => [0x52#8 ++ d ++ a ++ b]
  | .fcmpVk d a b => [0x53#8 ++ d ++ a ++ b]
  | .fcvt d a b => [0x54#8 ++ d ++ a ++ b]
  | .fcvtVk d a b => [0x55#8 ++ d ++ a ++ b]
  | .frnd d b => [0x56#8 ++ d ++ 0#8 ++ b]
  | .frndVk d b => [0x57#8 ++ d ++ 0#8 ++ b]
  | .fclass d b => [0x58#8 ++ d ++ 0#8 ++ b]
  | .fclassVk d b => [0x59#8 ++ d ++ 0#8 ++ b]
  | .fdot2 d a b => [0x5A#8 ++ d ++ a ++ b]
  | .fdot2Vk d a b => [0x5B#8 ++ d ++ a ++ b]
  | .idot4 d a b => [0x5C#8 ++ d ++ a ++ b]
  | .idot4Vk d a b => [0x5D#8 ++ d ++ a ++ b]
  | .frcp d b => [0x5E#8 ++ d ++ 0#8 ++ b]
  | .frcpVk d b => [0x5F#8 ++ d ++ 0#8 ++ b]
  | .frsq d b => [0x60#8 ++ d ++ 0#8 ++ b]
  | .frsqVk d b => [0x61#8 ++ d ++ 0#8 ++ b]
  | .fsqrt d b => [0x62#8 ++ d ++ 0#8 ++ b]
  | .fsqrtVk d b => [0x63#8 ++ d ++ 0#8 ++ b]
  | .fex2 d b => [0x64#8 ++ d ++ 0#8 ++ b]
  | .fex2Vk d b => [0x65#8 ++ d ++ 0#8 ++ b]
  | .flg2 d b => [0x66#8 ++ d ++ 0#8 ++ b]
  | .flg2Vk d b => [0x67#8 ++ d ++ 0#8 ++ b]
  | .ftanh d b => [0x68#8 ++ d ++ 0#8 ++ b]
  | .ftanhVk d b => [0x69#8 ++ d ++ 0#8 ++ b]
  | .pand d a b => [0x70#8 ++ d ++ a ++ b]
  | .por d a b => [0x71#8 ++ d ++ a ++ b]
  | .pxor d a b => [0x72#8 ++ d ++ a ++ b]
  | .pnot d b => [0x73#8 ++ d ++ 0#8 ++ b]
  | .pmov d b => [0x74#8 ++ d ++ 0#8 ++ b]
  | .shfl d a b => [0x75#8 ++ d ++ a ++ b]
  | .shflVk d a b => [0x76#8 ++ d ++ a ++ b]
  | .bcast d a n => [0x77#8 ++ d ++ a ++ 0#3 ++ n]
  | .vote d a op => [0x78#8 ++ d ++ a ++ 0#5 ++ op]
  | .lsum d f b => [0x79#8 ++ d ++ 0#7 ++ f ++ b]
  | .lscan d f b => [0x7A#8 ++ d ++ 0#7 ++ f ++ b]
  | .kadd d a b => [0x80#8 ++ d ++ a ++ b]
  | .ksub d a b => [0x81#8 ++ d ++ a ++ b]
  | .kmul d a b => [0x82#8 ++ d ++ a ++ b]
  | .kmulh d a b => [0x83#8 ++ d ++ a ++ b]
  | .kand d a b => [0x84#8 ++ d ++ a ++ b]
  | .kor d a b => [0x85#8 ++ d ++ a ++ b]
  | .kxor d a b => [0x86#8 ++ d ++ a ++ b]
  | .kshl d a b => [0x87#8 ++ d ++ a ++ b]
  | .kshr d a b => [0x88#8 ++ d ++ a ++ b]
  | .ksar d a b => [0x89#8 ++ d ++ a ++ b]
  | .kmin d a b => [0x8A#8 ++ d ++ a ++ b]
  | .kmax d a b => [0x8B#8 ++ d ++ a ++ b]
  | .kmov d b => [0x8C#8 ++ d ++ 0#8 ++ b]
  | .kmovi d imm => [0x8D#8 ++ d ++ imm]
  | .kcmp d a b => [0x8E#8 ++ d ++ a ++ b]
  | .ksel d a b => [0x8F#8 ++ d ++ a ++ b]
  | .qand d a b => [0x90#8 ++ d ++ a ++ b]
  | .qor d a b => [0x91#8 ++ d ++ a ++ b]
  | .qnot d b => [0x92#8 ++ d ++ 0#8 ++ b]
  | .rqmove d a => [0x9F#8 ++ d ++ a ++ 0#8]
  | .br d imm => [0xA0#8 ++ d ++ imm]
  | .jmp off => [0xA1#8 ++ off]
  | .call off => [0xA2#8 ++ off]
  | .ret a => [0xA3#8 ++ 0#8 ++ a ++ 0#8]
  | .jmpk a => [0xA4#8 ++ 0#8 ++ a ++ 0#8]
  | .mkj imm => [0xA5#8 ++ 0#8 ++ imm]
  | .brv d imm => [0xA6#8 ++ d ++ imm]
  | .jn => [0xA7#8 ++ 0#24]
  | .exitI => [0xA8#8 ++ 0#24]
  | .nop => [0xA9#8 ++ 0#24]
  | .mdset imm => [0xAA#8 ++ 0#8 ++ imm]
  | .mdget d => [0xAB#8 ++ d ++ 0#16]
  | .lcrd d => [0xAC#8 ++ d ++ 0#16]
  | .lcadv a => [0xAD#8 ++ 0#8 ++ a ++ 0#8]
  | .cede a => [0xAE#8 ++ 0#8 ++ a ++ 0#8]
  | .rqset a => [0xAF#8 ++ 0#8 ++ a ++ 0#8]
  | .ldB d a b => [0xB0#8 ++ d ++ a ++ b]
  | .ldH d a b => [0xB1#8 ++ d ++ a ++ b]
  | .ldW d a b => [0xB2#8 ++ d ++ a ++ b]
  | .ldD d a b => [0xB3#8 ++ d ++ a ++ b]
  | .ldQ d a b => [0xB4#8 ++ d ++ a ++ b]
  | .stB d a b => [0xB5#8 ++ d ++ a ++ b]
  | .stH d a b => [0xB6#8 ++ d ++ a ++ b]
  | .stW d a b => [0xB7#8 ++ d ++ a ++ b]
  | .stD d a b => [0xB8#8 ++ d ++ a ++ b]
  | .stQ d a b => [0xB9#8 ++ d ++ a ++ b]
  | .ldk d a n => [0xBA#8 ++ d ++ a ++ 0#4 ++ n]
  | .stk d a n => [0xBB#8 ++ d ++ a ++ 0#4 ++ n]
  | .ldsB d a b => [0xBC#8 ++ d ++ a ++ b]
  | .ldsH d a b => [0xBD#8 ++ d ++ a ++ b]
  | .ldsW d a b => [0xBE#8 ++ d ++ a ++ b]
  | .ldsD d a b => [0xBF#8 ++ d ++ a ++ b]
  | .ldsQ d a b => [0xC0#8 ++ d ++ a ++ b]
  | .stsB d a b => [0xC1#8 ++ d ++ a ++ b]
  | .stsH d a b => [0xC2#8 ++ d ++ a ++ b]
  | .stsW d a b => [0xC3#8 ++ d ++ a ++ b]
  | .stsD d a b => [0xC4#8 ++ d ++ a ++ b]
  | .stsQ d a b => [0xC5#8 ++ d ++ a ++ b]
  | .pf h a b => [0xC6#8 ++ 0#6 ++ h ++ a ++ b]
  | .radd d a b => [0xC7#8 ++ d ++ a ++ b]
  | .rfadd d a b => [0xC8#8 ++ d ++ a ++ b]
  | .rmin d a b => [0xC9#8 ++ d ++ a ++ b]
  | .rmax d a b => [0xCA#8 ++ d ++ a ++ b]
  | .rfmin d a b => [0xCB#8 ++ d ++ a ++ b]
  | .rfmax d a b => [0xCC#8 ++ d ++ a ++ b]
  | .rand d a b => [0xCD#8 ++ d ++ a ++ b]
  | .ror d a b => [0xCE#8 ++ d ++ a ++ b]
  | .rxor d a b => [0xCF#8 ++ d ++ a ++ b]
  | .axchg d a b => [0xD0#8 ++ d ++ a ++ b]
  | .acas d a b => [0xD1#8 ++ d ++ a ++ b]
  | .aadd d a b => [0xD2#8 ++ d ++ a ++ b]
  | .amin d a b => [0xD3#8 ++ d ++ a ++ b]
  | .amax d a b => [0xD4#8 ++ d ++ a ++ b]
  | .aand d a b => [0xD5#8 ++ d ++ a ++ b]
  | .aor d a b => [0xD6#8 ++ d ++ a ++ b]
  | .axor d a b => [0xD7#8 ++ d ++ a ++ b]
  | .ldacq d a => [0xD8#8 ++ d ++ a ++ 0#8]
  | .strel a b => [0xD9#8 ++ 0#8 ++ a ++ b]
  | .waita c a b => [0xDA#8 ++ c ++ 0#4 ++ a ++ b]
  | .bar n cnt => [0xDB#8 ++ 0#4 ++ n ++ 0#6 ++ cnt]
  | .bara n cnt => [0xDC#8 ++ 0#4 ++ n ++ 0#6 ++ cnt]
  | .barw n => [0xDD#8 ++ 0#4 ++ n ++ 0#16]
  | .mma t a => [0xE0#8 ++ 0#4 ++ t ++ a ++ 0#8]
  | .mmaz t a => [0xE1#8 ++ 0#4 ++ t ++ a ++ 0#8]
  | .mfence d => [0xE2#8 ++ d ++ 0#16]
  | .mwait n => [0xE3#8 ++ 0#20 ++ n]
  | .acczero t => [0xE4#8 ++ 0#4 ++ t ++ 0#16]
  | .accrd d t b => [0xE5#8 ++ d ++ 0#4 ++ t ++ b]
  | .accwr t a b => [0xE6#8 ++ 0#4 ++ t ++ a ++ b]
  | .accdrain t a z way => [0xE7#8 ++ 0#4 ++ t ++ a ++ 0#5 ++ z ++ way]
  | .xfr ch a b => [0xE8#8 ++ 0#6 ++ ch ++ a ++ b]
  | .xfrw => [0xE9#8 ++ 0#24]
  | .xfrq d => [0xEA#8 ++ d ++ 0#16]
  | .stmc d a b => [0xEC#8 ++ d ++ a ++ b]
  | .fenceSys => [0xED#8 ++ 0#24]
  | .fstat d => [0xEE#8 ++ d ++ 0#16]
  | .fclr a => [0xEF#8 ++ 0#8 ++ a ++ 0#8]
  | .trap n => [0xF0#8 ++ 0#16 ++ n]
  | .asrt d b => [0xF1#8 ++ d ++ 0#8 ++ b]
  | .rfe => [0xF2#8 ++ 0#24]
  | .csrr d n => [0xF3#8 ++ d ++ 0#8 ++ n]
  | .csrw a n => [0xF4#8 ++ 0#8 ++ a ++ n]
  | .launch d a => [0xF5#8 ++ d ++ a ++ 0#8]
  | .objw a b => [0xF6#8 ++ 0#8 ++ a ++ b]
  | .objfence => [0xF7#8 ++ 0#24]
  | .tscrd d => [0xF8#8 ++ d ++ 0#16]
  | .icinv a => [0xF9#8 ++ 0#8 ++ a ++ 0#8]
  | .brkp n => [0xFA#8 ++ 0#16 ++ n]
  | .halt a => [0xFB#8 ++ 0#8 ++ a ++ 0#8]
  | .lit l w => [0xFE#8 ++ l, w]
  | .turnPerform _ => []
  | .cedeReentry _ => []
  | .publicationApply _ => []
  | .reductionContributionArrive _ => []
  | .copyEngineRead _ => []
  | .matrixProductComplete _ => []
  | .systemCopyComplete _ => []
  | .legEnd => []
  | .progressMonitorTimeout _ => []
  | .serviceWriteApply _ => []
  | .translationChangeComplete _ => []
  | .movingDrainComplete _ => []
  | .directoryEntryDrop _ => []
  | .directoryError _ => []
  | .uncorrectableData _ => []
  | .hostMemRead _ => []
  | .hostMemWrite _ _ => []
  | .translationApertureWrite _ _ => []
  | .hostSnoop _ => []
  | .owner _ _ => []
  | .hbeat _ => []
  | .heartbeatLapse => []
  | .dpcfg _ _ => []
  | .pstat _ _ _ => []
  | .sparePortBind _ _ _ => []
  | .mgmtRegisterWrite _ _ _ => []
  | .contextStart _ _ _ _ => []
  | .contextSuspend _ _ _ => []
  | .contextResume _ _ _ => []
  | .killContext _ _ _ => []
  | .killLaunch _ _ _ => []
  | .killBlock _ _ _ => []
  | .preEmptBlock _ _ _ => []
  | .setParameterLegq _ _ _ => []
  | .setParameterSeed _ _ _ => []
  | .setParameterNondet _ _ _ => []
  | .setParameterQuota _ _ _ => []
  | .setParameterOvlb _ _ _ => []
  | .setParameterScrb _ _ _ => []
  | .setParameterMctb _ _ _ => []
  | .flitReceive _ _ => []
  | .linkSilenceTimeout _ => []
  | .routerFailure => []
  | .fabricReadRequest _ => []
  | .readResponse _ => []
  | .lineWrite _ => []
  | .fabricPublication _ => []
  | .fabricTurnEntry _ => []
  | .turnResult _ => []
  | .fabricDeferredReduction _ => []
  | .combinedReduction _ => []
  | .routerCombine _ => []
  | .multicastWrite _ => []
  | .acknowledgement _ => []
  | .failureNotice _ => []
  | .legEndAgreement _ => []
  | .reservedPacketType _ => []
  | .writeCombiningTimer _ => []
  | .ringHop _ _ => []
  | .packetEject _ _ => []
  | .powerOn _ => []
  | .dramTrainingComplete _ => []
  | .firmwareImageLoad _ => []
  | .thermalTrip _ => []
  | .spdmRequest _ => []
  | .unassignedFirstByte w => [w]
  | .instructionFetchFault _ => []
  | .linkTrained _ => []

/-- The 32 bits of an instruction of one word; for a `lit` pair, of the word after the `lit` (R50: the faulting word). -/
def wordOf (i : Instr) : Word := ((encode i).getLast?).getD 0

/-! ### The opcode map of R51, a row of sixteen first bytes at a time -/

/-- First bytes 0x00 to 0x0F. -/
def opRow0 : List (Word → Instr) := [
  fun w => .add (w.extractLsb' 16 8) (w.extractLsb' 8 8) (w.extractLsb' 0 8),
  fun w => .addVk (w.extractLsb' 16 8) (w.extractLsb' 8 8) (w.extractLsb' 0 8),
  fun w => .sub (w.extractLsb' 16 8) (w.extractLsb' 8 8) (w.extractLsb' 0 8),
  fun w => .subVk (w.extractLsb' 16 8) (w.extractLsb' 8 8) (w.extractLsb' 0 8),
  fun w => .mul (w.extractLsb' 16 8) (w.extractLsb' 8 8) (w.extractLsb' 0 8),
  fun w => .mulVk (w.extractLsb' 16 8) (w.extractLsb' 8 8) (w.extractLsb' 0 8),
  fun w => .mulh (w.extractLsb' 16 8) (w.extractLsb' 8 8) (w.extractLsb' 0 8),
  fun w => .mulhVk (w.extractLsb' 16 8) (w.extractLsb' 8 8) (w.extractLsb' 0 8),
  fun w => .mad (w.extractLsb' 16 8) (w.extractLsb' 8 8) (w.extractLsb' 0 8),
  fun w => .madVk (w.extractLsb' 16 8) (w.extractLsb' 8 8) (w.extractLsb' 0 8),
  fun w => .minV (w.extractLsb' 16 8) (w.extractLsb' 8 8) (w.extractLsb' 0 8),
  fun w => .minVk (w.extractLsb' 16 8) (w.extractLsb' 8 8) (w.extractLsb' 0 8),
  fun w => .maxV (w.extractLsb' 16 8) (w.extractLsb' 8 8) (w.extractLsb' 0 8),
  fun w => .maxVk (w.extractLsb' 16 8) (w.extractLsb' 8 8) (w.extractLsb' 0 8),
  fun w => .absV (w.extractLsb' 16 8) (w.extractLsb' 0 8),
  fun w => .absVk (w.extractLsb' 16 8) (w.extractLsb' 0 8)]
/-- First bytes 0x10 to 0x1F. -/
def opRow1 : List (Word → Instr) := [
  fun w => .negV (w.extractLsb' 16 8) (w.extractLsb' 0 8),
  fun w => .negVk (w.extractLsb' 16 8) (w.extractLsb' 0 8),
  fun w => .andV (w.extractLsb' 16 8) (w.extractLsb' 8 8) (w.extractLsb' 0 8),
  fun w => .andVk (w.extractLsb' 16 8) (w.extractLsb' 8 8) (w.extractLsb' 0 8),
  fun w => .orV (w.extractLsb' 16 8) (w.extractLsb' 8 8) (w.extractLsb' 0 8),
  fun w => .orVk (w.extractLsb' 16 8) (w.extractLsb' 8 8) (w.extractLsb' 0 8),
  fun w => .xorV (w.extractLsb' 16 8) (w.extractLsb' 8 8) (w.extractLsb' 0 8),
  fun w => .xorVk (w.extractLsb' 16 8) (w.extractLsb' 8 8) (w.extractLsb' 0 8),
  fun w => .andn (w.extractLsb' 16 8) (w.extractLsb' 8 8) (w.extractLsb' 0 8),
  fun w => .andnVk (w.extractLsb' 16 8) (w.extractLsb' 8 8) (w.extractLsb' 0 8),
  fun w => .notV (w.extractLsb' 16 8) (w.extractLsb' 0 8),
  fun w => .notVk (w.extractLsb' 16 8) (w.extractLsb' 0 8),
  fun w => .shl (w.extractLsb' 16 8) (w.extractLsb' 8 8) (w.extractLsb' 0 8),
  fun w => .shlVk (w.extractLsb' 16 8) (w.extractLsb' 8 8) (w.extractLsb' 0 8),
  fun w => .shr (w.extractLsb' 16 8) (w.extractLsb' 8 8) (w.extractLsb' 0 8),
  fun w => .shrVk (w.extractLsb' 16 8) (w.extractLsb' 8 8) (w.extractLsb' 0 8)]
/-- First bytes 0x20 to 0x2F. -/
def opRow2 : List (Word → Instr) := [
  fun w => .sar (w.extractLsb' 16 8) (w.extractLsb' 8 8) (w.extractLsb' 0 8),
  fun w => .sarVk (w.extractLsb' 16 8) (w.extractLsb' 8 8) (w.extractLsb' 0 8),
  fun w => .rot (w.extractLsb' 16 8) (w.extractLsb' 8 8) (w.extractLsb' 0 8),
  fun w => .rotVk (w.extractLsb' 16 8) (w.extractLsb' 8 8) (w.extractLsb' 0 8),
  fun w => .clz (w.extractLsb' 16 8) (w.extractLsb' 0 8),
  fun w => .clzVk (w.extractLsb' 16 8) (w.extractLsb' 0 8),
  fun w => .popc (w.extractLsb' 16 8) (w.extractLsb' 0 8),
  fun w => .popcVk (w.extractLsb' 16 8) (w.extractLsb' 0 8),
  fun w => .brev (w.extractLsb' 16 8) (w.extractLsb' 0 8),
  fun w => .brevVk (w.extractLsb' 16 8) (w.extractLsb' 0 8),
  fun w => .bfx (w.extractLsb' 16 8) (w.extractLsb' 8 8) (w.extractLsb' 0 8),
  fun w => .bfxVk (w.extractLsb' 16 8) (w.extractLsb' 8 8) (w.extractLsb' 0 8),
  fun w => .bfi (w.extractLsb' 16 8) (w.extractLsb' 8 8) (w.extractLsb' 0 8),
  fun w => .bfiVk (w.extractLsb' 16 8) (w.extractLsb' 8 8) (w.extractLsb' 0 8),
  fun w => .sel (w.extractLsb' 16 8) (w.extractLsb' 8 8) (w.extractLsb' 0 8),
  fun w => .selVk (w.extractLsb' 16 8) (w.extractLsb' 8 8) (w.extractLsb' 0 8)]
/-- First bytes 0x30 to 0x3F. -/
def opRow3 : List (Word → Instr) := [
  fun w => .mov (w.extractLsb' 16 8) (w.extractLsb' 0 8),
  fun w => .movk (w.extractLsb' 16 8) (w.extractLsb' 0 8),
  fun w => .cmp (w.extractLsb' 16 8) (w.extractLsb' 8 8) (w.extractLsb' 0 8),
  fun w => .cmpVk (w.extractLsb' 16 8) (w.extractLsb' 8 8) (w.extractLsb' 0 8),
  fun w => .movi (w.extractLsb' 16 8) (w.extractLsb' 0 16),
  .unassignedFirstByte,
  .unassignedFirstByte,
  .unassignedFirstByte,
  .unassignedFirstByte,
  .unassignedFirstByte,
  .unassignedFirstByte,
  .unassignedFirstByte,
  .unassignedFirstByte,
  .unassignedFirstByte,
  .unassignedFirstByte,
  .unassignedFirstByte]
/-- First bytes 0x40 to 0x4F. -/
def opRow4 : List (Word → Instr) := [
  fun w => .fadd (w.extractLsb' 16 8) (w.extractLsb' 8 8) (w.extractLsb' 0 8),
  fun w => .faddVk (w.extractLsb' 16 8) (w.extractLsb' 8 8) (w.extractLsb' 0 8),
  fun w => .fsub (w.extractLsb' 16 8) (w.extractLsb' 8 8) (w.extractLsb' 0 8),
  fun w => .fsubVk (w.extractLsb' 16 8) (w.extractLsb' 8 8) (w.extractLsb' 0 8),
  fun w => .fmul (w.extractLsb' 16 8) (w.extractLsb' 8 8) (w.extractLsb' 0 8),
  fun w => .fmulVk (w.extractLsb' 16 8) (w.extractLsb' 8 8) (w.extractLsb' 0 8),
  fun w => .fma (w.extractLsb' 16 8) (w.extractLsb' 8 8) (w.extractLsb' 0 8),
  fun w => .fmaVk (w.extractLsb' 16 8) (w.extractLsb' 8 8) (w.extractLsb' 0 8),
  fun w => .fms (w.extractLsb' 16 8) (w.extractLsb' 8 8) (w.extractLsb' 0 8),
  fun w => .fmsVk (w.extractLsb' 16 8) (w.extractLsb' 8 8) (w.extractLsb' 0 8),
  fun w => .fmin (w.extractLsb' 16 8) (w.extractLsb' 8 8) (w.extractLsb' 0 8),
  fun w => .fminVk (w.extractLsb' 16 8) (w.extractLsb' 8 8) (w.extractLsb' 0 8),
  fun w => .fmax (w.extractLsb' 16 8) (w.extractLsb' 8 8) (w.extractLsb' 0 8),
  fun w => .fmaxVk (w.extractLsb' 16 8) (w.extractLsb' 8 8) (w.extractLsb' 0 8),
  fun w => .fabs (w.extractLsb' 16 8) (w.extractLsb' 0 8),
  fun w => .fabsVk (w.extractLsb' 16 8) (w.extractLsb' 0 8)]
/-- First bytes 0x50 to 0x5F. -/
def opRow5 : List (Word → Instr) := [
  fun w => .fneg (w.extractLsb' 16 8) (w.extractLsb' 0 8),
  fun w => .fnegVk (w.extractLsb' 16 8) (w.extractLsb' 0 8),
  fun w => .fcmp (w.extractLsb' 16 8) (w.extractLsb' 8 8) (w.extractLsb' 0 8),
  fun w => .fcmpVk (w.extractLsb' 16 8) (w.extractLsb' 8 8) (w.extractLsb' 0 8),
  fun w => .fcvt (w.extractLsb' 16 8) (w.extractLsb' 8 8) (w.extractLsb' 0 8),
  fun w => .fcvtVk (w.extractLsb' 16 8) (w.extractLsb' 8 8) (w.extractLsb' 0 8),
  fun w => .frnd (w.extractLsb' 16 8) (w.extractLsb' 0 8),
  fun w => .frndVk (w.extractLsb' 16 8) (w.extractLsb' 0 8),
  fun w => .fclass (w.extractLsb' 16 8) (w.extractLsb' 0 8),
  fun w => .fclassVk (w.extractLsb' 16 8) (w.extractLsb' 0 8),
  fun w => .fdot2 (w.extractLsb' 16 8) (w.extractLsb' 8 8) (w.extractLsb' 0 8),
  fun w => .fdot2Vk (w.extractLsb' 16 8) (w.extractLsb' 8 8) (w.extractLsb' 0 8),
  fun w => .idot4 (w.extractLsb' 16 8) (w.extractLsb' 8 8) (w.extractLsb' 0 8),
  fun w => .idot4Vk (w.extractLsb' 16 8) (w.extractLsb' 8 8) (w.extractLsb' 0 8),
  fun w => .frcp (w.extractLsb' 16 8) (w.extractLsb' 0 8),
  fun w => .frcpVk (w.extractLsb' 16 8) (w.extractLsb' 0 8)]
/-- First bytes 0x60 to 0x6F. -/
def opRow6 : List (Word → Instr) := [
  fun w => .frsq (w.extractLsb' 16 8) (w.extractLsb' 0 8),
  fun w => .frsqVk (w.extractLsb' 16 8) (w.extractLsb' 0 8),
  fun w => .fsqrt (w.extractLsb' 16 8) (w.extractLsb' 0 8),
  fun w => .fsqrtVk (w.extractLsb' 16 8) (w.extractLsb' 0 8),
  fun w => .fex2 (w.extractLsb' 16 8) (w.extractLsb' 0 8),
  fun w => .fex2Vk (w.extractLsb' 16 8) (w.extractLsb' 0 8),
  fun w => .flg2 (w.extractLsb' 16 8) (w.extractLsb' 0 8),
  fun w => .flg2Vk (w.extractLsb' 16 8) (w.extractLsb' 0 8),
  fun w => .ftanh (w.extractLsb' 16 8) (w.extractLsb' 0 8),
  fun w => .ftanhVk (w.extractLsb' 16 8) (w.extractLsb' 0 8),
  .unassignedFirstByte,
  .unassignedFirstByte,
  .unassignedFirstByte,
  .unassignedFirstByte,
  .unassignedFirstByte,
  .unassignedFirstByte]
/-- First bytes 0x70 to 0x7F. -/
def opRow7 : List (Word → Instr) := [
  fun w => .pand (w.extractLsb' 16 8) (w.extractLsb' 8 8) (w.extractLsb' 0 8),
  fun w => .por (w.extractLsb' 16 8) (w.extractLsb' 8 8) (w.extractLsb' 0 8),
  fun w => .pxor (w.extractLsb' 16 8) (w.extractLsb' 8 8) (w.extractLsb' 0 8),
  fun w => .pnot (w.extractLsb' 16 8) (w.extractLsb' 0 8),
  fun w => .pmov (w.extractLsb' 16 8) (w.extractLsb' 0 8),
  fun w => .shfl (w.extractLsb' 16 8) (w.extractLsb' 8 8) (w.extractLsb' 0 8),
  fun w => .shflVk (w.extractLsb' 16 8) (w.extractLsb' 8 8) (w.extractLsb' 0 8),
  fun w => .bcast (w.extractLsb' 16 8) (w.extractLsb' 8 8) (w.extractLsb' 0 5),
  fun w => .vote (w.extractLsb' 16 8) (w.extractLsb' 8 8) (w.extractLsb' 0 3),
  fun w => .lsum (w.extractLsb' 16 8) (w.extractLsb' 8 1) (w.extractLsb' 0 8),
  fun w => .lscan (w.extractLsb' 16 8) (w.extractLsb' 8 1) (w.extractLsb' 0 8),
  .unassignedFirstByte,
  .unassignedFirstByte,
  .unassignedFirstByte,
  .unassignedFirstByte,
  .unassignedFirstByte]
/-- First bytes 0x80 to 0x8F. -/
def opRow8 : List (Word → Instr) := [
  fun w => .kadd (w.extractLsb' 16 8) (w.extractLsb' 8 8) (w.extractLsb' 0 8),
  fun w => .ksub (w.extractLsb' 16 8) (w.extractLsb' 8 8) (w.extractLsb' 0 8),
  fun w => .kmul (w.extractLsb' 16 8) (w.extractLsb' 8 8) (w.extractLsb' 0 8),
  fun w => .kmulh (w.extractLsb' 16 8) (w.extractLsb' 8 8) (w.extractLsb' 0 8),
  fun w => .kand (w.extractLsb' 16 8) (w.extractLsb' 8 8) (w.extractLsb' 0 8),
  fun w => .kor (w.extractLsb' 16 8) (w.extractLsb' 8 8) (w.extractLsb' 0 8),
  fun w => .kxor (w.extractLsb' 16 8) (w.extractLsb' 8 8) (w.extractLsb' 0 8),
  fun w => .kshl (w.extractLsb' 16 8) (w.extractLsb' 8 8) (w.extractLsb' 0 8),
  fun w => .kshr (w.extractLsb' 16 8) (w.extractLsb' 8 8) (w.extractLsb' 0 8),
  fun w => .ksar (w.extractLsb' 16 8) (w.extractLsb' 8 8) (w.extractLsb' 0 8),
  fun w => .kmin (w.extractLsb' 16 8) (w.extractLsb' 8 8) (w.extractLsb' 0 8),
  fun w => .kmax (w.extractLsb' 16 8) (w.extractLsb' 8 8) (w.extractLsb' 0 8),
  fun w => .kmov (w.extractLsb' 16 8) (w.extractLsb' 0 8),
  fun w => .kmovi (w.extractLsb' 16 8) (w.extractLsb' 0 16),
  fun w => .kcmp (w.extractLsb' 16 8) (w.extractLsb' 8 8) (w.extractLsb' 0 8),
  fun w => .ksel (w.extractLsb' 16 8) (w.extractLsb' 8 8) (w.extractLsb' 0 8)]
/-- First bytes 0x90 to 0x9F. -/
def opRow9 : List (Word → Instr) := [
  fun w => .qand (w.extractLsb' 16 8) (w.extractLsb' 8 8) (w.extractLsb' 0 8),
  fun w => .qor (w.extractLsb' 16 8) (w.extractLsb' 8 8) (w.extractLsb' 0 8),
  fun w => .qnot (w.extractLsb' 16 8) (w.extractLsb' 0 8),
  .unassignedFirstByte,
  .unassignedFirstByte,
  .unassignedFirstByte,
  .unassignedFirstByte,
  .unassignedFirstByte,
  .unassignedFirstByte,
  .unassignedFirstByte,
  .unassignedFirstByte,
  .unassignedFirstByte,
  .unassignedFirstByte,
  .unassignedFirstByte,
  .unassignedFirstByte,
  fun w => .rqmove (w.extractLsb' 16 8) (w.extractLsb' 8 8)]
/-- First bytes 0xA0 to 0xAF. -/
def opRowA : List (Word → Instr) := [
  fun w => .br (w.extractLsb' 16 8) (w.extractLsb' 0 16),
  fun w => .jmp (w.extractLsb' 0 24),
  fun w => .call (w.extractLsb' 0 24),
  fun w => .ret (w.extractLsb' 8 8),
  fun w => .jmpk (w.extractLsb' 8 8),
  fun w => .mkj (w.extractLsb' 0 16),
  fun w => .brv (w.extractLsb' 16 8) (w.extractLsb' 0 16),
  fun _ => .jn,
  fun _ => .exitI,
  fun _ => .nop,
  fun w => .mdset (w.extractLsb' 0 16),
  fun w => .mdget (w.extractLsb' 16 8),
  fun w => .lcrd (w.extractLsb' 16 8),
  fun w => .lcadv (w.extractLsb' 8 8),
  fun w => .cede (w.extractLsb' 8 8),
  fun w => .rqset (w.extractLsb' 8 8)]
/-- First bytes 0xB0 to 0xBF. -/
def opRowB : List (Word → Instr) := [
  fun w => .ldB (w.extractLsb' 16 8) (w.extractLsb' 8 8) (w.extractLsb' 0 8),
  fun w => .ldH (w.extractLsb' 16 8) (w.extractLsb' 8 8) (w.extractLsb' 0 8),
  fun w => .ldW (w.extractLsb' 16 8) (w.extractLsb' 8 8) (w.extractLsb' 0 8),
  fun w => .ldD (w.extractLsb' 16 8) (w.extractLsb' 8 8) (w.extractLsb' 0 8),
  fun w => .ldQ (w.extractLsb' 16 8) (w.extractLsb' 8 8) (w.extractLsb' 0 8),
  fun w => .stB (w.extractLsb' 16 8) (w.extractLsb' 8 8) (w.extractLsb' 0 8),
  fun w => .stH (w.extractLsb' 16 8) (w.extractLsb' 8 8) (w.extractLsb' 0 8),
  fun w => .stW (w.extractLsb' 16 8) (w.extractLsb' 8 8) (w.extractLsb' 0 8),
  fun w => .stD (w.extractLsb' 16 8) (w.extractLsb' 8 8) (w.extractLsb' 0 8),
  fun w => .stQ (w.extractLsb' 16 8) (w.extractLsb' 8 8) (w.extractLsb' 0 8),
  fun w => .ldk (w.extractLsb' 16 8) (w.extractLsb' 8 8) (w.extractLsb' 0 4),
  fun w => .stk (w.extractLsb' 16 8) (w.extractLsb' 8 8) (w.extractLsb' 0 4),
  fun w => .ldsB (w.extractLsb' 16 8) (w.extractLsb' 8 8) (w.extractLsb' 0 8),
  fun w => .ldsH (w.extractLsb' 16 8) (w.extractLsb' 8 8) (w.extractLsb' 0 8),
  fun w => .ldsW (w.extractLsb' 16 8) (w.extractLsb' 8 8) (w.extractLsb' 0 8),
  fun w => .ldsD (w.extractLsb' 16 8) (w.extractLsb' 8 8) (w.extractLsb' 0 8)]
/-- First bytes 0xC0 to 0xCF. -/
def opRowC : List (Word → Instr) := [
  fun w => .ldsQ (w.extractLsb' 16 8) (w.extractLsb' 8 8) (w.extractLsb' 0 8),
  fun w => .stsB (w.extractLsb' 16 8) (w.extractLsb' 8 8) (w.extractLsb' 0 8),
  fun w => .stsH (w.extractLsb' 16 8) (w.extractLsb' 8 8) (w.extractLsb' 0 8),
  fun w => .stsW (w.extractLsb' 16 8) (w.extractLsb' 8 8) (w.extractLsb' 0 8),
  fun w => .stsD (w.extractLsb' 16 8) (w.extractLsb' 8 8) (w.extractLsb' 0 8),
  fun w => .stsQ (w.extractLsb' 16 8) (w.extractLsb' 8 8) (w.extractLsb' 0 8),
  fun w => .pf (w.extractLsb' 16 2) (w.extractLsb' 8 8) (w.extractLsb' 0 8),
  fun w => .radd (w.extractLsb' 16 8) (w.extractLsb' 8 8) (w.extractLsb' 0 8),
  fun w => .rfadd (w.extractLsb' 16 8) (w.extractLsb' 8 8) (w.extractLsb' 0 8),
  fun w => .rmin (w.extractLsb' 16 8) (w.extractLsb' 8 8) (w.extractLsb' 0 8),
  fun w => .rmax (w.extractLsb' 16 8) (w.extractLsb' 8 8) (w.extractLsb' 0 8),
  fun w => .rfmin (w.extractLsb' 16 8) (w.extractLsb' 8 8) (w.extractLsb' 0 8),
  fun w => .rfmax (w.extractLsb' 16 8) (w.extractLsb' 8 8) (w.extractLsb' 0 8),
  fun w => .rand (w.extractLsb' 16 8) (w.extractLsb' 8 8) (w.extractLsb' 0 8),
  fun w => .ror (w.extractLsb' 16 8) (w.extractLsb' 8 8) (w.extractLsb' 0 8),
  fun w => .rxor (w.extractLsb' 16 8) (w.extractLsb' 8 8) (w.extractLsb' 0 8)]
/-- First bytes 0xD0 to 0xDF. -/
def opRowD : List (Word → Instr) := [
  fun w => .axchg (w.extractLsb' 16 8) (w.extractLsb' 8 8) (w.extractLsb' 0 8),
  fun w => .acas (w.extractLsb' 16 8) (w.extractLsb' 8 8) (w.extractLsb' 0 8),
  fun w => .aadd (w.extractLsb' 16 8) (w.extractLsb' 8 8) (w.extractLsb' 0 8),
  fun w => .amin (w.extractLsb' 16 8) (w.extractLsb' 8 8) (w.extractLsb' 0 8),
  fun w => .amax (w.extractLsb' 16 8) (w.extractLsb' 8 8) (w.extractLsb' 0 8),
  fun w => .aand (w.extractLsb' 16 8) (w.extractLsb' 8 8) (w.extractLsb' 0 8),
  fun w => .aor (w.extractLsb' 16 8) (w.extractLsb' 8 8) (w.extractLsb' 0 8),
  fun w => .axor (w.extractLsb' 16 8) (w.extractLsb' 8 8) (w.extractLsb' 0 8),
  fun w => .ldacq (w.extractLsb' 16 8) (w.extractLsb' 8 8),
  fun w => .strel (w.extractLsb' 8 8) (w.extractLsb' 0 8),
  fun w => .waita (w.extractLsb' 20 4) (w.extractLsb' 8 8) (w.extractLsb' 0 8),
  fun w => .bar (w.extractLsb' 16 4) (w.extractLsb' 0 10),
  fun w => .bara (w.extractLsb' 16 4) (w.extractLsb' 0 10),
  fun w => .barw (w.extractLsb' 16 4),
  .unassignedFirstByte,
  .unassignedFirstByte]
/-- First bytes 0xE0 to 0xEF. -/
def opRowE : List (Word → Instr) := [
  fun w => .mma (w.extractLsb' 16 4) (w.extractLsb' 8 8),
  fun w => .mmaz (w.extractLsb' 16 4) (w.extractLsb' 8 8),
  fun w => .mfence (w.extractLsb' 16 8),
  fun w => .mwait (w.extractLsb' 0 4),
  fun w => .acczero (w.extractLsb' 16 4),
  fun w => .accrd (w.extractLsb' 16 8) (w.extractLsb' 8 4) (w.extractLsb' 0 8),
  fun w => .accwr (w.extractLsb' 16 4) (w.extractLsb' 8 8) (w.extractLsb' 0 8),
  fun w => .accdrain (w.extractLsb' 16 4) (w.extractLsb' 8 8) (w.extractLsb' 2 1) (w.extractLsb' 0 2),
  fun w => .xfr (w.extractLsb' 16 2) (w.extractLsb' 8 8) (w.extractLsb' 0 8),
  fun _ => .xfrw,
  fun w => .xfrq (w.extractLsb' 16 8),
  .unassignedFirstByte,
  fun w => .stmc (w.extractLsb' 16 8) (w.extractLsb' 8 8) (w.extractLsb' 0 8),
  fun _ => .fenceSys,
  fun w => .fstat (w.extractLsb' 16 8),
  fun w => .fclr (w.extractLsb' 8 8)]
/-- First bytes 0xF0 to 0xFF. -/
def opRowF : List (Word → Instr) := [
  fun w => .trap (w.extractLsb' 0 8),
  fun w => .asrt (w.extractLsb' 16 8) (w.extractLsb' 0 8),
  fun _ => .rfe,
  fun w => .csrr (w.extractLsb' 16 8) (w.extractLsb' 0 8),
  fun w => .csrw (w.extractLsb' 8 8) (w.extractLsb' 0 8),
  fun w => .launch (w.extractLsb' 16 8) (w.extractLsb' 8 8),
  fun w => .objw (w.extractLsb' 8 8) (w.extractLsb' 0 8),
  fun _ => .objfence,
  fun w => .tscrd (w.extractLsb' 16 8),
  fun w => .icinv (w.extractLsb' 8 8),
  fun w => .brkp (w.extractLsb' 0 8),
  fun w => .halt (w.extractLsb' 8 8),
  .unassignedFirstByte,
  .unassignedFirstByte,
  fun w => .lit (w.extractLsb' 0 24) 0,
  .unassignedFirstByte]

/-- The opcode map. -/
def opRow : Nat → List (Word → Instr)
  | 0 => opRow0
  | 1 => opRow1
  | 2 => opRow2
  | 3 => opRow3
  | 4 => opRow4
  | 5 => opRow5
  | 6 => opRow6
  | 7 => opRow7
  | 8 => opRow8
  | 9 => opRow9
  | 10 => opRowA
  | 11 => opRowB
  | 12 => opRowC
  | 13 => opRowD
  | 14 => opRowE
  | 15 => opRowF
  | _ => []

/-- One word read as the instruction of its first byte, reserved bits left aside. -/
def rawDecode (w : Word) : Instr :=
  let op := (w.extractLsb' 24 8).toNat
  ((opRow (op / 16))[op % 16]?.getD .unassignedFirstByte) w

/-- Why bytes are no instruction. -/
inductive DecodeError where
  /-- Fewer than four bytes. -/
  | truncated
  /-- A `lit` with fewer than four bytes after it: the caller takes the fetch fault of R49. Safe. -/
  | litTruncated
  /-- A word with a reserved bit set: illegal-instruction code 4, or 3 where a name fails first (R54). The caller takes that trap. -/
  | reservedBit (code : Nat) (w : Word)
  deriving DecidableEq, Repr

/-- Four bytes, the lowest address first, as a word (R6). -/
def wordOfBytes (b0 b1 b2 b3 : Byte) : Word := b3 ++ b2 ++ b1 ++ b0

/-- One word that is no `lit`. -/
def decodeWord (w : Word) : Except DecodeError Instr :=
  let i := rawDecode w
  if wordOf i = w then .ok i else .error (.reservedBit (if namesOk i then 4 else 3) w)

/-- The decoder: the instruction at the head of the bytes, and the bytes after it. -/
def decode : List Byte → Except DecodeError (Instr × List Byte)
  | b0 :: b1 :: b2 :: b3 :: rest =>
    let w := wordOfBytes b0 b1 b2 b3
    if w.extractLsb' 24 8 = 0xFE#8 then
      match rest with
      | c0 :: c1 :: c2 :: c3 :: rest' => .ok (.lit (w.extractLsb' 0 24) (wordOfBytes c0 c1 c2 c3), rest')
      | _ => .error .litTruncated
    else
      match decodeWord w with
      | .ok i => .ok (i, rest)
      | .error e => .error e
  | _ => .error .truncated

/-- The bytes of a word, the lowest address first (R6). -/
def bytesOfWord (w : Word) : List Byte :=
  [w.extractLsb' 0 8, w.extractLsb' 8 8, w.extractLsb' 16 8, w.extractLsb' 24 8]

/-- The bytes of an instruction. -/
def encodeBytes (i : Instr) : List Byte := (encode i).flatMap bytesOfWord

/-- The bytes of the instruction whose first bits are w, padded with zeros to the longest instruction (a `lit` pair, 8 bytes). -/
def tableBytes (nbits w : Nat) : List Byte :=
  let x := w % 2 ^ nbits
  (List.range 8).map fun i => BitVec.ofNat 8 (x / 2 ^ (8 * i))

/-- What the decoder reads from an instruction whose bits are w. -/
def decodeTableWord (nbits w : Nat) : Option Instr :=
  match decode (tableBytes nbits w) with
  | .ok (i, _) => some i
  | .error _ => none

end Sys2Proof
end

