-- ==== Sys2Proof/Machine/State.lean ====
section
/-! DEFINITION. The state of one module of a domain, and of every context, block and group on it: everything the spec gives the
machine, as plain data (INVENTORY.md, "State"). `State` is a zipper: `cpu.grp` is the group in hand, `cpu.ctx` its context with the
other groups beside it, `others` the other contexts. Sparse maps are the canonical lists of `Machine/Store.lean`. -/

namespace Sys2Proof.Machine

/-! ### A group -/

/-- An entry of the reconvergence stack: J, S, P, T (R159). -/
structure SEntry where
  j : Dword
  s : Word
  p : Word
  t : Dword
  deriving DecidableEq, Repr

/-- A set of registers: the main one has 232 vector and 160 uniform registers (R36, R37), the trap window 32 and 32 (R300). -/
structure Bank (nv nk : Nat) where
  /-- v0 and up. -/
  v : Vector Line nv
  /-- o0 to o7 (R36). -/
  o : Vector Line 8
  /-- The last-result file l0 to l3 (R41). -/
  l : Vector Line 4
  /-- k0 and up. -/
  k : Vector Word nk
  /-- p0 to p6, one bit a lane (R38). -/
  p : Vector Word 7
  /-- q0 to q6 (R38). -/
  q : Vector Bool 7
  /-- The mode register (R45). -/
  md : Half
  /-- The current lane set C (R159). -/
  c : Word
  /-- The reconvergence stack, the top first. -/
  stack : List SEntry
  deriving DecidableEq, Repr

/-- A bank as a group finds it at its start (R43, R159, R300). -/
def Bank.start (nv nk : Nat) : Bank nv nk where
  v := Vector.replicate nv (Vector.replicate 32 0)
  o := Vector.replicate 8 (Vector.replicate 32 0)
  l := Vector.replicate 4 (Vector.replicate 32 0)
  k := Vector.replicate nk 0
  p := Vector.replicate 7 0
  q := Vector.replicate 7 false
  md := 7
  c := 0xFFFFFFFF
  stack := []

/-- The fields of the frame header that the image holds beside live state (R299). LC, V and MD of the interrupted stream stand in the
group itself, except `lc`, the clock at the trap, and `vlc`, `vgid`, `vsc`, the view at the trap. -/
structure Frame where
  pc : Dword
  /-- The PC at entry, which `rfe` compares with (R304). -/
  pcEntry : Dword
  lc : Dword
  vlc : Dword
  vgid : Dword
  vsc : Nat
  cls : Byte
  code : Half
  word : Word
  lit : Bool
  ext : BitVec 24
  faddr : Dword
  fmask : Word
  /-- The completed lanes of the interrupted instruction (R305). -/
  cmask : Word
  nmore : Word
  info0 : Dword
  info1 : Dword
  deriving DecidableEq, Repr

/-- No trap recorded: class 0 (R295). -/
def Frame.zero : Frame := ⟨0, 0, 0, 0, 0, 0, 0, 0, 0, false, 0, 0, 0, 0, 0, 0, 0⟩

/-- A member of a batch (R208): a product with its descriptor words and, for BYP, the slot it consumed; or a drain with its control
word. `tile` is the tile number its word names. -/
inductive Member where
  | product (clear : Bool) (tile : Nat) (desc : List Word) (slot : Option Cells)
  | drain (tile : Nat) (ctl : Word) (z : Bool) (way : Nat)
  deriving DecidableEq, Repr

/-- A batch: its number once closed, and its members not yet complete (R208). -/
structure Batch where
  num : Option Nat
  members : List Member
  deriving DecidableEq, Repr

/-- A ceding wait (R21). -/
inductive Wait where
  /-- `waita` after a failed check, `cede`: the watched address, virtual or in the scratchpad; its line is watched (R185, R169). -/
  | line (scope : Scope) (addr : Nat)
  /-- `bar`, `barw`: the barrier and the generation (R191). -/
  | barrier (bar gen : Nat)
  | xfrw
  | objfence
  | mwait (n : Nat)
  deriving DecidableEq, Repr

/-- What a group writes when its turn has performed: the vector destination and whether it is a pair, or the uniform destination; the
active lanes; the weight; how far the PC moves (8 after a `lit`). -/
structure TurnWait where
  vdst : Option (BitVec 8)
  kdst : Option (BitVec 8)
  wide : Bool
  act : Word
  weight : Nat
  len : Nat
  deriving DecidableEq, Repr

/-- What a group is doing (R21, R82). -/
inductive Status where
  /-- No group stands here. -/
  | absent
  /-- Running, or stopped at the leg boundary when its clock says so (R92). -/
  | running
  /-- Waiting for its turn entry (R81). -/
  | turn (t : TurnWait)
  /-- In a ceding wait of an instruction of weight w; `fired` is the stamp of the wake source once it has fired (R87). -/
  | ceded (w : Nat) (wait : Wait) (fired : Option Stamp)
  /-- Waiting on the sub-tiles whose map entries stand at these PAs (R281). -/
  | xlat (pas : List Nat)
  /-- Waiting for the answers of remote loads with these sequence numbers and home modules (R343). -/
  | remote (asked : List (Nat × Nat))
  /-- `fence.sys` (R352). -/
  | fence
  /-- `objw` of a service write that is not yet complete (R287). -/
  | service
  | stopped (why : Stop)
  | exited
  deriving DecidableEq, Repr

/-- A group (R8), its main registers, its trap window, and all that belongs to it alone. -/
structure Group where
  /-- The gid of R9. -/
  gid : Nat
  /-- The logical core, its partition and the slot there (R11, R297), and the core role in the block. -/
  core : Nat
  part : Nat
  slot : Nat
  role : Nat
  /-- System level (R248). -/
  sys : Bool
  pc : Dword
  /-- The logical clock (R79). -/
  lc : Nat
  main : Bank 232 160
  win : Bank 32 32
  /-- FLG.WIN: the group runs in its trap window (R299). -/
  inWin : Bool
  frame : Frame
  /-- The completed-lane mask of the instruction at the PC (R305). -/
  cmask : Word
  /-- The view stamp and the view scope, none when clear (R91). -/
  view : Option (Stamp × Scope)
  /-- The sketch: lines by virtual address, each with the bytes its mask holds (R88). -/
  sketch : List (Nat × Cells)
  /-- Part of a store that touches more lines than a sketch holds is done, while other lanes of it wait (R89, R305). -/
  bulk : Bool
  /-- FPFLAGS, 5 bits (R69). -/
  fpflags : BitVec 5
  trapv : Dword
  fstat : Word
  /-- The quota, 0 to 29 (R14). -/
  quota : Nat
  /-- The bypass slot (R199). -/
  bypass : Option Cells
  /-- The batch counter NB (R199). -/
  nb : Nat
  /-- Pending batches in the order they were closed, the open one last (R208). -/
  batches : List Batch
  /-- The generation that the last `bara` on each barrier entered (R191). -/
  baras : List (Nat × Nat)
  status : Status
  /-- Deterministic faults addressed to the group, each with the leg it belongs to, in the order of R96 (R97). -/
  faults : List (Nat × Trap)
  /-- `objw` changes of the group not yet in effect (R273). -/
  objws : Nat
  /-- System copies issued and not yet counted off by an `xfrw`, by identity (R240). -/
  sysCopies : List Nat
  /-- While the group waits in `xfrw`: the stamp of the last landing that has passed (R239). -/
  landed : Option Stamp
  /-- Answers of remote loads held for the instruction in hand: line and bytes; none for a lost one (R343, R347). -/
  fills : List (Nat × Option Cells)
  /-- Registers whose slot in the image bears a reserved format byte and that no fill has found yet (R17). -/
  badSlots : List Nat
  /-- Taken by pre-emption (R307). -/
  preempted : Bool
  deriving DecidableEq, Repr

/-- A group at its start (R43, R159, R199, R260 but for k0 to k10, R349). -/
def Group.start (gid core part slot role : Nat) (sys : Bool) (pc : Dword) (lc quota : Nat) (trapv : Dword) : Group where
  gid := gid
  core := core
  part := part
  slot := slot
  role := role
  sys := sys
  pc := pc
  lc := lc
  main := Bank.start 232 160
  win := { Bank.start 32 32 with md := 0, c := 0 }
  inWin := false
  frame := Frame.zero
  cmask := 0
  view := none
  sketch := []
  bulk := false
  fpflags := 0
  trapv := trapv
  fstat := 0
  quota := quota
  bypass := none
  nb := 0
  batches := []
  baras := []
  status := .running
  faults := []
  objws := 0
  sysCopies := []
  landed := none
  fills := []
  badSlots := []
  preempted := false

/-- No group in hand; its registers hold what R43 gives a group at its start (DESIGN CHOICE, log 2). -/
def Group.none : Group := { Group.start 0 0 0 0 0 false 0 0 0 0 with status := .absent }

/-! ### A block -/

/-- A version that a block-scope ordering operation wrote on scratchpad words in this epoch (R84, R108). -/
structure SVersion where
  stamp : Stamp
  cells : Cells
  deriving DecidableEq, Repr

/-- A tag: a unit (line, granule or tile), a group, and whether the group wrote it (R104, R108, R201). -/
structure Tag where
  unit : Nat
  gid : Nat
  wrote : Bool
  deriving DecidableEq, Repr

/-- One named barrier (R111): the number of generations opened before the open one, the open one's count (0 when none is open) and its
arrivals, and the completing stamps of the generations so far. -/
structure Barrier where
  gen : Nat
  count : Nat
  arrivals : List Nat
  done : List (Nat × Stamp)
  deriving DecidableEq, Repr

/-- A placed block (R11, R262). -/
structure Block where
  lord : Nat
  blk : Nat
  /-- G, the launched group count. -/
  g : Nat
  /-- n, the core count, and the first logical core. -/
  n : Nat
  core : Nat
  /-- The share in bytes (R179) and, for each role, where it stands in its core (R262). -/
  share : Nat
  offs : List Nat
  quota : Nat
  /-- The tiles granted per partition, and for each role and partition the physical tile of each name (R198). -/
  acc : Nat
  phys : List (Nat × Nat)
  /-- The scratchpad at the start of the epoch, by scratchpad address (R108). -/
  pad : Cells
  /-- What each group has stored in the epoch (R108). -/
  own : List (Nat × Cells)
  /-- Plain accesses of the epoch by granule (R108). -/
  tags : List Tag
  /-- Block-scope ordering operations of the epoch: versions, and granule and group of each (R108, R109). -/
  ords : List SVersion
  ordTags : List Tag
  /-- Deferred reductions of the epoch (R187). -/
  reds : List Contrib
  /-- Accumulator tiles at the start of the epoch: 16·role + tile, and the elements by 128·row + column (R201). -/
  tiles : List (Nat × List (Nat × Word))
  /-- The tiles as each group has changed them in the epoch: group, 16·role + tile, elements (R201). -/
  ownTiles : List (Nat × Nat × List (Nat × Word))
  tileTags : List Tag
  /-- b0 to b15. -/
  bars : Vector Barrier 16
  /-- Block-wide syncs completed (R233). -/
  syncs : Nat
  /-- A group of the block has exited (R192). -/
  anyExit : Bool
  /-- The block is pre-empted (R307). -/
  preempted : Bool
  deriving DecidableEq, Repr

/-! ### A context -/

/-- A version of the overlay (R90): the publishing group and its module, the stamp, the bytes, and, for one that an ordering operation
wrote, its scope. -/
structure Version where
  stamp : Stamp
  module : Nat
  ord : Option Scope
  cells : Cells
  deriving DecidableEq, Repr

/-- A mark of R106 on a word: class 1 plain, 2 ordering, 3 reduction; the kind of a reduction (opcode and element type), the scope of
an ordering operation, the group and its module. -/
structure Mark where
  word : Nat
  cls : Nat
  kind : Nat
  scope : Option Scope
  gid : Nat
  module : Nat
  deriving DecidableEq, Repr

/-- A turn entry that is sent or queued (R81, R259, R272): `home` is the module whose queue it performs on, `seq` the sequence number of
the packet that brought it from another module. -/
structure Entry where
  stamp : Stamp
  weight : Nat
  scope : Scope
  op : TurnOp
  module : Nat
  home : Nat
  seq : Nat
  deriving DecidableEq, Repr

/-- Publications and contributions sent and not yet applied (R82, R90, R95). -/
inductive Flying where
  | publication (stamp : Stamp) (cells : Cells)
  | contribution (c : Contrib)
  deriving DecidableEq, Repr

/-- An object record in effect (R276 to R279), read and checked. -/
structure Record where
  obj : Nat
  /-- Another module that is the home of a host-homed object of a context on several modules (DESIGN CHOICE, log 44). -/
  host : Option Nat
  mode : Nat
  perm : Nat
  rank : Nat
  esz : Nat
  lay : Nat
  pmt : Bool
  home : Nat
  mapped : Bool
  stlog : Nat
  reloc : Bool
  ownb : Bool
  base : Nat
  ext : Nat
  dims : List Nat
  strides : List Int
  owner : Nat
  newbase : Nat
  m0 : Nat
  nmod : Nat
  slog : Nat
  deriving DecidableEq, Repr

/-- A template of the table (R223). -/
structure Template where
  dir : Nat
  rank : Nat
  sfmt : Nat
  dfmt : Nat
  sblk : Nat
  dblk : Nat
  dlay : Nat
  ori : Bool
  rnd : Nat
  tpol : Nat
  pmt : Bool
  stm : Nat
  amx : Bool
  pl : Nat
  slay : Nat
  src : Nat
  dst : Nat
  scl : Nat
  amxa : Nat
  sta : Nat
  fill : Word
  svec : Nat
  pitch : List Nat
  shape : List Nat
  deriving DecidableEq, Repr

/-- A copy that has passed R238 and has not landed (R222 to R237). `src` holds the source's elements in row-major order of t, and
`scales` the block entries read, as the copy reads them (R228, R230). Once `read`, the engine has converted the source: `payload` holds
the bytes it writes with its scale entries, in order, `nibs` its 4-bit elements by 2 · address + half, and `amax` its contribution (R231). -/
structure Copy where
  id : Nat
  stamp : Stamp
  lord : Nat
  blk : Nat
  ch : Nat
  t : Template
  rcd : Record
  origin : List Int
  counts : List Nat
  /-- The completion value of STM 2 (R225), and the SEED of its conversion (R65; DEDUCED, log 49). -/
  value : Word
  seed : Word
  /-- Where it lands: the number of the block-wide sync, or the leg (R233). -/
  toPad : Bool
  landAt : Nat
  src : List Nat
  scales : List (Nat × Word × Nat)
  read : Bool
  payload : Cells
  nibs : Cells
  stampCells : Cells
  amax : Option Contrib
  deriving DecidableEq, Repr

/-- Bytes that another module's copy lands here at this leg end (R343). -/
structure Landing where
  stamp : Stamp
  cells : Cells
  nibs : Cells
  deriving DecidableEq, Repr

/-- A group of another module that waits on a line homed here, since a clock (DESIGN CHOICE, log 15). -/
structure Watcher where
  module : Nat
  gid : Nat
  line : Nat
  since : Nat
  deriving DecidableEq, Repr

/-- A write-through of another module's group that has been applied in this leg: its group, its module, the number of the packet that
brought it, and its bytes (R381). -/
structure Through where
  gid : Nat
  module : Nat
  seq : Nat
  cells : Cells
  deriving DecidableEq, Repr

/-- A system copy of DIR 2 (R288). -/
structure SysCopy where
  id : Nat
  gid : Nat
  src : Nat
  dst : Nat
  bytes : Nat
  done : Bool
  deriving DecidableEq, Repr

/-- A launch from its turn on (R257, R259, R261). `next` is the first block not yet placed, `step` the distance to the one after it: the
number of modules for the first program of a context on several (R355). -/
structure Launch where
  ord : Nat
  rcd : List Word
  turnLeg : Nat
  next : Nat
  step : Nat
  n : Nat
  /-- Not to be placed any further (R313). -/
  killed : Bool
  deriving DecidableEq, Repr

/-- A launch that the launch turn queue here has granted to another module (R259): its ordinal, module, queue and turn leg. -/
structure Grant where
  ord : Nat
  module : Nat
  que : Nat
  leg : Nat
  deriving DecidableEq, Repr

/-- A translation write pending until the leg end (R285), with the stamp of its `objw` (none for a host write). -/
structure PendXlat where
  pa : Nat
  val : Dword
  stamp : Option Stamp
  /-- Its group, whose `objfence` waits for it. -/
  gid : Option Nat
  deriving DecidableEq, Repr

/-- How far a service write has come (R285, R286). -/
inductive SvcStage where
  | sent
  | invalidating
  | draining
  deriving DecidableEq, Repr

/-- A service write in progress, with its `objw` group (none for a host write), and the caches that have still to acknowledge. -/
structure Svc where
  pa : Nat
  val : Dword
  gid : Option Nat
  stage : SvcStage
  acks : List Nat
  deriving DecidableEq, Repr

/-- A code image (R271): the object record table and memory as they stood when the object was loaded. -/
structure Image where
  obj : Nat
  objtb : Dword
  mem : Cells
  deriving DecidableEq, Repr

/-- Another module of the domain with its last report (R346; DESIGN CHOICE, log 14), and whether it can no longer be reached (R347). -/
structure Peer extends Report where
  module : Nat
  lost : Bool
  deriving DecidableEq, Repr

/-- The state of a context. -/
inductive CtxStatus where
  | absent
  | running
  | suspended
  /-- Suspended for good by a failing `asrt` (R268). -/
  | ended
  deriving DecidableEq, Repr

/-- A context on this module. -/
structure Ctx where
  /-- CTXID: the context number and the device partition (R254). -/
  number : BitVec 24
  dpart : BitVec 4
  status : CtxStatus
  /-- The exponent of Q (R92). -/
  legq : Nat
  seed : Word
  nondet : Word
  /-- QUOTA.DQ. -/
  dq : Nat
  objtb : Dword
  tmplb : Dword
  ovlb : Dword
  scrb : Dword
  /-- TRAPV given to every group at its start (R250). -/
  trapv0 : Dword
  dbg : Bool
  ncore8 : Nat
  /-- The physical quadrants its logical ones are bound to (R369, R372). -/
  quads : List Nat
  /-- Whether it spans the modules of the domain (R250). -/
  span : Bool
  mctb : Dword
  pendMctb : Option Dword
  /-- The leg number k and, in a domain of several modules, the phase of its end (DESIGN CHOICE, log 14). -/
  leg : Nat
  phase : Nat
  /-- The groups beside the one in hand. -/
  groups : List Group
  blocks : List Block
  launches : List Launch
  /-- The next ordinal, and the launches granted to other modules (R259). -/
  nextOrd : Nat
  granted : List Grant
  /-- Turn entries sent or queued on this module's queues, or sent to another module's (R81). -/
  queue : List Entry
  flight : List Flying
  versions : List Version
  /-- PARCEL and PRIVATE stores of the leg, by group (R103). -/
  parcel : List (Nat × Cells)
  ptags : List Tag
  /-- Tags that system copies have moved, by PA of the line (R288). -/
  movedTags : List Tag
  marks : List Mark
  reds : List Contrib
  copies : List Copy
  sysCopies : List SysCopy
  nextCopy : Nat
  /-- Host writes held for step 5, oldest first (R362), and those that came once the leg end was agreed, which belong to the next leg. -/
  hostWrites : List Cells
  hostNext : List Cells
  /-- OBJTB (false) and TMPLB (true) writes of the leg (R255). -/
  pendCsr : List (Bool × Stamp × Dword)
  pendXlat : List PendXlat
  /-- Translation dwords written in the leg, and whether the host wrote them (R287). -/
  xlatLeg : List (Nat × Bool)
  svc : List Svc
  /-- Words that ordering operations have read from the frame of a sub-tile that began to move while they were queued, by stamp (R286). -/
  drained : List (Stamp × Cells)
  /-- Objects named by `icinv` in this leg (R271). -/
  icinvs : List Nat
  images : List Image
  /-- Memory and the object record table at the context's start: the code images of the objects loaded before it. -/
  loaded : Image
  /-- Sub-tiles with an event not yet serviced (R292). -/
  xlatEvents : List Nat
  kills : List Kill
  suspendReq : Bool
  /-- A suspended context whose register lines have been written to the image object (R298). -/
  imaged : Bool
  stops : List StopRec
  peers : List Peer
  /-- What this module last sent in a type 11 packet. -/
  said : Option Report
  /-- Faults of groups killed at this leg end, each with its leg and the gids it names (R313). -/
  moved : List (Nat × List Nat × Trap)
  /-- Copy landings that arrived from other modules, their write-throughs of the leg, and their groups that wait on lines homed here. -/
  landings : List Landing
  throughs : List Through
  watchers : List Watcher
  /-- The overlay was full when the context was suspended (R98). -/
  ovlFull : Bool
  /-- Step 9 of the leg end at which the context was suspended is still to come (R369). -/
  placeDue : Bool
  /-- R1 is suspended for the context (R4). -/
  r1off : Bool
  deriving DecidableEq, Repr

/-- No context in hand; its registers hold the values of log 2 (DESIGN CHOICE). -/
def Ctx.none : Ctx where
  number := 0
  dpart := 0
  status := .absent
  legq := 16
  seed := 0
  nondet := 0
  dq := 0
  objtb := 0
  tmplb := 0
  ovlb := 0
  scrb := 0
  trapv0 := 0
  dbg := false
  ncore8 := 0
  quads := []
  span := false
  mctb := 0
  pendMctb := Option.none
  leg := 0
  phase := 0
  groups := []
  blocks := []
  launches := []
  nextOrd := 1
  granted := []
  queue := []
  flight := []
  versions := []
  parcel := []
  ptags := []
  movedTags := []
  marks := []
  reds := []
  copies := []
  sysCopies := []
  nextCopy := 0
  hostWrites := []
  hostNext := []
  pendCsr := []
  pendXlat := []
  xlatLeg := []
  svc := []
  drained := []
  icinvs := []
  images := []
  loaded := ⟨0, 0, []⟩
  xlatEvents := []
  kills := []
  suspendReq := false
  imaged := false
  stops := []
  peers := []
  said := Option.none
  moved := []
  landings := []
  throughs := []
  watchers := []
  ovlFull := false
  placeDue := false
  r1off := false

/-! ### The module -/

/-- An event on its way to an event queue (R292, R369), with the number of its source (R370). -/
structure Event where
  source : Nat
  dpart : Nat
  ctxid : Word
  kind : Nat
  gid : Nat
  vaddr : Dword
  tlpa : Dword
  deriving DecidableEq, Repr

/-- An entry of the machine-check log and the log of class 40 (R295), with the number of its source (R370), the context it concerns and a
detail. -/
structure LogEntry where
  source : Nat
  cls : Nat
  code : Nat
  ctxid : Word
  detail : Dword
  deriving DecidableEq, Repr

/-- The page of a device partition (R368) and whether it is frozen (R23, R371). -/
structure Part where
  ctxarg : Dword
  ctxstat : Word
  pmon : Nat
  wctmr : Nat
  evqb : Dword
  evqh : Word
  evqt : Word
  evqovf : Word
  frozen : Bool
  deriving DecidableEq, Repr

/-- A Corku port: PSTAT (R337) and the count of consecutive failures of one flit (R336); `trained`: the link has trained since it was
last down or failed. -/
structure Port where
  nrep : Nat
  peer : Nat
  st : Nat
  bad : Nat
  trained : Bool
  deriving DecidableEq, Repr

/-- What the receiver of a pair keeps: e, and the numbers from e on that it has received (R338). -/
structure Window where
  src : Nat
  e : Nat
  got : List Nat
  deriving DecidableEq, Repr

/-- An entry of a core's write-combining buffer (R344). -/
structure WcEntry where
  core : Nat
  ctx : Nat
  leg : Nat
  module : Nat
  line : Nat
  gid : Nat
  cells : Cells
  deriving DecidableEq, Repr

/-- An entry of the router's combining table (R345): destination, line, leg, operation, context, and what it holds. -/
structure Combine where
  dst : Nat
  line : Nat
  leg : Nat
  op : ROp
  ety : BitVec 4
  ctx : Nat
  parts : List (Nat × Nat)
  /-- Combined packets taken up (source and number), which are acknowledged with it. -/
  via : List (Nat × Nat)
  cs : List Contrib
  deriving DecidableEq, Repr

/-- A translation line (R283, R284): its PA, the caches that hold it, whether an uncorrectable error has made every cache a sharer, and
whether the home has dropped its directory entry, so that its next change is broadcast. -/
structure DirEntry where
  line : Nat
  sharers : List Nat
  every : Bool
  dropped : Bool
  deriving DecidableEq, Repr

/-- What the module keeps for coherence: translation lines in caches, the oldest first (R283, R284), and lines of host memory that a
context holds in shared state, by device partition, context and PA (R363). -/
structure Directory where
  entries : List DirEntry
  shared : List (Nat × Nat × Nat)
  deriving DecidableEq, Repr

/-- A packet that this module has sent to or received from another, counted for its context and leg (DESIGN CHOICE, log 14). -/
structure Traffic where
  ctx : Nat
  leg : Nat
  peer : Nat
  seq : Nat
  deriving DecidableEq, Repr

/-- A host write for a context that is not on the module (R3; DEDUCED, log 20): how many host writes each context held when it came, by
CTXID, and its bytes. -/
structure LateWrite where
  places : List (Nat × Nat)
  cells : Cells
  deriving DecidableEq, Repr

/-- The last report of a context that has left the module, kept for modules that have not heard it: the CTXID, the leg, the modules
(DESIGN CHOICE, log 14). -/
structure Farewell where
  ctx : Nat
  report : Report
  peers : List Nat
  deriving DecidableEq, Repr

/-- What a `brkp` or a failing `asrt` reports (R267, R268): the device partition, the CTXID, the record, and the number of other failing
assertions of the leg. -/
structure StopReport where
  dpart : Nat
  ctxid : Word
  rcd : StopRec
  others : Nat
  deriving DecidableEq, Repr

/-- A packet's stay at one stop of a ring (R323, R324): its channel there, the room it has claimed (0 shared, 1 reserved flit, 2 escape
slot, 3 not yet injected), its flits that have arrived, those that have left, and the headers that have arrived there after it. -/
structure Stay where
  stop : Nat
  vc1 : Bool
  room : Nat
  arrived : Nat
  left : Nat
  age : Nat
  deriving DecidableEq, Repr

/-- A packet on a ring (R320 to R325), with its stays, the foremost first. -/
structure RingPacket where
  packet : NetPacket
  ring : Nat
  stays : List Stay
  deriving DecidableEq, Repr

/-- A packet in the buffer of a station or gateway of a die (R326, R327): the member of the station cycle, the direction, and whether it
has crossed the cycle's dateline. -/
structure StationPacket where
  packet : NetPacket
  die : Nat
  member : Nat
  up : Bool
  crossed : Bool
  deriving DecidableEq, Repr

/-- A stop of a quadrant in the binding table (R320, R372): the core it takes (34 of a die; none when it has none). -/
structure StopBinding where
  quad : Nat
  stop : Nat
  core : Option Nat
  deriving DecidableEq, Repr

/-- What the module holds beside its contexts and its memory. -/
structure Module where
  /-- The module's number and the domain's rows and columns (R330). -/
  number : Nat
  rows : Nat
  cols : Nat
  /-- OWNER (R365), DPCFG (R364). -/
  own : Nat
  hbp : Nat
  dpcfg : Nat
  parts : Vector Part 16
  ports : Vector Port 16
  spares : Vector Word 2
  /-- Failed links known here, lower module first (R332). -/
  failed : List (Nat × Nat)
  /-- Sequence numbers next to use, by destination (R338). -/
  seqs : List (Nat × Nat)
  retry : List Packet
  windows : List Window
  /-- Answers kept for duplicates: the request's source and number, and the answer (R340). -/
  results : List (Nat × Nat × Packet)
  wcb : List WcEntry
  combining : List Combine
  /-- Packets sent, oldest first. -/
  outbox : List Packet
  /-- Packets that have arrived and that their home cannot apply yet: a full overlay (R98), or a wait on translation (R281). -/
  held : List Packet
  /-- BOOTSTAT (R372). -/
  stage : Nat
  err : Nat
  nq : Nat
  /-- The fused key hashes, each with its revocation, and the fused minimum version (R372). -/
  fuses : List (BitVec 512 × Bool)
  minVersion : Nat
  /-- The firmware in place, the binding table, the working quadrants and the mapped-out rings (R372). -/
  firmware : List Byte
  binding : List StopBinding
  working : List Nat
  ringsOut : List Nat
  /-- Measurement registers and SPDM answers (R373). -/
  measures : List (BitVec 512)
  answers : List (List Byte)
  /-- Whether an SPDM session is open, and the IDE keys set in it (R373). -/
  session : Bool
  ideKeys : List (List Byte)
  /-- Packets on the quadrant rings, in the stations and gateways, each buffer in its order, and packets that have reached their
  endpoints (R320 to R328). -/
  rings : List RingPacket
  stations : List StationPacket
  ejected : List NetPacket
  /-- Flits that cores have reserved room for, by core (R325), and packets that have left by a Corku port (R327). -/
  promised : List (NetPlace × Nat)
  departed : List (Nat × NetPacket)
  /-- Sequenced packets sent and received in legs that have not ended (DESIGN CHOICE, log 14). -/
  sentLog : List Traffic
  gotLog : List Traffic
  farewells : List Farewell
  /-- Translation marks, by line PA (R287), and the directory (R284). -/
  tmarks : List Nat
  dir : Directory
  /-- Events not yet in a queue, the log (R292, R295), and what stops have reported (R267, R268). -/
  events : List Event
  log : List LogEntry
  stopReports : List StopReport
  /-- Answers to host reads, lines that the host holds, and lines recalled from it by back-invalidate (R362). -/
  hostReads : List (Nat × Cells)
  hostLines : List Nat
  recalls : List Nat
  /-- Host writes for contexts that are not on the module, held until the next step 5 of a leg end (R3; DEDUCED, log 20). -/
  hostLate : List LateWrite
  /-- Snoops held, each with the contexts (device partition and number) whose leg end it awaits, and snoops answered (R363). -/
  snoops : List (Nat × List (Nat × Nat))
  snooped : List Nat
  /-- Model's own: how many readings of the timestamp counter were taken (DESIGN CHOICE, log 5). -/
  tscCount : Nat
  deriving DecidableEq, Repr

/-- A device partition's page at reset (R368; DESIGN CHOICE, log 2). -/
def Part.reset : Part := ⟨0, 0, 24, 8, 0, 0, 0, 0, false⟩

/-- The module at power-on (DESIGN CHOICE, logs 2 and 4). -/
def Module.reset : Module where
  number := 0
  rows := 1
  cols := 1
  own := 0
  hbp := 0
  dpcfg := 0
  parts := Vector.replicate 16 Part.reset
  ports := Vector.replicate 16 ⟨0, 0, 0, 0, false⟩
  spares := Vector.replicate 2 0
  failed := []
  seqs := []
  retry := []
  windows := []
  results := []
  wcb := []
  combining := []
  outbox := []
  held := []
  stage := 0
  err := 0
  nq := 0
  fuses := [(0, false), (0, false), (0, false)]
  minVersion := 0
  firmware := []
  binding := []
  working := []
  ringsOut := []
  measures := []
  answers := []
  session := false
  ideKeys := []
  rings := []
  stations := []
  ejected := []
  promised := []
  departed := []
  sentLog := []
  gotLog := []
  farewells := []
  tmarks := []
  dir := ⟨[], []⟩
  events := []
  log := []
  stopReports := []
  hostReads := []
  hostLines := []
  recalls := []
  hostLate := []
  snoops := []
  snooped := []
  tscCount := 0

/-- What an instruction word of the group in hand may change: the group, its context, the module's own state. Memory (the base image
M_k) is no part of it: it changes only at leg ends, translation writes and image saves. -/
structure Cpu where
  grp : Group
  ctx : Ctx
  hw : Module
  deriving DecidableEq, Repr

/-- The state of the module. -/
structure State where
  cpu : Cpu
  others : List Ctx
  /-- Device memory and host memory by PA (R275); a byte not listed reads 0 (DESIGN CHOICE, log 1). -/
  mem : List Host.Cell
  /-- Outside events waiting to happen, the next first (DESIGN CHOICE, log 4). -/
  inputs : List Instr
  deriving DecidableEq, Repr

/-- The module right after power-on: no context, nothing in memory. -/
def State.reset : State where
  cpu := { grp := Group.none, ctx := Ctx.none, hw := Module.reset }
  others := []
  mem := []
  inputs := []

/-- Why the machine stops. -/
inductive Fault where
  /-- A host access to an address that names no memory (R275). Raised by HOST_MEM_READ, HOST_MEM_WRITE and
  TRANSLATION_APERTURE_WRITE. Safe. -/
  | hostAddress (pa : Nat)
  deriving DecidableEq, Repr

/-- Why the model gives an instruction no meaning. -/
inductive Refusal where
  /-- No meaning yet. Raised by no arm. Safe. -/
  | notModelled (mnemonic : String)
  deriving DecidableEq, Repr

end Sys2Proof.Machine
end

