-- ==== Sys2Proof/Machine/Store.lean ====
section
/-! DEFINITION. Sparse maps from addresses: lists of pairs with strictly rising keys. `get?`/`put`/`del` treat a map as partial (the bytes
that a mask holds); `rd`/`wr` treat it as total, an unlisted key reading as a default that is never listed. Memory is the second. -/

namespace Sys2Proof.Machine

/-- The value listed at a key. -/
def get? {α : Type} : List (Nat × α) → Nat → Option α
  | [], _ => none
  | (k, x) :: m, a => if k = a then some x else if a < k then none else get? m a

/-- List a value at a key. -/
def put {α : Type} : List (Nat × α) → Nat → α → List (Nat × α)
  | [], a, y => [(a, y)]
  | (k, x) :: m, a, y => if a < k then (a, y) :: (k, x) :: m else if k = a then (a, y) :: m else (k, x) :: put m a y

/-- Remove a key. -/
def del {α : Type} : List (Nat × α) → Nat → List (Nat × α)
  | [], _ => []
  | (k, x) :: m, a => if a < k then (k, x) :: m else if k = a then m else (k, x) :: del m a

/-- Read a total map. -/
def rd {α : Type} (d : α) (m : List (Nat × α)) (a : Nat) : α := (get? m a).getD d

/-- Write a total map; writing the default removes the entry. -/
def wr {α : Type} [DecidableEq α] (d : α) (m : List (Nat × α)) (a : Nat) (x : α) : List (Nat × α) :=
  if x = d then del m a else put m a x

/-- The entries of n put over m. -/
def putAll {α : Type} (m : List (Nat × α)) : List (Nat × α) → List (Nat × α)
  | [] => m
  | (a, x) :: n => putAll (put m a x) n

/-- The entries of n written into the total map m. -/
def wrAll {α : Type} [DecidableEq α] (d : α) (m : List (Nat × α)) : List (Nat × α) → List (Nat × α)
  | [] => m
  | (a, x) :: n => wrAll d (wr d m a x) n

/-- Keys strictly rising. -/
def rising {α : Type} : List (Nat × α) → Bool
  | [] => true
  | [_] => true
  | (a, _) :: (b, y) :: m => decide (a < b) && rising ((b, y) :: m)

/-- Strictly rising keys, and no entry that an unlisted key reads as. -/
def canonical {α : Type} [DecidableEq α] (d : α) (m : List (Nat × α)) : Bool := rising m && m.all fun e => decide (e.2 ≠ d)

/-- What a byte of memory that nothing has written reads as (DESIGN CHOICE, log 1). -/
def unwritten : Byte := 0

/-- The canonical form of memory. -/
def Memory.wf (m : List Host.Cell) : Bool := canonical unwritten m

/-- One byte of memory. -/
def memByte (m : Cells) (a : Nat) : Byte := rd unwritten m a

/-- Store one byte in memory. -/
def memPut (m : Cells) (a : Nat) (x : Byte) : Cells := wr unwritten m a x

/-- n bytes from an address, the lowest byte lowest (R6). -/
def leNat (get : Nat → Byte) (a : Nat) : Nat → Nat
  | 0 => 0
  | n + 1 => (get a).toNat + 256 * leNat get (a + 1) n

/-- A number of n bytes of memory, little-endian. -/
def memNat (m : Cells) (a n : Nat) : Nat := leNat (memByte m) a n

/-- The n bytes of a number, little-endian, at an address. -/
def bytesAt (a x : Nat) : Nat → Cells
  | 0 => []
  | n + 1 => (a, BitVec.ofNat 8 x) :: bytesAt (a + 1) (x / 256) n

/-- Insert into a set kept as a list without repeats. -/
def insertNew {α : Type} [DecidableEq α] (l : List α) (x : α) : List α := if x ∈ l then l else l ++ [x]

/-- The numbers a, a+1, …, a+n−1. -/
def span (a : Nat) : Nat → List Nat
  | 0 => []
  | n + 1 => a :: span (a + 1) n

/-- The line of a byte address. -/
def lineOf (a : Nat) : Nat := a - a % 128

/-- The cells of one line. -/
def cellsIn (lo n : Nat) (m : Cells) : Cells := m.filter fun e => lo ≤ e.1 && e.1 < lo + n

/-- Cells split by line, in rising order of lines. -/
def byLine : Cells → List (Nat × Cells)
  | [] => []
  | (a, x) :: m => let r := byLine m; put r (lineOf a) (put ((get? r (lineOf a)).getD []) a x)

/-- Stamps compare by LC, then by gid (R80). -/
def Stamp.lt (a b : Stamp) : Bool := a.lc < b.lc || (a.lc == b.lc && a.gid < b.gid)

/-- At or below. -/
def Stamp.le (a b : Stamp) : Bool := !Stamp.lt b a

/-- The lower of two stamps. -/
def Stamp.min (a b : Stamp) : Stamp := if Stamp.lt b a then b else a

end Sys2Proof.Machine
end

