-- ==== Sys2Proof/Machine/Numeric.lean ====
section
/-! DEFINITION. Number formats, exact values and the one rounding function (spec 04: R58 to R72, R75 to R78). An exact value is a
sign with a magnitude; a magnitude that is rounded is a rational times a power of two. -/

namespace Sys2Proof.Machine

/-- What the encodings with the highest exponent mean (R58). -/
inductive Top where
  | ieee
  | e4m3
  | none
  deriving DecidableEq, Repr

/-- A floating format of R58. `flush`: FTZ acts on it (R63). -/
structure Fmt where
  ebits : Nat
  fbits : Nat
  bias : Nat
  top : Top
  flush : Bool
  deriving DecidableEq, Repr

/-- The floating formats by their code of R60. -/
def fmtOf : Nat → Fmt
  | 1 => ⟨5, 10, 15, .ieee, true⟩
  | 2 => ⟨8, 7, 127, .ieee, true⟩
  | 3 => ⟨4, 3, 7, .e4m3, false⟩
  | 4 => ⟨5, 2, 15, .ieee, false⟩
  | 5 => ⟨2, 1, 1, .none, false⟩
  | _ => ⟨8, 23, 127, .ieee, true⟩

/-- FP32. -/
abbrev fp32 : Fmt := fmtOf 0

/-- The width of a format in bits, by code (R60). -/
def fmtBits : Nat → Nat
  | 1 | 2 | 8 | 9 => 16
  | 3 | 4 | 10 | 11 => 8
  | 5 => 4
  | 12 | 13 => 64
  | _ => 32

/-- An integer format that is signed, by code. -/
def fmtSigned (c : Nat) : Bool := c == 6 || c == 8 || c == 10 || c == 12

/-- An exact value: NaN, an infinity, or (−1)^neg · m · 2^e, the sign kept for zero. -/
inductive FV where
  | nan
  | inf (neg : Bool)
  | fin (neg : Bool) (m : Nat) (e : Int)
  deriving DecidableEq, Repr

/-- A magnitude n/d · 2^e. -/
structure Mag where
  n : Nat
  d : Nat
  e : Int
  deriving DecidableEq, Repr

/-- The five flags of FPFLAGS (R69). -/
abbrev FFlags := BitVec 5
abbrev flagNV : FFlags := 16
abbrev flagDZ : FFlags := 8
abbrev flagOF : FFlags := 4
abbrev flagUF : FFlags := 2
abbrev flagNX : FFlags := 1

/-- The value of an encoding (R58). With `ftz`, a subnormal of a flushed format reads as zero (R63). -/
def decodeF (f : Fmt) (ftz : Bool) (x : Nat) : FV :=
  let fr := x % 2 ^ f.fbits
  let ex := x / 2 ^ f.fbits % 2 ^ f.ebits
  let neg := x / 2 ^ (f.fbits + f.ebits) % 2 == 1
  let top := 2 ^ f.ebits - 1
  if f.top = .ieee ∧ ex = top then (if fr = 0 then .inf neg else .nan)
  else if f.top = .e4m3 ∧ ex = top ∧ fr = 2 ^ f.fbits - 1 then .nan
  else if ex = 0 then .fin neg (if ftz && f.flush then 0 else fr) (1 - (f.bias + f.fbits : Nat))
  else .fin neg (fr + 2 ^ f.fbits) ((ex : Int) - (f.bias + f.fbits : Nat))

/-- The canonical NaN (R62); E2M1 has none and writes 0 (R64). -/
def nanF (f : Fmt) : Nat :=
  match f.top with
  | .ieee => (2 ^ f.ebits - 1) * 2 ^ f.fbits + 2 ^ (f.fbits - 1)
  | .e4m3 => 2 ^ (f.ebits + f.fbits) - 1
  | .none => 0

/-- The sign bit in place. -/
def signF (f : Fmt) (neg : Bool) : Nat := if neg then 2 ^ (f.ebits + f.fbits) else 0

/-- The largest finite encoding. -/
def maxF (f : Fmt) (neg : Bool) : Nat :=
  signF f neg + (match f.top with
    | .ieee => (2 ^ f.ebits - 1) * 2 ^ f.fbits - 1
    | .e4m3 => 2 ^ (f.ebits + f.fbits) - 2
    | .none => 2 ^ (f.ebits + f.fbits) - 1)

/-- Infinity, or what stands for it: E4M3's NaN, E2M1's largest (R64). -/
def infF (f : Fmt) (neg : Bool) : Nat :=
  match f.top with
  | .ieee => signF f neg + (2 ^ f.ebits - 1) * 2 ^ f.fbits
  | .e4m3 => 2 ^ (f.ebits + f.fbits) - 1
  | .none => maxF f neg

/-- 2^e scaled onto a fraction n/d. -/
def Mag.scale (x : Mag) (e : Int) : Nat × Nat :=
  let s := x.e - e
  if 0 ≤ s then (x.n * 2 ^ s.toNat, x.d) else (x.n, x.d * 2 ^ (-s).toNat)

/-- The floor of the binary logarithm of a non-zero magnitude. -/
def Mag.log (x : Mag) : Int :=
  let g : Int := (x.n.log2 : Int) - x.d.log2
  let (n, d) := (⟨x.n, x.d, 0⟩ : Mag).scale g
  (if n < d then g - 1 else g) + x.e

/-- Rounding on a grid of spacing 2^q (R64): the multiple, and whether it differs from the value. Modes: 0 RNE, 1 RTZ, 2 RUP, 3 RDN,
4 SR with the random word r. -/
def Mag.round (x : Mag) (q : Int) (mode : Nat) (r : Word) (neg : Bool) : Nat × Bool :=
  let (n, d) := x.scale q
  let lo := n / d
  let rem := n % d
  if rem = 0 then (lo, false)
  else
    let up : Bool :=
      match mode with
      | 1 => false
      | 2 => !neg
      | 3 => neg
      | 4 => decide (2 ^ 32 ≤ rem * 2 ^ 32 / d + r.toNat)
      | _ => decide (d < 2 * rem) || (decide (d = 2 * rem) && lo % 2 == 1)
    (if up then lo + 1 else lo, true)

/-- Overflow of a finite value (R64). -/
def overflowF (f : Fmt) (mode : Nat) (sat neg : Bool) : Nat :=
  if sat || f.top = .none then maxF f neg
  else match mode with
    | 1 => maxF f neg
    | 2 => if neg then maxF f neg else infF f neg
    | 3 => if neg then infF f neg else maxF f neg
    | _ => infF f neg

/-- Rounding of a magnitude to a format (R64) with its flags (R69, R387), and flushing (R63). -/
def roundMag (f : Fmt) (mode : Nat) (sat ftz : Bool) (r : Word) (neg : Bool) (x : Mag) : Nat × FFlags :=
  if x.n = 0 then (signF f neg, 0)
  else
    let e := x.log
    let emin : Int := 1 - (f.bias : Int)
    let q := max e emin - f.fbits
    let (m, nx) := x.round q mode r neg
    let maxExp : Int := (match f.top with | .ieee => 2 ^ f.ebits - 2 | _ => 2 ^ f.ebits - 1 : Nat) - (f.bias : Int)
    let maxM := match f.top with | .e4m3 => 2 ^ (f.fbits + 1) - 2 | _ => 2 ^ (f.fbits + 1) - 1
    let topM := if q < maxExp - f.fbits then 2 ^ (f.fbits + 1) else maxM
    if maxExp < e ∨ topM < m then (overflowF f mode sat neg, flagOF ||| flagNX)
    else if m < 2 ^ f.fbits then
      if ftz && f.flush && m != 0 then (signF f neg, flagUF ||| flagNX)
      else
        let (m', _) := x.round (e - f.fbits) mode r neg
        let tiny := decide (e < emin - 1) || decide (m' < 2 ^ (f.fbits + 1))
        let flushed := ftz && f.flush
        (signF f neg + m, if nx || flushed then (if tiny || flushed then flagUF ||| flagNX else flagNX) else 0)
    else
      let tinyUp := decide (e < emin) && (decide (e < emin - 1) || decide ((x.round (e - f.fbits) mode r neg).1 < 2 ^ (f.fbits + 1)))
      let bits := if m = 2 ^ (f.fbits + 1) then ((q + f.fbits + 1 + f.bias).toNat) * 2 ^ f.fbits
        else ((q + f.fbits + f.bias).toNat) * 2 ^ f.fbits + (m - 2 ^ f.fbits)
      (signF f neg + bits, if nx then (if tinyUp then flagUF ||| flagNX else flagNX) else 0)

/-- A value converted to a floating format (R64, R387). -/
def toFormat (f : Fmt) (mode : Nat) (sat ftz : Bool) (r : Word) : FV → Nat × FFlags
  | .nan => (nanF f, if f.top = .none then flagNV else 0)
  | .inf neg =>
    match f.top with
    | .ieee => (infF f neg, 0)
    | .e4m3 => (if sat then maxF f neg else infF f neg, flagNV)
    | .none => (maxF f neg, flagNV)
  | .fin neg m e => roundMag f mode sat ftz r neg ⟨m, 1, e⟩

/-- A value rounded to p significant bits with no bound on the exponent (R75, R76). -/
def roundSig (p mode : Nat) (r : Word) : FV → FV
  | .fin neg m e =>
    if m = 0 then .fin neg 0 e
    else
      let q := (⟨m, 1, e⟩ : Mag).log - (p - 1 : Nat)
      .fin neg ((⟨m, 1, e⟩ : Mag).round q mode r neg).1 q
  | x => x

/-- A product (R67): the value, and whether it was 0 × ∞. -/
def FV.mul : FV → FV → FV × Bool
  | .nan, _ => (.nan, false)
  | _, .nan => (.nan, false)
  | .inf a, .inf b => (.inf (a != b), false)
  | .inf a, .fin b m _ => if m = 0 then (.nan, true) else (.inf (a != b), false)
  | .fin a m _, .inf b => if m = 0 then (.nan, true) else (.inf (a != b), false)
  | .fin a m e, .fin b m' e' => (.fin (a != b) (m * m') (e + e'), false)

/-- The value negated. -/
def FV.neg : FV → FV
  | .nan => .nan
  | .inf a => .inf (!a)
  | .fin a m e => .fin (!a) m e

/-- The sign of a value. -/
def FV.isNeg : FV → Bool
  | .nan => false
  | .inf a => a
  | .fin a _ _ => a

/-- A finite value as an integer multiple of 2^q. -/
def FV.units (q : Int) : FV → Int
  | .fin a m e => let x : Int := (m * 2 ^ (e - q).toNat : Nat); if a then -x else x
  | _ => 0

/-- The exponent of a finite value. -/
def FV.exp : FV → Int
  | .fin _ _ e => e
  | _ => 0

/-- An exact sum (R67): NaN terms first, then opposite infinities (the flag), then the sum; an exact zero is −0 when every term is,
else +0, or −0 under RDN where the terms differ in sign. -/
def FV.sum (rdn : Bool) (l : List FV) : FV × Bool :=
  if l.any (· == .nan) then (.nan, false)
  else if l.any (· == .inf false) then (if l.any (· == .inf true) then (.nan, true) else (.inf false, false))
  else if l.any (· == .inf true) then (.inf true, false)
  else
    let q := l.foldl (fun q x => min q x.exp) (match l with | [] => 0 | x :: _ => x.exp)
    let t : Int := l.foldl (fun s x => s + x.units q) 0
    if t = 0 then (.fin (if l.all FV.isNeg then true else if l.any FV.isNeg then rdn else false) 0 q, false)
    else (.fin (decide (t < 0)) t.natAbs q, false)

/-- Compare two values that are not NaN: less, equal (zeros equal whatever their signs), or greater. -/
def FV.cmp : FV → FV → Ordering
  | .nan, _ => .eq
  | _, .nan => .eq
  | .inf a, .inf b => if a = b then .eq else if a then .lt else .gt
  | .inf a, _ => if a then .lt else .gt
  | _, .inf b => if b then .gt else .lt
  | x, y => let q := min x.exp y.exp; compare (x.units q) (y.units q)

/-- The lesser (or greater) by R141: a NaN gives way; −0 is below +0. -/
def FV.pick (greater : Bool) : FV → FV → FV
  | .nan, y => y
  | x, .nan => x
  | x, y =>
    let lt := match x.cmp y with
      | .lt => true
      | .gt => false
      | .eq => x.isNeg && !y.isNeg
    if lt != greater then x else y

/-- A value rounded to an integer (R72, R144): the integer, and whether it differs. -/
def FV.toInteger (mode : Nat) : FV → Int × Bool
  | .fin a m e =>
    let (k, nx) := (⟨m, 1, e⟩ : Mag).round 0 (if mode = 4 then 0 else mode) 0 a
    (if a then -(k : Int) else k, nx)
  | _ => (0, false)

/-- An integer read as a value. -/
def FV.ofInt (x : Int) : FV := .fin (decide (x < 0)) x.natAbs 0

/-- n bits read as a signed or unsigned integer. -/
def toI (n : Nat) (signed : Bool) (x : Nat) : Int :=
  let y := x % 2 ^ n
  if signed && decide (2 ^ (n - 1) ≤ y) then (y : Int) - 2 ^ n else y

/-- The least and greatest value of an element type. -/
def minI (n : Nat) (signed : Bool) : Int := if signed then -(2 ^ (n - 1)) else 0
def maxI (n : Nat) (signed : Bool) : Int := if signed then 2 ^ (n - 1) - 1 else 2 ^ n - 1

/-- The low n bits of an integer. -/
def wrapI (n : Nat) (x : Int) : Nat := (x % (2 ^ n : Nat)).toNat

/-- Wrap or clamp (R68). -/
def fitI (n : Nat) (signed sat : Bool) (x : Int) : Nat :=
  wrapI n (if sat then max (minI n signed) (min (maxI n signed) x) else x)

/-- Conversion of a floating value to an integer format (R72). -/
def floatToInt (n : Nat) (signed : Bool) (mode : Nat) (sat : Bool) (x : FV) : Nat × FFlags :=
  let odd := wrapI n (minI n signed)
  match x with
  | .nan => (if sat then 0 else odd, flagNV)
  | .inf a => (if sat then wrapI n (if a then minI n signed else maxI n signed) else odd, flagNV)
  | .fin .. =>
    let (k, nx) := x.toInteger mode
    if maxI n signed < k then (if sat then wrapI n (maxI n signed) else odd, flagNV)
    else if k < minI n signed then (if sat then wrapI n (minI n signed) else odd, flagNV)
    else (wrapI n k, if nx then flagNX else 0)

/-- An element decoded by its format code (R60, R71). -/
def decodeCode (c : Nat) (ftz : Bool) (x : Nat) : FV :=
  if c < 6 then decodeF (fmtOf c) ftz (x % 2 ^ fmtBits c) else FV.ofInt (toI (fmtBits c) (fmtSigned c) x)

/-- An element converted to a format by code: R64 or R72. -/
def encodeCode (c mode : Nat) (sat ftz : Bool) (r : Word) (x : FV) : Nat × FFlags :=
  if c < 6 then toFormat (fmtOf c) mode sat ftz r x else floatToInt (fmtBits c) (fmtSigned c) mode sat x

/-- mix32 of R66, one word. -/
def mixStep (h w : Word) : Word :=
  let h := (h ^^^ w) * 0xA54FF53B
  let h := (h ^^^ (h >>> 15)) * 0x2C1B3C6D
  h ^^^ (h >>> 12)

/-- mix32 of R66. -/
def mix32 (ws : List Word) : Word :=
  let h := ws.foldl mixStep 0x3C6EF372
  let h := (h ^^^ BitVec.ofNat 32 ws.length) * 0x297A2D39
  h ^^^ (h >>> 16)

/-! ### Roots and transcendental functions (R146)

A value that no finite binary fraction equals is stood for by one that rounds alike: a lower bound of many more bits with half a unit
added, so that no rounding boundary of a format of at most 24 bits lies between the two. -/

/-- The integer square root, from bit i − 1 down. -/
def isqrtFrom (x : Nat) : Nat → Nat → Nat
  | 0, r => r
  | i + 1, r => isqrtFrom x i (if (r + 2 ^ i) * (r + 2 ^ i) ≤ x then r + 2 ^ i else r)

/-- The integer square root. -/
def isqrt (x : Nat) : Nat := isqrtFrom x (x.log2 / 2 + 1) 0

/-- √(m·2^e), m ≠ 0. -/
def sqrtMag (m : Nat) (e : Int) : Mag :=
  let k : Int := e % 2
  let x := m * 2 ^ (128 + k.toNat)
  let s := isqrt x
  let h := (e - k) / 2 - 64
  if s * s = x then ⟨s, 1, h⟩ else ⟨2 * s + 1, 1, h - 1⟩

/-- 1/√(m·2^e), m ≠ 0. -/
def rsqrtMag (m : Nat) (e : Int) : Mag :=
  let k : Int := e % 2
  let x := m * 2 ^ k.toNat
  let s := isqrt (2 ^ 320 / x)
  let h := -(e - k) / 2 - 160
  if s * s * x = 2 ^ 320 then ⟨s, 1, h⟩ else ⟨2 * s + 1, 1, h - 1⟩

/-- Fixed point with 256 fraction bits. -/
abbrev fxOne : Nat := 2 ^ 256

/-- Σ z^(2i+1)/(2i+1) from term i on, for the n terms left; `p` is z^(2i+1). -/
def atanhFrom (z2 : Nat) : Nat → Nat → Nat → Nat
  | 0, _, _ => 0
  | n + 1, i, p => p / (2 * i + 1) + atanhFrom z2 n (i + 1) (p * z2 / fxOne)

/-- 2·atanh(a/b) in fixed point: ln((b + a)/(b − a)). -/
def lnRatio (a b : Nat) : Nat :=
  let z := a * fxOne / b
  2 * atanhFrom (z * z / fxOne) 90 0 z

/-- ln 2. -/
def fxLn2 : Nat := lnRatio 1 3

/-- Σ y^i/i! from term i on; `t` is the i-th term. -/
def expFrom (y : Nat) : Nat → Nat → Nat → Nat
  | 0, _, _ => 0
  | n + 1, i, t => t + expFrom y n (i + 1) (t * y / fxOne / (i + 1))

/-- Square n times. -/
def squares : Nat → Nat → Nat
  | 0, x => x
  | n + 1, x => squares n (x * x / fxOne)

/-- e^y for 0 ≤ y, in fixed point: the series at y/2^12, squared twelve times. -/
def fxExp (y : Nat) : Nat := squares 12 (expFrom (y / 2 ^ 12) 40 0 fxOne)

/-- 2^b for b = ±m·2^e, m ≠ 0. -/
def exp2Mag (neg : Bool) (m : Nat) (e : Int) : Mag :=
  let lg : Int := (m.log2 : Int) + e
  if 12 ≤ lg then ⟨1, 1, if neg then -4096 else 4096⟩
  else if lg < -31 then (if neg then ⟨2 ^ 40 - 1, 1, -40⟩ else ⟨2 ^ 40 + 1, 1, -40⟩)
  else
    let fx : Int := ((m * 2 ^ (e + 256).toNat : Nat) : Int)
    let b : Int := if neg then -fx else fx
    let k := b.fdiv (2 ^ 256)
    let f := (b - k * 2 ^ 256).toNat
    if f = 0 then ⟨1, 1, k⟩ else ⟨2 * fxExp (f * fxLn2 / fxOne) + 1, 1, k - 257⟩

/-- log₂ of m·2^e, m ≠ 0: sign and magnitude. -/
def log2Mag (m : Nat) (e : Int) : Bool × Mag :=
  let lg := m.log2
  let k : Int := (lg : Int) + e
  let f := lnRatio (m - 2 ^ lg) (m + 2 ^ lg) * fxOne / fxLn2
  if m = 2 ^ lg then (decide (k < 0), ⟨k.natAbs, 1, 0⟩)
  else
    let t : Int := 2 * (k * 2 ^ 256 + f) + 1
    (decide (t < 0), ⟨t.natAbs, 1, -257⟩)

/-- tanh of m·2^e, m ≠ 0. -/
def tanhMag (m : Nat) (e : Int) : Mag :=
  let lg : Int := (m.log2 : Int) + e
  if lg < -13 then ⟨m * 2 ^ 40 - 1, 1, e - 40⟩
  else if 4 ≤ lg then ⟨2 ^ 40 - 1, 1, -40⟩
  else
    let x := fxExp (m * 2 ^ (e + 257).toNat)
    ⟨x - fxOne, x + fxOne, 0⟩

end Sys2Proof.Machine
end

