-- ==== Sys2Proof/Machine/Operands.lean ====
section
/-! DEFINITION. The operand forms of the words: vector, uniform and predicate names (R36 to R38), pairs (R40), the mode register (R45),
active lanes (R46), elements of a lane (R45, R59), and the writes with the shift of the last-result file (R41). Inside the trap window a
name reaches the window's own registers (R300). -/

namespace Sys2Proof.Machine

/-- A line with one value in every lane. -/
def allLanes (x : Word) : Line := Vector.replicate 32 x

/-- A lane of a line. -/
def laneAt (x : Line) (i : Nat) : Word := (x[i]?).getD 0

namespace Bank

/-- A vector register, operand register or last-result register by its name (R36). -/
def readReg {nv nk : Nat} (b : Bank nv nk) (n : Nat) : Line :=
  if n < 232 then (b.v[n]?).getD (allLanes 0)
  else if n < 240 then (b.o[n - 232]?).getD (allLanes 0)
  else (b.l[n - 240]?).getD (allLanes 0)

/-- Write a vector or operand register. -/
def writeReg {nv nk : Nat} (b : Bank nv nk) (n : Nat) (x : Line) : Bank nv nk :=
  if n < 232 then { b with v := b.v.setIfInBounds n x } else { b with o := b.o.setIfInBounds (n - 232) x }

/-- The last-result file shifts and takes a copy of the destination line (R41). -/
def shiftLast {nv nk : Nat} (b : Bank nv nk) (x : Line) : Bank nv nk :=
  { b with l := #v[x, b.l[0], b.l[1], b.l[2]] }

/-- A uniform register. -/
def readK {nv nk : Nat} (b : Bank nv nk) (n : Nat) : Word := (b.k[n]?).getD 0

/-- Write a uniform register. -/
def writeK {nv nk : Nat} (b : Bank nv nk) (n : Nat) (x : Word) : Bank nv nk := { b with k := b.k.setIfInBounds n x }

/-- A lane predicate; p7 is true in every lane (R38). -/
def readP {nv nk : Nat} (b : Bank nv nk) (n : Nat) : Word := (b.p[n]?).getD 0xFFFFFFFF

/-- Write a lane predicate. -/
def writeP {nv nk : Nat} (b : Bank nv nk) (n : Nat) (x : Word) : Bank nv nk := { b with p := b.p.setIfInBounds n x }

/-- A uniform predicate; q7 is true. -/
def readQ {nv nk : Nat} (b : Bank nv nk) (n : Nat) : Bool := (b.q[n]?).getD true

/-- Write a uniform predicate. -/
def writeQ {nv nk : Nat} (b : Bank nv nk) (n : Nat) (x : Bool) : Bank nv nk := { b with q := b.q.setIfInBounds n x }

end Bank

namespace Group

/-- Change the registers that names reach: the window's in the trap window, else the main ones (R300). -/
def onBank (g : Group) (f : {nv nk : Nat} → Bank nv nk → Bank nv nk) : Group :=
  if g.inWin then { g with win := f g.win } else { g with main := f g.main }

/-- Read from the registers that names reach. -/
def fromBank {α : Type} (g : Group) (f : {nv nk : Nat} → Bank nv nk → α) : α := if g.inWin then f g.win else f g.main

/-- MD (R45). -/
def md (g : Group) : Half := g.fromBank fun b => b.md
/-- ETY, RND, SAT, FTZ and GRD of MD (R45). -/
def ety (g : Group) : Nat := g.md.toNat / 16 % 16
def rnd (g : Group) : Nat := g.md.toNat / 256 % 8
def sat (g : Group) : Bool := g.md.getLsbD 11
def ftz (g : Group) : Bool := g.md.getLsbD 12
def grd (g : Group) : Nat := g.md.toNat % 16
/-- The current lane set C. -/
def lanes (g : Group) : Word := g.fromBank fun b => b.c
/-- The group's index in its block, GIX (R9). -/
def gix (g : Group) : Nat := g.gid % 512
/-- The block's index and the launch ordinal (R9). -/
def blk (g : Group) : Nat := g.gid / 512 % 2 ^ 31
def lord (g : Group) : Nat := g.gid / 2 ^ 40

/-- A vector name as a source (R36). -/
def readV (g : Group) (n : BitVec 8) : Line :=
  let i := n.toNat
  if i < 244 then g.fromBank fun b => b.readReg i
  else if i = 253 then Vector.ofFn fun (j : Fin 32) => BitVec.ofNat 32 j.val
  else if i = 254 then allLanes (BitVec.ofNat 32 g.gix)
  else allLanes 0

/-- The register after n. -/
def nextV (n : BitVec 8) : BitVec 8 := n + 1

/-- A uniform name as a source; `kz` reads 0 (R37). -/
def readK (g : Group) (n : BitVec 8) : Word := if n.toNat < 160 then g.fromBank fun b => b.readK n.toNat else 0

/-- A uniform pair (R37). -/
def readKK (g : Group) (n : BitVec 8) : Dword := g.readK (n + 1) ++ g.readK n

/-- Write a uniform register; `kz` discards. -/
def writeK (g : Group) (n : BitVec 8) (x : Word) : Group :=
  if n.toNat < 160 then g.onBank fun b => b.writeK n.toNat x else g

/-- Write a uniform pair. -/
def writeKK (g : Group) (n : BitVec 8) (x : Dword) : Group :=
  (g.writeK n (x.extractLsb' 0 32)).writeK (n + 1) (x.extractLsb' 32 32)

/-- A P field of lane predicates, inverted by INV (R38). -/
def readP (g : Group) (f : Nat) : Word :=
  let x := g.fromBank fun b => b.readP (f % 8)
  if f / 8 % 2 = 1 then ~~~x else x

/-- A P field of uniform predicates. -/
def readQ (g : Group) (f : Nat) : Bool :=
  let x := g.fromBank fun b => b.readQ (f % 8)
  if f / 8 % 2 = 1 then !x else x

/-- Write a lane predicate in the lanes of a mask. -/
def writeP (g : Group) (n : Nat) (mask x : Word) : Group :=
  g.onBank fun b => b.writeP (n % 8) ((b.readP (n % 8) &&& ~~~mask) ||| (x &&& mask))

/-- Write a uniform predicate. -/
def writeQ (g : Group) (n : Nat) (x : Bool) : Group := g.onBank fun b => b.writeQ (n % 8) x

/-- The active lanes (R46). -/
def active (g : Group) : Word := g.lanes &&& g.readP g.grd

/-- Write the lanes of a mask of one register, and shift the last-result file (R41). -/
def writeV (g : Group) (n : BitVec 8) (mask : Word) (x : Line) : Group :=
  let old := g.readV n
  let new : Line := Vector.ofFn fun (j : Fin 32) => if mask.getLsbD j.val then x[j.val] else old[j.val]
  g.onBank fun b => (b.writeReg n.toNat new).shiftLast new

end Group

/-! ### Elements -/

/-- The width of an element by ETY (R45). -/
def etyBits : Nat → Nat
  | 3 | 4 | 5 => 16
  | 6 => 8
  | 7 | 8 => 64
  | _ => 32

/-- The types read as signed (R133). -/
def etySigned (t : Nat) : Bool := t == 0 || t == 5 || t == 6 || t == 7

/-- The classes of R133. -/
def isInt (t : Nat) : Bool := t == 0 || t == 1 || t == 5 || t == 6 || t == 7 || t == 8
def isW32 (t : Nat) : Bool := t == 0 || t == 1
def isCmpI (t : Nat) : Bool := t == 0 || t == 1 || t == 7 || t == 8
def isFlt (t : Nat) : Bool := t == 2 || t == 3 || t == 4
def isF32 (t : Nat) : Bool := t == 2
def isPairF (t : Nat) : Bool := t == 3 || t == 4
def isI8Q (t : Nat) : Bool := t == 6
def isAny (_ : Nat) : Bool := true
/-- The types of 64 bits (R40). -/
def isWide (t : Nat) : Bool := t == 7 || t == 8

/-- The format of a floating element type. -/
def etyFmt (t : Nat) : Fmt := fmtOf (if t = 3 then 2 else if t = 4 then 1 else 0)

/-- A vector name that R40 accepts as a pair; `dst` for a destination. -/
def pairOk (dst : Bool) (n : BitVec 8) : Bool :=
  let i := n.toNat
  (i < 231 && i % 2 == 0) || (232 ≤ i && i < 240 && i % 2 == 0) || (!dst && (i == 240 || i == 242 || (252 ≤ i && i < 255)))

/-- A uniform name that R40 accepts as a pair. -/
def kPairOk (n : BitVec 8) : Bool := (n.toNat < 159 && n.toNat % 2 == 0) || n.toNat == 248

/-- A vector operand of one lane: 32 bits zero-extended, or a pair (R40). -/
def Group.laneV (g : Group) (wide : Bool) (n : BitVec 8) (j : Nat) : Dword :=
  let lo := laneAt (g.readV n) j
  if wide && n.toNat < 244 then laneAt (g.readV (n + 1)) j ++ lo else lo.setWidth 64

/-- A uniform operand, broadcast: 32 bits zero-extended, or a pair. -/
def Group.laneK (g : Group) (wide : Bool) (n : BitVec 8) : Dword :=
  if wide && n.toNat < 160 then g.readKK n else (g.readK n).setWidth 64

/-- Write a result of one lane each: one register, or a pair with two shifts, the high register first (R41). -/
def Group.writeLanes (g : Group) (wide : Bool) (n : BitVec 8) (mask : Word) (x : Vector Dword 32) : Group :=
  let lo : Line := x.map fun y => y.extractLsb' 0 32
  if wide then (g.writeV (n + 1) mask (x.map fun y => y.extractLsb' 32 32)).writeV n mask lo else g.writeV n mask lo

/-- Element e of width n of a lane. -/
def elemOf (n : Nat) (x : Dword) (e : Nat) : Nat := x.toNat / 2 ^ (n * e) % 2 ^ n

/-- The elements of a lane worked one by one and put together; flags are ORed. -/
def perElem (n : Nat) (f : Nat → Nat × FFlags) : Dword × FFlags :=
  (List.range (if n = 64 then 1 else 32 / n)).foldl
    (fun acc e => let r := f e; (acc.1 ||| BitVec.ofNat 64 (r.1 % 2 ^ n * 2 ^ (n * e)), acc.2 ||| r.2)) (0, 0)

/-- A condition code of `cmp` and `kcmp` on integers (R48): `s` compares as the type says, `u` unsigned. -/
def condHolds (c : Nat) (sx sy : Int) (ux uy : Nat) : Bool :=
  match c with
  | 0 => ux == uy
  | 1 => ux != uy
  | 2 => decide (sx < sy)
  | 3 => decide (sx ≤ sy)
  | 4 => decide (sy < sx)
  | 5 => decide (sy ≤ sx)
  | 6 => decide (ux < uy)
  | 7 => decide (ux ≤ uy)
  | 8 => decide (uy < ux)
  | _ => decide (uy ≤ ux)

/-- The lanes of a mask, lowest first. -/
def lanesOf (m : Word) : List Nat := (List.range 32).filter fun j => m.getLsbD j

/-- A mask from a predicate on lanes. -/
def maskOf (f : Nat → Bool) : Word :=
  (List.range 32).foldl (fun m j => if f j then m ||| (1 <<< j) else m) 0

end Sys2Proof.Machine
end

