-- ==== Sys2Proof/Machine/Flags.lean ====
section
/-! DEFINITION. The flags: FPFLAGS of R69, FLG of the frame (R299) and FSTAT (R349). -/

namespace Sys2Proof.Machine

/-- A retiring float instruction ORs the flags of its active lanes into FPFLAGS (R69). -/
def Group.orFlags (g : Group) (f : FFlags) : Group := { g with fpflags := g.fpflags ||| f }

/-- FSTAT with ANY recomputed from bits [4:1] (R349, R354). -/
def fstatAny (x : Word) : Word := (x &&& 0xFFFFFFFE) ||| (if x &&& 0x1E = 0 then 0 else 1)

/-- `fclr`: each field in which the operand has a bit set is cleared whole (R349, R354). -/
def fstatClear (x k : Word) : Word :=
  let x := if k &&& 0xFC000000 = 0 then x else x &&& ~~~(0xFC000000 : Word)
  let x := if k &&& 0xFF00 = 0 then x else x &&& ~~~(0xFF00 : Word)
  fstatAny (x &&& ~~~(k &&& 0x1E))

/-- The bits of FSTAT that are not reserved (R349). -/
def fstatMask : Word := 0xFC00FF1F

/-- A failed operation of a group towards module m (R347, R349): `bit` is LOSTL 1, LOSTA 2 or LOSTW 3. PEER takes the first failure, SUSP
alone being none (DEDUCED, log 45). -/
def fstatFail (x : Word) (m bit : Nat) : Word :=
  let x := if x &&& 0xFFFFFFEE = 0 then x ||| BitVec.ofNat 32 (m % 64 * 2 ^ 26) else x
  let c := x.toNat / 256 % 256
  let x := if c < 255 then x + 0x100 else x
  fstatAny (x ||| BitVec.ofNat 32 (2 ^ bit))

/-- SUSP set (R347). -/
def fstatSusp (x : Word) : Word := fstatAny (x ||| 0x10)

/-- FLG of the frame header (R299). -/
def Group.flg (g : Group) : Byte :=
  BitVec.ofNat 8 ((if (if g.inWin then g.frame.cmask else g.cmask) = 0 then 0 else 32) + (if g.inWin then 16 else 0) + (if g.sys then 8 else 0)
    + (if g.frame.lit then 4 else 0) + g.frame.vsc)

/-- The code of a view scope in FLG.VSC. -/
def vscCode : Option (Stamp × Scope) → Nat
  | some (_, .device) => 1
  | some (_, .system) => 2
  | _ => 0

end Sys2Proof.Machine
end

