-- ==== Sys2Proof/Machine/Ops.lean ====
section
/-! DEFINITION. The shared operations of every word: issue with its checks (R54, R55, R300), retirement (R79), taking a trap (R296,
R299, R301) and returning from one (R304). -/

namespace Sys2Proof.Machine

/-- A word at issue, with the `lit` before it (R49). -/
structure Iss where
  i : Instr
  lit : Option (BitVec 24)
  deriving DecidableEq, Repr

/-- The bytes a word takes with its `lit`. -/
def issLen (w : Iss) : Nat := if w.lit.isSome then 8 else 4

/-- The context identity of CTXID (R254). -/
def ctxId (c : Ctx) : Word := 0#4 ++ c.dpart ++ c.number

/-- The same as a number: it names the context in packets (R334) and to the host. -/
def Ctx.key (c : Ctx) : Nat := c.number.toNat + 2 ^ 24 * c.dpart.toNat

/-- The virtual address of a group's image (R297). -/
def imageOff (g : Group) : Nat := 2 ^ 18 * (256 * g.core + 32 * g.part + g.slot)
def imageVA (g : Group) : Nat := 2 ^ 40 + imageOff g

/-- The number of the source that reports an event kind or a log class: 64 × module + 16 × die + unit (R370; DESIGN CHOICE, log 42). -/
def sourceOf (h : Module) (kind : Nat) : Nat := 64 * h.number + Config.reportUnit kind % 64

/-- Log an entry (R295). -/
def Cpu.logs (c : Cpu) (cls code : Nat) (detail : Dword) : Cpu :=
  { c with hw := { c.hw with log := c.hw.log ++ [⟨sourceOf c.hw cls, cls, code, ctxId c.ctx, detail⟩] } }

/-- Put an event on its way to the event queue of the context's device partition (R292, R369). -/
def Cpu.event (c : Cpu) (kind gid vaddr tlpa : Nat) : Cpu :=
  { c with hw := { c.hw with events := c.hw.events ++
      [⟨sourceOf c.hw kind, c.ctx.dpart.toNat, ctxId c.ctx, kind, gid, BitVec.ofNat 64 vaddr, BitVec.ofNat 64 tlpa⟩] } }

/-- The context stops at once. -/
def Cpu.suspend (c : Cpu) : Cpu := { c with ctx := { c.ctx with status := .suspended, imaged := false } }

/-- A machine check or fabric event: kind 10 and a log entry (R295, R369). -/
def Cpu.machineCheck (c : Cpu) (cls code : Nat) (detail : Dword) : Cpu :=
  (c.logs cls code detail).event 10 0 0 (256 * cls + code)

/-- The frame that a trap writes (R299). Classes 9 to 15 record no word, and classes 1, 6, 7 and 8 no completed lanes (R315). -/
def trapFrame (g : Group) (word : Word) (lit : Option (BitVec 24)) (t : Trap) (nmore : Nat) : Frame where
  pc := g.pc
  pcEntry := g.pc
  lc := BitVec.ofNat 64 g.lc
  vlc := match g.view with | some (v, _) => BitVec.ofNat 64 v.lc | none => 0
  vgid := match g.view with | some (v, _) => BitVec.ofNat 64 v.gid | none => 0
  vsc := vscCode g.view
  cls := BitVec.ofNat 8 t.cls
  code := BitVec.ofNat 16 t.code
  word := if 9 ≤ t.cls then 0 else word
  lit := lit.isSome
  ext := lit.getD 0
  faddr := t.faddr
  fmask := t.fmask
  cmask := if t.cls = 1 || (6 ≤ t.cls && t.cls ≤ 8) then 0 else g.cmask
  nmore := BitVec.ofNat 32 nmore
  info0 := t.info0
  info1 := t.info1

/-- Entry to the trap window, steps 2 to 5 of R301; the frame is written. -/
def Group.enterWindow (g : Group) (f : Frame) : Group :=
  let a := BitVec.ofNat 64 (imageVA g)
  let k := ((g.win.k.setIfInBounds 0 (a.extractLsb' 0 32)).setIfInBounds 1 (a.extractLsb' 32 32)).setIfInBounds 2
    (f.code ++ 0#8 ++ f.cls)
  { g with
    frame := f
    cmask := 0
    inWin := true
    pc := g.trapv &&& ~~~(3 : Dword)
    win := { g.win with k := k, md := 7, c := 0xFFFFFFFF, stack := [] } }

/-- Taking a user-level trap (R296): nested in the window, unhandled without a handler, else into the window. LC does not change. -/
def Cpu.trapWith (c : Cpu) (word : Word) (lit : Option (BitVec 24)) (t : Trap) (nmore : Nat) : Cpu :=
  let g := { c.grp with fills := [], status := .running, bulk := false }
  if g.inWin then ({ c with grp := g }.logs 38 t.cls 0).suspend
  else
    let f := trapFrame g word lit t nmore
    if g.trapv >>> 2 = 0 then ({ c with grp := { g with frame := f, cmask := f.cmask } }.logs 39 t.cls 0).suspend
    else { c with grp := g.enterWindow f }

/-- A trap on the word at issue (R294, R50). -/
def Cpu.trap (c : Cpu) (w : Iss) (t : Trap) : Cpu := c.trapWith (wordOf w.i) w.lit t 0

/-- The traps that report the PC (R295). -/
def pcTrap (g : Group) (cls code : Nat) : Trap := ⟨cls, code, g.pc, 0, 0, 0⟩
/-- Class 1 with the failing check of R54. -/
def illegalTrap (g : Group) (code : Nat) : Trap := pcTrap g 1 code
/-- Class 6 with its cause. -/
def modeTrap (g : Group) (code : Nat) : Trap := pcTrap g 6 code
/-- Class 7. -/
def privTrap (g : Group) : Trap := pcTrap g 7 1
/-- A trap on an address with the failing lanes. -/
def addrTrap (cls code addr : Nat) (lanes : Word) : Trap := ⟨cls, code, BitVec.ofNat 64 addr, lanes, 0, 0⟩

/-- Retirement (R79): the weight, the PC after the word, no completed lanes (R305). -/
def Group.retire (g : Group) (w : Iss) : Group :=
  { g with pc := g.pc + BitVec.ofNat 64 (issLen w), lc := g.lc + weight w.i, cmask := 0, fills := [], bulk := false, status := .running }

/-- Retirement of a control transfer. -/
def Group.retireTo (g : Group) (w : Iss) (pc : Dword) : Group := { g.retire w with pc := pc }

/-- Retire, with the group as an instruction left it. -/
def Cpu.retire (c : Cpu) (w : Iss) (g : Group) : Cpu := { c with grp := g.retire w }

/-- A meaning of a word on the group in hand: memory is only read. -/
abbrev Meaning := Cells → Iss → Cpu → Cpu

/-- Issue of a word (R54, R55): its operands' checks, then privilege, then the names that the trap window lacks (R300), then `k`. -/
def issueCpu (pre : Group → Option Trap) (k : Meaning) (m : Cells) (w : Iss) (c : Cpu) : Cpu :=
  match illegalCode w.i with
  | some code => c.trap w (illegalTrap c.grp code)
  | none =>
    match pre c.grp with
    | some t => c.trap w t
    | none => if c.grp.inWin && !windowOk w.i then c.trap w (modeTrap c.grp 11) else k m w c

/-- No check before the names. -/
def noPre (_ : Group) : Option Trap := none

/-- System level is required (R249). -/
def sysPre (g : Group) : Option Trap := if g.sys then none else some (privTrap g)

/-- One word of the group in hand. -/
def issue (pre : Group → Option Trap) (k : Meaning) (i : Instr) (s : State) : Host.Outcome State Fault Refusal :=
  .next { s with cpu := issueCpu pre k s.mem ⟨i, none⟩ s.cpu }

/-- Return from the trap window (R304), after `rfe` has retired. -/
def Group.leaveWindow (g : Group) : Group :=
  { g with
    pc := g.frame.pc
    inWin := false
    cmask := if g.frame.pc = g.frame.pcEntry then g.frame.cmask else 0
    frame := { g.frame with cls := 0, code := 0, cmask := 0 } }

end Sys2Proof.Machine
end

