-- ==== Sys2Proof/Machine/VectorInt.lean ====
section
/-! DEFINITION. Vector integer and logic instructions, first bytes 0x00 to 0x34 (R132 to R139). -/

namespace Sys2Proof.Machine

/-- The b field: a vector name (VV) or a uniform name whose value is broadcast (VK) (R44). -/
inductive Src where
  | v (n : BitVec 8)
  | k (n : BitVec 8)
  deriving DecidableEq, Repr

/-- The value of a b operand in a lane (R132). -/
def srcLane (g : Group) (wide : Bool) (b : Src) (j : Nat) : Dword :=
  match b with
  | .v n => g.laneV wide n j
  | .k n => g.laneK wide n

/-- The b operand names a pair (R40). -/
def srcPair (b : Src) : Bool :=
  match b with
  | .v n => pairOk false n
  | .k n => kPairOk n

/-- The mode check of R47: the element type is accepted, and under i64 and u64 the operands name pairs. -/
def modeOk (g : Group) (ok : Nat → Bool) (pairs : Bool) : Bool := ok g.ety && (!isWide g.ety || pairs)

/-- A vector ALU instruction that sets no flag (R132): `f` gives a lane's result from the operands a, b and d. -/
def vecOp (ok : Nat → Bool) (d a : BitVec 8) (b : Src) (f : Group → Dword → Dword → Dword → Dword) : Meaning := fun _ w c =>
  let g := c.grp
  let wide := isWide g.ety
  if modeOk g ok (pairOk true d && pairOk false a && srcPair b) then
    c.retire w (g.writeLanes wide d g.active
      (Vector.ofFn fun (j : Fin 32) => f g (g.laneV wide a j) (srcLane g wide b j) (g.laneV wide d j)))
  else c.trap w (modeTrap g 1)

/-- Per element of the lane under ETY: the width, whether signed, SAT, and the elements of a, b and d (R132). -/
def intLane (op : Nat → Bool → Bool → Nat → Nat → Nat → Nat) (g : Group) (x y z : Dword) : Dword :=
  let n := etyBits g.ety
  (perElem n fun e => (op n (etySigned g.ety) g.sat (elemOf n x e) (elemOf n y e) (elemOf n z e), 0)).1

/-! ### Element results of R134 to R136 -/

def eAdd (n : Nat) (sg sat : Bool) (a b _ : Nat) : Nat := fitI n sg sat (toI n sg a + toI n sg b)
def eSub (n : Nat) (sg sat : Bool) (a b _ : Nat) : Nat := fitI n sg sat (toI n sg a - toI n sg b)
def eMul (n : Nat) (sg sat : Bool) (a b _ : Nat) : Nat := fitI n sg sat (toI n sg a * toI n sg b)
def eMulh (n : Nat) (sg _ : Bool) (a b _ : Nat) : Nat := wrapI n (toI n sg a * toI n sg b / 2 ^ n)
def eMad (n : Nat) (sg sat : Bool) (a b d : Nat) : Nat := fitI n sg sat (toI n sg a * toI n sg b + toI n sg d)
def eMin (n : Nat) (sg _ : Bool) (a b _ : Nat) : Nat := if toI n sg a ≤ toI n sg b then a else b
def eMax (n : Nat) (sg _ : Bool) (a b _ : Nat) : Nat := if toI n sg a ≤ toI n sg b then b else a
def eAbs (n : Nat) (sg sat : Bool) (_ b _ : Nat) : Nat := fitI n sg sat (toI n sg b).natAbs
def eNeg (n : Nat) (sg sat : Bool) (_ b _ : Nat) : Nat := fitI n sg sat (-toI n sg b)
def eShl (n : Nat) (_ _ : Bool) (a b _ : Nat) : Nat := if n ≤ b then 0 else a * 2 ^ b
def eShr (n : Nat) (_ _ : Bool) (a b _ : Nat) : Nat := if n ≤ b then 0 else a / 2 ^ b
def eSar (n : Nat) (_ _ : Bool) (a b _ : Nat) : Nat := wrapI n (toI n true a / 2 ^ (if n ≤ b then n - 1 else b))
def eRot (n : Nat) (_ _ : Bool) (a b _ : Nat) : Nat := a * 2 ^ (b % n) + a / 2 ^ (n - b % n)
def eClz (n : Nat) (_ _ : Bool) (_ b _ : Nat) : Nat := if b = 0 then n else n - 1 - b.log2
def ePopc (n : Nat) (_ _ : Bool) (_ b _ : Nat) : Nat := ((List.range n).filter fun i => b.testBit i).length
def eBrev (n : Nat) (_ _ : Bool) (_ b _ : Nat) : Nat :=
  (List.range n).foldl (fun s i => if b.testBit i then s + 2 ^ (n - 1 - i) else s) 0
/-- The effective length of the field that b names (R136). -/
def fieldLen (b : Nat) : Nat := min (b / 256 % 64) (32 - b % 32)
def eBfx (n : Nat) (sg _ : Bool) (a b _ : Nat) : Nat :=
  let l := fieldLen b
  if l = 0 then 0 else wrapI n (toI l sg (a / 2 ^ (b % 32)))
def eBfi (_ : Nat) (_ _ : Bool) (a b d : Nat) : Nat :=
  let l := fieldLen b
  let p := b % 32
  d % 2 ^ p + a % 2 ^ l * 2 ^ p + d / 2 ^ (p + l) * 2 ^ (p + l)

/-! ### Bitwise results, on whole lanes or pairs -/

def wAnd (_ : Group) (a b _ : Dword) : Dword := a &&& b
def wOr (_ : Group) (a b _ : Dword) : Dword := a ||| b
def wXor (_ : Group) (a b _ : Dword) : Dword := a ^^^ b
def wAndn (_ : Group) (a b _ : Dword) : Dword := a &&& ~~~b
def wNot (_ : Group) (_ b _ : Dword) : Dword := ~~~b
def wMov (_ : Group) (_ b _ : Dword) : Dword := b

/-- `cmp` (R137): the condition, the predicate, the operands. -/
def cmpOp (d a : BitVec 8) (b : Src) : Meaning := fun _ w c =>
  let g := c.grp
  let wide := isWide g.ety
  if modeOk g isCmpI (pairOk false a && srcPair b) then
    let n := etyBits g.ety
    let holds := fun j : Nat =>
      let x := (g.laneV wide a j).toNat % 2 ^ n
      let y := (srcLane g wide b j).toNat % 2 ^ n
      condHolds (d.toNat / 16) (toI n (etySigned g.ety) x) (toI n (etySigned g.ety) y) x y
    c.retire w (g.writeP d.toNat g.active (maskOf holds))
  else c.trap w (modeTrap g 1)

/-- `sel` (R138): in the lanes of C, a where the guard is true, else b. -/
def selOp (d a : BitVec 8) (b : Src) : Meaning := fun _ w c =>
  let g := c.grp
  let wide := isWide g.ety
  if modeOk g isAny (pairOk true d && pairOk false a && srcPair b) then
    let guard := g.readP g.grd
    c.retire w (g.writeLanes wide d g.lanes
      (Vector.ofFn fun (j : Fin 32) => if guard.getLsbD j then g.laneV wide a j else srcLane g wide b j))
  else c.trap w (modeTrap g 1)

/-- The immediate of a W form (R35, R49): sign-extended, or 32 bits with a `lit`. -/
def wImm (w : Iss) (imm : BitVec 16) : Word :=
  match w.lit with
  | some l => l.extractLsb' 0 16 ++ imm
  | none => imm.signExtend 32

/-- `movi` (R139). -/
def moviOp (d : BitVec 8) (imm : BitVec 16) : Meaning := fun _ w c =>
  c.retire w (c.grp.writeV d c.grp.active (allLanes (wImm w imm)))

/-! ### One meaning per word -/

/-- `add` (R134). -/
def execAdd (d a b : BitVec 8) (s : State) : Host.Outcome State Fault Refusal :=
  issue noPre (vecOp isInt d a (.v b) (intLane eAdd)) (.add d a b) s
/-- `add` VK (R134). -/
def execAddVk (d a b : BitVec 8) (s : State) : Host.Outcome State Fault Refusal :=
  issue noPre (vecOp isInt d a (.k b) (intLane eAdd)) (.addVk d a b) s
/-- `sub` (R134). -/
def execSub (d a b : BitVec 8) (s : State) : Host.Outcome State Fault Refusal :=
  issue noPre (vecOp isInt d a (.v b) (intLane eSub)) (.sub d a b) s
/-- `sub` VK (R134). -/
def execSubVk (d a b : BitVec 8) (s : State) : Host.Outcome State Fault Refusal :=
  issue noPre (vecOp isInt d a (.k b) (intLane eSub)) (.subVk d a b) s
/-- `mul` (R134). -/
def execMul (d a b : BitVec 8) (s : State) : Host.Outcome State Fault Refusal :=
  issue noPre (vecOp isInt d a (.v b) (intLane eMul)) (.mul d a b) s
/-- `mul` VK (R134). -/
def execMulVk (d a b : BitVec 8) (s : State) : Host.Outcome State Fault Refusal :=
  issue noPre (vecOp isInt d a (.k b) (intLane eMul)) (.mulVk d a b) s
/-- `mulh` (R134). -/
def execMulh (d a b : BitVec 8) (s : State) : Host.Outcome State Fault Refusal :=
  issue noPre (vecOp isInt d a (.v b) (intLane eMulh)) (.mulh d a b) s
/-- `mulh` VK (R134). -/
def execMulhVk (d a b : BitVec 8) (s : State) : Host.Outcome State Fault Refusal :=
  issue noPre (vecOp isInt d a (.k b) (intLane eMulh)) (.mulhVk d a b) s
/-- `mad` (R134). -/
def execMad (d a b : BitVec 8) (s : State) : Host.Outcome State Fault Refusal :=
  issue noPre (vecOp isInt d a (.v b) (intLane eMad)) (.mad d a b) s
/-- `mad` VK (R134). -/
def execMadVk (d a b : BitVec 8) (s : State) : Host.Outcome State Fault Refusal :=
  issue noPre (vecOp isInt d a (.k b) (intLane eMad)) (.madVk d a b) s
/-- `min` (R134). -/
def execMin (d a b : BitVec 8) (s : State) : Host.Outcome State Fault Refusal :=
  issue noPre (vecOp isInt d a (.v b) (intLane eMin)) (.minV d a b) s
/-- `min` VK (R134). -/
def execMinVk (d a b : BitVec 8) (s : State) : Host.Outcome State Fault Refusal :=
  issue noPre (vecOp isInt d a (.k b) (intLane eMin)) (.minVk d a b) s
/-- `max` (R134). -/
def execMax (d a b : BitVec 8) (s : State) : Host.Outcome State Fault Refusal :=
  issue noPre (vecOp isInt d a (.v b) (intLane eMax)) (.maxV d a b) s
/-- `max` VK (R134). -/
def execMaxVk (d a b : BitVec 8) (s : State) : Host.Outcome State Fault Refusal :=
  issue noPre (vecOp isInt d a (.k b) (intLane eMax)) (.maxVk d a b) s
/-- `abs` (R134). -/
def execAbs (d b : BitVec 8) (s : State) : Host.Outcome State Fault Refusal :=
  issue noPre (vecOp isInt d 252 (.v b) (intLane eAbs)) (.absV d b) s
/-- `abs` VK (R134). -/
def execAbsVk (d b : BitVec 8) (s : State) : Host.Outcome State Fault Refusal :=
  issue noPre (vecOp isInt d 252 (.k b) (intLane eAbs)) (.absVk d b) s
/-- `neg` (R134). -/
def execNeg (d b : BitVec 8) (s : State) : Host.Outcome State Fault Refusal :=
  issue noPre (vecOp isInt d 252 (.v b) (intLane eNeg)) (.negV d b) s
/-- `neg` VK (R134). -/
def execNegVk (d b : BitVec 8) (s : State) : Host.Outcome State Fault Refusal :=
  issue noPre (vecOp isInt d 252 (.k b) (intLane eNeg)) (.negVk d b) s
/-- `and` (R134). -/
def execAnd (d a b : BitVec 8) (s : State) : Host.Outcome State Fault Refusal :=
  issue noPre (vecOp isAny d a (.v b) wAnd) (.andV d a b) s
/-- `and` VK (R134). -/
def execAndVk (d a b : BitVec 8) (s : State) : Host.Outcome State Fault Refusal :=
  issue noPre (vecOp isAny d a (.k b) wAnd) (.andVk d a b) s
/-- `or` (R134). -/
def execOr (d a b : BitVec 8) (s : State) : Host.Outcome State Fault Refusal :=
  issue noPre (vecOp isAny d a (.v b) wOr) (.orV d a b) s
/-- `or` VK (R134). -/
def execOrVk (d a b : BitVec 8) (s : State) : Host.Outcome State Fault Refusal :=
  issue noPre (vecOp isAny d a (.k b) wOr) (.orVk d a b) s
/-- `xor` (R134). -/
def execXor (d a b : BitVec 8) (s : State) : Host.Outcome State Fault Refusal :=
  issue noPre (vecOp isAny d a (.v b) wXor) (.xorV d a b) s
/-- `xor` VK (R134). -/
def execXorVk (d a b : BitVec 8) (s : State) : Host.Outcome State Fault Refusal :=
  issue noPre (vecOp isAny d a (.k b) wXor) (.xorVk d a b) s
/-- `andn` (R134). -/
def execAndn (d a b : BitVec 8) (s : State) : Host.Outcome State Fault Refusal :=
  issue noPre (vecOp isAny d a (.v b) wAndn) (.andn d a b) s
/-- `andn` VK (R134). -/
def execAndnVk (d a b : BitVec 8) (s : State) : Host.Outcome State Fault Refusal :=
  issue noPre (vecOp isAny d a (.k b) wAndn) (.andnVk d a b) s
/-- `not` (R134). -/
def execNot (d b : BitVec 8) (s : State) : Host.Outcome State Fault Refusal :=
  issue noPre (vecOp isAny d 252 (.v b) wNot) (.notV d b) s
/-- `not` VK (R134). -/
def execNotVk (d b : BitVec 8) (s : State) : Host.Outcome State Fault Refusal :=
  issue noPre (vecOp isAny d 252 (.k b) wNot) (.notVk d b) s
/-- `shl` (R134, R135). -/
def execShl (d a b : BitVec 8) (s : State) : Host.Outcome State Fault Refusal :=
  issue noPre (vecOp isInt d a (.v b) (intLane eShl)) (.shl d a b) s
/-- `shl` VK (R134, R135). -/
def execShlVk (d a b : BitVec 8) (s : State) : Host.Outcome State Fault Refusal :=
  issue noPre (vecOp isInt d a (.k b) (intLane eShl)) (.shlVk d a b) s
/-- `shr` (R134, R135). -/
def execShr (d a b : BitVec 8) (s : State) : Host.Outcome State Fault Refusal :=
  issue noPre (vecOp isInt d a (.v b) (intLane eShr)) (.shr d a b) s
/-- `shr` VK (R134, R135). -/
def execShrVk (d a b : BitVec 8) (s : State) : Host.Outcome State Fault Refusal :=
  issue noPre (vecOp isInt d a (.k b) (intLane eShr)) (.shrVk d a b) s
/-- `sar` (R134, R135). -/
def execSar (d a b : BitVec 8) (s : State) : Host.Outcome State Fault Refusal :=
  issue noPre (vecOp isInt d a (.v b) (intLane eSar)) (.sar d a b) s
/-- `sar` VK (R134, R135). -/
def execSarVk (d a b : BitVec 8) (s : State) : Host.Outcome State Fault Refusal :=
  issue noPre (vecOp isInt d a (.k b) (intLane eSar)) (.sarVk d a b) s
/-- `rot` (R134, R135). -/
def execRot (d a b : BitVec 8) (s : State) : Host.Outcome State Fault Refusal :=
  issue noPre (vecOp isInt d a (.v b) (intLane eRot)) (.rot d a b) s
/-- `rot` VK (R134, R135). -/
def execRotVk (d a b : BitVec 8) (s : State) : Host.Outcome State Fault Refusal :=
  issue noPre (vecOp isInt d a (.k b) (intLane eRot)) (.rotVk d a b) s
/-- `clz` (R134). -/
def execClz (d b : BitVec 8) (s : State) : Host.Outcome State Fault Refusal :=
  issue noPre (vecOp isInt d 252 (.v b) (intLane eClz)) (.clz d b) s
/-- `clz` VK (R134). -/
def execClzVk (d b : BitVec 8) (s : State) : Host.Outcome State Fault Refusal :=
  issue noPre (vecOp isInt d 252 (.k b) (intLane eClz)) (.clzVk d b) s
/-- `popc` (R134). -/
def execPopc (d b : BitVec 8) (s : State) : Host.Outcome State Fault Refusal :=
  issue noPre (vecOp isInt d 252 (.v b) (intLane ePopc)) (.popc d b) s
/-- `popc` VK (R134). -/
def execPopcVk (d b : BitVec 8) (s : State) : Host.Outcome State Fault Refusal :=
  issue noPre (vecOp isInt d 252 (.k b) (intLane ePopc)) (.popcVk d b) s
/-- `brev` (R134). -/
def execBrev (d b : BitVec 8) (s : State) : Host.Outcome State Fault Refusal :=
  issue noPre (vecOp isInt d 252 (.v b) (intLane eBrev)) (.brev d b) s
/-- `brev` VK (R134). -/
def execBrevVk (d b : BitVec 8) (s : State) : Host.Outcome State Fault Refusal :=
  issue noPre (vecOp isInt d 252 (.k b) (intLane eBrev)) (.brevVk d b) s
/-- `bfx` (R136). -/
def execBfx (d a b : BitVec 8) (s : State) : Host.Outcome State Fault Refusal :=
  issue noPre (vecOp isW32 d a (.v b) (intLane eBfx)) (.bfx d a b) s
/-- `bfx` VK (R136). -/
def execBfxVk (d a b : BitVec 8) (s : State) : Host.Outcome State Fault Refusal :=
  issue noPre (vecOp isW32 d a (.k b) (intLane eBfx)) (.bfxVk d a b) s
/-- `bfi` (R136). -/
def execBfi (d a b : BitVec 8) (s : State) : Host.Outcome State Fault Refusal :=
  issue noPre (vecOp isW32 d a (.v b) (intLane eBfi)) (.bfi d a b) s
/-- `bfi` VK (R136). -/
def execBfiVk (d a b : BitVec 8) (s : State) : Host.Outcome State Fault Refusal :=
  issue noPre (vecOp isW32 d a (.k b) (intLane eBfi)) (.bfiVk d a b) s
/-- `sel` (R138). -/
def execSel (d a b : BitVec 8) (s : State) : Host.Outcome State Fault Refusal :=
  issue noPre (selOp d a (.v b)) (.sel d a b) s
/-- `sel` VK (R138). -/
def execSelVk (d a b : BitVec 8) (s : State) : Host.Outcome State Fault Refusal :=
  issue noPre (selOp d a (.k b)) (.selVk d a b) s
/-- `mov` (R134). -/
def execMov (d b : BitVec 8) (s : State) : Host.Outcome State Fault Refusal :=
  issue noPre (vecOp isAny d 252 (.v b) wMov) (.mov d b) s
/-- `movk` (R134). -/
def execMovk (d b : BitVec 8) (s : State) : Host.Outcome State Fault Refusal :=
  issue noPre (vecOp isAny d 252 (.k b) wMov) (.movk d b) s
/-- `cmp` (R137). -/
def execCmp (d a b : BitVec 8) (s : State) : Host.Outcome State Fault Refusal :=
  issue noPre (cmpOp d a (.v b)) (.cmp d a b) s
/-- `cmp` VK (R137). -/
def execCmpVk (d a b : BitVec 8) (s : State) : Host.Outcome State Fault Refusal :=
  issue noPre (cmpOp d a (.k b)) (.cmpVk d a b) s
/-- `movi` (R139). -/
def execMovi (d : BitVec 8) (imm : BitVec 16) (s : State) : Host.Outcome State Fault Refusal :=
  issue noPre (moviOp d imm) (.movi d imm) s

end Sys2Proof.Machine
end

