-- ==== Sys2Proof/Machine/VectorFloat.lean ====
section
/-! DEFINITION. Vector floating instructions, conversions and dot products, first bytes 0x40 to 0x69 (R70 to R72, R140 to R148). -/

namespace Sys2Proof.Machine

/-- The flags of the active lanes, ORed (R69). -/
def laneFlags (act : Word) (f : Nat → FFlags) : FFlags := (lanesOf act).foldl (fun s j => s ||| f j) 0

/-- A vector instruction that ORs flags into FPFLAGS (R69, R132): `f` gives a lane's result and flags from a, b and d. -/
def flagOp (ok : Nat → Bool) (d a : BitVec 8) (b : Src) (f : Group → Dword → Dword → Dword → Dword × FFlags) : Meaning := fun _ w c =>
  let g := c.grp
  if modeOk g ok true then
    let r := fun j : Nat => f g (g.laneV false a j) (srcLane g false b j) (g.laneV false d j)
    c.retire w ((g.writeLanes false d g.active (Vector.ofFn fun (j : Fin 32) => (r j).1)).orFlags (laneFlags g.active fun j => (r j).2))
  else c.trap w (modeTrap g 1)

/-- RND with SR read as RNE (R65). -/
def rndNoSr (g : Group) : Nat := if g.rnd = 4 then 0 else g.rnd

/-- Per element, decoded in the type's format with FTZ (R63). -/
def fltLane (op : Group → Fmt → FV → FV → FV → Nat × FFlags) (g : Group) (x y z : Dword) : Dword × FFlags :=
  let f := etyFmt g.ety
  let n := etyBits g.ety
  let dec := fun v e => decodeF f g.ftz (elemOf n v e)
  perElem n fun e => op g f (dec x e) (dec y e) (dec z e)

/-- Round an exact result by MD, with NV where the operation was invalid (R67, R140). -/
def fRound (g : Group) (f : Fmt) (x : FV × Bool) : Nat × FFlags :=
  let r := toFormat f (rndNoSr g) g.sat g.ftz 0 x.1
  (r.1, r.2 ||| (if x.2 then flagNV else 0))

/-- a·b + c, fused: NV for ∞ × 0 whatever c is (R140). -/
def fuse (rdn : Bool) (a b z : FV) : FV × Bool :=
  let p := a.mul b
  if p.2 then (.nan, true) else FV.sum rdn [p.1, z]

def fAddE (g : Group) (f : Fmt) (a b _ : FV) : Nat × FFlags := fRound g f (FV.sum (g.rnd == 3) [a, b])
def fSubE (g : Group) (f : Fmt) (a b _ : FV) : Nat × FFlags := fRound g f (FV.sum (g.rnd == 3) [a, b.neg])
def fMulE (g : Group) (f : Fmt) (a b _ : FV) : Nat × FFlags := fRound g f (a.mul b)
def fMaE (g : Group) (f : Fmt) (a b d : FV) : Nat × FFlags := fRound g f (fuse (g.rnd == 3) a b d)
def fMsE (g : Group) (f : Fmt) (a b d : FV) : Nat × FFlags := fRound g f (fuse (g.rnd == 3) a b d.neg)

/-- A value of the format written as it is, no flag. -/
def plainF (f : Fmt) (x : FV) : Nat × FFlags := ((toFormat f 0 false false 0 x).1, 0)

/-- R141. -/
def fMinE (_ : Group) (f : Fmt) (a b _ : FV) : Nat × FFlags := plainF f (FV.pick false a b)
def fMaxE (_ : Group) (f : Fmt) (a b _ : FV) : Nat × FFlags := plainF f (FV.pick true a b)

/-- A value with another sign; NaN stays. -/
def FV.withSign (neg : Bool) : FV → FV
  | .nan => .nan
  | .inf _ => .inf neg
  | .fin _ m e => .fin neg m e

/-- R142. -/
def fAbsE (_ : Group) (f : Fmt) (_ b _ : FV) : Nat × FFlags := plainF f (b.withSign false)
def fNegE (_ : Group) (f : Fmt) (_ b _ : FV) : Nat × FFlags := plainF f b.neg

/-- R144. -/
def fRndE (g : Group) (f : Fmt) (_ b _ : FV) : Nat × FFlags :=
  match b with
  | .fin neg _ _ => plainF f (.fin neg (b.toInteger (rndNoSr g)).1.natAbs 0)
  | x => plainF f x

/-- The class mask of an encoding (R145). -/
def classOf (f : Fmt) (x : Nat) : Nat :=
  match decodeF f false x with
  | .nan => 256
  | .inf neg => if neg then 1 else 128
  | .fin neg m _ =>
    if m = 0 then (if neg then 8 else 16)
    else if m < 2 ^ f.fbits then (if neg then 4 else 32)
    else (if neg then 2 else 64)

/-- `fclass` on a lane (R145): raw encodings. -/
def classLane (g : Group) (_ y _ : Dword) : Dword :=
  let n := etyBits g.ety
  (perElem n fun e => (classOf (etyFmt g.ety) (elemOf n y e), 0)).1

/-- Rounded to nearest even, overflow as SAT = 0 (R146). -/
def nearest (g : Group) (f : Fmt) (neg : Bool) (x : Mag) : Nat × FFlags := roundMag f 0 false g.ftz 0 neg x

/-- The transcendentals of R146. -/
def fRcpE (g : Group) (f : Fmt) (_ b _ : FV) : Nat × FFlags :=
  match b with
  | .nan => (nanF f, 0)
  | .inf neg => (signF f neg, 0)
  | .fin neg m e => if m = 0 then (infF f neg, flagDZ) else nearest g f neg ⟨1, m, -e⟩
def fRsqE (g : Group) (f : Fmt) (_ b _ : FV) : Nat × FFlags :=
  match b with
  | .nan => (nanF f, 0)
  | .inf neg => if neg then (nanF f, flagNV) else (0, 0)
  | .fin neg m e =>
    if m = 0 then (infF f neg, flagDZ) else if neg then (nanF f, flagNV) else nearest g f false (rsqrtMag m e)
def fSqrtE (g : Group) (f : Fmt) (_ b _ : FV) : Nat × FFlags :=
  match b with
  | .nan => (nanF f, 0)
  | .inf neg => if neg then (nanF f, flagNV) else (infF f false, 0)
  | .fin neg m e =>
    if m = 0 then (signF f neg, 0) else if neg then (nanF f, flagNV) else nearest g f false (sqrtMag m e)
def fEx2E (g : Group) (f : Fmt) (_ b _ : FV) : Nat × FFlags :=
  match b with
  | .nan => (nanF f, 0)
  | .inf neg => if neg then (0, 0) else (infF f false, 0)
  | .fin neg m e => if m = 0 then plainF f (.fin false 1 0) else nearest g f false (exp2Mag neg m e)
def fLg2E (g : Group) (f : Fmt) (_ b _ : FV) : Nat × FFlags :=
  match b with
  | .nan => (nanF f, 0)
  | .inf neg => if neg then (nanF f, flagNV) else (infF f false, 0)
  | .fin neg m e =>
    if m = 0 then (infF f true, flagDZ) else if neg then (nanF f, flagNV)
    else nearest g f (log2Mag m e).1 (log2Mag m e).2
def fTanhE (g : Group) (f : Fmt) (_ b _ : FV) : Nat × FFlags :=
  match b with
  | .nan => (nanF f, 0)
  | .inf neg => plainF f (.fin neg 1 0)
  | .fin neg m e => if m = 0 then (signF f neg, 0) else nearest g f neg (tanhMag m e)

/-- A condition of `fcmp` (R48, R143). -/
def fcondHolds (c : Nat) (x y : FV) : Bool :=
  let un := x == .nan || y == .nan
  let o := x.cmp y
  match c with
  | 0 => !un && o == .eq
  | 1 => un || o != .eq
  | 2 => !un && o == .lt
  | 3 => !un && o != .gt
  | 4 => !un && o == .gt
  | 5 => !un && o != .lt
  | 10 => un
  | _ => !un

/-- `fcmp` (R143). -/
def fcmpOp (d a : BitVec 8) (b : Src) : Meaning := fun _ w c =>
  let g := c.grp
  if modeOk g isF32 true then
    let dec := fun v : Dword => decodeF fp32 g.ftz (v.toNat % 2 ^ 32)
    let holds := fun j : Nat => fcondHolds (d.toNat / 16) (dec (g.laneV false a j)) (dec (srcLane g false b j))
    c.retire w (g.writeP d.toNat g.active (maskOf holds))
  else c.trap w (modeTrap g 1)

/-- `fdot2` on a lane (R147). -/
def dot2Lane (g : Group) (x y z : Dword) : Dword × FFlags :=
  let f := etyFmt g.ety
  let dec := fun v e => decodeF f g.ftz (elemOf 16 v e)
  let p := (dec x 0).mul (dec y 0)
  let q := (dec x 1).mul (dec y 1)
  let s := if p.2 || q.2 then (.nan, true) else FV.sum (g.rnd == 3) [p.1, q.1, decodeF fp32 g.ftz (elemOf 32 z 0)]
  let r := fRound g fp32 s
  (BitVec.ofNat 64 r.1, r.2)

/-- `idot4` on a lane (R148). -/
def dot4Lane (g : Group) (x y z : Dword) : Dword :=
  let t := (List.range 4).foldl (fun s e => s + toI 8 true (elemOf 8 x e) * toI 8 true (elemOf 8 y e)) (toI 32 true (elemOf 32 z 0))
  BitVec.ofNat 64 (fitI 32 true g.sat t)

/-- The random word of `fcvt` under SR (R65). -/
def cvtRandom (seed : Word) (g : Group) (j : Nat) : Word :=
  mix32 [seed, BitVec.ofNat 32 g.gid, BitVec.ofNat 32 (g.gid / 2 ^ 32), BitVec.ofNat 32 g.lc, BitVec.ofNat 32 (g.lc / 2 ^ 32),
    BitVec.ofNat 32 j]

/-- A result extended to its lane (R71). -/
def cvtPlace (dst x : Nat) : Dword :=
  let n := fmtBits dst
  if fmtSigned dst && n < 32 then BitVec.ofNat 64 (wrapI 32 (toI n true x)) else BitVec.ofNat 64 x

/-- `fcvt` (R70 to R72): the conversion code in a. -/
def fcvtOp (d a : BitVec 8) (b : Src) : Meaning := fun _ w c =>
  let g := c.grp
  let dst := a.toNat / 16
  let src := a.toNat % 16
  let r := fun j : Nat =>
    encodeCode dst g.rnd g.sat g.ftz (cvtRandom c.ctx.seed g j) (decodeCode src g.ftz (srcLane g (fmtBits src == 64) b j).toNat)
  c.retire w ((g.writeLanes (fmtBits dst == 64) d g.active (Vector.ofFn fun (j : Fin 32) => cvtPlace dst (r j).1)).orFlags
    (laneFlags g.active fun j => (r j).2))

/-! ### One meaning per word -/

/-- `fadd` (R140). -/
def execFadd (d a b : BitVec 8) (s : State) : Host.Outcome State Fault Refusal :=
  issue noPre (flagOp isFlt d a (.v b) (fltLane fAddE)) (.fadd d a b) s
/-- `fadd` VK (R140). -/
def execFaddVk (d a b : BitVec 8) (s : State) : Host.Outcome State Fault Refusal :=
  issue noPre (flagOp isFlt d a (.k b) (fltLane fAddE)) (.faddVk d a b) s
/-- `fsub` (R140). -/
def execFsub (d a b : BitVec 8) (s : State) : Host.Outcome State Fault Refusal :=
  issue noPre (flagOp isFlt d a (.v b) (fltLane fSubE)) (.fsub d a b) s
/-- `fsub` VK (R140). -/
def execFsubVk (d a b : BitVec 8) (s : State) : Host.Outcome State Fault Refusal :=
  issue noPre (flagOp isFlt d a (.k b) (fltLane fSubE)) (.fsubVk d a b) s
/-- `fmul` (R140). -/
def execFmul (d a b : BitVec 8) (s : State) : Host.Outcome State Fault Refusal :=
  issue noPre (flagOp isFlt d a (.v b) (fltLane fMulE)) (.fmul d a b) s
/-- `fmul` VK (R140). -/
def execFmulVk (d a b : BitVec 8) (s : State) : Host.Outcome State Fault Refusal :=
  issue noPre (flagOp isFlt d a (.k b) (fltLane fMulE)) (.fmulVk d a b) s
/-- `fma` (R140). -/
def execFma (d a b : BitVec 8) (s : State) : Host.Outcome State Fault Refusal :=
  issue noPre (flagOp isFlt d a (.v b) (fltLane fMaE)) (.fma d a b) s
/-- `fma` VK (R140). -/
def execFmaVk (d a b : BitVec 8) (s : State) : Host.Outcome State Fault Refusal :=
  issue noPre (flagOp isFlt d a (.k b) (fltLane fMaE)) (.fmaVk d a b) s
/-- `fms` (R140). -/
def execFms (d a b : BitVec 8) (s : State) : Host.Outcome State Fault Refusal :=
  issue noPre (flagOp isFlt d a (.v b) (fltLane fMsE)) (.fms d a b) s
/-- `fms` VK (R140). -/
def execFmsVk (d a b : BitVec 8) (s : State) : Host.Outcome State Fault Refusal :=
  issue noPre (flagOp isFlt d a (.k b) (fltLane fMsE)) (.fmsVk d a b) s
/-- `fmin` (R141). -/
def execFmin (d a b : BitVec 8) (s : State) : Host.Outcome State Fault Refusal :=
  issue noPre (flagOp isFlt d a (.v b) (fltLane fMinE)) (.fmin d a b) s
/-- `fmin` VK (R141). -/
def execFminVk (d a b : BitVec 8) (s : State) : Host.Outcome State Fault Refusal :=
  issue noPre (flagOp isFlt d a (.k b) (fltLane fMinE)) (.fminVk d a b) s
/-- `fmax` (R141). -/
def execFmax (d a b : BitVec 8) (s : State) : Host.Outcome State Fault Refusal :=
  issue noPre (flagOp isFlt d a (.v b) (fltLane fMaxE)) (.fmax d a b) s
/-- `fmax` VK (R141). -/
def execFmaxVk (d a b : BitVec 8) (s : State) : Host.Outcome State Fault Refusal :=
  issue noPre (flagOp isFlt d a (.k b) (fltLane fMaxE)) (.fmaxVk d a b) s
/-- `fabs` (R142). -/
def execFabs (d b : BitVec 8) (s : State) : Host.Outcome State Fault Refusal :=
  issue noPre (flagOp isFlt d 252 (.v b) (fltLane fAbsE)) (.fabs d b) s
/-- `fabs` VK (R142). -/
def execFabsVk (d b : BitVec 8) (s : State) : Host.Outcome State Fault Refusal :=
  issue noPre (flagOp isFlt d 252 (.k b) (fltLane fAbsE)) (.fabsVk d b) s
/-- `fneg` (R142). -/
def execFneg (d b : BitVec 8) (s : State) : Host.Outcome State Fault Refusal :=
  issue noPre (flagOp isFlt d 252 (.v b) (fltLane fNegE)) (.fneg d b) s
/-- `fneg` VK (R142). -/
def execFnegVk (d b : BitVec 8) (s : State) : Host.Outcome State Fault Refusal :=
  issue noPre (flagOp isFlt d 252 (.k b) (fltLane fNegE)) (.fnegVk d b) s
/-- `fcmp` (R143). -/
def execFcmp (d a b : BitVec 8) (s : State) : Host.Outcome State Fault Refusal :=
  issue noPre (fcmpOp d a (.v b)) (.fcmp d a b) s
/-- `fcmp` VK (R143). -/
def execFcmpVk (d a b : BitVec 8) (s : State) : Host.Outcome State Fault Refusal :=
  issue noPre (fcmpOp d a (.k b)) (.fcmpVk d a b) s
/-- `fcvt` (R70 to R72). -/
def execFcvt (d a b : BitVec 8) (s : State) : Host.Outcome State Fault Refusal :=
  issue noPre (fcvtOp d a (.v b)) (.fcvt d a b) s
/-- `fcvt` VK (R70 to R72). -/
def execFcvtVk (d a b : BitVec 8) (s : State) : Host.Outcome State Fault Refusal :=
  issue noPre (fcvtOp d a (.k b)) (.fcvtVk d a b) s
/-- `frnd` (R144). -/
def execFrnd (d b : BitVec 8) (s : State) : Host.Outcome State Fault Refusal :=
  issue noPre (flagOp isFlt d 252 (.v b) (fltLane fRndE)) (.frnd d b) s
/-- `frnd` VK (R144). -/
def execFrndVk (d b : BitVec 8) (s : State) : Host.Outcome State Fault Refusal :=
  issue noPre (flagOp isFlt d 252 (.k b) (fltLane fRndE)) (.frndVk d b) s
/-- `fclass` (R145). -/
def execFclass (d b : BitVec 8) (s : State) : Host.Outcome State Fault Refusal :=
  issue noPre (vecOp isFlt d 252 (.v b) classLane) (.fclass d b) s
/-- `fclass` VK (R145). -/
def execFclassVk (d b : BitVec 8) (s : State) : Host.Outcome State Fault Refusal :=
  issue noPre (vecOp isFlt d 252 (.k b) classLane) (.fclassVk d b) s
/-- `fdot2` (R147). -/
def execFdot2 (d a b : BitVec 8) (s : State) : Host.Outcome State Fault Refusal :=
  issue noPre (flagOp isPairF d a (.v b) dot2Lane) (.fdot2 d a b) s
/-- `fdot2` VK (R147). -/
def execFdot2Vk (d a b : BitVec 8) (s : State) : Host.Outcome State Fault Refusal :=
  issue noPre (flagOp isPairF d a (.k b) dot2Lane) (.fdot2Vk d a b) s
/-- `idot4` (R148). -/
def execIdot4 (d a b : BitVec 8) (s : State) : Host.Outcome State Fault Refusal :=
  issue noPre (vecOp isI8Q d a (.v b) dot4Lane) (.idot4 d a b) s
/-- `idot4` VK (R148). -/
def execIdot4Vk (d a b : BitVec 8) (s : State) : Host.Outcome State Fault Refusal :=
  issue noPre (vecOp isI8Q d a (.k b) dot4Lane) (.idot4Vk d a b) s
/-- `frcp` (R146). -/
def execFrcp (d b : BitVec 8) (s : State) : Host.Outcome State Fault Refusal :=
  issue noPre (flagOp isFlt d 252 (.v b) (fltLane fRcpE)) (.frcp d b) s
/-- `frcp` VK (R146). -/
def execFrcpVk (d b : BitVec 8) (s : State) : Host.Outcome State Fault Refusal :=
  issue noPre (flagOp isFlt d 252 (.k b) (fltLane fRcpE)) (.frcpVk d b) s
/-- `frsq` (R146). -/
def execFrsq (d b : BitVec 8) (s : State) : Host.Outcome State Fault Refusal :=
  issue noPre (flagOp isFlt d 252 (.v b) (fltLane fRsqE)) (.frsq d b) s
/-- `frsq` VK (R146). -/
def execFrsqVk (d b : BitVec 8) (s : State) : Host.Outcome State Fault Refusal :=
  issue noPre (flagOp isFlt d 252 (.k b) (fltLane fRsqE)) (.frsqVk d b) s
/-- `fsqrt` (R146). -/
def execFsqrt (d b : BitVec 8) (s : State) : Host.Outcome State Fault Refusal :=
  issue noPre (flagOp isFlt d 252 (.v b) (fltLane fSqrtE)) (.fsqrt d b) s
/-- `fsqrt` VK (R146). -/
def execFsqrtVk (d b : BitVec 8) (s : State) : Host.Outcome State Fault Refusal :=
  issue noPre (flagOp isFlt d 252 (.k b) (fltLane fSqrtE)) (.fsqrtVk d b) s
/-- `fex2` (R146). -/
def execFex2 (d b : BitVec 8) (s : State) : Host.Outcome State Fault Refusal :=
  issue noPre (flagOp isFlt d 252 (.v b) (fltLane fEx2E)) (.fex2 d b) s
/-- `fex2` VK (R146). -/
def execFex2Vk (d b : BitVec 8) (s : State) : Host.Outcome State Fault Refusal :=
  issue noPre (flagOp isFlt d 252 (.k b) (fltLane fEx2E)) (.fex2Vk d b) s
/-- `flg2` (R146). -/
def execFlg2 (d b : BitVec 8) (s : State) : Host.Outcome State Fault Refusal :=
  issue noPre (flagOp isFlt d 252 (.v b) (fltLane fLg2E)) (.flg2 d b) s
/-- `flg2` VK (R146). -/
def execFlg2Vk (d b : BitVec 8) (s : State) : Host.Outcome State Fault Refusal :=
  issue noPre (flagOp isFlt d 252 (.k b) (fltLane fLg2E)) (.flg2Vk d b) s
/-- `ftanh` (R146). -/
def execFtanh (d b : BitVec 8) (s : State) : Host.Outcome State Fault Refusal :=
  issue noPre (flagOp isFlt d 252 (.v b) (fltLane fTanhE)) (.ftanh d b) s
/-- `ftanh` VK (R146). -/
def execFtanhVk (d b : BitVec 8) (s : State) : Host.Outcome State Fault Refusal :=
  issue noPre (flagOp isFlt d 252 (.k b) (fltLane fTanhE)) (.ftanhVk d b) s

end Sys2Proof.Machine
end

