-- ==== Sys2Proof/Machine/LaneOps.lean ====
section
/-! DEFINITION. Predicates and lanes, first bytes 0x70 to 0x7A (R149 to R154), with the cross-lane sums of R77 and R78. -/

namespace Sys2Proof.Machine

/-- A predicate instruction (R150). -/
def predOp (d : BitVec 8) (f : Group → Word) : Meaning := fun _ w c =>
  c.retire w (c.grp.writeP d.toNat c.grp.active (f c.grp))

/-- `pmov` tests the 32-bit value of each lane, the low register only (R150). -/
def nonZeroLanes (x : Line) : Word := maskOf fun j => laneAt x j != 0

/-- `pmov` (R150). Under i64 and u64 its operand names a pair (R40), of which it tests the low register. -/
def pmovOp (d b : BitVec 8) : Meaning := fun m w c =>
  if modeOk c.grp isAny (pairOk false b) then predOp d (fun g => nonZeroLanes (g.readV b)) m w c else c.trap w (modeTrap c.grp 1)

/-- `shfl` and `bcast` move the value of a at the lane that `source` gives (R151, R152). -/
def moveOp (d a : BitVec 8) (source : Group → Nat → Nat) : Meaning := fun _ w c =>
  let g := c.grp
  let wide := isWide g.ety
  if modeOk g isAny (pairOk true d && pairOk false a) then
    c.retire w (g.writeLanes wide d g.active (Vector.ofFn fun (j : Fin 32) => g.laneV wide a (source g j)))
  else c.trap w (modeTrap g 1)

/-- `vote` (R153): x holds the active lanes in which the predicate is true. -/
def voteOp (d : BitVec 8) (a : BitVec 8) (op : BitVec 3) : Meaning := fun _ w c =>
  let g := c.grp
  let act := g.active
  let x := act &&& g.readP a.toNat
  let first := ((lanesOf x).head?).getD 32
  c.retire w (match op.toNat with
    | 0 => g.writeQ d.toNat (x == act)
    | 1 => g.writeQ d.toNat (x != 0)
    | 2 => g.writeQ d.toNat (x == 0)
    | 3 => g.writeK d (BitVec.ofNat 32 (lanesOf x).length)
    | 4 => g.writeK d x
    | _ => g.writeK d (BitVec.ofNat 32 first))

/-- One addition of R77 and R78 in a floating format: nearest even, FTZ, overflow by SAT. -/
def addF (g : Group) (f : Fmt) (x y : FV) : FV × FFlags :=
  let s := FV.sum false [x, y]
  let r := toFormat f 0 g.sat g.ftz 0 s.1
  (decodeF f g.ftz r.1, r.2 ||| (if s.2 then flagNV else 0))

/-- One level of the tree of R77: adjacent pairs, lower first. -/
def treeLevel {α : Type} (add : α → α → α × FFlags) : List α → List α × FFlags
  | x :: y :: l =>
    let s := add x y
    let r := treeLevel add l
    (s.1 :: r.1, s.2 ||| r.2)
  | l => (l, 0)

/-- The levels of the tree. -/
def treeSum {α : Type} (add : α → α → α × FFlags) : Nat → List α → List α × FFlags
  | 0, l => (l, 0)
  | n + 1, l =>
    let s := treeLevel add l
    let r := treeSum add n s.1
    (r.1, s.2 ||| r.2)

/-- The prefixes of R78. -/
def prefixSums {α : Type} (add : α → α → α × FFlags) : α → List α → List α × FFlags
  | _, [] => ([], 0)
  | acc, x :: l =>
    let s := add acc x
    let r := prefixSums add s.1 l
    (s.1 :: r.1, s.2 ||| r.2)

/-- Every lane's result from the 32 values in lane order: the sum in each, or the prefixes. -/
def crossSums {α : Type} (scan : Bool) (add : α → α → α × FFlags) (zero : α) (l : List α) : List α × FFlags :=
  if scan then prefixSums add zero l
  else
    let r := treeSum add 5 l
    (List.replicate 32 (r.1.head?.getD zero), r.2)

/-- The results of one element position as encodings (R154). -/
def crossElem (g : Group) (flt scan : Bool) (b : BitVec 8) (e : Nat) : List Nat × FFlags :=
  let n := etyBits g.ety
  let wide := isWide g.ety
  let val := fun j => elemOf n (g.laneV wide b j) e
  let act := g.active
  if flt then
    let f := etyFmt g.ety
    let l := (List.range 32).map fun j => if act.getLsbD j then decodeF f g.ftz (val j) else .fin true 0 0
    let r := crossSums scan (addF g f) (.fin true 0 0) l
    (r.1.map fun x => (plainF f x).1, r.2)
  else
    let sg := etySigned g.ety
    let l := (List.range 32).map fun j => if act.getLsbD j then val j else 0
    crossSums scan (fun x y => (fitI n sg g.sat (toI n sg x + toI n sg y), 0)) 0 l

/-- `lsum` and `lscan` (R154). -/
def crossOp (scan : Bool) (d : BitVec 8) (f : BitVec 1) (b : BitVec 8) : Meaning := fun _ w c =>
  let g := c.grp
  let wide := isWide g.ety
  let flt := f == 1
  if modeOk g (if flt then isFlt else isInt) (pairOk true d && pairOk false b) then
    let n := etyBits g.ety
    let es := List.range (if n = 64 then 1 else 32 / n)
    let rs := es.map fun e => (crossElem g flt scan b e, e)
    let lane := fun j : Nat => rs.foldl (fun s r => s ||| BitVec.ofNat 64 ((r.1.1[j]?).getD 0 * 2 ^ (n * r.2))) 0
    let fl := rs.foldl (fun s r => s ||| r.1.2) 0
    c.retire w ((g.writeLanes wide d g.active (Vector.ofFn fun (j : Fin 32) => lane j)).orFlags fl)
  else c.trap w (modeTrap g 1)

/-! ### One meaning per word -/

/-- `pand` (R150). -/
def execPand (d a b : BitVec 8) (s : State) : Host.Outcome State Fault Refusal :=
  issue noPre (predOp d fun g => g.readP a.toNat &&& g.readP b.toNat) (.pand d a b) s
/-- `por` (R150). -/
def execPor (d a b : BitVec 8) (s : State) : Host.Outcome State Fault Refusal :=
  issue noPre (predOp d fun g => g.readP a.toNat ||| g.readP b.toNat) (.por d a b) s
/-- `pxor` (R150). -/
def execPxor (d a b : BitVec 8) (s : State) : Host.Outcome State Fault Refusal :=
  issue noPre (predOp d fun g => g.readP a.toNat ^^^ g.readP b.toNat) (.pxor d a b) s
/-- `pnot` (R150). -/
def execPnot (d b : BitVec 8) (s : State) : Host.Outcome State Fault Refusal :=
  issue noPre (predOp d fun g => ~~~(g.readP b.toNat)) (.pnot d b) s
/-- `pmov` (R150). -/
def execPmov (d b : BitVec 8) (s : State) : Host.Outcome State Fault Refusal :=
  issue noPre (pmovOp d b) (.pmov d b) s
/-- `shfl` with a lane number per lane (R151). -/
def execShfl (d a b : BitVec 8) (s : State) : Host.Outcome State Fault Refusal :=
  issue noPre (moveOp d a fun g j => (laneAt (g.readV b) j).toNat % 32) (.shfl d a b) s
/-- `shfl` with one lane number (R151). -/
def execShflVk (d a b : BitVec 8) (s : State) : Host.Outcome State Fault Refusal :=
  issue noPre (moveOp d a fun g _ => (g.readK b).toNat % 32) (.shflVk d a b) s
/-- `bcast` (R152). -/
def execBcast (d a : BitVec 8) (n : BitVec 5) (s : State) : Host.Outcome State Fault Refusal :=
  issue noPre (moveOp d a fun _ _ => n.toNat) (.bcast d a n) s
/-- `vote` (R153). -/
def execVote (d a : BitVec 8) (op : BitVec 3) (s : State) : Host.Outcome State Fault Refusal :=
  issue noPre (voteOp d a op) (.vote d a op) s
/-- `lsum` (R154, R77). -/
def execLsum (d : BitVec 8) (f : BitVec 1) (b : BitVec 8) (s : State) : Host.Outcome State Fault Refusal :=
  issue noPre (crossOp false d f b) (.lsum d f b) s
/-- `lscan` (R154, R78). -/
def execLscan (d : BitVec 8) (f : BitVec 1) (b : BitVec 8) (s : State) : Host.Outcome State Fault Refusal :=
  issue noPre (crossOp true d f b) (.lscan d f b) s

end Sys2Proof.Machine
end

