-- ==== Sys2Proof/Machine/Objects.lean ====
section
/-! DEFINITION. Objects: physical addresses (R275), records (R276 to R279), placement, the sub-tile map (R280), and the checks of an
access (R118 to R128). -/

namespace Sys2Proof.Machine

/-! ### Physical addresses -/

/-- SPACE, LDIE and DOFF of a physical address (R275). -/
def paSpace (pa : Nat) : Nat := pa / 2 ^ 50 % 4
def paDie (pa : Nat) : Nat := pa / 2 ^ 38 % 4
def paOff (pa : Nat) : Nat := pa % 2 ^ 38

/-- A device PA that names memory (R275). -/
def devicePa (pa : Nat) : Bool := pa < 2 ^ 40 && paOff pa < Config.dieBytes

/-- A host PA (R275). -/
def hostPa (pa : Nat) : Bool := pa < 2 ^ 52 && paSpace pa == 1

/-- A PA that names memory. -/
def namesMemory (pa : Nat) : Bool := devicePa pa || hostPa pa

/-! ### The domain -/

/-- The modules of the domain in increasing number (R278, R330). -/
def moduleList (h : Module) : List Nat :=
  (List.range h.rows).flatMap fun r => (List.range h.cols).map fun q => 8 * r + q

/-- The number of modules. -/
def moduleCount (h : Module) : Nat := h.rows * h.cols

/-! ### Records -/

/-- A signed number of n bits. -/
def signedOf (n x : Nat) : Int := toI n true x

/-- The fields of a record at a PA (R276, R277, R278), unchecked. -/
def recordFields (m : Cells) (obj pa : Nat) : Record :=
  let hdr := memNat m pa 8
  let strp := memNat m (pa + 100) 8
  { obj := obj
    host := none
    mode := hdr / 2 % 8
    perm := hdr / 16 % 32
    rank := hdr / 2 ^ 9 % 8
    esz := hdr / 2 ^ 12 % 8
    lay := hdr / 2 ^ 15 % 16
    pmt := hdr.testBit 19
    home := hdr / 2 ^ 20 % 4
    mapped := hdr.testBit 27
    stlog := hdr / 2 ^ 22 % 32
    reloc := hdr.testBit 28
    ownb := hdr.testBit 29
    base := memNat m (pa + 8) 8
    ext := memNat m (pa + 16) 8
    dims := (List.range 5).map fun i => memNat m (pa + 24 + 4 * i) 4
    strides := (List.range 5).map fun i => signedOf 64 (memNat m (pa + 44 + 8 * i) 8)
    owner := memNat m (pa + 84) 8
    newbase := memNat m (pa + 92) 8
    m0 := strp / 2 ^ 12 % 64
    nmod := strp / 2 ^ 6 % 64 + 1
    slog := strp % 64 }

/-- The frames of a mapped object must lie in this space, and for HOME 0 on this die (R279, R280). -/
def frameHomeOk (r : Record) (pa : Nat) : Bool :=
  if r.home = 3 then hostPa pa else devicePa pa && paDie pa == paDie r.base

/-- BASE names memory as the placement rule requires (R279). -/
def baseOk (r : Record) : Bool :=
  if r.mapped then r.base % 8 == 0 && (if r.home = 0 then devicePa r.base else namesMemory r.base)
  else match r.home with
    | 0 => devicePa r.base
    | 1 => devicePa r.base && paDie r.base == 0 && r.base % 4096 == 0
    | 2 => devicePa r.base && r.base % 2 ^ r.slog == 0
    | _ => hostPa r.base

/-- A record holds a valid object (R279). -/
def recordValid (h : Module) (m : Cells) (pa : Nat) (r : Record) : Bool :=
  let hdr := memNat m pa 8
  let strp := memNat m (pa + 100) 8
  hdr % 2 == 1 && hdr < 2 ^ 30
  && r.mode ≤ 4 && 1 ≤ r.rank && r.rank ≤ 5 && r.esz ≤ 4 && r.lay ≤ 1
  && (if r.mapped then 14 ≤ r.stlog && r.stlog ≤ 22 else r.stlog == 0)
  && 1 ≤ r.ext && r.ext ≤ 2 ^ 40
  && memNat m (pa + 108) 20 == 0
  && (if r.home = 2 then strp < 2 ^ 18 && 12 ≤ r.slog && r.slog ≤ 30 && r.m0 + r.nmod ≤ moduleCount h else strp == 0)
  && ((List.range 5).all fun i => if i < r.rank then 1 ≤ r.dims.getD i 0 else r.dims.getD i 0 == 0 && r.strides.getD i 0 == 0)
  && (r.esz == 0) == (r.lay == 1)
  && (r.mode == 3 || (r.owner == 0 && !r.ownb))
  && (!r.mapped || r.home == 0 || r.home == 3)
  && (!r.reloc || r.mapped)
  && (r.newbase != 0) == r.reloc
  && (!r.reloc || (r.newbase % 2 ^ r.stlog == 0 && frameHomeOk r r.newbase))
  && baseOk r

/-- The PA of record n (R254, R276). -/
def recordPa (objtb : Dword) (obj : Nat) : Nat := objtb.toNat / 4096 % 2 ^ 40 * 4096 + 128 * obj

/-- The valid record of an index, if it holds one (R118, R254, R279). -/
def recordOf (h : Module) (m : Cells) (objtb : Dword) (obj : Nat) : Option Record :=
  let pa := recordPa objtb obj
  if obj = 0 || 2 ^ (objtb.toNat % 32) ≤ obj then none
  else
    let r := recordFields m obj pa
    if recordValid h m pa r then some r else none

/-- The home of a host-homed object that groups of several modules share (R126): module 0, the lowest of the domain (DESIGN CHOICE, log 44). -/
def hostHome (h : Module) (span : Bool) (r : Record) : Record :=
  if r.home = 3 && span && h.number != 0 then { r with host := some 0 } else r

/-- The record that the context's groups use (R255). -/
def Cpu.record (c : Cpu) (m : Cells) (obj : Nat) : Option Record := (recordOf c.hw m c.ctx.objtb obj).map (hostHome c.hw c.ctx.span)

/-! ### Placement and translation -/

/-- The module where the byte at an offset is homed (R126); none for host memory that this module serves (DESIGN CHOICE, log 44). -/
def homeModule (h : Module) (r : Record) (off : Nat) : Option Nat :=
  match r.home with
  | 2 => some ((moduleList h).getD (r.m0 + off / 2 ^ r.slog % r.nmod) 0)
  | 3 => r.host
  | _ => some h.number

/-- Homed on this module. -/
def homedHere (h : Module) (r : Record) (off : Nat) : Bool := homeModule h r off == some h.number

/-- Homed on another module (R343). -/
def homedAway (h : Module) (r : Record) (off : Nat) : Option Nat :=
  match homeModule h r off with
  | some n => if n = h.number then none else some n
  | none => none

/-- What translation finds (R281): the byte's PA, or the state of its sub-tile with the PA of the map entry. -/
inductive Tr where
  | at (pa : Nat)
  | zero (entry : Nat)
  | absent (entry : Nat)
  | moving (entry : Nat)
  | malformed (entry : Nat)
  deriving DecidableEq, Repr

/-- A map entry breaks a condition of R280. -/
def entryBad (r : Record) (e : Nat) : Bool :=
  let st := e / 2 ^ 62
  e / 2 ^ 52 % 2 ^ 10 != 0 ||
    ((st == 1 || st == 3) && !(let f := e / 2 ^ 14 % 2 ^ 38 * 2 ^ 14; f % 2 ^ r.stlog == 0 && frameHomeOk r f))

/-- The PA of the map entry of an offset (R280). -/
def entryPa (r : Record) (off : Nat) : Nat := r.base + 8 * (off / 2 ^ r.stlog)

/-- The translation of one byte (R279, R280). (DEDUCED, log 33) -/
def translate (m : Cells) (r : Record) (off : Nat) : Tr :=
  if r.mapped then
    let ep := entryPa r off
    let e := memNat m ep 8
    if entryBad r e then .malformed ep
    else match e / 2 ^ 62 with
      | 0 => .absent ep
      | 1 => .at (e / 2 ^ 14 % 2 ^ 38 * 2 ^ 14 + off % 2 ^ r.stlog)
      | 2 => .zero ep
      | _ => .moving ep
  else match r.home with
    | 1 =>
      let u := off / 4096
      .at (u % 4 * 2 ^ 38 + (paOff r.base + u / 4 * 4096 + off % 4096))
    | 2 =>
      let u := off / 2 ^ r.slog
      .at (r.base + u / r.nmod * 2 ^ r.slog + off % 2 ^ r.slog)
    | _ => .at (r.base + off)

/-- The frame byte of an offset, that of a moving sub-tile too, whose frame no write reaches (R286, R291). -/
def framePa (m : Cells) (r : Record) (off : Nat) : Option Nat :=
  match translate m r off with
  | .at pa => some pa
  | .moving ep => some (memNat m ep 8 / 2 ^ 14 % 2 ^ 38 * 2 ^ 14 + off % 2 ^ r.stlog)
  | _ => none

/-- A byte of M_k for an access that translated before its entry was marked moving: it proceeds with the old entry (R285, R291). -/
def frameByte (m : Cells) (r : Record) (off : Nat) : Byte :=
  match framePa m r off with
  | some pa => memByte m pa
  | none => 0

/-- A byte of M_k (R281). -/
def baseByte (m : Cells) (r : Record) (off : Nat) : Byte :=
  match translate m r off with
  | .at pa => memByte m pa
  | _ => 0

/-! ### The checks of an access -/

/-- The virtual address of an object's byte; an offset out of range is taken modulo 2^40 (DEDUCED, log 11). -/
def vaOf (obj : Nat) (off : Int) : Nat := obj % 2 ^ 24 * 2 ^ 40 + wrapI 40 off
def vaObj (va : Nat) : Nat := va / 2 ^ 40
def vaOff (va : Nat) : Nat := va % 2 ^ 40

/-- Kinds of access, as R102 and R121 distinguish them. -/
inductive Access where
  | load
  | store
  | order
  | reduce
  | execute
  deriving DecidableEq, Repr

/-- A permission of R277 is there: r 0, w 1, a 2, c 3, x 4. -/
def hasPerm (r : Record) (i : Nat) : Bool := r.perm.testBit i

/-- The group is the owner that a PRIVATE record names (R277). -/
def isOwner (r : Record) (gid : Nat) : Bool := if r.ownb then gid / 512 == r.owner / 512 else gid == r.owner

/-- The permission of R121. -/
def permOk (r : Record) : Access → Bool
  | .load => hasPerm r 0
  | .store => hasPerm r 1
  | .order => hasPerm r 2
  | .reduce => hasPerm r 1
  | .execute => hasPerm r 4

/-- The mode refuses the access (R102). -/
def modeRefuses (r : Record) (gid : Nat) : Access → Bool
  | .load => r.mode == 3 && !isOwner r gid
  | .store => r.mode == 2 || (r.mode == 3 && !isOwner r gid)
  | .order => r.mode == 1 || r.mode == 2 || r.mode == 3
  | .reduce => r.mode == 2 || r.mode == 4 || (r.mode == 3 && !isOwner r gid)
  | .execute => r.mode == 3 && !isOwner r gid

/-- The checks of R128 on one access of `size` bytes: class and code of the first that fails. Object 1 is the image object, which these
accesses may not reach (R303). -/
def checkAccess (rcd : Option Record) (gid obj : Nat) (off : Int) (align size : Nat) (kind : Access) : Option (Nat × Nat) :=
  if off % (align : Int) ≠ 0 then some (2, 1)
  else match rcd with
    | none => some (3, 2)
    | some r =>
      if off < 0 || (r.ext : Int) < off + size then some (3, 1)
      else if obj = 1 then some (5, 1)
      else if !permOk r kind then some (5, 1)
      else if modeRefuses r gid kind then some (5, 2)
      else none

/-- The first check in the order of R128 that any lane fails, with the lanes that fail it and the lowest one's address. -/
def firstFailure (fails : List (Nat × Nat × Option (Nat × Nat))) : Option Trap :=
  let rank := fun p : Nat × Nat => 16 * p.1 + p.2
  let order := fun p : Nat × Nat => if p.1 = 3 then 64 else rank p
  match fails.filterMap fun x => x.2.2.map fun p => order p with
  | [] => none
  | x :: xs =>
    let best := xs.foldl min x
    let hit := fails.filter fun f => match f.2.2 with | some p => order p == best | none => false
    match hit with
    | [] => none
    | f :: _ =>
      let p := f.2.2.getD (0, 0)
      some (addrTrap p.1 p.2 f.2.1 (maskOf fun j => hit.any fun h => h.1 == j))

/-- The base operand of a memory word: object and offset (R119). -/
def baseObj (base : Dword) : Nat := base.toNat / 2 ^ 40
def baseOff (base : Dword) : Nat := base.toNat % 2 ^ 40

/-- The displacement of a word (R49): the `lit` before it, sign-extended, or 0. -/
def dispOf (w : Iss) : Int := match w.lit with | some l => l.toInt | none => 0

/-- The offset of a lane (R119). -/
def laneOff (g : Group) (base : Dword) (b : BitVec 8) (disp : Int) (j : Nat) : Int :=
  (baseOff base : Int) + (laneAt (g.readV b) j).toInt + disp

end Sys2Proof.Machine
end

