-- ==== Sys2Proof/Machine/Caches.lean ====
section
/-! DEFINITION. The translation caches and the directory, as the lines that each cache holds (R283, R284), and the lines of host memory
held in shared state (R363): what accesses leave in them. -/

namespace Sys2Proof.Machine

/-- Translation caches by number (R283): record caches of the 128 cores, then their sub-tile caches, then the gateways' record caches,
then their sub-tile caches; and the entries of each. -/
def cacheSize (cache : Nat) : Nat := if cache < 128 then 256 else if cache < 256 then 2048 else if cache < 260 then 8192 else 65536

/-- The lines that a cache holds, the oldest first. -/
def cacheLines (d : List DirEntry) (cache : Nat) : List Nat := (d.filter fun e => decide (cache ∈ e.sharers)).map fun e => e.line

/-- A full cache gives up its oldest line (DESIGN CHOICE, log 33). -/
def evictOldest (d : List DirEntry) (cache : Nat) : List DirEntry :=
  match cacheLines d cache with
  | [] => d
  | old :: ls => if cacheSize cache ≤ ls.length + 1 then
      d.map fun e => if e.line = old then { e with sharers := e.sharers.filter fun x => x != cache } else e
    else d

/-- A cache takes a line: the home's directory entry names it (R283, R284). -/
def addSharer (d : List DirEntry) (line cache : Nat) : List DirEntry :=
  if d.any fun e => e.line == line && decide (cache ∈ e.sharers) then d
  else
    let d := evictOldest d cache
    if d.any fun e => e.line == line then
      d.map fun e => if e.line = line then { e with sharers := insertNew e.sharers cache } else e
    else d ++ [⟨line, [cache], false, false⟩]

/-- A core asks for a translation line: its own cache, else its die's gateway's, else the home; a cache that misses takes it (R283). -/
def askCaches (line core gate : Nat) (d : List DirEntry) : List DirEntry :=
  if d.any fun e => e.line == line && decide (core ∈ e.sharers) then d else addSharer (addSharer d line gate) line core

/-- The physical core, 8 · quadrant + place in it, of a logical one (R11, R369). -/
def physCore (x : Ctx) (core : Nat) : Nat := 8 * (x.quads.getD (core / 8) 0 % 16) + core % 8

/-- The translation lines of an access are asked for by a core, whose die's gateway is asked next (R283, R284). -/
def touchDir (objtb : Dword) (core : Nat) (r : Record) (offs : List Nat) (d : List DirEntry) : List DirEntry :=
  let gate := 256 + core / 32
  let d := askCaches (recordPa objtb r.obj) core gate d
  if r.mapped then offs.foldl (fun d off => askCaches (lineOf (entryPa r off)) (128 + core) (gate + 4) d) d else d

/-- Lines of a host-homed object that an access reads or writes are held in shared state by their home (R363). -/
def shareLines (m : Cells) (x : Ctx) (r : Record) (offs : List Nat) (l : List (Nat × Nat × Nat)) : List (Nat × Nat × Nat) :=
  if r.home = 3 && r.host.isNone then offs.foldl (fun l off => match framePa m r off with
    | some pa => insertNew l (x.dpart.toNat, x.number.toNat, lineOf pa)
    | none => l) l else l

/-- What an access of the group in hand leaves in the caches. -/
def touchLines (m : Cells) (c : Cpu) (r : Record) (offs : List Nat) : Cpu :=
  { c with hw := { c.hw with dir :=
    ⟨touchDir c.ctx.objtb (physCore c.ctx c.grp.core) r offs c.hw.dir.entries, shareLines m c.ctx r offs c.hw.dir.shared⟩ } }

/-- What an instruction that only looks at an object's record leaves in the caches. -/
def touchRecord (m : Cells) (obj : Nat) (c : Cpu) : Cpu :=
  match c.record m obj with
  | some r => touchLines m c r []
  | none => c

end Sys2Proof.Machine
end

