-- ==== Sys2Proof/Machine/Uniform.lean ====
section
/-! DEFINITION. Uniform instructions, first bytes 0x80 to 0x92 (R155): once for the group, whatever MD holds. -/

namespace Sys2Proof.Machine

/-- A uniform instruction that writes a uniform register. -/
def uniOp (d : BitVec 8) (f : Group → Word) : Meaning := fun _ w c => c.retire w (c.grp.writeK d (f c.grp))

/-- A uniform instruction that writes a uniform predicate. -/
def uniQ (d : BitVec 8) (f : Group → Bool) : Meaning := fun _ w c => c.retire w (c.grp.writeQ d.toNat (f c.grp))

/-- Shifts of R155: a count of 32 or more gives 0, or copies of the sign. -/
def kShl (a b : Word) : Word := if 32 ≤ b.toNat then 0 else a <<< b.toNat
def kShr (a b : Word) : Word := if 32 ≤ b.toNat then 0 else a >>> b.toNat
def kSar (a b : Word) : Word := a.sshiftRight (min b.toNat 31)

/-- Bits [63:32] of the signed product. -/
def kMulh (a b : Word) : Word := (a.signExtend 64 * b.signExtend 64).extractLsb' 32 32

/-- A comparison of R48 on uniform registers: signed for lt to ge. -/
def kCond (d : BitVec 8) (a b : Word) : Bool := condHolds (d.toNat / 16) a.toInt b.toInt a.toNat b.toNat

/-! ### One meaning per word -/

/-- `kadd` (R155). -/
def execKadd (d a b : BitVec 8) (s : State) : Host.Outcome State Fault Refusal :=
  issue noPre (uniOp d fun g => (g.readK a) + (g.readK b)) (.kadd d a b) s
/-- `ksub` (R155). -/
def execKsub (d a b : BitVec 8) (s : State) : Host.Outcome State Fault Refusal :=
  issue noPre (uniOp d fun g => (g.readK a) - (g.readK b)) (.ksub d a b) s
/-- `kmul` (R155). -/
def execKmul (d a b : BitVec 8) (s : State) : Host.Outcome State Fault Refusal :=
  issue noPre (uniOp d fun g => (g.readK a) * (g.readK b)) (.kmul d a b) s
/-- `kmulh` (R155). -/
def execKmulh (d a b : BitVec 8) (s : State) : Host.Outcome State Fault Refusal :=
  issue noPre (uniOp d fun g => kMulh (g.readK a) (g.readK b)) (.kmulh d a b) s
/-- `kand` (R155). -/
def execKand (d a b : BitVec 8) (s : State) : Host.Outcome State Fault Refusal :=
  issue noPre (uniOp d fun g => (g.readK a) &&& (g.readK b)) (.kand d a b) s
/-- `kor` (R155). -/
def execKor (d a b : BitVec 8) (s : State) : Host.Outcome State Fault Refusal :=
  issue noPre (uniOp d fun g => (g.readK a) ||| (g.readK b)) (.kor d a b) s
/-- `kxor` (R155). -/
def execKxor (d a b : BitVec 8) (s : State) : Host.Outcome State Fault Refusal :=
  issue noPre (uniOp d fun g => (g.readK a) ^^^ (g.readK b)) (.kxor d a b) s
/-- `kshl` (R155). -/
def execKshl (d a b : BitVec 8) (s : State) : Host.Outcome State Fault Refusal :=
  issue noPre (uniOp d fun g => kShl (g.readK a) (g.readK b)) (.kshl d a b) s
/-- `kshr` (R155). -/
def execKshr (d a b : BitVec 8) (s : State) : Host.Outcome State Fault Refusal :=
  issue noPre (uniOp d fun g => kShr (g.readK a) (g.readK b)) (.kshr d a b) s
/-- `ksar` (R155). -/
def execKsar (d a b : BitVec 8) (s : State) : Host.Outcome State Fault Refusal :=
  issue noPre (uniOp d fun g => kSar (g.readK a) (g.readK b)) (.ksar d a b) s
/-- `kmin` (R155). -/
def execKmin (d a b : BitVec 8) (s : State) : Host.Outcome State Fault Refusal :=
  issue noPre (uniOp d fun g => if (g.readK a).toInt ≤ (g.readK b).toInt then (g.readK a) else (g.readK b)) (.kmin d a b) s
/-- `kmax` (R155). -/
def execKmax (d a b : BitVec 8) (s : State) : Host.Outcome State Fault Refusal :=
  issue noPre (uniOp d fun g => if (g.readK a).toInt ≤ (g.readK b).toInt then (g.readK b) else (g.readK a)) (.kmax d a b) s
/-- `kmov` (R155). -/
def execKmov (d b : BitVec 8) (s : State) : Host.Outcome State Fault Refusal :=
  issue noPre (uniOp d fun g => g.readK b) (.kmov d b) s
/-- `kmovi` with its immediate. -/
def kmoviOp (d : BitVec 8) (imm : BitVec 16) : Meaning := fun _ w c => c.retire w (c.grp.writeK d (match w.lit with
  | some l => l.extractLsb' 0 16 ++ imm
  | none => imm.signExtend 32))
/-- `kmovi` (R155). -/
def execKmovi (d : BitVec 8) (imm : BitVec 16) (s : State) : Host.Outcome State Fault Refusal :=
  issue noPre (kmoviOp d imm) (.kmovi d imm) s
/-- `kcmp` (R155). -/
def execKcmp (d a b : BitVec 8) (s : State) : Host.Outcome State Fault Refusal :=
  issue noPre (uniQ d fun g => kCond d (g.readK a) (g.readK b)) (.kcmp d a b) s
/-- `ksel` (R155). -/
def execKsel (d a b : BitVec 8) (s : State) : Host.Outcome State Fault Refusal :=
  issue noPre (uniOp d fun g => if g.readQ b.toNat then g.readK a else g.readK d) (.ksel d a b) s
/-- `qand` (R155). -/
def execQand (d a b : BitVec 8) (s : State) : Host.Outcome State Fault Refusal :=
  issue noPre (uniQ d fun g => g.readQ a.toNat && g.readQ b.toNat) (.qand d a b) s
/-- `qor` (R155). -/
def execQor (d a b : BitVec 8) (s : State) : Host.Outcome State Fault Refusal :=
  issue noPre (uniQ d fun g => g.readQ a.toNat || g.readQ b.toNat) (.qor d a b) s
/-- `qnot` (R155). -/
def execQnot (d b : BitVec 8) (s : State) : Host.Outcome State Fault Refusal :=
  issue noPre (uniQ d fun g => !g.readQ b.toNat) (.qnot d b) s

end Sys2Proof.Machine
end

