-- ==== Sys2Proof/Machine/Control.lean ====
section
/-! DEFINITION. Branches, jumps, calls, lane divergence, the mode register, the logical clock and quotas, first bytes 0xA0 to 0xAF and
0x9F (R156 to R171), but for `exit` (Machine/Matrix.lean) and `cede` (Machine/Ordering.lean). -/

namespace Sys2Proof.Machine

/-- A code address moved by bytes; the object index never changes (spec 08, before R156; DEDUCED, log 40). -/
def pcMove (pc : Dword) (n : Int) : Dword := pc.extractLsb' 40 24 ++ (pc.extractLsb' 0 40 + BitVec.ofInt 40 n)

/-- The address of the word at issue, after its `lit` (R49). -/
def wordPc (w : Iss) (g : Group) : Dword := if w.lit.isSome then pcMove g.pc 4 else g.pc

/-- A branch target: 16 bits of word offset, or 32 with a `lit`, from the word itself (R35, R49). -/
def branchTarget (w : Iss) (g : Group) (imm : BitVec 16) : Dword :=
  pcMove (wordPc w g) (4 * (match w.lit with
    | some l => (l.extractLsb' 0 16 ++ imm).toInt
    | none => imm.toInt))

/-- `br` (R156). -/
def brOp (d : BitVec 8) (imm : BitVec 16) : Meaning := fun _ w c =>
  let g := c.grp
  { c with grp := if g.readQ d.toNat then g.retireTo w (branchTarget w g imm) else g.retire w }

/-- `jmp` (R157). -/
def jmpOp (off : BitVec 24) : Meaning := fun _ w c => { c with grp := c.grp.retireTo w (pcMove c.grp.pc (4 * off.toInt)) }

/-- `call` (R157). -/
def callOp (off : BitVec 24) : Meaning := fun _ w c =>
  let g := c.grp
  { c with grp := (g.writeKK 158 (pcMove g.pc 4)).retireTo w (pcMove g.pc (4 * off.toInt)) }

/-- The checks of a jump target (R158): alignment, extent, then x, each with the address it reports (DEDUCED, log 12). -/
def targetTrap (c : Cpu) (m : Cells) (t : Dword) : Option Trap :=
  if t.toNat % 4 ≠ 0 then some (addrTrap 2 2 t.toNat 0)
  else match c.record m (baseObj t) with
    | none => some (addrTrap 3 2 t.toNat 0)
    | some r =>
      if r.ext < baseOff t + 4 then some (addrTrap 3 1 t.toNat 0)
      else if hasPerm r 4 then none else some (addrTrap 5 1 t.toNat 0)

/-- `jmpk` and `ret` (R158). -/
def jmpkOp (a : BitVec 8) : Meaning := fun m w c =>
  let t := c.grp.readKK a
  let c := touchRecord m (baseObj t) c
  match targetTrap c m t with
  | some e => c.trap w e
  | none => { c with grp := c.grp.retireTo w t }

/-- The reconvergence stack, the top first. -/
def Group.joins (g : Group) : List SEntry := g.fromBank fun b => b.stack
def Group.setJoins (g : Group) (l : List SEntry) : Group := g.onBank fun b => { b with stack := l }
def Group.setLanes (g : Group) (x : Word) : Group := g.onBank fun b => { b with c := x }
/-- The depth the stack may reach: 32, or 4 in the window (R159, R300). -/
def Group.joinLimit (g : Group) : Nat := if g.inWin then 4 else 32

/-- `mkj` (R159). -/
def mkjOp (imm : BitVec 16) : Meaning := fun _ w c =>
  let g := c.grp
  if g.joinLimit ≤ g.joins.length then c.trap w (modeTrap g 2)
  else c.retire w (g.setJoins (⟨branchTarget w g imm, g.lanes, 0, 0⟩ :: g.joins))

/-- `brv` (R160). -/
def brvOp (d : BitVec 8) (imm : BitVec 16) : Meaning := fun _ w c =>
  let g := c.grp
  let target := branchTarget w g imm
  match g.joins with
  | [] => c.trap w (modeTrap g 2)
  | top :: rest =>
    let x := g.lanes &&& g.readP d.toNat
    let f := g.lanes &&& ~~~x
    if x = 0 then c.retire w g
    else if target = top.j then
      { c with grp := if f = 0 then (g.setLanes f).retireTo w top.j else (g.setLanes f).retire w }
    else if f = 0 then { c with grp := g.retireTo w target }
    else if top.p ≠ 0 then c.trap w (modeTrap g 2)
    else c.retire w ((g.setJoins ({ top with p := x, t := target } :: rest)).setLanes f)

/-- `jn` (R161). -/
def jnOp : Meaning := fun _ w c =>
  let g := c.grp
  match g.joins with
  | [] => c.trap w (modeTrap g 2)
  | top :: rest =>
    if top.j ≠ g.pc then c.trap w (modeTrap g 2)
    else if top.p ≠ 0 then
      { c with grp := ((g.setLanes top.p).setJoins ({ top with p := 0 } :: rest)).retireTo w top.t }
    else c.retire w ((g.setLanes top.s).setJoins rest)

/-- `mdset` (R165). -/
def mdsetOp (imm : BitVec 16) : Meaning := fun _ w c => c.retire w (c.grp.onBank fun b => { b with md := imm })

/-- `lcadv` (R168): the clock may not reach 2^63. -/
def lcadvOp (a : BitVec 8) : Meaning := fun _ w c =>
  let g := c.grp
  let n := (g.readK a).toNat
  if 2 ^ 63 ≤ g.lc + 1 + n then c.trap w (modeTrap g 3)
  else c.retire w { g with lc := g.lc + n }

/-- The block of the group in hand. -/
def Ctx.block (x : Ctx) (g : Group) : Option Block := x.blocks.find? fun b => b.lord == g.lord && b.blk == g.blk

/-- Change the block of a group. -/
def Ctx.setBlock (x : Ctx) (b : Block) : Ctx :=
  { x with blocks := x.blocks.map fun b' => if b'.lord == b.lord && b'.blk == b.blk then b else b' }

/-- Change one of the other groups. -/
def Ctx.onGroup (x : Ctx) (gid : Nat) (f : Group → Group) : Ctx :=
  { x with groups := x.groups.map fun h => if h.gid == gid then f h else h }

/-- A group that has neither exited nor never been (R97). -/
def Group.live (g : Group) : Bool := g.status != .exited && g.status != .absent

/-- `rqset` (R170). -/
def rqsetOp (a : BitVec 8) : Meaning := fun _ w c => c.retire w { c.grp with quota := min (c.grp.readK a).toNat 29 }

/-- `rqmove` (R171). -/
def rqmoveOp (d a : BitVec 8) : Meaning := fun _ w c =>
  let g := c.grp
  let t := (g.readK d).toNat
  let n := (g.readK a).toNat
  if ((c.ctx.block g).map Block.g).getD 0 ≤ t then c.trap w (modeTrap g 4)
  else if t = g.gix then c.retire w g
  else
    let m := min n (min 29 g.quota)
    let give := fun h : Group => if h.live then { h with quota := min (h.quota + m) 29 } else h
    ({ c with ctx := c.ctx.onGroup (g.gid - g.gix + t) give } : Cpu).retire w { g with quota := g.quota - m }

/-! ### One meaning per word -/

/-- `br` (R156). -/
def execBr (d : BitVec 8) (imm : BitVec 16) (s : State) : Host.Outcome State Fault Refusal :=
  issue noPre (brOp d imm) (.br d imm) s
/-- `jmp` (R157). -/
def execJmp (off : BitVec 24) (s : State) : Host.Outcome State Fault Refusal := issue noPre (jmpOp off) (.jmp off) s
/-- `call` (R157). -/
def execCall (off : BitVec 24) (s : State) : Host.Outcome State Fault Refusal := issue noPre (callOp off) (.call off) s
/-- `ret` (R158). -/
def execRet (a : BitVec 8) (s : State) : Host.Outcome State Fault Refusal := issue noPre (jmpkOp a) (.ret a) s
/-- `jmpk` (R158). -/
def execJmpk (a : BitVec 8) (s : State) : Host.Outcome State Fault Refusal := issue noPre (jmpkOp a) (.jmpk a) s
/-- `mkj` (R159). -/
def execMkj (imm : BitVec 16) (s : State) : Host.Outcome State Fault Refusal := issue noPre (mkjOp imm) (.mkj imm) s
/-- `brv` (R160). -/
def execBrv (d : BitVec 8) (imm : BitVec 16) (s : State) : Host.Outcome State Fault Refusal :=
  issue noPre (brvOp d imm) (.brv d imm) s
/-- `jn` (R161). -/
def execJn (s : State) : Host.Outcome State Fault Refusal := issue noPre jnOp .jn s
/-- `nop` (R164). -/
def execNop (s : State) : Host.Outcome State Fault Refusal := issue noPre (fun _ w c => c.retire w c.grp) .nop s
/-- `mdset` (R165). -/
def execMdset (imm : BitVec 16) (s : State) : Host.Outcome State Fault Refusal := issue noPre (mdsetOp imm) (.mdset imm) s
/-- `mdget` (R166). -/
def execMdget (d : BitVec 8) (s : State) : Host.Outcome State Fault Refusal :=
  issue noPre (uniOp d fun g => g.md.setWidth 32) (.mdget d) s
/-- `lcrd` (R167). -/
def execLcrd (d : BitVec 8) (s : State) : Host.Outcome State Fault Refusal :=
  issue noPre (fun _ w c => c.retire w (c.grp.writeKK d (BitVec.ofNat 64 c.grp.lc))) (.lcrd d) s
/-- `lcadv` (R168). -/
def execLcadv (a : BitVec 8) (s : State) : Host.Outcome State Fault Refusal := issue noPre (lcadvOp a) (.lcadv a) s
/-- `rqset` (R170). -/
def execRqset (a : BitVec 8) (s : State) : Host.Outcome State Fault Refusal := issue noPre (rqsetOp a) (.rqset a) s
/-- `rqmove` (R171). -/
def execRqmove (d a : BitVec 8) (s : State) : Host.Outcome State Fault Refusal :=
  issue noPre (rqmoveOp d a) (.rqmove d a) s

end Sys2Proof.Machine
end

