-- ==== Sys2Proof/Machine/Send.lean ====
section
/-! DEFINITION. Sending on the Corku fabric: routes and detours (R331, R332), sequence numbers and the retry buffer (R338). -/

namespace Sys2Proof.Machine

/-- The link between two modules is failed, as this module knows it (R332). -/
def linkFailed (h : Module) (a b : Nat) : Bool := (min a b, max a b) ∈ h.failed

/-- The hops of the minimal route (R331). -/
def minimalRoute (a b : Nat) : List Nat :=
  let corner := 8 * (a / 8) + b % 8
  (if corner = a then [] else [corner]) ++ (if b = corner then [] else [b])

/-- A route uses no failed link. -/
def routeUp (h : Module) : Nat → List Nat → Bool
  | _, [] => true
  | a, b :: r => !linkFailed h a b && routeUp h b r

/-- The route to a module: minimal, or the detour of R332; none when it is unreachable. -/
def routeTo (h : Module) (b : Nat) : Option (List Nat) :=
  let a := h.number
  if routeUp h a (minimalRoute a b) then some (minimalRoute a b)
  else ((moduleList h).find? fun i => i != a && i != b && (i / 8 == a / 8 || i % 8 == a % 8) && !linkFailed h a i
      && routeUp h i (minimalRoute i b)).map fun i => i :: minimalRoute i b

/-- The sequence number next used towards a module (R338). -/
def nextSeq (h : Module) (b : Nat) : Nat := rd 0 h.seqs b

/-- The oldest number outstanding to a module. -/
def oldestSeq (h : Module) (b : Nat) : Option Nat := ((h.retry.filter fun p => p.dst == b).head?).map fun p => p.seq

/-- A sequence number is within the window that the pair's outstanding packets span (R338). -/
def inSendWindow (h : Module) (b s : Nat) : Bool :=
  match oldestSeq h b with
  | none => true
  | some o => (s + 65536 - o) % 65536 < Config.seqWindow

/-- Send a packet that carries a sequence number: it goes to the retry buffer, and out unless the window makes it wait (R338). It counts
as sent in its leg (DESIGN CHOICE, log 14). -/
def sendSeq (h : Module) (ctx leg typ dst : Nat) (body : PBody) : Module :=
  let s := nextSeq h dst
  let p : Packet := ⟨typ, h.number, dst, s, leg % 65536, 0, ctx, body⟩
  { h with
    seqs := wr 0 h.seqs dst ((s + 1) % 65536)
    outbox := if inSendWindow h dst s then h.outbox ++ [p] else h.outbox
    retry := h.retry ++ [p]
    sentLog := h.sentLog ++ [⟨ctx, leg % 65536, dst, s⟩] }

/-- Send a control packet (R333). -/
def sendControl (h : Module) (ctx leg typ dst : Nat) (body : PBody) : Module :=
  { h with outbox := h.outbox ++ [⟨typ, h.number, dst, 0, leg % 65536, 0, ctx, body⟩] }

/-- Send for the context in hand. -/
def Cpu.send (c : Cpu) (typ dst : Nat) (body : PBody) : Cpu :=
  { c with hw := sendSeq c.hw c.ctx.key c.ctx.leg typ dst body }

end Sys2Proof.Machine
end

