-- ==== Sys2Proof/Machine/Memory.lean ====
section
/-! DEFINITION. Who sees which write: plain loads (R100, R103), stores into the sketch and through (R88, R89, R103), publications (R81),
tags and classes (R104, R106), waits on translation (R281, R282) and remote lines (R343, R344). -/

namespace Sys2Proof.Machine

/-- The stamp of what the group in hand does now (R80). -/
def Group.stamp (g : Group) : Stamp := ⟨g.lc, g.gid⟩

/-! ### Reading -/

/-- The bytes that a group's sketch holds. -/
def sketchByte (sk : List (Nat × Cells)) (a : Nat) : Option Byte := (get? sk (lineOf a)).bind fun s => get? s a

/-- A version is seen by a group: its own, or under its view (R100). -/
def seesVersion (self gid : Nat) (view : Option (Stamp × Scope)) (u : Version) : Bool :=
  u.stamp.gid == gid ||
    (match view with
      | some (v, sc) => (sc == .system || u.module == self) && Stamp.le u.stamp v
      | none => false)

/-- The highest-stamped byte that a test admits, among versions. Of a release and the operation that made it, which share a stamp, the
operation is the later (R84, R375). -/
def newestByte (ok : Version → Bool) (us : List Version) (a : Nat) : Option (Stamp × Byte) :=
  us.foldl (fun best u =>
    match if ok u then get? u.cells a else none with
    | none => best
    | some x =>
      match best with
      | none => some (u.stamp, x)
      | some (s, y) => if Stamp.lt s u.stamp || (s == u.stamp && u.ord.isSome) then some (u.stamp, x) else some (s, y)) none

/-- A group's own publications on their way to this home: it sees them whether or not they have arrived (R100, R375). -/
def ownFlight (gid : Nat) : List Flying → List Version
  | [] => []
  | .publication st cs :: l => if st.gid = gid then ⟨st, 0, none, cs⟩ :: ownFlight gid l else ownFlight gid l
  | .contribution _ :: l => ownFlight gid l

/-- What a plain load of a group of a module selects at the home, below the sketch (R100, R103). -/
def homeByteFor (self : Nat) (c : Cpu) (m : Cells) (r : Record) (gid : Nat) (view : Option (Stamp × Scope)) (a : Nat) : Byte :=
  let base := baseByte m r (vaOff a)
  match r.mode with
  | 2 => base
  | 1 | 3 => (((get? c.ctx.parcel gid).getD []) |> fun s => get? s a).getD base
  | _ => ((newestByte (seesVersion self gid view) (c.ctx.versions ++ ownFlight gid c.ctx.flight) a).map Prod.snd).getD base

/-- The same for a group of this module. -/
def homeByte (c : Cpu) (m : Cells) (r : Record) (gid : Nat) (view : Option (Stamp × Scope)) (a : Nat) : Byte :=
  homeByteFor c.hw.number c m r gid view a

/-- A byte as the group in hand loads it (R100, R103): the sketch, then an answer from another module, then the home. -/
def loadByte (c : Cpu) (m : Cells) (r : Record) (a : Nat) : Byte :=
  match sketchByte c.grp.sketch a with
  | some x => x
  | none =>
    match get? c.grp.fills (lineOf a) with
    | some (some l) => rd 0 l a
    | some none => 0xFF
    | none => homeByte c m r c.grp.gid c.grp.view a

/-! ### Tags and classes -/

/-- Set a tag of R104 on a PARCEL or PRIVATE line. -/
def tagLine (x : Ctx) (r : Record) (gid : Nat) (wrote : Bool) (a : Nat) : Ctx :=
  if r.mode == 1 || r.mode == 3 then { x with ptags := insertNew x.ptags ⟨lineOf a, gid, wrote⟩ } else x

/-- Mark the word of a byte (R106). -/
def markWord (x : Ctx) (cls kind : Nat) (scope : Option Scope) (gid module a : Nat) : Ctx :=
  { x with marks := insertNew x.marks ⟨a - a % 4, cls, kind, scope, gid, module⟩ }

/-- Mark the words of stored bytes plain. -/
def markPlain (x : Ctx) (gid module : Nat) (s : Cells) : Ctx := s.foldl (fun y e => markWord y 1 0 none gid module e.1) x

/-! ### Publishing and storing -/

/-- One byte's home is on this module (host-homed bytes count as here). -/
def bytesHere (h : Module) (r : Option Record) (a : Nat) : Option Nat :=
  match r with
  | some r => homedAway h r (vaOff a)
  | none => none

/-- Send one sketch line as a publication, here or to its home (R81, R343). -/
def publishLine (m : Cells) (st : Stamp) (c : Cpu) (l : Nat × Cells) : Cpu :=
  match bytesHere c.hw (c.record m (vaObj l.1)) l.1 with
  | some n => c.send 3 n (.publication st l.1 l.2 false)
  | none => { c with ctx := { c.ctx with flight := c.ctx.flight ++ [.publication st l.2] } }

/-- Send every line of a sketch as publications with one stamp. -/
def publishAll (m : Cells) (st : Stamp) (sk : List (Nat × Cells)) (c : Cpu) : Cpu := sk.foldl (publishLine m st) c

/-- Release: the sketch goes out at the group's stamp and is emptied (R84, R89). -/
def release (m : Cells) (c : Cpu) : Cpu :=
  { publishAll m c.grp.stamp c.grp.sketch c with grp := { c.grp with sketch := [] } }

/-- Bytes merged into a sketch, later bytes over earlier ones (R88). -/
def sketchMerge (sk : List (Nat × Cells)) (s : Cells) : List (Nat × Cells) :=
  (byLine s).foldl (fun k l => put k l.1 (putAll ((get? k l.1).getD []) l.2)) sk

/-- A store into the sketch, with the implicit release of R89. `more` are the lines of its lanes that wait on translation: they count as the
store's, so that its release falls where it would without a wait (R89, R130, R305). -/
def sketchStore (m : Cells) (c : Cpu) (s : Cells) (more : List Nat) : Cpu :=
  let lines := byLine s
  let late := more.filter fun l => !decide (l ∈ lines.map Prod.fst)
  let fresh := lines.filter fun l => (get? c.grp.sketch l.1).isNone
  if c.grp.bulk || Config.sketchLines < lines.length + late.length then
    { publishAll m c.grp.stamp (sketchMerge c.grp.sketch s) c with grp := { c.grp with sketch := [], bulk := !more.isEmpty } }
  else if Config.sketchLines < c.grp.sketch.length + (fresh.length + (late.filter fun l => (get? c.grp.sketch l).isNone).length) then
    let c := release m c
    { c with grp := { c.grp with sketch := lines } }
  else { c with grp := { c.grp with sketch := sketchMerge c.grp.sketch s } }

/-- Send a write-combining entry, in the name of its own context and leg (R344). -/
def sendWc (c : Cpu) (e : WcEntry) : Cpu :=
  { c with hw := sendSeq { c.hw with wcb := c.hw.wcb.filter fun x => x != e } e.ctx e.leg 2 e.module (.lineWrite e.gid none e.cells []) }

/-- A write-through to a line homed on another module (R343, R344): into the core's buffer. -/
def wcStore (c : Cpu) (n : Nat) (l : Nat × Cells) : Cpu :=
  let g := c.grp
  let here := fun e : WcEntry => e.core == g.core && e.ctx == c.ctx.key && e.module == n && e.line == l.1
  let c := ((c.hw.wcb.filter fun e => here e && e.gid != g.gid)).foldl sendWc c
  let held := (c.hw.wcb.find? fun e => here e && e.gid == g.gid)
  let e : WcEntry := ⟨g.core, c.ctx.key, c.ctx.leg, n, l.1, g.gid, putAll ((held.map fun x => x.cells).getD []) l.2⟩
  let rest := c.hw.wcb.filter fun x => some x != held
  let mine := fun x : WcEntry => x.core == g.core && x.ctx == c.ctx.key
  let full := (rest.filter mine).length ≥ 64
  let c := if full then (match rest.find? mine with
      | some x => sendWc { c with hw := { c.hw with wcb := rest } } x
      | none => c) else { c with hw := { c.hw with wcb := rest } }
  let c := { c with hw := { c.hw with wcb := c.hw.wcb ++ [e] } }
  if e.cells.length = 128 then sendWc c e else c

/-- A write-through at its home (R103): the group's own bytes of the leg. -/
def parcelPut (x : Ctx) (gid : Nat) (s : Cells) : Ctx :=
  { x with parcel := put x.parcel gid (putAll ((get? x.parcel gid).getD []) s) }

/-- A plain store of bytes of one object by the group in hand (R102, R175), of which lanes on the lines `more` still wait. -/
def plainStore (m : Cells) (r : Record) (c : Cpu) (s : Cells) (more : List Nat) : Cpu :=
  let g := c.grp
  let mine := s.filter fun e => (homedAway c.hw r (vaOff e.1)).isNone
  let c := { c with ctx := markPlain c.ctx g.gid c.hw.number mine }
  if r.mode == 1 || r.mode == 3 then
    let c := { c with ctx := parcelPut (mine.foldl (fun x e => tagLine x r g.gid true e.1) c.ctx) g.gid mine }
    (byLine s).foldl (fun c l =>
      match homedAway c.hw r (vaOff l.1) with
      | some n => wcStore c n l
      | none => c) c
  else sketchStore m c s more

/-! ### Waits -/

/-- What holds an access up (R281): the map entry and the event kind of R292 (0 for none). -/
def blocked (through : Bool) : Tr → Option (Nat × Nat)
  | .at _ => none
  | .zero e => if through then some (e, 2) else none
  | .absent e => some (e, 1)
  | .moving e => some (e, 0)
  | .malformed e => some (e, 3)

/-- What holds up an access to `size` bytes, which lie in two sub-tiles at most (R281, R292). An object homed elsewhere is translated there. -/
def accessBlocks (m : Cells) (r : Record) (through : Bool) (off size : Nat) : List (Nat × Nat) :=
  if r.host.isSome then []
  else ([off, off + size - 1].filterMap fun o => blocked through (translate m r o)).eraseDups

/-- The first of them. -/
def accessBlock (m : Cells) (r : Record) (through : Bool) (off size : Nat) : Option (Nat × Nat) := (accessBlocks m r through off size).head?

/-- A store that reaches the frame rather than the sketch (R281). -/
def storesThrough (r : Record) : Bool := r.mode == 1 || r.mode == 3

/-- The event of a sub-tile that something waits on, raised once while it stays unserviced (R292). -/
def noteSubtile (c : Cpu) (va : Nat) (b : Nat × Nat) : Cpu :=
  if b.2 = 0 || b.1 ∈ c.ctx.xlatEvents then c
  else { c.event b.2 c.grp.gid va b.1 with ctx := { c.ctx with xlatEvents := c.ctx.xlatEvents ++ [b.1] } }

/-- Wait on the sub-tiles of some addresses (R281); one with a malformed entry, kind 3, suspends the context at once (R292). -/
def waitSubtiles (c : Cpu) (ws : List (Nat × (Nat × Nat))) : Cpu :=
  match ws.find? fun x => x.2.2 == 3 with
  | some (va, b) => ((c.event 3 c.grp.gid va b.1).logs 34 3 (BitVec.ofNat 64 va)).suspend
  | none =>
    let c := ws.foldl (fun c x => noteSubtile c x.1 x.2) c
    { c with grp := { c.grp with status := .xlat ((ws.map fun x => x.2.1).eraseDups) } }

/-- Wait on one sub-tile. -/
def waitSubtile (c : Cpu) (va : Nat) (b : Nat × Nat) : Cpu := waitSubtiles c [(va, b)]

/-- The lines of these bytes that are homed on another module and not yet answered (R343). -/
def missingLines (c : Cpu) (r : Record) (as : List Nat) : List Nat :=
  as.foldl (fun l a =>
    if (homedAway c.hw r (vaOff a)).isSome && (get? c.grp.fills (lineOf a)).isNone && (sketchByte c.grp.sketch a).isNone
    then insertNew l (lineOf a) else l) []

/-- The writes of a line by a group of context `ctx` that its home has not yet acknowledged. -/
def unackedWrites (h : Module) (ctx gid line : Nat) : List (Nat × Nat) :=
  (h.retry.filter fun p => p.ctx == ctx && (match p.body with
    | .publication st l _ _ => st.gid == gid && l == line
    | .lineWrite q _ cs _ => q == gid && cs.any fun e => lineOf e.1 == line
    | _ => false)).map fun p => (p.seq, p.dst)

/-- Ask the homes for lines and wait for the answers. The group's own writes of a line go first (R344),
and the request waits until they are acknowledged, so that the home's answer holds them (R375). -/
def askLines (use : ReadUse) (c : Cpu) (r : Record) (ls : List Nat) : Cpu :=
  let ask := fun (acc : Cpu × List (Nat × Nat)) (l : Nat) =>
    match homedAway acc.1.hw r (vaOff l) with
    | none => acc
    | some n =>
      let c := (acc.1.hw.wcb.filter fun e => e.ctx == acc.1.ctx.key && e.line == l && e.gid == acc.1.grp.gid).foldl sendWc acc.1
      match unackedWrites c.hw c.ctx.key c.grp.gid l with
      | [] => (c.send 0 n (.readReq l c.grp.gid c.grp.view use), acc.2 ++ [(nextSeq c.hw n, n)])
      | ws => (c, acc.2 ++ ws)
  let r := ls.foldl ask (c, [])
  { r.1 with grp := { r.1.grp with status := .remote r.2 } }

end Sys2Proof.Machine
end

