-- ==== Sys2Proof/Machine/Image.lean ====
section
/-! DEFINITION. The context image (R297, R298): its view through the trap window (R303), its stored form with the line formats of R16,
and its saving and restoring (R307, R310, R17). -/

namespace Sys2Proof.Machine

/-- A field of the image: offset, bytes, value. -/
abbrev Seg := Nat × Nat × Nat

/-- A register line as 32 words at an offset. -/
def lineSegs (off : Nat) (x : Line) : List Seg := (List.range 32).map fun j => (off + 4 * j, 4, (laneAt x j).toNat)

/-! ### Line formats (R16) -/

/-- A signed difference of n bits from w0. -/
def deltaFits (n : Nat) (x : Line) : Bool :=
  (List.range 32).all fun j => let d := (laneAt x j - laneAt x 0).toInt; decide (-(2 ^ (n - 1) : Int) ≤ d) && decide (d < 2 ^ (n - 1))

/-- The format of an evicted line: the fewest bytes that represent it exactly. -/
def lineFormat (x : Line) : Nat :=
  let w0 := laneAt x 0
  if (List.range 32).all fun j => laneAt x j == 0 then 5
  else if (List.range 32).all fun j => laneAt x j == w0 then 1
  else if (List.range 32).all fun j => laneAt x j == w0 + BitVec.ofNat 32 j * (laneAt x 1 - w0) then 4
  else if deltaFits 8 x then 2
  else if deltaFits 16 x then 3
  else 0

/-- The stored bytes of a line, as segments of its slot; the rest of the slot is zero. -/
def storedLine (off : Nat) (x : Line) : List Seg :=
  let w0 := (laneAt x 0).toNat
  let d := fun j => (laneAt x j - laneAt x 0).toNat
  match lineFormat x with
  | 5 => []
  | 1 => [(off, 4, w0)]
  | 4 => [(off, 4, w0), (off + 4, 4, d 1)]
  | 2 => (off, 4, w0) :: (List.range 32).map fun j => (off + 4 + j, 1, d j % 256)
  | 3 => (off, 4, w0) :: (List.range 32).map fun j => (off + 4 + 2 * j, 2, d j % 65536)
  | _ => lineSegs off x

/-- A format byte of R16; the others are reserved. -/
def formatOk (fmt : Nat) : Bool := fmt ≤ 5

/-- A line rebuilt from its slot. What a register holds whose format byte is reserved is a free value (R17; DESIGN CHOICE, log 46). -/
def rebuildLine (get : Nat → Byte) (off fmt : Nat) : Line :=
  let w := fun a n => leNat get a n
  let w0 := BitVec.ofNat 32 (w off 4)
  let build := fun f : Nat → Word => (Vector.ofFn fun (j : Fin 32) => f j.val : Line)
  match fmt with
  | 5 => build fun _ => 0
  | 1 => build fun _ => w0
  | 4 => build fun j => w0 + BitVec.ofNat 32 (j * w (off + 4) 4)
  | 2 => build fun j => w0 + (BitVec.ofNat 8 (w (off + 4 + j) 1)).signExtend 32
  | 3 => build fun j => w0 + (BitVec.ofNat 16 (w (off + 4 + 2 * j) 2)).signExtend 32
  | 0 => build fun j => BitVec.ofNat 32 (w (off + 4 * j) 4)
  | _ => build fun j => Config.reservedLine fmt j

/-! ### The fields -/

/-- The frame header (R299). -/
def headerSegs (g : Group) (cmask : Word) (pc : Dword) : List Seg :=
  let f := g.frame
  [(0, 8, pc.toNat), (8, 8, f.lc.toNat), (0x10, 8, f.vlc.toNat), (0x18, 8, f.vgid.toNat), (0x20, 2, g.main.md.toNat),
   (0x22, 1, g.flg.toNat), (0x24, 1, f.cls.toNat), (0x26, 2, f.code.toNat), (0x28, 4, f.word.toNat), (0x2C, 4, f.ext.toNat),
   (0x30, 8, f.faddr.toNat), (0x38, 4, f.fmask.toNat), (0x3C, 4, cmask.toNat), (0x40, 4, f.nmore.toNat), (0x48, 8, g.gid),
   (0x50, 8, f.info0.toNat), (0x58, 8, f.info1.toNat)]

/-- Entries of a reconvergence stack, the bottom first. -/
def stackSegs (off : Nat) (st : List SEntry) : List Seg :=
  (st.reverse.zipIdx).flatMap fun e =>
    let a := off + 32 * e.2
    [(a, 8, e.1.j.toNat), (a + 8, 4, e.1.s.toNat), (a + 12, 4, e.1.p.toNat), (a + 16, 8, e.1.t.toNat)]

/-- Bits, one per predicate. -/
def qBits (q : Vector Bool 7) : Nat := (List.range 7).foldl (fun s i => if (q[i]?).getD false then s + 2 ^ i else s) 0

/-- One bit per closed batch that is not complete (R298). -/
def batchBits (g : Group) : Nat :=
  g.batches.foldl (fun s b => match b.num with | some n => s ||| 2 ^ n | none => s) 0

/-- Uniform registers, predicates, C, the depth word, FPFLAGS, TRAPV, FSTAT, the bypass state and the stack (R298). -/
def scalarSegs (g : Group) (quota : Nat) : List Seg :=
  let b := g.main
  ((List.range 160).map fun n => (0x300 + 4 * n, 4, (b.readK n).toNat)) ++
  ((List.range 7).map fun n => (0x580 + 4 * n, 4, ((b.p[n]?).getD 0).toNat)) ++
  [(0x59C, 4, qBits b.q), (0x5A0, 4, b.c.toNat), (0x5A4, 4, b.stack.length + 256 * g.nb + 65536 * batchBits g),
   (0x5A8, 4, g.fpflags.toNat), (0x5AC, 4, quota), (0x5B0, 8, g.trapv.toNat), (0x5B8, 4, g.fstat.toNat),
   (0x5BC, 4, if g.bypass.isSome then 1 else 0)] ++ stackSegs 0x600 b.stack

/-- o0 to o7 and l0 to l3 at their offsets. -/
def fileSegs {nv nk : Nat} (b : Bank nv nk) (o l : Nat) : List Seg :=
  ((List.range 8).flatMap fun n => lineSegs (o + 128 * n) (b.readReg (232 + n))) ++
  ((List.range 4).flatMap fun n => lineSegs (l + 128 * n) (b.readReg (240 + n)))

/-- The bypass slot (R298). -/
def slotSegs (g : Group) : List Seg := (g.bypass.getD []).map fun e => (0xAC00 + e.1, 1, e.2.toNat)

/-- The formats that R16 gives the registers' values. -/
def formatSegs (g : Group) : List Seg :=
  ((List.range 232).map fun n => (0x100 + n, 1, lineFormat (g.main.readReg n))) ++
  ((List.range 32).map fun n => (0x200 + n, 1, lineFormat (g.win.readReg n)))

/-- A byte of a list of fields; bytes of none read zero. -/
def segByte (l : List Seg) (a : Nat) : Byte :=
  match l.find? fun s => s.1 ≤ a && a < s.1 + s.2.1 with
  | some s => BitVec.ofNat 8 (s.2.2 / 256 ^ (a - s.1))
  | none => 0

/-- A byte of the image through the trap window (R303). -/
def windowByte (g : Group) (a : Nat) : Byte :=
  if a < 0x100 then segByte (headerSegs g g.frame.cmask g.frame.pc) a
  else if a < 0x300 then segByte (formatSegs g) a
  else if a < 0xA00 then segByte (scalarSegs g 0) a
  else if a < 0x1000 then segByte (fileSegs g.main 0xA00 0xE00) a
  else if a < 0x8400 then segByte (lineSegs 0x1000 (g.main.readReg ((a - 0x1000) / 128))) (0x1000 + (a - 0x1000) % 128)
  else if 0xAC00 ≤ a && a < 0x15480 then segByte (slotSegs g) a
  else 0

/-- A number with byte i replaced. -/
def setByte (x i : Nat) (b : Byte) : Nat := x - x / 256 ^ i % 256 * 256 ^ i + b.toNat * 256 ^ i

/-- A line with a byte replaced. -/
def lineSetByte (x : Line) (i : Nat) (b : Byte) : Line :=
  x.setIfInBounds (i / 4) (BitVec.ofNat 32 (setByte (laneAt x (i / 4)).toNat (i % 4) b))

/-- The stack at another depth: deeper entries hold zero (R303). -/
def stackAt (st : List SEntry) (n : Nat) : List SEntry :=
  if st.length < n then List.replicate (n - st.length) ⟨0, 0, 0, 0⟩ ++ st else st.drop (st.length - n)

/-- A stack entry with a byte replaced; its T, which becomes a PC, stays a multiple of 4 (R34; DEDUCED, log 45). -/
def entrySetByte (e : SEntry) (i : Nat) (b : Byte) : SEntry :=
  if i < 8 then { e with j := BitVec.ofNat 64 (setByte e.j.toNat i b) }
  else if i < 12 then { e with s := BitVec.ofNat 32 (setByte e.s.toNat (i - 8) b) }
  else if i < 16 then { e with p := BitVec.ofNat 32 (setByte e.p.toNat (i - 12) b) }
  else if i < 24 then { e with t := BitVec.ofNat 64 (setByte e.t.toNat (i - 16) b) &&& ~~~(3 : Dword) }
  else e

/-- One byte written through the trap window, but for MD (R303). PC stays a multiple of 4 (R34; DEDUCED, log 45). -/
def windowPut (g : Group) (a : Nat) (b : Byte) : Group :=
  let m := g.main
  if a < 8 then { g with frame := { g.frame with pc := BitVec.ofNat 64 (setByte g.frame.pc.toNat a b) &&& ~~~(3 : Dword) } }
  else if 0x3C ≤ a && a < 0x40 then
    { g with frame := { g.frame with cmask := BitVec.ofNat 32 (setByte g.frame.cmask.toNat (a - 0x3C) b) } }
  else if 0x300 ≤ a && a < 0x580 then
    let n := (a - 0x300) / 4
    { g with main := m.writeK n (BitVec.ofNat 32 (setByte (m.readK n).toNat ((a - 0x300) % 4) b)) }
  else if 0x580 ≤ a && a < 0x59C then
    let n := (a - 0x580) / 4
    { g with main := m.writeP n (BitVec.ofNat 32 (setByte (m.readP n).toNat ((a - 0x580) % 4) b)) }
  else if a = 0x59C then { g with main := { m with q := Vector.ofFn fun (i : Fin 7) => b.getLsbD i.val } }
  else if 0x5A0 ≤ a && a < 0x5A4 then { g with main := { m with c := BitVec.ofNat 32 (setByte m.c.toNat (a - 0x5A0) b) } }
  else if a = 0x5A4 then
    let n := b.toNat % 64
    if n ≤ 32 then { g with main := { m with stack := stackAt m.stack n } } else g
  else if a = 0x5A8 then { g with fpflags := b.extractLsb' 0 5 }
  else if 0x5B0 ≤ a && a < 0x5B8 then
    { g with trapv := BitVec.ofNat 64 (setByte g.trapv.toNat (a - 0x5B0) b) &&& ~~~(3 : Dword) }
  else if 0x600 ≤ a && a < 0xA00 then
    let i := m.stack.length - 1 - (a - 0x600) / 32
    if (a - 0x600) / 32 < m.stack.length then
      { g with main := { m with stack := m.stack.modify i fun e => entrySetByte e ((a - 0x600) % 32) b } }
    else g
  else if 0xA00 ≤ a && a < 0xE00 then
    let n := (a - 0xA00) / 128
    { g with main := { m with o := m.o.setIfInBounds n (lineSetByte (m.readReg (232 + n)) ((a - 0xA00) % 128) b) } }
  else if 0xE00 ≤ a && a < 0x1000 then
    let n := (a - 0xE00) / 128
    { g with main := { m with l := m.l.setIfInBounds n (lineSetByte (m.readReg (240 + n)) ((a - 0xE00) % 128) b) } }
  else if 0x1000 ≤ a && a < 0x8400 then
    let n := (a - 0x1000) / 128
    { g with main := { m with v := m.v.setIfInBounds n (lineSetByte (m.readReg n) ((a - 0x1000) % 128) b) } }
  else g

/-- A store through the trap window (R303): the frame's MD is written whole, or discarded when it would hold a reserved value. -/
def windowStore (g : Group) (s : Cells) : Group :=
  let lo := (get? s 0x20).getD (g.main.md.extractLsb' 0 8)
  let hi := (get? s 0x21).getD (g.main.md.extractLsb' 8 8)
  let md : Half := hi ++ lo
  let g := s.foldl (fun g e => windowPut g e.1 e.2) g
  if mdLegal md then { g with main := { g.main with md := md } } else g

/-- An access lies in the group's own image, in its trap window (R303). -/
def ownImage (g : Group) (off : Int) (size : Nat) : Bool :=
  g.inWin && decide ((imageOff g : Int) ≤ off) && decide (off + size ≤ (imageOff g : Int) + 2 ^ 18)

/-! ### The stored image -/

/-- The saved sketch: 16 entries of 256 bytes (R298). -/
def sketchSegs (sk : List (Nat × Cells)) : List Seg :=
  (sk.zipIdx).flatMap fun e =>
    let a := 0x8400 + 256 * e.2
    let mask := e.1.2.foldl (fun s c => s ||| 2 ^ (c.1 % 128)) 0
    (a, 8, e.1.1 + 1) :: (a + 8, 16, mask) :: e.1.2.map fun c => (a + 128 + c.1 % 128, 1, c.2.toNat)

/-- The window's own registers (R298). -/
def windowSegs (g : Group) : List Seg :=
  let b := g.win
  ((List.range 32).flatMap fun n => storedLine (0x9400 + 128 * n) (b.readReg n)) ++ fileSegs b 0xA400 0xA800 ++
  ((List.range 32).map fun n => (0xAA00 + 4 * n, 4, (b.readK n).toNat)) ++
  ((List.range 7).map fun n => (0xAA80 + 4 * n, 4, ((b.p[n]?).getD 0).toNat)) ++
  [(0xAA9C, 4, qBits b.q), (0xAAA0, 4, b.md.toNat), (0xAAA4, 4, b.c.toNat), (0xAAA8, 4, b.stack.length)] ++ stackSegs 0xAAC0 b.stack

/-- A tile as its save area holds it, i the tile of the partition (R298). -/
def tileSegs (i : Nat) (t : List (Nat × Word)) : List Seg := t.map fun e => (0x18000 + 65536 * i + 4 * e.1, 4, e.2.toNat)

/-- The image of a group as it is stored while it is suspended or pre-empted (R298, R307); `tiles` are those it saves. -/
def storedSegs (g : Group) (tiles : List (List (Nat × Word))) : List Seg :=
  headerSegs g (if g.inWin then g.frame.cmask else g.cmask) (if g.inWin then g.frame.pc else g.pc) ++ formatSegs g ++
  scalarSegs g g.quota ++ fileSegs g.main 0xA00 0xE00 ++
  ((List.range 232).flatMap fun n => storedLine (0x1000 + 128 * n) (g.main.readReg n)) ++
  sketchSegs g.sketch ++ windowSegs g ++ slotSegs g ++ (tiles.zipIdx).flatMap fun e => tileSegs e.2 e.1

/-- The bytes of fields. -/
def segCells (l : List Seg) : Cells := l.foldl (fun s x => putAll s (bytesAt x.1 x.2.2 x.2.1)) []

/-- Write bytes of one object through its translation, past every check (the hardware's own accesses); a line with a translation mark
is left alone and the attempt logged by the caller (R287). -/
def objectPut (tmarks : List Nat) (r : Record) (m : Cells) (s : Cells) : Cells :=
  s.foldl (fun m e =>
    match translate m r e.1 with
    | .at pa => if lineOf pa ∈ tmarks then m else memPut m pa e.2
    | _ => m) m

/-- The tiles of a block that a group's image saves: those of its partition, when it has the lowest gid of the live groups there (R298;
DEDUCED, log 30). -/
def savedTiles (x : Ctx) (all : List Group) (g : Group) : List (List (Nat × Word)) :=
  match x.block g with
  | none => []
  | some b =>
    let lower := all.any fun h => h.lord == g.lord && h.blk == g.blk && h.role == g.role && h.part == g.part && h.gid < g.gid && h.live
    if lower then []
    else (List.range b.acc).map fun i =>
      let n := 16 * g.role + (2 * g.part + i)
      let own := b.ownTiles.filter fun e => e.2.1 == n
      match own with
      | [e] => e.2.2
      | _ => (get? b.tiles n).getD []

/-- The code image of an object (R271): from its last `icinv`, else from the context's start (DEDUCED, log 26). -/
def codeImage (x : Ctx) (obj : Nat) : Image := (x.images.find? fun i => i.obj == obj).getD x.loaded

/-- A byte of a code image homed here; of a sub-tile that was moving when the image was taken it is the byte of the frame that was left. An
object whose record was not there then, and a sub-tile that was absent or malformed, are read as they stand (DEDUCED, log 26). -/
def codeByteHere (h : Module) (x : Ctx) (m : Cells) (r : Record) (off : Nat) : Byte :=
  let i := codeImage x r.obj
  match recordOf h i.mem i.objtb r.obj with
  | none => baseByte m r off
  | some r' => match translate i.mem r' off with
    | .absent _ => baseByte m r off
    | .malformed _ => baseByte m r off
    | _ => frameByte i.mem r' off

/-- A byte of code as a group fetches it. A byte of another module comes with the answer to the group's request; a lost one is all ones
(R53). -/
def codeByte (h : Module) (x : Ctx) (m : Cells) (g : Group) (r : Record) (off : Nat) : Byte :=
  if (homedAway h r off).isSome then
    match get? g.fills (lineOf (vaOf r.obj off)) with
    | some (some cells) => (get? cells (vaOf r.obj off)).getD 0
    | _ => 0xFF
  else codeByteHere h x m r off

/-- A word of a code image. -/
def codeWord (h : Module) (x : Ctx) (m : Cells) (g : Group) (r : Record) (off : Nat) : Word :=
  let b := fun i => codeByte h x m g r (off + i)
  wordOfBytes (b 0) (b 1) (b 2) (b 3)

/-- The `lit` that stands at the PC of a group, before the word at PC + 4 (R50, R299). -/
def litAt (h : Module) (x : Ctx) (m : Cells) (g : Group) : Option (BitVec 24) :=
  (recordOf h m x.objtb (baseObj g.pc)).bind fun r =>
    let w := codeWord h x m g r (baseOff g.pc)
    if w.extractLsb' 24 8 = 0xFE#8 then some (w.extractLsb' 0 24) else none

/-- The header that is saved for a group outside its window: CLASS 0, the rest as it stands (R307); or that of the unhandled trap by which it
has suspended its context (R296). -/
def savedFrame (h : Module) (x : Ctx) (m : Cells) (g : Group) : Group :=
  if g.inWin || g.frame.cls != 0 then g else { g with frame := trapFrame g 0 (litAt h x m g) ⟨0, 0, 0, 0, 0, 0⟩ 0 }

/-- A byte of the image that belongs to a register which no fill has found (R17): the register is not in the file, and its slot stays. -/
def badOffset (g : Group) (i : Nat) : Bool :=
  g.badSlots.any fun n => i == 0x100 + n || i / 128 == (if n < 256 then 0x1000 / 128 + n else 0x9400 / 128 + (n - 256))

/-- The lines with a translation mark that the images of groups would be written to: they are left alone, and the attempts are logged
(R287). -/
def lostImages (h : Module) (x : Ctx) (gs : List Group) (m : Cells) : List Nat :=
  if h.tmarks.isEmpty then []
  else match recordOf h m x.objtb 1 with
    | none => []
    | some r => (gs.flatMap fun g => (List.range 2048).filterMap fun i => match translate m r (imageOff g + 128 * i) with
        | .at pa => if lineOf pa ∈ h.tmarks then some (lineOf pa) else none
        | _ => none).eraseDups

/-- Save the images of groups (R307, R298). Without a valid image object nothing is saved. -/
def saveImages (h : Module) (x : Ctx) (all : List Group) (gs : List Group) (m : Cells) : Cells :=
  match recordOf h m x.objtb 1 with
  | none => m
  | some r =>
    gs.foldl (fun m g =>
      let s := segCells (storedSegs (savedFrame h x m g) (savedTiles x all g))
      let base := imageOff g
      objectPut h.tmarks r m (((List.range (2 ^ 18)).filter fun i => !badOffset g i).map fun i => (base + i, (get? s i).getD 0))) m

/-- The save region of a core role's share (R307). -/
def shareBase (x : Ctx) (b : Block) (role : Nat) : Nat :=
  x.scrb.toNat / 4096 % 2 ^ 40 * 4096 + 2 ^ 21 * (b.core + role) + b.offs.getD role 0

/-- A byte of a share as it is saved: what the groups have stored in the epoch, the highest gid last, over the start of the epoch (R307;
DEDUCED, log 30). -/
def sharedByte (b : Block) (a : Nat) : Byte :=
  (b.own.foldl (fun best o => match get? o.2 a with | some x => some x | none => best) none).getD (rd 0 b.pad a)

/-- Write the scratchpad shares of a block to the save region (R307); lines with a translation mark are left alone (R287). -/
def saveShares (h : Module) (x : Ctx) (b : Block) (m : Cells) : Cells :=
  (List.range b.n).foldl (fun m i =>
    (List.range b.share).foldl (fun m j =>
      let pa := shareBase x b i + j
      if lineOf pa ∈ h.tmarks then m else memPut m pa (sharedByte b (2 ^ 21 * i + j))) m) m

/-- The marked lines that the shares of blocks would be written to. -/
def lostShares (h : Module) (x : Ctx) (bs : List Block) : List Nat :=
  h.tmarks.filter fun l => bs.any fun b => (List.range b.n).any fun i =>
    decide (lineOf (shareBase x b i) ≤ l) && decide (l < shareBase x b i + b.share)

/-- The shares of a block restored (R310): a byte that system software has changed in the save region takes the place of what the block
held there; every other stays as it was (R308; DEDUCED, log 30). -/
def loadShares (x : Ctx) (b : Block) (m : Cells) : Block :=
  let news := (List.range b.n).flatMap fun i => (List.range b.share).filterMap fun j =>
    let v := memByte m (shareBase x b i + j)
    if v = sharedByte b (2 ^ 21 * i + j) then none else some (2 ^ 21 * i + j, v)
  { b with
    pad := wrAll 0 b.pad news
    own := b.own.map fun o => (o.1, o.2.filter fun e => (get? news e.1).isNone) }

/-- Tile i of a save area. -/
def readTile (get : Nat → Byte) (i : Nat) : List (Nat × Word) :=
  (List.range (128 * 128)).foldl (fun s e => wr 0 s e (BitVec.ofNat 32 (leNat get (0x18000 + 65536 * i + 4 * e) 4))) []

/-- The tiles of a partition restored from the image that saves them (R310), where system software has changed them (DEDUCED, log 30). -/
def loadTiles (get : Nat → Byte) (g : Group) (tiles : List (List (Nat × Word))) (b : Block) : Block :=
  (tiles.zipIdx).foldl (fun b t =>
    let n := 16 * g.role + (2 * g.part + t.2)
    if readTile get t.2 = t.1 then b
    else { b with tiles := put b.tiles n (readTile get t.2), ownTiles := b.ownTiles.filter fun e => e.2.1 != n }) b

/-- Rebuild a bank from an image: offsets of v, o, l, k, p, q, C and the stack with its depth. -/
def loadBank {nv nk : Nat} (get : Nat → Byte) (b : Bank nv nk) (fo vo oo lo ko po qo co depth so : Nat) : Bank nv nk :=
  let w := fun a n => leNat get a n
  let raw := fun a => rebuildLine get a 0
  { b with
    v := Vector.ofFn fun (n : Fin nv) => rebuildLine get (vo + 128 * n.val) (get (fo + n.val)).toNat
    o := Vector.ofFn fun (n : Fin 8) => raw (oo + 128 * n.val)
    l := Vector.ofFn fun (n : Fin 4) => raw (lo + 128 * n.val)
    k := Vector.ofFn fun (n : Fin nk) => BitVec.ofNat 32 (w (ko + 4 * n.val) 4)
    p := Vector.ofFn fun (n : Fin 7) => BitVec.ofNat 32 (w (po + 4 * n.val) 4)
    q := Vector.ofFn fun (n : Fin 7) => (get qo).getLsbD n.val
    c := BitVec.ofNat 32 (w co 4)
    stack := ((List.range depth).map fun i =>
      let a := so + 32 * i
      ({ j := BitVec.ofNat 64 (w a 8), s := BitVec.ofNat 32 (w (a + 8) 4), p := BitVec.ofNat 32 (w (a + 12) 4),
         t := BitVec.ofNat 64 (w (a + 16) 8) &&& ~~~(3 : Dword) } : SEntry)).reverse }

/-- Registers whose format byte is reserved: v n as n, window v n as 256 + n (R17, R298). -/
def badFormats (get : Nat → Byte) : List Nat :=
  ((List.range 232) ++ (List.range 32).map fun n => 256 + n).filter fun n => !formatOk (get (0x100 + n)).toNat

/-- Restore a group from its stored image (R310). Reserved fields are discarded (R7). -/
def loadGroup (get : Nat → Byte) (g : Group) : Group :=
  let w := fun a n => leNat get a n
  let mb := loadBank get g.main 0x100 0x1000 0xA00 0xE00 0x300 0x580 0x59C 0x5A0 (min 32 (w 0x5A4 1 % 64)) 0x600
  let wb := loadBank get g.win 0x200 0x9400 0xA400 0xA800 0xAA00 0xAA80 0xAA9C 0xAAA4 (min 4 (w 0xAAA8 1)) 0xAAC0
  let md := BitVec.ofNat 16 (w 0x20 2)
  let wmd := BitVec.ofNat 16 (w 0xAAA0 2)
  let pc := BitVec.ofNat 64 (w 0 8) &&& ~~~(3 : Dword)
  let cm := BitVec.ofNat 32 (w 0x3C 4)
  let sk := (List.range 16).foldl (fun sk i =>
    let a := 0x8400 + 256 * i
    let line := w a 8
    if line % 2 = 0 then sk
    else put sk (lineOf line) (((List.range 128).filter fun j => (w (a + 8) 16).testBit j).map fun j => (lineOf line + j, get (a + 128 + j)))) []
  { g with
    main := { mb with md := if mdLegal md then md else g.main.md }
    win := { wb with md := if mdLegal wmd then wmd else g.win.md }
    pc := if g.inWin then g.pc else pc
    cmask := if g.inWin then g.cmask else cm
    frame := if g.inWin then { g.frame with pc := pc, cmask := cm } else g.frame
    sketch := sk
    fpflags := (get 0x5A8).extractLsb' 0 5
    quota := min 29 (w 0x5AC 1 % 32)
    trapv := BitVec.ofNat 64 (w 0x5B0 8) &&& ~~~(3 : Dword)
    fstat := BitVec.ofNat 32 (w 0x5B8 4) &&& fstatMask
    badSlots := badFormats get
    bypass := if w 0x5BC 1 % 4 = 1 then
        some ((List.range 43136).foldl (fun s i => wr 0 s i (get (0xAC00 + i))) []) else none }

/-- A context that runs no more: it is suspended, or suspended for good (R268). -/
def isOut (x : Ctx) : Bool := x.status == .suspended || x.status == .ended

/-- A group whose image stands for it: taken by pre-emption, or of a suspended context whose images are written (R307, R298). -/
def isSaved (x : Ctx) (g : Group) : Bool := g.live && (g.preempted || (isOut x && x.imaged))

/-- What happens to saved groups and blocks while they are out goes into their images and save regions (R308): a turn's result, a fired
wake, a release, a leg end, a landing. -/
def resave (h : Module) (old new : Ctx) (olds news : List Group) (m : Cells) : Cells :=
  let gs := news.filter fun g => isSaved new g && !decide (g ∈ olds)
  let bs := new.blocks.filter fun b => (b.preempted || (isOut new && new.imaged)) && !decide (b ∈ old.blocks)
  bs.foldl (fun m b => saveShares h new b m) (saveImages h new news gs m)

/-- The marked lines that this meets (R287). -/
def resaveLost (h : Module) (old new : Ctx) (olds news : List Group) (m : Cells) : List Nat :=
  if h.tmarks.isEmpty then []
  else
    lostImages h new (news.filter fun g => isSaved new g && !decide (g ∈ olds)) m ++
      lostShares h new (new.blocks.filter fun b => (b.preempted || (isOut new && new.imaged)) && !decide (b ∈ old.blocks))

end Sys2Proof.Machine
end

