-- ==== Sys2Proof/Machine/Agents.lean ====
section
/-! DEFINITION. The zipper of `State`: bringing a group or a context to hand, and acting on all of them. -/

namespace Sys2Proof.Machine

/-- A group put among others in order of gid. -/
def putGroup (l : List Group) (g : Group) : List Group :=
  match l with
  | [] => [g]
  | h :: t => if g.gid < h.gid then g :: h :: t else if h.gid = g.gid then g :: t else h :: putGroup t g

/-- The group in hand goes back among the others. -/
def Cpu.park (c : Cpu) : Cpu :=
  if c.grp.status = .absent then { c with grp := Group.none }
  else { c with grp := Group.none, ctx := { c.ctx with groups := putGroup c.ctx.groups c.grp } }

/-- All groups of the context, in order of gid. -/
def Cpu.groups (c : Cpu) : List Group := c.park.ctx.groups

/-- Bring a group to hand. Nothing changes where it is in hand already, or is not there. -/
def Cpu.take (c : Cpu) (gid : Nat) : Cpu :=
  if c.grp.gid = gid && c.grp.status != .absent then c
  else match c.park.ctx.groups.find? fun g => g.gid == gid with
    | some g => { c.park with grp := g, ctx := { c.park.ctx with groups := c.park.ctx.groups.filter fun h => h.gid != gid } }
    | none => c

/-- Change every group of the context. -/
def Cpu.mapGroups (f : Group → Group) (c : Cpu) : Cpu :=
  { c with grp := if c.grp.status = .absent then c.grp else f c.grp, ctx := { c.ctx with groups := c.ctx.groups.map f } }

/-- Change one group wherever it stands. -/
def Cpu.onGid (gid : Nat) (f : Group → Group) (c : Cpu) : Cpu := c.mapGroups fun g => if g.gid = gid then f g else g

/-- A group of the context by its gid. -/
def Cpu.find (c : Cpu) (gid : Nat) : Option Group := c.groups.find? fun g => g.gid == gid

/-- Change the context in hand. -/
def State.onCtx (f : Ctx → Ctx) (s : State) : State := { s with cpu := { s.cpu with ctx := f s.cpu.ctx } }

/-- Change the module's own state. -/
def State.onHw (f : Module → Module) (s : State) : State := { s with cpu := { s.cpu with hw := f s.cpu.hw } }

/-- Change the processor's part. -/
def State.onCpu (f : Cpu → Cpu) (s : State) : State := { s with cpu := f s.cpu }

/-- Attempts to write lines with a translation mark by another path than `objw` and the aperture are logged, under a context's identity
(R287, R295). -/
def logLost (ctxid : Word) (lost : List Nat) (h : Module) : Module :=
  lost.foldl (fun h l => { h with log := h.log ++ [⟨sourceOf h 40, 40, 7, ctxid, BitVec.ofNat 64 l⟩] }) h

/-- What a step does to saved groups and blocks of the context in hand goes into their images (R308). -/
def State.keepSaved (f : State → State) (s : State) : State :=
  let t := f s
  { t with
    mem := resave t.cpu.hw s.cpu.ctx t.cpu.ctx s.cpu.groups t.cpu.groups t.mem
    cpu := { t.cpu with hw := logLost (ctxId t.cpu.ctx) (resaveLost t.cpu.hw s.cpu.ctx t.cpu.ctx s.cpu.groups t.cpu.groups t.mem) t.cpu.hw } }

/-- The context in hand goes back among the others, its groups parked. -/
def State.parkCtx (s : State) : State :=
  let c := s.cpu.park
  if c.ctx.status = .absent then { s with cpu := c }
  else { s with cpu := { c with ctx := Ctx.none }, others := s.others ++ [c.ctx] }

/-- Bring the first context that meets a test to hand; the one in hand comes first. -/
def State.takeCtx (p : Ctx → Bool) (s : State) : Option State :=
  if s.cpu.ctx.status != .absent && p s.cpu.ctx then some s
  else
    let s' := s.parkCtx
    match s'.others.find? p with
    | some x => some { s' with cpu := { s'.cpu with ctx := x }, others := s'.others.filter fun y => y != x }
    | none => none

/-- Every context of the module. -/
def State.contexts (s : State) : List Ctx :=
  if s.cpu.ctx.status = .absent then s.others else s.cpu.park.ctx :: s.others

/-- What a step does to saved groups and blocks of any context goes into their images (R308). -/
def State.keepAll (f : State → State) (s : State) : State :=
  let t := f s
  let before := fun x : Ctx => s.contexts.find? fun o => o.number == x.number && o.dpart == x.dpart
  { t with
    mem := t.contexts.foldl (fun m x => match before x with
      | some o => resave t.cpu.hw o x o.groups x.groups m
      | none => m) t.mem
    cpu := { t.cpu with
      hw := t.contexts.foldl (fun h x => match before x with
        | some o => logLost (ctxId x) (resaveLost h o x o.groups x.groups t.mem) h
        | none => h) t.cpu.hw } }

/-- A context by its CTXID. -/
def State.byNumber (n : Nat) (s : State) : Option State := s.takeCtx fun x => x.key == n

/-- A device command's context: by number and device partition (R369). -/
def State.byPart (n part : Nat) (s : State) : Option State :=
  s.takeCtx fun x => x.number.toNat == n && x.dpart.toNat == part

end Sys2Proof.Machine
end

