-- ==== Sys2Proof/Machine/Scratch.lean ====
section
/-! DEFINITION. The scratchpad of a block by epochs (R108, R179), canonical tiles (R73 to R75), accumulator tiles (R198, R201) and the
matrix unit (R203 to R205, R208, R219). -/

namespace Sys2Proof.Machine

/-! ### The scratchpad -/

/-- A scratchpad access is valid (R179). -/
def padValid (b : Block) (a : Int) (size : Nat) : Bool :=
  decide (0 ≤ a) && decide (a < 2 ^ 23) && decide (a.toNat / 2 ^ 21 < b.n) && decide (a.toNat % 2 ^ 21 + size ≤ b.share)

/-- A byte as a group loads it: its own of the epoch, else the start of the epoch (R108). -/
def padByte (b : Block) (gid a : Nat) : Byte := (((get? b.own gid).getD []) |> fun s => get? s a).getD (rd 0 b.pad a)

/-- The granule of a byte (R108). -/
def granuleOf (a : Nat) : Nat := a - a % Config.granuleBytes

/-- Tag the granules of bytes (R108). -/
def padTag (b : Block) (gid : Nat) (wrote : Bool) (as : List Nat) : Block :=
  { b with tags := as.foldl (fun t a => insertNew t ⟨granuleOf a, gid, wrote⟩) b.tags }

/-- A plain store in the epoch (R108). -/
def padStore (b : Block) (gid : Nat) (s : Cells) : Block :=
  padTag { b with own := put b.own gid (putAll ((get? b.own gid).getD []) s) } gid true (s.map Prod.fst)

/-! ### Canonical tiles -/

/-- Bytes of a canonical tile with P planes (R73). -/
def tileBytes (p : Nat) : Nat := 128 + 2048 * (10 + p)

/-- The header word describes a canonical tile (R74): its P. -/
def headerPlanes (w : Nat) : Option Nat :=
  let p := w % 16
  if 1 ≤ p ∧ p ≤ 11 ∧ w / 16 % 16 < 14 ∧ w / 256 = 0 then some p else none

/-- The bit of element (i, j) in plane n (R73). -/
def tileBit (get : Nat → Byte) (n i j : Nat) : Bool :=
  let b := (j + 32 * (i / 8 % 4)) % 128
  (get (128 + 2048 * n + 16 * i + b / 8)).getLsbD (b % 8)

/-- Bits put together, the first the highest. -/
def bitsNat (l : List Bool) : Nat := l.foldl (fun s b => 2 * s + b.toNat) 0

/-- An element of a canonical tile, its first p significand planes read (R75). With the exponent 0x1FF the table names two significands only;
one that a program writes beside them counts as NaN when a plane read is set, else as infinity (DESIGN CHOICE, log 51). -/
def tileElem (get : Nat → Byte) (p i j : Nat) : FV :=
  let s := tileBit get 0 i j
  let e := bitsNat ((List.range 9).map fun n => tileBit get (1 + n) i j)
  let m := bitsNat ((List.range p).map fun n => tileBit get (10 + n) i j)
  if e = 0 then .fin s 0 0
  else if e = 511 then (if m = 0 then .inf s else .nan)
  else .fin s m ((e : Int) - 255 - (p - 1 : Nat))

/-- Sign, exponent and significand of an encoded element (R75). A tie at one significand bit goes to the larger magnitude (DESIGN CHOICE, log
66). -/
def encodeElem (p mode : Nat) (r : Word) : FV → Bool × Nat × Nat
  | .nan => (false, 511, 2 ^ (p - 1))
  | .inf s => (s, 511, 0)
  | .fin s m e =>
    match roundSig p mode r (.fin s m e) with
    | .fin _ m' e' =>
      if m' = 0 then (s, 0, 0)
      else if m' = 2 ^ p then (s, (e' + p + 255).toNat, 2 ^ (p - 1))
      else (s, (e' + (p - 1 : Nat) + 255).toNat, m')
    | _ => (s, 0, 0)

/-- The bytes of a canonical tile by offset: header and planes (R73, R74). -/
def encodeTile (p sfmt mode : Nat) (r : Nat → Nat → Word) (val : Nat → Nat → FV) : Cells :=
  let enc := ((List.range 128).map fun i => ((List.range 128).map fun j => encodeElem p mode (r i j) (val i j)).toArray).toArray
  let bit := fun n i j =>
    let x := (enc.getD i #[]).getD j (false, 0, 0)
    if n = 0 then x.1 else if n < 10 then x.2.1.testBit (9 - n) else x.2.2.testBit (p - 1 - (n - 10))
  (List.range (tileBytes p)).map fun o =>
    (o, if o = 0 then BitVec.ofNat 8 (p + 16 * sfmt)
      else if o < 128 then 0
      else
        let n := (o - 128) / 2048
        let i := (o - 128) % 2048 / 16
        let q := (o - 128) % 16
        BitVec.ofNat 8 ((List.range 8).foldl (fun s t =>
          if bit n i ((8 * q + t + 128 - 32 * (i / 8 % 4)) % 128) then s + 2 ^ t else s) 0))

/-! ### Accumulator tiles -/

/-- A tile number that a group may name (R198): its index i in the grant. -/
def grantOk (b : Block) (g : Group) (tile : Nat) : Bool :=
  2 * g.part ≤ tile && tile < 2 * g.part + b.acc

/-- The key of a tile of a core role. -/
def tileKey (g : Group) (tile : Nat) : Nat := 16 * g.role + tile

/-- A tile as a group sees it in the epoch (R201). -/
def tileNow (b : Block) (gid key : Nat) : List (Nat × Word) :=
  match b.ownTiles.find? fun e => e.1 == gid && e.2.1 == key with
  | some e => e.2.2
  | none => (get? b.tiles key).getD []

/-- Tag a tile (R201). -/
def tileTag (b : Block) (gid key : Nat) (wrote : Bool) : Block := { b with tileTags := insertNew b.tileTags ⟨key, gid, wrote⟩ }

/-- A group's accumulator operation writes its view of a tile. -/
def tileSet (b : Block) (gid key : Nat) (t : List (Nat × Word)) : Block :=
  { b with ownTiles := (b.ownTiles.filter fun e => !(e.1 == gid && e.2.1 == key)) ++ [(gid, key, t)] }

/-! ### The matrix unit -/

/-- Bits [hi:lo] of a word as a number. -/
def bitsOf (w : Word) (hi lo : Nat) : Nat := w.toNat / 2 ^ lo % 2 ^ (hi - lo + 1)

/-- The fields of a descriptor (R202). -/
structure Desc where
  aline : Nat
  byp : Bool
  ta : Bool
  pa : Nat
  m : Nat
  bline : Nat
  tb : Bool
  n : Nat
  saline : Nat
  sma : Nat
  k : Nat
  sbline : Nat
  smb : Nat
  deriving DecidableEq, Repr

/-- A word of a descriptor. -/
def descWord (d : List Word) (i : Nat) : Word := d.getD i 0

/-- Read the descriptor words (R202). -/
def descOf (d : List Word) : Desc :=
  let a := descWord d 0
  let b := descWord d 1
  let s := descWord d 2
  let t := descWord d 3
  ⟨bitsOf a 31 16, a.getLsbD 15, a.getLsbD 14, bitsOf a 13 10, bitsOf a 6 0 + 1, bitsOf b 31 16, b.getLsbD 15, bitsOf b 6 0 + 1,
    bitsOf s 31 16, bitsOf s 15 14, bitsOf s 6 0 + 1, bitsOf t 31 16, bitsOf t 15 14⟩

/-- The descriptor's values are allowed (R202). -/
def descOk (d : List Word) : Bool :=
  let x := descOf d
  bitsOf (descWord d 0) 9 7 == 0 && bitsOf (descWord d 1) 14 7 == 0 && bitsOf (descWord d 2) 13 7 == 0 && bitsOf (descWord d 3) 13 0 == 0
  && x.pa ≤ 11 && x.sma ≤ 1 && x.smb ≤ 2 && (!x.byp || x.aline == 0)

/-- One result element before the update (R204): the partial sum along k. -/
def partialSum (a b : Nat → FV) : Nat → FV
  | 0 => ((a 0).mul (b 0)).1
  | k + 1 => roundSig 48 0 0 (FV.sum false [partialSum a b k, ((a (k + 1)).mul (b (k + 1))).1]).1

/-- The final update of an element (R204, R205). -/
def accUpdate (acc : Word) (s sa sb : FV) : Word :=
  let t := ((s.mul sa).1.mul sb).1
  BitVec.ofNat 32 (toFormat fp32 0 false false 0 (FV.sum false [decodeF fp32 false acc.toNat, t]).1).1

/-- A product applied to a tile (R203, R204). `pad` reads the scratchpad, `slot` the consumed bypass slot. -/
def applyProduct (d : Desc) (pad : Nat → Byte) (slot : Option Cells) (t : List (Nat × Word)) : List (Nat × Word) :=
  let getA := fun o => match slot with | some s => rd 0 s o | none => pad (128 * d.aline + o)
  let getB := fun o => pad (128 * d.bline + o)
  let plA := (headerPlanes (leNat getA 0 4)).getD 1
  let plB := (headerPlanes (leNat getB 0 4)).getD 1
  let pa := if d.pa = 0 then plA else d.pa
  let arr := fun (rows cols : Nat) (f : Nat → Nat → FV) =>
    ((List.range rows).map fun i => ((List.range cols).map fun j => f i j).toArray).toArray
  let a := arr d.m d.k fun i k => if d.ta then tileElem getA pa k i else tileElem getA pa i k
  let b := arr d.n d.k fun j k => if d.tb then tileElem getB plB j k else tileElem getB plB k j
  let el := fun (x : Array (Array FV)) i k => (x.getD i #[]).getD k .nan
  let fp := fun o => decodeF fp32 false (leNat pad o 4)
  let one : FV := .fin false 1 0
  let sa := fun i => if d.sma = 1 then fp (128 * d.saline + 4 * i) else one
  let sb := fun j => if d.smb = 1 then fp (128 * d.sbline) else if d.smb = 2 then fp (128 * d.sbline + 4 * j) else one
  (List.range d.m).foldl (fun t i =>
    (List.range d.n).foldl (fun t j =>
      let s := partialSum (el a i) (el b j) (d.k - 1)
      wr 0 t (128 * i + j) (accUpdate (rd 0 t (128 * i + j)) s (sa i) (sb j))) t) t

/-- The scratchpad bytes that a product reads (R203). -/
def productReads (d : Desc) (pad : Nat → Byte) : List Nat :=
  let plA := (headerPlanes (leNat pad (128 * d.aline) 4)).getD 1
  let plB := (headerPlanes (leNat pad (128 * d.bline) 4)).getD 1
  let pa := if d.pa = 0 then plA else d.pa
  (if d.byp then [] else span (128 * d.aline) (tileBytes pa)) ++ span (128 * d.bline) (tileBytes plB) ++
  (if d.sma = 1 then span (128 * d.saline) (4 * d.m) else []) ++
  (if d.smb = 1 then span (128 * d.sbline) 4 else if d.smb = 2 then span (128 * d.sbline) (4 * d.n) else [])

/-- What a drain writes, by offset (R219). -/
def drainBytes (t : List (Nat × Word)) (ctl : Word) (way : Nat) : Cells :=
  let val := fun i j => decodeF fp32 false (rd 0 t (128 * i + j)).toNat
  if way = 1 then
    if bitsOf ctl 7 4 = 0 then (List.range 16384).flatMap fun e => bytesAt (4 * e) (rd 0 t e).toNat 4
    else (List.range 16384).flatMap fun e => bytesAt (2 * e) (toFormat (fmtOf 2) 0 false false 0 (val (e / 128) (e % 128))).1 2
  else encodeTile (bitsOf ctl 3 0) 0 0 (fun _ _ => 0) val

/-- Complete one member for its group (R204, R218, R219): the block and the group after it. -/
def completeMember (b : Block) (g : Group) : Member → Block × Group
  | .product clear tile desc slot =>
    let key := tileKey g tile
    let t := if clear then [] else tileNow b g.gid key
    (tileSet b g.gid key (applyProduct (descOf desc) (padByte b g.gid) slot t), g)
  | .drain tile ctl z way =>
    let key := tileKey g tile
    let s := drainBytes (tileNow b g.gid key) ctl way
    let b' := if z then tileSet b g.gid key [] else b
    if way = 2 then (b', { g with bypass := some (wrAll 0 [] s) })
    else (padStore b' g.gid (s.map fun e => (128 * bitsOf ctl 31 16 + e.1, e.2)), g)

/-- Drop the closed batches at the head that are complete (R208). -/
def dropComplete : List Batch → List Batch
  | ⟨some _, []⟩ :: l => dropComplete l
  | l => l

/-- A batch numbered n is still pending (R209). -/
def batchPending (g : Group) (n : Nat) : Bool := g.batches.any fun b => b.num == some n

/-- The unit completes the group's oldest pending member (R208); an `mwait` on a batch now complete fires at its own stamp (R209). -/
def completeOldest (b : Block) (g : Group) : Block × Group :=
  match dropComplete g.batches with
  | ⟨num, mb :: rest⟩ :: l =>
    let r := completeMember b g mb
    let g' := { r.2 with batches := dropComplete (⟨num, rest⟩ :: l) }
    let g' := match g'.status with
      | .ceded w (.mwait n) none => if batchPending g' n then g' else { g' with status := .ceded w (.mwait n) (some ⟨g.lc, g.gid⟩) }
      | _ => g'
    (r.1, g')
  | l => (b, { g with batches := l })

/-- The members pending in a group. -/
def pendingMembers (g : Group) : Nat := (g.batches.map fun b => b.members.length).foldl (· + ·) 0

/-- Complete n members. -/
def completeMany (b : Block) (g : Group) : Nat → Block × Group
  | 0 => (b, g)
  | n + 1 => let r := completeOldest b g; completeMany r.1 r.2 n

/-- Complete every pending member of a group: a stall of R210 that has ended (R20). -/
def settleGroup (b : Block) (g : Group) : Block × Group := completeMany b g (pendingMembers g)

/-- The same for the group in hand. -/
def Cpu.settle (c : Cpu) : Cpu :=
  match c.ctx.block c.grp with
  | none => c
  | some b =>
    if pendingMembers c.grp = 0 then c
    else
      let r := settleGroup b c.grp
      { c with grp := r.2, ctx := c.ctx.setBlock r.1 }

/-- A member joins the open batch (R208). -/
def joinBatch (g : Group) (mb : Member) : Group :=
  match g.batches.getLast? with
  | some ⟨none, l⟩ => { g with batches := g.batches.dropLast ++ [⟨none, l ++ [mb]⟩] }
  | _ => { g with batches := g.batches ++ [⟨none, [mb]⟩] }

end Sys2Proof.Machine
end

