-- ==== Sys2Proof/Machine/MemInstr.lean ====
section
/-! DEFINITION. Plain loads and stores of device memory and the scratchpad, `ldk`, `stk` and `pf`, first bytes 0xB0 to 0xC6 (R172 to
R181), with partial completion (R128, R305) and waits on translation (R281). -/

namespace Sys2Proof.Machine

/-- Registers that an access of a size fills (R176). -/
def regsOf (size : Nat) : Nat := if size = 8 then 2 else if size = 16 then 4 else 1

/-- Word i of the data of a lane of a store (R176): `vz`, `vlane` and `vgi` extend by zeros. -/
def srcWord (g : Group) (n : BitVec 8) (j i : Nat) : Nat :=
  if 252 ≤ n.toNat then (if i = 0 then (laneAt (g.readV n) j).toNat else 0) else (laneAt (g.readV (n + BitVec.ofNat 8 i)) j).toNat

/-- The data of a lane of a store. -/
def srcData (g : Group) (n : BitVec 8) (size j : Nat) : Nat :=
  (List.range (regsOf size)).foldl (fun s i => s + srcWord g n j i * 2 ^ (32 * i)) 0 % 2 ^ (8 * size)

/-- Write the loaded words of completing lanes into the registers; the last-result file shifts only when the instruction retires
(R41, R305). -/
def placeLoaded (g : Group) (d : BitVec 8) (size : Nat) (lanes : List Nat) (val : Nat → Nat) : Group :=
  (List.range (regsOf size)).foldl (fun g i =>
    let n := (d + BitVec.ofNat 8 i).toNat
    let old := g.readV (d + BitVec.ofNat 8 i)
    let new : Line := Vector.ofFn fun (j : Fin 32) => if j.val ∈ lanes then BitVec.ofNat 32 (val j.val / 2 ^ (32 * i)) else old[j.val]
    g.onBank fun b => b.writeReg n new) g

/-- The shifts of a load at retirement: one per register, in ascending order (R41). -/
def shiftLoaded (g : Group) (d : BitVec 8) (size : Nat) : Group :=
  (List.range (regsOf size)).foldl (fun g i => let x := g.readV (d + BitVec.ofNat 8 i); g.onBank fun b => b.shiftLast x) g

/-- What the lanes of a vector access come to: a trap of those that fail a check, the lanes that may execute, and the sub-tiles that
others wait on, each with the address. -/
structure Sorted where
  trap : Option Trap
  ready : List Nat
  wait : List (Nat × (Nat × Nat))
  deriving DecidableEq, Repr

/-- Sort the lanes of a vector access of memory (R128, R281). `offs` gives each lane's offset. -/
def sortLanes (c : Cpu) (m : Cells) (rcd : Option Record) (obj size : Nat) (kind : Access) (lanes : List Nat) (offs : Nat → Int) :
    Sorted :=
  let g := c.grp
  let check := fun j =>
    if obj = 1 && rcd.isSome && offs j % (size : Int) = 0 && ownImage g (offs j) size then none
    else checkAccess rcd g.gid obj (offs j) size size kind
  let fails := lanes.map fun j => (j, vaOf obj (offs j), check j)
  let pass := lanes.filter fun j => (check j).isNone
  let block := fun j => match rcd with
    | none => none
    | some r => if obj = 1 then none else accessBlock m r (kind == Access.store && storesThrough r) (offs j).toNat size
  { trap := firstFailure fails
    ready := pass.filter fun j => (block j).isNone
    wait := pass.filterMap fun j => (block j).map fun b => (vaOf obj (offs j), b) }

/-- The offsets that the lanes of an access translate: of those that may execute and of those that wait (R281). -/
def Sorted.offs (s : Sorted) (offs : Nat → Int) : List Nat := s.ready.map (fun j => (offs j).toNat) ++ s.wait.map fun x => vaOff x.1

/-- The lines of the lanes that wait. -/
def Sorted.waitLines (s : Sorted) : List Nat := (s.wait.map fun x => lineOf x.1).eraseDups

/-- The lanes yet to execute: active and not completed before (R305). -/
def pendingLanes (g : Group) : List Nat := lanesOf (g.active &&& ~~~g.cmask)

/-- After the ready lanes are done: record them as completed and wait for the others, so that every lane that passes its checks completes
before a trap (R128, R305; DEDUCED, log 28); or trap; or retire. -/
def closeAccess (w : Iss) (c : Cpu) (s : Sorted) (done : Group → Group) : Cpu :=
  let mark := fun g : Group => { g with cmask := g.cmask ||| maskOf fun j => j ∈ s.ready }
  match s.wait with
  | x :: l => waitSubtiles { c with grp := mark c.grp } (x :: l)
  | [] =>
    match s.trap with
    | some t => { c with grp := mark c.grp }.trap w t
    | none => c.retire w (done c.grp)

/-- A malformed entry of any lane stops the access before anything changes (R292). -/
def malformedWait (s : Sorted) : Option (Nat × (Nat × Nat)) := s.wait.find? fun x => x.2.2 == 3

/-- `ld` (R174). A load of which a request is lost fills every lane with ones (R347). -/
def ldOp (size : Nat) (d a b : BitVec 8) : Meaning := fun m w c =>
  let g := c.grp
  let base := g.readKK a
  let obj := baseObj base
  let rcd := c.record m obj
  let offs := laneOff g base b (dispOf w)
  let s := sortLanes c m rcd obj size .load (pendingLanes g) offs
  match malformedWait s with
  | some (va, e) => waitSubtile c va e
  | none =>
    match rcd with
    | none => closeAccess w c s fun g => shiftLoaded g d size
    | some r =>
      if obj = 1 then
        let val := fun j => leNat (windowByte g) ((offs j).toNat - imageOff g) size
        let c := { c with grp := placeLoaded g d size s.ready val }
        closeAccess w c s fun g => shiftLoaded g d size
      else
        let bytes := s.ready.flatMap fun j => span (vaOf obj (offs j)) size
        match missingLines c r bytes with
        | l :: ls => askLines .load c r (l :: ls)
        | [] =>
          let lost := bytes.any fun x => get? g.fills (lineOf x) == some none
          let val := fun j => if lost then 2 ^ (32 * regsOf size) - 1 else leNat (loadByte c m r) (vaOf obj (offs j)) size
          let here := bytes.filter fun x => (homedAway c.hw r (vaOff x)).isNone
          let c := { c with ctx := here.foldl (fun x y => tagLine x r g.gid false y) c.ctx }
          let c := touchLines m c r (s.offs offs)
          let c := { c with grp := placeLoaded c.grp d size s.ready val }
          closeAccess w c s fun g => shiftLoaded g d size

/-- The bytes of a store, higher lanes over lower (R175). -/
def storeCells (lanes : List Nat) (addr : Nat → Nat) (val : Nat → Nat) (size : Nat) : Cells :=
  lanes.foldl (fun s j => putAll s (bytesAt (addr j) (val j) size)) []

/-- `st` (R175). -/
def stOp (size : Nat) (d a b : BitVec 8) : Meaning := fun m w c =>
  let g := c.grp
  let base := g.readKK a
  let obj := baseObj base
  let rcd := c.record m obj
  let offs := laneOff g base b (dispOf w)
  let s := sortLanes c m rcd obj size .store (pendingLanes g) offs
  match malformedWait s with
  | some (va, e) => waitSubtile c va e
  | none =>
    match rcd with
    | none => closeAccess w c s id
    | some r =>
      if obj = 1 then
        let cells := storeCells s.ready (fun j => (offs j).toNat - imageOff g) (srcData g d size) size
        closeAccess w { c with grp := windowStore g cells } s id
      else if s.ready = [] then closeAccess w (touchLines m c r (s.offs offs)) s id
      else
        let cells := storeCells s.ready (fun j => vaOf obj (offs j)) (srcData g d size) size
        let c := plainStore m r (touchLines m c r (s.offs offs)) cells s.waitLines
        closeAccess w c s id

/-- One access of n words for the group at a pair and a displacement (R177): its object, offset, and the trap it raises. (DEDUCED, log 7) -/
def uniAccess (c : Cpu) (m : Cells) (w : Iss) (a : BitVec 8) (n : Nat) (kind : Access) :
    Option Record × Nat × Int × Option Trap :=
  let g := c.grp
  let base := g.readKK a
  let obj := baseObj base
  let off := (baseOff base : Int) + dispOf w
  let rcd := c.record m obj
  let t := if obj = 1 && rcd.isSome && off % 4 = 0 && ownImage g off (4 * n) then none
    else (checkAccess rcd g.gid obj off 4 (4 * n) kind).map fun p => addrTrap p.1 p.2 (vaOf obj off) 0
  (rcd, obj, off, t)

/-- `ldk` (R177). -/
def ldkOp (d a : BitVec 8) (n : BitVec 4) : Meaning := fun m w c =>
  let g := c.grp
  let k := n.toNat + 1
  let (rcd, obj, off, t) := uniAccess c m w a k .load
  let fill := fun (g : Group) (get : Nat → Byte) (at' : Nat) =>
    (List.range k).foldl (fun g i => g.writeK (d + BitVec.ofNat 8 i) (BitVec.ofNat 32 (leNat get (at' + 4 * i) 4))) g
  match t, rcd with
  | some t, _ => c.trap w t
  | none, none => c.trap w (addrTrap 3 2 (vaOf obj off) 0)
  | none, some r =>
    if obj = 1 then c.retire w (fill g (windowByte g) (off.toNat - imageOff g))
    else
      let c := touchLines m c r [off.toNat, off.toNat + 4 * k - 1]
      match accessBlocks m r false off.toNat (4 * k) with
      | b :: l => waitSubtiles c ((b :: l).map fun b => (vaOf obj off, b))
      | [] =>
        let bytes := span (vaOf obj off) (4 * k)
        match missingLines c r bytes with
        | l :: ls => askLines .load c r (l :: ls)
        | [] =>
          let here := bytes.filter fun x => (homedAway c.hw r (vaOff x)).isNone
          let lost := bytes.any fun x => get? g.fills (lineOf x) == some none
          let g' := fill g (if lost then fun _ => 0xFF else loadByte c m r) (vaOf obj off)
          let c := { c with ctx := here.foldl (fun x y => tagLine x r g.gid false y) c.ctx }
          c.retire w g'

/-- `stk` (R177). -/
def stkOp (d a : BitVec 8) (n : BitVec 4) : Meaning := fun m w c =>
  let g := c.grp
  let k := n.toNat + 1
  let (rcd, obj, off, t) := uniAccess c m w a k .store
  let cells := fun at' => (List.range k).foldl
    (fun s i => putAll s (bytesAt (at' + 4 * i) (g.readK (if d.toNat = 248 then d else d + BitVec.ofNat 8 i)).toNat 4)) []
  match t, rcd with
  | some t, _ => c.trap w t
  | none, none => c.trap w (addrTrap 3 2 (vaOf obj off) 0)
  | none, some r =>
    if obj = 1 then c.retire w (windowStore g (cells (off.toNat - imageOff g)))
    else
      let c := touchLines m c r [off.toNat, off.toNat + 4 * k - 1]
      match accessBlocks m r (storesThrough r) off.toNat (4 * k) with
      | b :: l => waitSubtiles c ((b :: l).map fun b => (vaOf obj off, b))
      | [] =>
        let c := plainStore m r c (cells (vaOf obj off)) []
        c.retire w c.grp

/-! ### The scratchpad -/

/-- The address of a lane (R179). -/
def padAddr (g : Group) (a b : BitVec 8) (disp : Int) (j : Nat) : Int :=
  ((g.readK a).toNat : Int) + (laneAt (g.readV b) j).toInt + disp

/-- The address that a scratchpad fault reports (DEDUCED, log 11). -/
def padFaddr (a : Int) : Nat := wrapI 32 a

/-- Alignment, then extent (R128, R179). -/
def checkPad (b : Option Block) (a : Int) (align size : Nat) : Option (Nat × Nat) :=
  if a % (align : Int) ≠ 0 then some (2, 1)
  else match b with
    | none => some (3, 3)
    | some b => if padValid b a size then none else some (3, 3)

/-- Sort the lanes of a scratchpad access. -/
def sortPad (b : Option Block) (size : Nat) (lanes : List Nat) (addr : Nat → Int) : Sorted :=
  let check := fun j => checkPad b (addr j) size size
  { trap := firstFailure (lanes.map fun j => (j, padFaddr (addr j), check j))
    ready := lanes.filter fun j => (check j).isNone
    wait := [] }

/-- `lds` (R180). -/
def ldsOp (size : Nat) (d a b : BitVec 8) : Meaning := fun _ w c0 =>
  let c := c0.settle
  let g := c.grp
  let addr := padAddr g a b (dispOf w)
  let blk := c.ctx.block g
  let s := sortPad blk size (pendingLanes g) addr
  match blk with
  | none => closeAccess w c s fun g => shiftLoaded g d size
  | some p =>
    let p' := padTag p g.gid false (s.ready.map fun j => (addr j).toNat)
    let g' := placeLoaded g d size s.ready fun j => leNat (padByte p g.gid) (addr j).toNat size
    closeAccess w { c with grp := g', ctx := c.ctx.setBlock p' } s fun g => shiftLoaded g d size

/-- `sts` (R180). -/
def stsOp (size : Nat) (d a b : BitVec 8) : Meaning := fun _ w c0 =>
  let c := c0.settle
  let g := c.grp
  let addr := padAddr g a b (dispOf w)
  let blk := c.ctx.block g
  let s := sortPad blk size (pendingLanes g) addr
  match blk with
  | none => closeAccess w c s id
  | some p =>
    let cells := storeCells s.ready (fun j => (addr j).toNat) (srcData g d size) size
    closeAccess w { c with ctx := c.ctx.setBlock (padStore p g.gid cells) } s id

/-! ### One meaning per word -/

/-- `ld.b` (R174). -/
def execLdB (d a b : BitVec 8) (s : State) : Host.Outcome State Fault Refusal :=
  issue noPre (ldOp 1 d a b) (.ldB d a b) s
/-- `ld.h` (R174). -/
def execLdH (d a b : BitVec 8) (s : State) : Host.Outcome State Fault Refusal :=
  issue noPre (ldOp 2 d a b) (.ldH d a b) s
/-- `ld.w` (R174). -/
def execLdW (d a b : BitVec 8) (s : State) : Host.Outcome State Fault Refusal :=
  issue noPre (ldOp 4 d a b) (.ldW d a b) s
/-- `ld.d` (R174). -/
def execLdD (d a b : BitVec 8) (s : State) : Host.Outcome State Fault Refusal :=
  issue noPre (ldOp 8 d a b) (.ldD d a b) s
/-- `ld.q` (R174). -/
def execLdQ (d a b : BitVec 8) (s : State) : Host.Outcome State Fault Refusal :=
  issue noPre (ldOp 16 d a b) (.ldQ d a b) s
/-- `st.b` (R175). -/
def execStB (d a b : BitVec 8) (s : State) : Host.Outcome State Fault Refusal :=
  issue noPre (stOp 1 d a b) (.stB d a b) s
/-- `st.h` (R175). -/
def execStH (d a b : BitVec 8) (s : State) : Host.Outcome State Fault Refusal :=
  issue noPre (stOp 2 d a b) (.stH d a b) s
/-- `st.w` (R175). -/
def execStW (d a b : BitVec 8) (s : State) : Host.Outcome State Fault Refusal :=
  issue noPre (stOp 4 d a b) (.stW d a b) s
/-- `st.d` (R175). -/
def execStD (d a b : BitVec 8) (s : State) : Host.Outcome State Fault Refusal :=
  issue noPre (stOp 8 d a b) (.stD d a b) s
/-- `st.q` (R175). -/
def execStQ (d a b : BitVec 8) (s : State) : Host.Outcome State Fault Refusal :=
  issue noPre (stOp 16 d a b) (.stQ d a b) s
/-- `lds.b` (R180). -/
def execLdsB (d a b : BitVec 8) (s : State) : Host.Outcome State Fault Refusal :=
  issue noPre (ldsOp 1 d a b) (.ldsB d a b) s
/-- `lds.h` (R180). -/
def execLdsH (d a b : BitVec 8) (s : State) : Host.Outcome State Fault Refusal :=
  issue noPre (ldsOp 2 d a b) (.ldsH d a b) s
/-- `lds.w` (R180). -/
def execLdsW (d a b : BitVec 8) (s : State) : Host.Outcome State Fault Refusal :=
  issue noPre (ldsOp 4 d a b) (.ldsW d a b) s
/-- `lds.d` (R180). -/
def execLdsD (d a b : BitVec 8) (s : State) : Host.Outcome State Fault Refusal :=
  issue noPre (ldsOp 8 d a b) (.ldsD d a b) s
/-- `lds.q` (R180). -/
def execLdsQ (d a b : BitVec 8) (s : State) : Host.Outcome State Fault Refusal :=
  issue noPre (ldsOp 16 d a b) (.ldsQ d a b) s
/-- `sts.b` (R180). -/
def execStsB (d a b : BitVec 8) (s : State) : Host.Outcome State Fault Refusal :=
  issue noPre (stsOp 1 d a b) (.stsB d a b) s
/-- `sts.h` (R180). -/
def execStsH (d a b : BitVec 8) (s : State) : Host.Outcome State Fault Refusal :=
  issue noPre (stsOp 2 d a b) (.stsH d a b) s
/-- `sts.w` (R180). -/
def execStsW (d a b : BitVec 8) (s : State) : Host.Outcome State Fault Refusal :=
  issue noPre (stsOp 4 d a b) (.stsW d a b) s
/-- `sts.d` (R180). -/
def execStsD (d a b : BitVec 8) (s : State) : Host.Outcome State Fault Refusal :=
  issue noPre (stsOp 8 d a b) (.stsD d a b) s
/-- `sts.q` (R180). -/
def execStsQ (d a b : BitVec 8) (s : State) : Host.Outcome State Fault Refusal :=
  issue noPre (stsOp 16 d a b) (.stsQ d a b) s
/-- `ldk` (R177). -/
def execLdk (d a : BitVec 8) (n : BitVec 4) (s : State) : Host.Outcome State Fault Refusal := issue noPre (ldkOp d a n) (.ldk d a n) s
/-- `stk` (R177). -/
def execStk (d a : BitVec 8) (n : BitVec 4) (s : State) : Host.Outcome State Fault Refusal := issue noPre (stkOp d a n) (.stk d a n) s
/-- `pf` (R178): it translates the addresses of its active lanes that lie in an object, never waits, and has no effect on any value. -/
def pfOp (a b : BitVec 8) : Meaning := fun m w c =>
  let g := c.grp
  let offs := laneOff g (g.readKK a) b (dispOf w)
  match c.record m (baseObj (g.readKK a)) with
  | none => c.retire w g
  | some r =>
    let there := (lanesOf g.active).filter fun j => decide (0 ≤ offs j) && decide (offs j < r.ext)
    (if there.isEmpty then c else touchLines m c r (there.map fun j => (offs j).toNat)).retire w g
/-- `pf` (R178, R129). -/
def execPf (h : BitVec 2) (a b : BitVec 8) (s : State) : Host.Outcome State Fault Refusal := issue noPre (pfOp a b) (.pf h a b) s

end Sys2Proof.Machine
end

