-- ==== Sys2Proof/Machine/Matrix.lean ====
section
/-! DEFINITION. The matrix instructions, first bytes 0xE0 to 0xE7 (R198 to R219), and `exit` (R163), which waits for every batch. -/

namespace Sys2Proof.Machine

/-- A pending drain of the group. -/
def drainPending (g : Group) : Bool :=
  g.batches.any fun b => b.members.any fun mb => match mb with
    | .drain .. => true
    | .product .. => false

/-- A stall on pending drains that has ended (R210, R20). -/
def Cpu.settleDrains (c : Cpu) : Cpu := if drainPending c.grp then c.settle else c

/-- The four descriptor words (R202). -/
def descWords (g : Group) (a : BitVec 8) : List Word := (List.range 4).map fun i => g.readK (a + BitVec.ofNat 8 i)

/-- The first range that fails the extent check of R179. -/
def badRange (b : Block) (l : List (Nat × Nat)) : Option Nat :=
  (l.find? fun r => !padValid b r.1 r.2).map Prod.fst

/-- The scratchpad extent fault of a range (R295). -/
def padTrap (a : Nat) : Trap := addrTrap 3 3 a 0

/-- The scale ranges of a product (R203). -/
def scaleRanges (d : Desc) : List (Nat × Nat) :=
  (if d.sma = 1 then [(128 * d.saline, 4 * d.m)] else []) ++
  (if d.smb = 1 then [(128 * d.sbline, 4)] else if d.smb = 2 then [(128 * d.sbline, 4 * d.n)] else [])

/-- The checks of a product after the grant (R213, 2 to 7). An extent fault reports the first byte of the first range that fails (DESIGN
CHOICE, log 65). -/
def productTrap (b : Block) (g : Group) (ws : List Word) : Option Trap :=
  let d := descOf ws
  let pad := padByte b g.gid
  let headers := (if d.byp then [] else [(128 * d.aline, 128)]) ++ [(128 * d.bline, 128)]
  if !descOk ws then some (modeTrap g 5)
  else if d.byp && g.bypass.isNone then some (modeTrap g 6)
  else match badRange b (headers ++ scaleRanges d) with
    | some a => some (padTrap a)
    | none =>
      let hA := if d.byp then headerPlanes (leNat (fun o => rd 0 (g.bypass.getD []) o) 0 4) else headerPlanes (leNat pad (128 * d.aline) 4)
      match hA, headerPlanes (leNat pad (128 * d.bline) 4) with
      | some plA, some plB =>
        let pa := if d.pa = 0 then plA else d.pa
        if plA < pa then some (modeTrap g 5)
        else (badRange b ((if d.byp then [] else [(128 * d.aline, tileBytes pa)]) ++ [(128 * d.bline, tileBytes plB)])).map padTrap
      | _, _ => some (modeTrap g 7)

/-- Set the tags of an accumulator operation (R201). -/
def tagTile (b : Block) (g : Group) (tile : Nat) (wrote : Bool) : Block := tileTag b g.gid (tileKey g tile) wrote

/-- The grant of R198, then an operation on the group's block. -/
def withGrant (tile : Nat) (w : Iss) (c : Cpu) (k : Block → Cpu) : Cpu :=
  match c.ctx.block c.grp with
  | some b => if grantOk b c.grp tile then k b else c.trap w (pcTrap c.grp 5 4)
  | none => c.trap w (pcTrap c.grp 5 4)

/-- `mma`, `mmaz` (R213). -/
def mmaOp (clear : Bool) (t : BitVec 4) (a : BitVec 8) : Meaning := fun _ w c0 =>
  let c := c0.settleDrains
  withGrant t.toNat w c fun b =>
    let g := c.grp
    let ws := descWords g a
    match productTrap b g ws with
    | some e => c.trap w e
    | none =>
      let d := descOf ws
      let b := padTag (tagTile b g t.toNat true) g.gid false (productReads d (padByte b g.gid))
      let slot := if d.byp then g.bypass else none
      let g := joinBatch { g with bypass := if d.byp then none else g.bypass } (.product clear t.toNat ws slot)
      ({ c with ctx := c.ctx.setBlock b } : Cpu).retire w g

/-- Close the open batch with the number NB (R208). -/
def closeBatch (g : Group) : Group :=
  let open' := match g.batches.getLast? with
    | some ⟨none, l⟩ => l
    | _ => []
  let closed := g.batches.filter fun b => b.num.isSome
  { g with batches := dropComplete (closed ++ [⟨some g.nb, open'⟩]), nb := (g.nb + 1) % 16 }

/-- `mfence` (R214): a number still in use ends its stall when that batch completes. -/
def mfenceOp (d : BitVec 8) : Meaning := fun _ w c0 =>
  let c := if batchPending c0.grp c0.grp.nb then c0.settle else c0
  let g := c.grp
  c.retire w ((closeBatch g).writeK d (BitVec.ofNat 32 g.nb))

/-- `mwait` (R209). -/
def mwaitOp (n : BitVec 4) : Meaning := fun _ w c =>
  let g := c.grp
  if batchPending g n.toNat then { c with grp := { g with status := .ceded (weight w.i) (.mwait n.toNat) none } }
  else c.retire w g

/-- `acczero` (R216). -/
def acczeroOp (t : BitVec 4) : Meaning := fun _ w c0 =>
  let c := c0.settle
  withGrant t.toNat w c fun b =>
    let b := tileSet (tagTile b c.grp t.toNat true) c.grp.gid (tileKey c.grp t.toNat) []
    ({ c with ctx := c.ctx.setBlock b } : Cpu).retire w c.grp

/-- The row that a register names (R217). -/
def rowOf (g : Group) (r : BitVec 8) : Nat := (g.readK r).toNat % 128

/-- `accrd` (R217). -/
def accrdOp (d : BitVec 8) (t : BitVec 4) (r : BitVec 8) : Meaning := fun _ w c0 =>
  let c := c0.settle
  withGrant t.toNat w c fun b =>
    let g := c.grp
    let tile := tileNow b g.gid (tileKey g t.toNat)
    let row := rowOf g r
    let act := g.active
    let g' := (List.range 4).foldl (fun g q =>
      g.writeV (d + BitVec.ofNat 8 q) act (Vector.ofFn fun (j : Fin 32) => rd 0 tile (128 * row + 32 * q + j.val))) g
    ({ c with ctx := c.ctx.setBlock (tagTile b g t.toNat false) } : Cpu).retire w g'

/-- `accwr` (R217). -/
def accwrOp (t : BitVec 4) (r v : BitVec 8) : Meaning := fun _ w c0 =>
  let c := c0.settle
  withGrant t.toNat w c fun b =>
    let g := c.grp
    let key := tileKey g t.toNat
    let row := rowOf g r
    let tile := (lanesOf g.active).foldl (fun x j =>
      (List.range 4).foldl (fun x q => wr 0 x (128 * row + 32 * q + j) (BitVec.ofNat 32 (srcWord g v j q))) x) (tileNow b g.gid key)
    ({ c with ctx := c.ctx.setBlock (tileSet (tagTile b g t.toNat true) g.gid key tile) } : Cpu).retire w g

/-- The control word of `accdrain` is allowed (R218). -/
def drainOk (ctl : Word) (way : Nat) : Bool :=
  bitsOf ctl 15 8 == 0 && (way != 2 || bitsOf ctl 31 16 == 0) &&
    (if way = 1 then (bitsOf ctl 7 4 == 0 || bitsOf ctl 7 4 == 2) && bitsOf ctl 3 0 == 0
     else bitsOf ctl 7 4 == 0 && decide (1 ≤ bitsOf ctl 3 0) && decide (bitsOf ctl 3 0 ≤ 11))

/-- The bytes that a drain writes (R219). -/
def drainSize (ctl : Word) (way : Nat) : Nat :=
  if way = 1 then (if bitsOf ctl 7 4 = 0 then 65536 else 32768) else tileBytes (bitsOf ctl 3 0)

/-- `accdrain` (R218). An extent fault reports the first byte of the range (DESIGN CHOICE, log 65). -/
def accdrainOp (t : BitVec 4) (a : BitVec 8) (z : BitVec 1) (way : BitVec 2) : Meaning := fun _ w c0 =>
  let c := c0.settle
  withGrant t.toNat w c fun b =>
    let g := c.grp
    let ctl := g.readK a
    let at' := 128 * bitsOf ctl 31 16
    if !drainOk ctl way.toNat then c.trap w (modeTrap g 5)
    else if way ≠ 2 && !padValid b at' (drainSize ctl way.toNat) then c.trap w (padTrap at')
    else
      ({ c with ctx := c.ctx.setBlock (tagTile b g t.toNat (z = 1)) } : Cpu).retire w
        (joinBatch g (.drain t.toNat ctl (z = 1) way.toNat))

/-- `exit` (R163): every batch completes; from then on the group issues nothing. The block's syncs can no longer complete (R192). -/
def exitOp : Meaning := fun _ w c0 =>
  let c := c0.settle
  let c := match c.ctx.block c.grp with
    | some b => { c with ctx := c.ctx.setBlock { b with anyExit := true } }
    | none => c
  { c with grp := { c.grp.retire w with batches := [], status := .exited } }

/-! ### One meaning per word -/

/-- `mma` (R213). -/
def execMma (t : BitVec 4) (a : BitVec 8) (s : State) : Host.Outcome State Fault Refusal := issue noPre (mmaOp false t a) (.mma t a) s
/-- `mmaz` (R213). -/
def execMmaz (t : BitVec 4) (a : BitVec 8) (s : State) : Host.Outcome State Fault Refusal := issue noPre (mmaOp true t a) (.mmaz t a) s
/-- `mfence` (R214). -/
def execMfence (d : BitVec 8) (s : State) : Host.Outcome State Fault Refusal := issue noPre (mfenceOp d) (.mfence d) s
/-- `mwait` (R215). -/
def execMwait (n : BitVec 4) (s : State) : Host.Outcome State Fault Refusal := issue noPre (mwaitOp n) (.mwait n) s
/-- `acczero` (R216). -/
def execAcczero (t : BitVec 4) (s : State) : Host.Outcome State Fault Refusal := issue noPre (acczeroOp t) (.acczero t) s
/-- `accrd` (R217). -/
def execAccrd (d : BitVec 8) (t : BitVec 4) (b : BitVec 8) (s : State) : Host.Outcome State Fault Refusal :=
  issue noPre (accrdOp d t b) (.accrd d t b) s
/-- `accwr` (R217). -/
def execAccwr (t : BitVec 4) (a b : BitVec 8) (s : State) : Host.Outcome State Fault Refusal :=
  issue noPre (accwrOp t a b) (.accwr t a b) s
/-- `accdrain` (R218). -/
def execAccdrain (t : BitVec 4) (a : BitVec 8) (z : BitVec 1) (way : BitVec 2) (s : State) : Host.Outcome State Fault Refusal :=
  issue noPre (accdrainOp t a z way) (.accdrain t a z way) s
/-- `exit` (R163). -/
def execExit (s : State) : Host.Outcome State Fault Refusal := issue noPre exitOp .exitI s

end Sys2Proof.Machine
end

