-- ==== Sys2Proof/Machine/Ordering.lean ====
section
/-! DEFINITION. Ordering operations, first bytes 0xD0 to 0xDA (R182 to R186), `cede` (R169) and barrier arrivals (R190, R191): what they
do at issue. What their entries do at their turns stands in Machine/Turn.lean. -/

namespace Sys2Proof.Machine

/-- The scope of a space field (R173). -/
def spaceScope (a : BitVec 8) : Scope :=
  match a.toNat / 64 with
  | 0 => .block
  | 1 => .device
  | _ => .system

/-- Where an ordering operation acts: a scratchpad address, or an object and an offset. -/
structure Aim where
  scope : Scope
  obj : Nat
  off : Int
  deriving DecidableEq, Repr

/-- The scratchpad base of a space field: k0 to k62, or `kz` (R173). -/
def spaceBase (g : Group) (a : BitVec 8) : Nat := if a.toNat % 64 = 63 then 0 else (g.readK (a &&& 63)).toNat

/-- The place that a space field and a displacement name (R173, R179, R119). -/
def aimOf (g : Group) (w : Iss) (a : BitVec 8) : Aim :=
  match spaceScope a with
  | .block => ⟨.block, 0, (spaceBase g a : Int) + dispOf w⟩
  | sc => let base := g.readKK (a &&& 63); ⟨sc, baseObj base, (baseOff base : Int) + dispOf w⟩

/-- The address of a place: in the scratchpad, or virtual. -/
def Aim.addr (t : Aim) : Nat := if t.scope = .block then padFaddr t.off else vaOf t.obj t.off

/-- The checks after the mode (R184, 2 to 5). The operation acts once for the group: FMASK is 0 (DEDUCED, log 7). -/
def aimTrap (c : Cpu) (m : Cells) (t : Aim) (size : Nat) : Option Trap :=
  match t.scope with
  | .block => (checkPad (c.ctx.block c.grp) t.off size size).map fun p => addrTrap p.1 p.2 t.addr 0
  | sc =>
    let rcd := c.record m t.obj
    match checkAccess rcd c.grp.gid t.obj t.off size size .order with
    | some p => some (addrTrap p.1 p.2 t.addr 0)
    | none =>
      let here := match rcd with
        | some r => homedHere c.hw r t.off.toNat
        | none => false
      if sc = .device && !here then some (addrTrap 5 3 t.addr 0) else none

/-- An ordering operation asks for the translation lines of its word (R283). -/
def aimTouch (c : Cpu) (m : Cells) (t : Aim) : Cpu :=
  match c.record m t.obj with
  | some r => if t.scope = .block then c else touchLines m c r [t.off.toNat]
  | none => c

/-- Translation at issue (R281); the operation's own write reaches a frame only at the fold. -/
def aimBlock (c : Cpu) (m : Cells) (t : Aim) (size : Nat) : Option (Nat × Nat) :=
  if t.scope = .block then none
  else match c.record m t.obj with
    | some r => accessBlock m r false t.off.toNat size
    | none => none

/-- The module on whose queue the entry performs (R81): another module for a word homed there. -/
def aimHome (c : Cpu) (m : Cells) (t : Aim) : Nat :=
  if t.scope = .block then c.hw.number
  else match c.record m t.obj with
    | some r => (homedAway c.hw r t.off.toNat).getD c.hw.number
    | none => c.hw.number

/-- The operation releases (R183). -/
def opReleases : TurnOp → Bool
  | .atomic .ldacq .. => false
  | .atomic .waita .. => false
  | .atomic .. => true
  | _ => false

/-- An entry goes to its queue, with the publications of a release (R81), and the group waits for it. -/
def sendEntry (m : Cells) (c : Cpu) (e : Entry) (t : TurnWait) : Cpu :=
  let c := if opReleases e.op then publishAll m e.stamp c.grp.sketch c else c
  let c := if e.home = c.hw.number then c else c.send 4 e.home (.turn e.stamp e.op)
  { c with grp := { c.grp with status := .turn t }, ctx := { c.ctx with queue := c.ctx.queue ++ [e] } }

/-- An ordering operation (R182): `modes` is its mode check, `src` and `cmp` give its operands in the lowest active lane. -/
def orderOp (op : AOp) (cond : BitVec 4) (a : BitVec 8) (vdst : Option (BitVec 8)) (modes : Group → Bool)
    (src cmp : Group → Nat → Dword) : Meaning := fun m w c =>
  let g := c.grp
  match lanesOf g.active with
  | [] => c.retire w g
  | lam :: _ =>
    if modes g then
      let wide := isWide g.ety
      let size := if wide then 8 else 4
      let t := aimOf g w a
      match aimTrap c m t size with
      | some e => c.trap w e
      | none =>
        let c := aimTouch c m t
        match aimBlock c m t size with
        | some b => waitSubtile c t.addr b
        | none =>
          let e : Entry := ⟨g.stamp, 64, t.scope, .atomic op cond t.addr wide (etySigned g.ety) (src g lam) (cmp g lam),
            c.hw.number, aimHome c m t, 0⟩
          sendEntry m c e ⟨vdst, none, wide, g.active, 64, issLen w⟩
    else c.trap w (modeTrap g 1)

/-- A returning atomic (R183): d is written, b is the source; `ok` gives the types it accepts (R182). -/
def atomicOp (op : AOp) (ok : Nat → Bool) (d a b : BitVec 8) : Meaning :=
  orderOp op 0 a (some d) (fun g => modeOk g ok (pairOk true d && pairOk false b))
    (fun g j => g.laneV (isWide g.ety) b j) (fun g j => g.laneV (isWide g.ety) d j)

/-- `ldacq` (R183). -/
def ldacqOp (d a : BitVec 8) : Meaning :=
  orderOp .ldacq 0 a (some d) (fun g => modeOk g isAny (pairOk true d)) (fun _ _ => 0) (fun _ _ => 0)

/-- `strel` (R183). -/
def strelOp (a b : BitVec 8) : Meaning :=
  orderOp .strel 0 a none (fun g => modeOk g isAny (pairOk false b)) (fun g j => g.laneV (isWide g.ety) b j) (fun _ _ => 0)

/-- `waita` (R185): conditions 2 to 9 require an integer word or dword. -/
def waitaOp (cond : BitVec 4) (a b : BitVec 8) : Meaning :=
  orderOp .waita cond a none (fun g => modeOk g (fun t => cond.toNat < 2 || isCmpI t) (pairOk false b))
    (fun _ _ => 0) (fun g j => g.laneV (isWide g.ety) b j)

/-- `cede` (R169). -/
def cedeOp (a : BitVec 8) : Meaning := fun m w c =>
  let base := c.grp.readKK a
  let obj := baseObj base
  let off := baseOff base
  let rcd := c.record m obj
  match checkAccess rcd c.grp.gid obj off 1 1 .load with
  | some p => c.trap w (addrTrap p.1 p.2 base.toNat 0)
  | none =>
    match rcd with
    | none => c.trap w (addrTrap 3 2 base.toNat 0)
    | some r =>
      let c := touchLines m c r [off]
      match accessBlock m r false off 1 with
      | some b => waitSubtile c base.toNat b
      | none =>
        let sc := if homedHere c.hw r off then Scope.device else Scope.system
        let c := match homedAway c.hw r off with
          | some n => c.send 0 n (.watch (lineOf base.toNat) c.grp.gid c.grp.lc)
          | none => c
        { c with grp := { c.grp with status := .ceded (weight w.i) (.line sc base.toNat) none } }

/-- A barrier arrival (R190, R191): count 0 is the block's launched group count. -/
def arriveOp (n : BitVec 4) (cnt : BitVec 10) (waits : Bool) : Meaning := fun m w c =>
  let g := c.grp
  let count := if cnt = 0 then ((c.ctx.block g).map Block.g).getD 0 else cnt.toNat
  sendEntry m c ⟨g.stamp, weight w.i, .block, .arrive n.toNat count waits, c.hw.number, c.hw.number, 0⟩
    ⟨none, none, false, 0, weight w.i, issLen w⟩

/-- The completing stamp of a generation, if it has completed (R191). -/
def genDone (b : Block) (n gen : Nat) : Option Stamp := ((b.bars[n]?).bind fun x => get? x.done gen)

/-- `barw` (R191): the outcome depends only on the completing stamp. -/
def barwOp (n : BitVec 4) : Meaning := fun _ w c =>
  let g := c.grp
  match get? g.baras n.toNat with
  | none => c.retire w g
  | some gen =>
    match (c.ctx.block g).bind fun b => genDone b n.toNat gen with
    | some f => c.retire w { g with baras := del g.baras n.toNat, lc := max g.lc f.lc }
    | none => { c with grp := { g with status := .ceded (weight w.i) (.barrier n.toNat gen) none } }

/-! ### One meaning per word -/

/-- `axchg` (R183). -/
def execAxchg (d a b : BitVec 8) (s : State) : Host.Outcome State Fault Refusal :=
  issue noPre (atomicOp .axchg isAny d a b) (.axchg d a b) s
/-- `acas` (R183). -/
def execAcas (d a b : BitVec 8) (s : State) : Host.Outcome State Fault Refusal :=
  issue noPre (atomicOp .acas isAny d a b) (.acas d a b) s
/-- `aadd` (R183). -/
def execAadd (d a b : BitVec 8) (s : State) : Host.Outcome State Fault Refusal :=
  issue noPre (atomicOp .aadd isCmpI d a b) (.aadd d a b) s
/-- `amin` (R183). -/
def execAmin (d a b : BitVec 8) (s : State) : Host.Outcome State Fault Refusal :=
  issue noPre (atomicOp .amin isCmpI d a b) (.amin d a b) s
/-- `amax` (R183). -/
def execAmax (d a b : BitVec 8) (s : State) : Host.Outcome State Fault Refusal :=
  issue noPre (atomicOp .amax isCmpI d a b) (.amax d a b) s
/-- `aand` (R183). -/
def execAand (d a b : BitVec 8) (s : State) : Host.Outcome State Fault Refusal :=
  issue noPre (atomicOp .aand isAny d a b) (.aand d a b) s
/-- `aor` (R183). -/
def execAor (d a b : BitVec 8) (s : State) : Host.Outcome State Fault Refusal :=
  issue noPre (atomicOp .aor isAny d a b) (.aor d a b) s
/-- `axor` (R183). -/
def execAxor (d a b : BitVec 8) (s : State) : Host.Outcome State Fault Refusal :=
  issue noPre (atomicOp .axor isAny d a b) (.axor d a b) s
/-- `ldacq` (R183). -/
def execLdacq (d a : BitVec 8) (s : State) : Host.Outcome State Fault Refusal := issue noPre (ldacqOp d a) (.ldacq d a) s
/-- `strel` (R183). -/
def execStrel (a b : BitVec 8) (s : State) : Host.Outcome State Fault Refusal := issue noPre (strelOp a b) (.strel a b) s
/-- `waita` (R185). -/
def execWaita (c : BitVec 4) (a b : BitVec 8) (s : State) : Host.Outcome State Fault Refusal :=
  issue noPre (waitaOp c a b) (.waita c a b) s
/-- `cede` (R169). -/
def execCede (a : BitVec 8) (s : State) : Host.Outcome State Fault Refusal := issue noPre (cedeOp a) (.cede a) s
/-- `bar` (R191). -/
def execBar (n : BitVec 4) (cnt : BitVec 10) (s : State) : Host.Outcome State Fault Refusal :=
  issue noPre (arriveOp n cnt true) (.bar n cnt) s
/-- `bara` (R191). -/
def execBara (n : BitVec 4) (cnt : BitVec 10) (s : State) : Host.Outcome State Fault Refusal :=
  issue noPre (arriveOp n cnt false) (.bara n cnt) s
/-- `barw` (R191). -/
def execBarw (n : BitVec 4) (s : State) : Host.Outcome State Fault Refusal := issue noPre (barwOp n) (.barw n) s

end Sys2Proof.Machine
end

