-- ==== Sys2Proof/Machine/Reductions.lean ====
section
/-! DEFINITION. Deferred reductions, first bytes 0xC7 to 0xCF (R187, R188), and the exact combination that applies them (R95, R106). -/

namespace Sys2Proof.Machine

/-! ### Combination -/

/-- The place of a reduction in opcode order. -/
def ropIdx : ROp → Nat
  | .radd => 0
  | .rfadd => 1
  | .rmin => 2
  | .rmax => 3
  | .rfmin => 4
  | .rfmax => 5
  | .rand => 6
  | .ror => 7
  | .rxor => 8

/-- The kind of R106, in order of opcode and then of ETY code. -/
def contribKind (c : Contrib) : Nat := 16 * ropIdx c.op + c.ety.toNat

/-- The exact value of a floating contribution (R95, R231). -/
def contribValue (c : Contrib) : FV :=
  match c.exact with
  | some (m, e) => .fin false m.toNat e
  | none => decodeF (etyFmt c.ety.toNat) false c.val

/-- Contributions of one kind to one target applied to its base value (R95, R188). -/
def combine (op : ROp) (ety n base : Nat) (cs : List Contrib) : Nat :=
  let sg := etySigned ety
  let f := etyFmt ety
  let fb := decodeF f false base
  match op with
  | .radd => cs.foldl (fun x c => (x + c.val) % 2 ^ n) base
  | .rfadd => (toFormat f 0 false false 0 (FV.sum false (fb :: cs.map contribValue)).1).1
  | .rmin => cs.foldl (fun x c => if toI n sg c.val < toI n sg x then c.val else x) base
  | .rmax => cs.foldl (fun x c => if toI n sg x < toI n sg c.val then c.val else x) base
  | .rfmin => (toFormat f 0 false false 0 (cs.foldl (fun x c => FV.pick false x (contribValue c)) fb)).1
  | .rfmax => (toFormat f 0 false false 0 (cs.foldl (fun x c => FV.pick true x (contribValue c)) fb)).1
  | .rand => cs.foldl (fun x c => x &&& c.val) base
  | .ror => cs.foldl (fun x c => x ||| c.val) base
  | .rxor => cs.foldl (fun x c => x ^^^ c.val) base

/-- The words that a contribution covers (R106). -/
def contribWords (c : Contrib) : List Nat :=
  let a := c.addr - c.addr % 4
  if c.bits = 64 then [a, a + 4] else [a]

/-- The kinds of the contributions to each word. -/
def wordKinds (cs : List Contrib) : List (Nat × List Nat) :=
  cs.foldl (fun k c => (contribWords c).foldl (fun k a => put k a (insertNew ((get? k a).getD []) (contribKind c))) k) []

/-- Contributions split by target and kind. -/
def byTarget (cs : List Contrib) : List (Nat × List Contrib) :=
  cs.foldl (fun k c => let t := 256 * c.addr + contribKind c; put k t (((get? k t).getD []) ++ [c])) []

/-- The bytes that contributions leave at their targets; a word with two kinds receives none (R95, R106). -/
def applyReds (cs : List Contrib) (base : Nat → Byte) : Cells :=
  let kinds := wordKinds cs
  (byTarget cs).foldl (fun s t =>
    match t.2 with
    | [] => s
    | c :: _ =>
      let len := c.bits / 8
      let x := combine c.op c.ety.toNat c.bits (leNat base c.addr len) t.2
      putAll s ((bytesAt c.addr x len).filter fun e => ((get? kinds (e.1 - e.1 % 4)).getD []).length ≤ 1)) []

/-! ### Issue -/

/-- The address of a lane of a reduction: in the scratchpad, or an offset in the object (R187). -/
def redAddr (g : Group) (w : Iss) (a b : BitVec 8) (j : Nat) : Int :=
  if a.toNat / 64 = 0 then (spaceBase g a : Int) + (laneAt (g.readV b) j).toInt + dispOf w
  else laneOff g (g.readKK (a &&& 63)) b (dispOf w) j

/-- The contributions of one lane at a byte address: one per element (R187). -/
def laneContribs (op : ROp) (g : Group) (d : BitVec 8) (at' j : Nat) : List Contrib :=
  let n := etyBits g.ety
  let x := g.laneV (isWide g.ety) d j
  (List.range (if n = 64 then 1 else 32 / n)).map fun e =>
    ⟨at' + e * n / 8, op, BitVec.ofNat 4 g.ety, n, elemOf n x e, none, g.gid⟩

/-- A contribution to memory goes to its home, here or across the fabric (R95, R343). -/
def sendContrib (r : Record) (c : Cpu) (k : Contrib) : Cpu :=
  match homedAway c.hw r (vaOff k.addr) with
  | some n => c.send 6 n (.reduction k)
  | none => { c with ctx := { c.ctx with flight := c.ctx.flight ++ [.contribution k] } }

/-- A deferred reduction (R187). Every active lane is checked before any contribution is sent (R128). -/
def reduceOp (op : ROp) (ok : Nat → Bool) (d a b : BitVec 8) : Meaning := fun m w c =>
  let g := c.grp
  if !modeOk g ok (pairOk false d) then c.trap w (modeTrap g 1)
  else
    let size := if isWide g.ety then 8 else 4
    let lanes := lanesOf g.active
    let off := redAddr g w a b
    if a.toNat / 64 = 0 then
      let blk := c.ctx.block g
      match firstFailure (lanes.map fun j => (j, padFaddr (off j), checkPad blk (off j) size size)), blk with
      | some t, _ => c.trap w t
      | none, none => c.retire w g
      | none, some p =>
        let cs := lanes.flatMap fun j => laneContribs op g d (off j).toNat j
        ({ c with ctx := c.ctx.setBlock { p with reds := p.reds ++ cs } } : Cpu).retire w g
    else
      let obj := baseObj (g.readKK (a &&& 63))
      let rcd := c.record m obj
      match firstFailure (lanes.map fun j => (j, vaOf obj (off j), checkAccess rcd g.gid obj (off j) size size .reduce)), rcd with
      | some t, _ => c.trap w t
      | none, none => c.retire w g
      | none, some r =>
        let c := touchLines m c r (lanes.map fun j => (off j).toNat)
        match lanes.filterMap fun j => (accessBlock m r true (off j).toNat size).map fun x => (vaOf obj (off j), x) with
        | x :: l => waitSubtiles c (x :: l)
        | [] =>
          let cs := lanes.flatMap fun j => laneContribs op g d (vaOf obj (off j)) j
          let c := cs.foldl (sendContrib r) c
          c.retire w c.grp

/-! ### One meaning per word -/

/-- `radd` (R188). -/
def execRadd (d a b : BitVec 8) (s : State) : Host.Outcome State Fault Refusal :=
  issue noPre (reduceOp .radd isInt d a b) (.radd d a b) s
/-- `rfadd` (R188). -/
def execRfadd (d a b : BitVec 8) (s : State) : Host.Outcome State Fault Refusal :=
  issue noPre (reduceOp .rfadd isFlt d a b) (.rfadd d a b) s
/-- `rmin` (R188). -/
def execRmin (d a b : BitVec 8) (s : State) : Host.Outcome State Fault Refusal :=
  issue noPre (reduceOp .rmin isInt d a b) (.rmin d a b) s
/-- `rmax` (R188). -/
def execRmax (d a b : BitVec 8) (s : State) : Host.Outcome State Fault Refusal :=
  issue noPre (reduceOp .rmax isInt d a b) (.rmax d a b) s
/-- `rfmin` (R188). -/
def execRfmin (d a b : BitVec 8) (s : State) : Host.Outcome State Fault Refusal :=
  issue noPre (reduceOp .rfmin isFlt d a b) (.rfmin d a b) s
/-- `rfmax` (R188). -/
def execRfmax (d a b : BitVec 8) (s : State) : Host.Outcome State Fault Refusal :=
  issue noPre (reduceOp .rfmax isFlt d a b) (.rfmax d a b) s
/-- `rand` (R188). -/
def execRand (d a b : BitVec 8) (s : State) : Host.Outcome State Fault Refusal :=
  issue noPre (reduceOp .rand isAny d a b) (.rand d a b) s
/-- `ror` (R188). -/
def execRor (d a b : BitVec 8) (s : State) : Host.Outcome State Fault Refusal :=
  issue noPre (reduceOp .ror isAny d a b) (.ror d a b) s
/-- `rxor` (R188). -/
def execRxor (d a b : BitVec 8) (s : State) : Host.Outcome State Fault Refusal :=
  issue noPre (reduceOp .rxor isAny d a b) (.rxor d a b) s

end Sys2Proof.Machine
end

