-- ==== Sys2Proof/Machine/Translation.lean ====
section
/-! DEFINITION. Changes of translation lines: their kinds and when they take effect (R285 to R287, R290), directories (R284), the
translation aperture (R362), and the steps that apply them. -/

namespace Sys2Proof.Machine

/-! ### What a write changes -/

/-- The address lies in the object record table (R272). -/
def inTable (objtb : Dword) (pa : Nat) : Bool :=
  decide (recordPa objtb 0 ≤ pa) && decide (pa < recordPa objtb (2 ^ (objtb.toNat % 32)))

/-- The records of a table that memory lists anything of; every other is invalid. -/
def listedRecords (m : Cells) (objtb : Dword) : List Nat :=
  m.foldl (fun l e => if inTable objtb e.1 then insertNew l ((e.1 - recordPa objtb 0) / 128) else l) []

/-- A record's sub-tile map holds the address (R280). -/
def inMap (r : Record) (pa : Nat) : Bool :=
  r.mapped && decide (r.base ≤ pa) && decide (pa < r.base + 8 * ((r.ext + 2 ^ r.stlog - 1) / 2 ^ r.stlog))

/-- The first MAPPED record whose map holds an address (R272). -/
def mapRecord (h : Module) (m : Cells) (objtb : Dword) (pa : Nat) : Option Record :=
  (listedRecords m objtb).findSome? fun n =>
    match recordOf h m objtb n with
    | some r => if inMap r pa then some r else none
    | none => none

/-- Pending values written over memory, in the order in which they were recorded. -/
def pendApplied (m : Cells) (l : List PendXlat) : Cells := l.foldl (fun m p => wrAll 0 m (bytesAt p.pa p.val.toNat 8)) m

/-- How a translation write takes effect (R285). -/
inductive Change where
  | same
  | service
  | drain
  | deferred
  deriving DecidableEq, Repr

/-- The kind of a change of a map entry, by the STATE fields; a malformed new entry is deferred. -/
def entryChange (r : Record) (old new : Nat) : Change :=
  if entryBad r new then .deferred
  else match old / 2 ^ 62, new / 2 ^ 62 with
    | 0, 1 => .service
    | 0, 2 => .service
    | 2, 1 => .service
    | 3, 1 => .service
    | 1, 3 => .drain
    | _, _ => .deferred

/-- The kind of a translation write to an address of a context; none outside its ranges (R272, R285). A record value that names a map may
be pending by an earlier `objw`. -/
def changeOf (h : Module) (m : Cells) (x : Ctx) (pa : Nat) (val : Dword) : Option Change :=
  let old := memNat m pa 8
  let still := old = val.toNat && !(x.pendXlat.any fun p => p.pa == pa)
  if inTable x.objtb pa then some (if still then .same else .deferred)
  else match mapRecord h m x.objtb pa with
    | some r => some (if still then .same else entryChange r old val.toNat)
    | none => (mapRecord h (pendApplied m (x.pendXlat.filter fun p => p.stamp.isSome)) x.objtb pa).map fun _ => .deferred

/-! ### Directories and caches -/

/-- The translation caches of a module (R283): record and sub-tile caches of the 128 cores, then of the four gateways. -/
def allCaches : List Nat := List.range 264

/-- The caches to be invalidated for a line: its sharers, or all of them by a discovery broadcast where the home has no entry for it or one
that an error has replaced (R284). -/
def sharersOf (dir : List DirEntry) (line : Nat) : List Nat :=
  match dir.find? fun d => d.line == line with
  | some d => if d.every || d.dropped then allCaches else d.sharers
  | none => allCaches

/-- A translation line is written: its bytes, its mark (R287), and its directory entry, whose caches drop it. -/
def writeXlat (s : State) (pa : Nat) (val : Dword) : State :=
  let l := lineOf pa
  { s with
    mem := wrAll unwritten s.mem (bytesAt pa val.toNat 8)
    cpu := { s.cpu with hw := { s.cpu.hw with
      tmarks := insertNew s.cpu.hw.tmarks l
      dir := { s.cpu.hw.dir with entries := s.cpu.hw.dir.entries.filter fun d => d.line != l } } } }

/-- A translation dword is written in the leg, by the host or by an `objw`; beside a write by the other path it is a race (R287). -/
def Cpu.noteXlat (c : Cpu) (pa : Nat) (host : Bool) : Cpu :=
  let c := if (pa, !host) ∈ c.ctx.xlatLeg then (c.event 5 0 0 pa).logs 40 5 (BitVec.ofNat 64 pa) else c
  { c with ctx := { c.ctx with xlatLeg := insertNew c.ctx.xlatLeg (pa, host) } }

/-- A write that leaves its dword as it is: nothing to take effect, but its line bears the mark of a written one (R285, R287). -/
def Cpu.sameXlat (c : Cpu) (pa : Nat) (host : Bool) : Cpu :=
  let c := c.noteXlat pa host
  { c with hw := { c.hw with tmarks := insertNew c.hw.tmarks (lineOf pa) } }

/-- A deferred translation write becomes pending (R285). -/
def Cpu.pend (c : Cpu) (p : PendXlat) : Cpu :=
  let c := c.noteXlat p.pa p.stamp.isNone
  { c with ctx := { c.ctx with pendXlat := c.ctx.pendXlat ++ [p] } }

/-- A service write is on its way to its home (R285). -/
def Cpu.sendSvc (c : Cpu) (pa : Nat) (val : Dword) (gid : Option Nat) : Cpu :=
  let c := c.noteXlat pa gid.isNone
  { c with ctx := { c.ctx with svc := c.ctx.svc ++ [⟨pa, val, gid, .sent, []⟩] } }

/-! ### Service writes -/

/-- The group of a service `objw` goes on (R287): the word and its weight are those of `objw`. -/
def Group.objwDone (g : Group) : Group := { g with pc := g.pc + 4, lc := g.lc + 64, cmask := 0, status := .running }

/-- A service write leaves the list; its group resumes. -/
def Cpu.svcDone (c : Cpu) (v : Svc) : Cpu :=
  let c := { c with ctx := { c.ctx with svc := c.ctx.svc.filter fun u => u != v } }
  match v.gid with
  | some gid => c.onGid gid Group.objwDone
  | none => c

/-- A write moving → resident that names another frame than RELOC's (R290). -/
def svcRefused (h : Module) (m : Cells) (x : Ctx) (v : Svc) : Bool :=
  match mapRecord h m x.objtb v.pa with
  | some r =>
    r.reloc && memNat m v.pa 8 / 2 ^ 62 == 3 && v.val.toNat / 2 ^ 62 == 1 &&
      v.val.toNat / 2 ^ 14 % 2 ^ 38 * 2 ^ 14 != r.newbase + (v.pa - r.base) / 8 * 2 ^ r.stlog
  | none => false

/-- Replace a service write by what it has become. -/
def setSvc (x : Ctx) (v u : Svc) : Ctx := { x with svc := x.svc.map fun y => if y = v then u else y }

/-- A code image takes a sub-tile that was absent or malformed when it was taken, as its frame holds it now (R271; DEDUCED, log 26). -/
def imageTake (h : Module) (m : Cells) (x : Ctx) (pa : Nat) (i : Image) : Image :=
  match mapRecord h m x.objtb pa with
  | none => i
  | some r =>
    let e := memNat m pa 8
    let f := e / 2 ^ 14 % 2 ^ 38 * 2 ^ 14
    let inFrame := fun c : Host.Cell => decide (f ≤ c.1) && decide (c.1 < f + 2 ^ r.stlog)
    let mem := if e / 2 ^ 62 = 1 then wrAll unwritten (i.mem.filter fun c => !inFrame c) (m.filter inFrame) else i.mem
    if memNat i.mem pa 8 / 2 ^ 62 = 0 || entryBad r (memNat i.mem pa 8) then { i with mem := wrAll unwritten mem (bytesAt pa e 8) } else i

/-- The frame of a map entry (R280). -/
def entryFrame (e : Nat) : Nat := e / 2 ^ 14 % 2 ^ 38 * 2 ^ 14

/-- Bytes of the frame that a sub-tile has left, at their places in its new frame. -/
def movedCells (old new size : Nat) (s : Cells) : Cells :=
  s.foldl (fun l e => put l (if old ≤ e.1 && e.1 < old + size then new + (e.1 - old) else e.1) e.2) []

/-- Host writes still to land follow a sub-tile to its new frame: they write through the entry in effect when they land (R281, R291). -/
def relocateHost (old new size : Nat) (s : State) : State :=
  let f := List.map (movedCells old new size)
  let g := fun x : Ctx => { x with hostWrites := f x.hostWrites, hostNext := f x.hostNext }
  { s with
    cpu := { s.cpu with ctx := g s.cpu.ctx, hw := { s.cpu.hw with hostLate := s.cpu.hw.hostLate.map fun l => { l with cells := movedCells old new size l.cells } } }
    others := s.others.map g }

/-- An entry moving → resident with another frame: what is held for the old one follows. -/
def relocated (v : Svc) (s : State) : State :=
  let old := memNat s.mem v.pa 8
  match mapRecord s.cpu.hw s.mem s.cpu.ctx.objtb v.pa with
  | some r =>
    if old / 2 ^ 62 = 3 && v.val.toNat / 2 ^ 62 = 1 && entryFrame old ≠ entryFrame v.val.toNat then
      relocateHost (entryFrame old) (entryFrame v.val.toNat) (2 ^ r.stlog) s
    else s
  | none => s

/-- SERVICE_WRITE_APPLY (R285): the home applies the n-th service write of the context in hand and invalidates its sharers. -/
def svcApply (n : Nat) (s : State) : State :=
  match s.cpu.ctx.svc[n]? with
  | none => s
  | some v =>
    if v.stage ≠ .sent then s
    else if svcRefused s.cpu.hw s.mem s.cpu.ctx v then
      s.onCpu fun c => ((c.event 4 0 0 v.pa).logs 40 4 (BitVec.ofNat 64 v.pa)).svcDone v
    else
      let moving := memNat s.mem v.pa 8 / 2 ^ 62 = 1
      let unread := memNat s.mem v.pa 8 / 2 ^ 62 ≠ 1
      let acks := sharersOf s.cpu.hw.dir.entries (lineOf v.pa)
      let t := (writeXlat (relocated v s) v.pa v.val).onCtx fun x => setSvc x v { v with stage := if moving then .draining else .invalidating, acks := acks }
      if unread then t.onCtx fun x =>
        { x with images := x.images.map (imageTake t.cpu.hw t.mem x v.pa), loaded := imageTake t.cpu.hw t.mem x v.pa x.loaded }
      else t

/-- An entry of a queue here has translated a sub-tile's map entry and not performed yet (R286). -/
def usesEntry (h : Module) (m : Cells) (x : Ctx) (pa : Nat) (e : Entry) : Bool :=
  match e.op with
  | .atomic _ _ addr _ _ _ _ => e.home == h.number && e.scope != .block &&
      (match recordOf h m x.objtb (vaObj addr) with
        | some r => r.mapped && entryPa r (vaOff addr) == pa
        | none => false)
  | _ => false

/-- The drain of a change resident → moving is over (R286): no ordering operation that translated the entry as resident is still queued,
but for those that stand behind the `objw` itself, which read their word of the frame as the drain ends (DEDUCED, log 47). -/
def drained (h : Module) (m : Cells) (x : Ctx) (gs : List Group) (v : Svc) : Bool :=
  x.queue.all fun e => !(usesEntry h m x v.pa e &&
    (match v.gid.bind fun i => gs.find? fun g => g.gid == i with
      | some g => Stamp.lt e.stamp ⟨g.lc, g.gid⟩
      | none => true))

/-- The word of the frame that a queued ordering operation has translated. -/
def entryWord (h : Module) (m : Cells) (x : Ctx) (e : Entry) : Cells :=
  match e.op with
  | .atomic _ _ addr wide _ _ _ => (span addr (if wide then 8 else 4)).map fun a => (a, match recordOf h m x.objtb (vaObj addr) with
    | some r => frameByte m r (vaOff a)
    | none => 0)
  | _ => []

/-- MOVING_DRAIN_COMPLETE (R286): every access that translated the entry as resident is finished at the frame. An ordering operation that
is still queued reads its word there now; its turn comes as ever. -/
def drainDone (n : Nat) (s : State) : State :=
  match s.cpu.ctx.svc[n]? with
  | none => s
  | some v =>
    if v.stage = .draining && drained s.cpu.hw s.mem s.cpu.ctx s.cpu.groups v then
      s.onCtx fun x =>
        { setSvc x v { v with stage := .invalidating } with
          drained := x.drained ++ (x.queue.filter (usesEntry s.cpu.hw s.mem x v.pa)).map fun e => (e.stamp, entryWord s.cpu.hw s.mem x e) }
    else s

/-- Accesses that wait on an entry run again (R281). -/
def wakeXlat (pa : Nat) (s : State) : State :=
  let wake := fun g : Group => match g.status with
    | .xlat q => if pa ∈ q then { g with status := .running } else g
    | _ => g
  let serviced := fun x : Ctx => { x with xlatEvents := x.xlatEvents.filter fun q => q != pa }
  { s with
    cpu := { s.cpu.mapGroups wake with ctx := serviced (s.cpu.mapGroups wake).ctx }
    others := s.others.map fun x => serviced { x with groups := x.groups.map wake } }

/-- TRANSLATION_CHANGE_COMPLETE (R285): every invalidation is acknowledged; the change is complete. -/
def svcComplete (n : Nat) (s : State) : State :=
  match s.cpu.ctx.svc[n]? with
  | none => s
  | some v => if v.stage = .invalidating then wakeXlat v.pa (s.onCpu fun c => c.svcDone v) else s

/-! ### The host's and the directory's steps -/

/-- TRANSLATION_APERTURE_WRITE (R362): a host dword at a device PA. Where no context names the address nothing defers it (DEDUCED, log
16). A write that is not aligned to its dword, which R362 does not describe, stops the run (DESIGN CHOICE, log 67). -/
def apertureWrite (pa : Nat) (val : Dword) (s : State) : Host.Outcome State Fault Refusal :=
  if !devicePa pa || pa % 8 ≠ 0 then .fault (.hostAddress pa)
  else
    match s.takeCtx fun x => (changeOf s.cpu.hw s.mem x pa val).isSome with
    | none => .next (writeXlat s pa val)
    | some s =>
      match changeOf s.cpu.hw s.mem s.cpu.ctx pa val with
      | some .deferred => .next (s.onCpu fun c => c.pend ⟨pa, val, none, none⟩)
      | some .service => .next (s.onCpu fun c => c.sendSvc pa val none)
      | some .drain => .next (s.onCpu fun c => c.sendSvc pa val none)
      | some .same => .next (s.onCpu fun c => c.sameXlat pa true)
      | none => .next s

/-- DIRECTORY_ENTRY_DROP (R284): only an entry with exactly one holder may go. The line stays in that cache. -/
def dropEntry (h : Module) (line : Nat) : Module :=
  { h with dir := { h.dir with entries := h.dir.entries.map fun d =>
    if d.line = line && !d.every && d.sharers.length = 1 then { d with dropped := true } else d } }

/-- The home's entry for a line after an uncorrectable error (R284): every cache is a sharer, whatever they hold. -/
def everySharer (line : Nat) (ds : List DirEntry) : List DirEntry :=
  if ds.any fun d => d.line == line then ds.map fun d => if d.line = line then { d with every := true } else d
  else ds ++ [⟨line, [], true, false⟩]

/-- DIRECTORY_ERROR (R284): every cache is a sharer from now on; the event is logged. -/
def directoryFault (line : Nat) (s : State) : State :=
  let s := (s.takeCtx fun x => inTable x.objtb line || (mapRecord s.cpu.hw s.mem x.objtb line).isSome).getD s
  s.onCpu fun c =>
    let c := { c with hw := { c.hw with dir := { c.hw.dir with entries := everySharer line c.hw.dir.entries } } }
    (c.event 6 0 0 line).logs 40 6 (BitVec.ofNat 64 line)

/-! ### One meaning per step -/

/-- SERVICE_WRITE_APPLY (R285). -/
def execServiceWriteApply (n : Nat) (s : State) : Host.Outcome State Fault Refusal := .next (svcApply n s)
/-- MOVING_DRAIN_COMPLETE (R286). -/
def execMovingDrainComplete (n : Nat) (s : State) : Host.Outcome State Fault Refusal := .next (drainDone n s)
/-- DIRECTORY_ENTRY_DROP (R284). -/
def execDirectoryEntryDrop (ln : Nat) (s : State) : Host.Outcome State Fault Refusal := .next (s.onHw fun h => dropEntry h ln)
/-- DIRECTORY_ERROR (R284). -/
def execDirectoryError (ln : Nat) (s : State) : Host.Outcome State Fault Refusal := .next (directoryFault ln s)
/-- TRANSLATION_APERTURE_WRITE (R362). -/
def execTranslationApertureWrite (x : Nat) (val : Dword) (s : State) : Host.Outcome State Fault Refusal := apertureWrite x val s

end Sys2Proof.Machine
end

