-- ==== Sys2Proof/Machine/Copy.lean ====
section
/-! DEFINITION. The copy engine: templates (R223, R224), the copy frame (R225 to R227), conversions and the quantizing pass (R228 to
R232), landing (R233 to R235), and `xfr`, `xfrw`, `xfrq`, first bytes 0xE8 to 0xEA (R238 to R240), with system copies (R288). -/

namespace Sys2Proof.Machine

/-! ### Templates -/

/-- The template at an index of the table, as it stands in the base image (R223). -/
def templateAt (m : Cells) (tmplb : Dword) (n : Nat) : Template :=
  let p := tmplb.toNat / 4096 % 2 ^ 40 * 4096 + 256 * n
  let c0 := memNat m p 4
  let c1 := memNat m (p + 4) 4
  { dir := c0 / 2 ^ 29 % 4
    rank := c0 / 2 ^ 26 % 8
    sfmt := c0 / 2 ^ 20 % 16
    dfmt := c0 / 2 ^ 16 % 16
    sblk := c0 / 2 ^ 14 % 4
    dblk := c0 / 2 ^ 12 % 4
    dlay := c0 / 2 ^ 11 % 2
    ori := c0.testBit 10
    rnd := c0 / 2 ^ 7 % 8
    tpol := c0 / 2 ^ 4 % 8
    pmt := c0.testBit 3
    stm := c0 / 2 % 4
    amx := c0.testBit 0
    pl := c1 / 2 ^ 28
    slay := c1 / 2 ^ 26 % 4
    src := memNat m (p + 8) 8
    dst := memNat m (p + 16) 8
    scl := memNat m (p + 24) 8
    amxa := memNat m (p + 32) 8
    sta := memNat m (p + 40) 8
    fill := BitVec.ofNat 32 (memNat m (p + 48) 4)
    svec := memNat m (p + 52) 4
    pitch := (List.range 4).map fun i => memNat m (p + 56 + 4 * i) 4
    shape := (List.range 5).map fun i => memNat m (p + 72 + 4 * i) 4 }

/-- VAL is set and every reserved bit and byte is zero (R223). -/
def templateRaw (m : Cells) (tmplb : Dword) (n : Nat) : Bool :=
  let p := tmplb.toNat / 4096 % 2 ^ 40 * 4096 + 256 * n
  let c0 := memNat m p 4
  c0.testBit 31 && c0 / 2 ^ 24 % 4 == 0 && memNat m (p + 4) 4 % 2 ^ 26 == 0 && memNat m (p + 92) 164 == 0

/-- An address field is virtual, or a scratchpad address (R224). -/
def isVirtual (a : Nat) : Bool := a / 2 ^ 40 != 0
def isPadAddr (a : Nat) : Bool := a / 2 ^ 23 == 0

/-- A conversion that R70 defines, or equal formats (R224). -/
def convOk (s d : Nat) : Bool := s == d || fcvtCode (BitVec.ofNat 8 (16 * d + s))

/-- An inbound copy into canonical tiles. -/
def isCanon (t : Template) : Bool := t.dir == 0 && t.dlay == 0
/-- The blocking and the format of the memory side, and the format of the scratchpad side. -/
def memBlk (t : Template) : Nat := if t.dir = 1 then t.dblk else t.sblk
def memFmt (t : Template) : Nat := if t.dir = 1 then t.dfmt else t.sfmt
def padFmt (t : Template) : Nat := if t.dir = 1 then t.sfmt else t.dfmt

/-- A template of DIR 0 or 1 is well formed (R224). -/
def copyTemplateOk (t : Template) : Bool :=
  let out := t.dir == 1
  let canon := isCanon t
  (if out then isPadAddr t.src && isVirtual t.dst && t.sblk == 0 && t.dlay == 0
   else isVirtual t.src && isPadAddr t.dst && t.dblk == 0 && !t.amx)
  && (if memBlk t != 0 then memFmt t == 0 && isVirtual t.scl && (t.slay != 1 || t.tpol ≤ 3) && (t.tpol != 4 || out)
      else memFmt t ≤ 13 && t.scl == 0)
  && (!t.ori || 2 ≤ t.rank)
  && (if canon then
        t.rank == 2 && 1 ≤ t.pl && t.pl ≤ 11 && t.dst % 128 == 0 && t.dfmt == 0 && t.pitch.all (· == 0)
          && t.shape.getD 0 0 ≤ 128 && t.shape.getD 1 0 ≤ 128 && t.svec % 4 == 0 && (t.svec != 0) == (t.sblk != 0)
      else t.pl == 0 && t.svec == 0 && padFmt t ≤ 13 && (memBlk t != 0 || convOk t.sfmt t.dfmt))
  && (match t.stm with
      | 1 => out && isVirtual t.sta
      | 2 => !out && isPadAddr t.sta
      | _ => t.sta == 0)
  && (if t.amx then isVirtual t.amxa else t.amxa == 0)

/-- A template of DIR 2 is well formed (R288). -/
def sysTemplateOk (t : Template) : Bool :=
  t.rank == 1 && t.sfmt == 11 && t.dfmt == 11 && t.sblk == 0 && t.dblk == 0 && t.dlay == 0 && !t.ori && !t.amx && t.stm == 0 && !t.pmt
  && t.src % 128 == 0 && t.dst % 128 == 0 && t.shape.getD 0 0 % 128 == 0
  && t.scl == 0 && t.amxa == 0 && t.sta == 0 && t.svec == 0 && t.pl == 0

/-- A template is well formed (R223, R224, R288): codes in range, unused pitches and extents zero, then the rules of its direction. (DEDUCED, log 8) -/
def templateOk (t : Template) : Bool :=
  t.dir ≤ 2 && 1 ≤ t.rank && t.rank ≤ 5 && t.sblk ≤ 2 && t.dblk ≤ 2 && t.rnd ≤ 4 && t.tpol ≤ 4 && t.stm ≤ 2 && t.slay ≤ 1
  && (t.pitch.drop (t.rank - 1)).all (· == 0) && (t.shape.drop t.rank).all (· == 0)
  && (if t.dir = 2 then sysTemplateOk t else copyTemplateOk t)

/-! ### The copy frame -/

/-- The last two of a list exchanged. -/
def swapLast {α : Type} (l : List α) : List α :=
  match l.reverse with
  | a :: b :: r => (b :: a :: r).reverse
  | _ => l

/-- Every index tuple below the counts, in row-major order (R225). -/
def tuples : List Nat → List (List Nat)
  | [] => [[]]
  | n :: r => (List.range n).flatMap fun i => (tuples r).map fun t => i :: t

/-- One element of a copy: t, its frame coordinate, what fails of its shape (R295: a dimension, or 7 for the extent), its byte offset in
the object and, for 4-bit elements, the half (R120, R123, R225). -/
structure Elem where
  t : List Nat
  c : List Int
  bad : Option Nat
  off : Int
  half : Nat
  deriving DecidableEq, Repr

/-- The element size in bytes; a 4-bit element stands in one. -/
def elemSize (r : Record) : Nat := if r.esz = 0 then 1 else 2 ^ (r.esz - 1)

/-- The dimensions of the memory object in the copy frame (R225). -/
def frameDims (t : Template) (r : Record) : List Nat :=
  let d := r.dims.take r.rank
  if t.ori then swapLast d else d

/-- Coordinates in the object's own order. -/
def objCoords (t : Template) (c : List Int) : List Int := if t.ori then swapLast c else c

/-- An element (R120, R123): its place is an offset of the object, whatever offset the template's address has (DEDUCED, log 48). -/
def elemAt (t : Template) (r : Record) (origin : List Int) (tup : List Nat) : Elem :=
  let c := List.zipWith (fun (o : Int) (i : Nat) => o + (i : Int)) origin tup
  let e : Int := (List.zipWith (fun (x s : Int) => x * s) (objCoords t c) r.strides).foldl (· + ·) 0
  let off : Int := if r.lay = 1 then e / 2 else elemSize r * e
  let dims := frameDims t r
  let bad := (List.range r.rank).find? fun i => let x := c.getD i 0; decide (x < 0) || decide ((dims.getD i 0 : Int) ≤ x)
  { t := tup
    c := c
    bad := match bad with
      | some i => some i
      | none => if off < 0 || (r.ext : Int) < off + elemSize r then some 7 else none
    off := off
    half := if r.lay = 1 then (e % 2).toNat else 0 }

/-- The elements of a copy in row-major order of t. -/
def elemsOf (t : Template) (r : Record) (origin : List Int) (counts : List Nat) : List Elem :=
  (tuples counts).map (elemAt t r origin)

/-- The block entry of an in-shape element (R226): row-major over the block grid of D. A copy of rank 1 under blocking 2 has one blocked
dimension (DESIGN CHOICE, log 58). -/
def blockOf (t : Template) (r : Record) (e : Elem) : Option Nat :=
  if memBlk t = 0 || e.bad.isSome then none
  else
    let first := r.rank - memBlk t
    let dims := frameDims t r
    some ((List.range r.rank).foldl (fun n i =>
      let d := dims.getD i 0
      let x := (e.c.getD i 0).toNat
      if first ≤ i then n * ((d + 127) / 128) + x / 128 else n * d + x) 0)

/-- The bytes of a block entry (R226). -/
def entrySize (t : Template) : Nat := if t.slay = 0 then 8 else 4

/-- The address of an element on the row-major scratchpad side (R225). -/
def padElem (t : Template) (tup : List Nat) (size : Nat) : Nat :=
  let s := if t.dir = 1 then t.src else t.dst
  s + (List.zipWith (fun i p => i * p) (tup.take (t.rank - 1)) t.pitch).foldl (· + ·) 0 + (tup.getD (t.rank - 1) 0) * size

/-- The size of an element on the scratchpad side; an E2M1 element occupies one byte. -/
def padSize (t : Template) : Nat := max 1 (fmtBits (padFmt t) / 8)

/-! ### Conversion -/

/-- A quotient rounded to FP32 (R230). -/
def divFp32 (a b : FV) : Nat :=
  match a, b with
  | .nan, _ => nanF fp32
  | .inf s, _ => infF fp32 s
  | .fin s m e, .fin s' m' e' => (roundMag fp32 0 false false 0 (s != s') ⟨m, m', e - e'⟩).1
  | .fin .., _ => 0

/-- The format code of a tag or a fixed policy (R61). -/
def tagFormat (tag : Nat) : Nat :=
  match tag with
  | 0 => 3
  | 1 => 4
  | 2 => 5
  | _ => 10

/-- maxFinite of R230. -/
def tagMax (tag : Nat) : FV :=
  match tag with
  | 0 => .fin false 448 0
  | 1 => .fin false 57344 0
  | 2 => .fin false 6 0
  | _ => .fin false 127 0

/-- A magnitude. -/
def fvAbs : FV → FV
  | .nan => .nan
  | .inf _ => .inf false
  | .fin _ m e => .fin false m e

/-- A finite value that is not zero. -/
def fvNonzero : FV → Bool
  | .fin _ m _ => m != 0
  | _ => false

/-- The tag and the scale bits of a block (R230). -/
def quantScale (tpol : Nat) (xs : List FV) : Nat × Nat :=
  let fin := xs.filterMap fun x => match x with
    | .fin _ m e => some (FV.fin false m e)
    | _ => none
  let amax := fin.foldl (FV.pick true) (.fin false 0 0)
  let nz := fin.filter fvNonzero
  let amin := nz.foldl (FV.pick false) (nz.headD (.fin false 0 0))
  let tag := if tpol = 4 then (if fvNonzero amax && FV.cmp (amin.mul (.fin false 1 9)).1 amax == .lt then 1 else 0) else tpol
  let s := divFp32 amax (tagMax tag)
  (tag, if s = 0 then 0x3F800000 else s)

/-- The random word of an element (R65, R232). -/
def copyRandom (seed : Word) (lc : Nat) (coords : List Int) : Word :=
  mix32 ([seed, BitVec.ofNat 32 lc, BitVec.ofNat 32 (lc / 2 ^ 32)] ++ coords.map fun x => BitVec.ofInt 32 x)

/-- The fill value as an exact value (R223). -/
def fillValue (t : Template) : FV :=
  if t.sblk ≠ 0 || t.sfmt < 6 then decodeF fp32 false t.fill.toNat else FV.ofInt t.fill.toInt

/-- The value of an inbound element (R228, R229). -/
def inValue (t : Template) (r : Record) (scales : List (Nat × Word × Nat)) (e : Elem) (bits : Nat) : FV :=
  if e.bad.isSome then fillValue t
  else match blockOf t r e with
    | some n =>
      let sc := (get? scales n).getD (0x3F800000, 0)
      let v := decodeCode (tagFormat sc.2) false bits
      if t.dlay = 1 then (v.mul (decodeF fp32 false sc.1.toNat)).1 else v
    | none => decodeCode t.sfmt false bits

/-- What an inbound copy writes (R229). -/
def inPayload (c : Copy) : Cells :=
  let t := c.t
  let els := elemsOf t c.rcd c.origin c.counts
  let vals := List.zipWith (fun e b => inValue t c.rcd c.scales e b) els c.src
  let rnd := fun e : Elem => if t.rnd = 4 then copyRandom c.seed c.stamp.lc (objCoords t e.c) else 0
  if isCanon t then
    let table := (List.zip els vals).map fun x => (128 * x.1.t.getD 0 0 + x.1.t.getD 1 0, x.2, rnd x.1)
    let arr := table.foldl (fun (a : Array (FV × Word)) x => a.setIfInBounds x.1 x.2) (Array.replicate 16384 (.fin false 0 0, 0))
    let at' := fun i j => arr.getD (128 * i + j) (.fin false 0 0, 0)
    let first := els.findSome? (blockOf t c.rcd)
    let hdr := if t.sblk = 0 then t.sfmt
      else tagFormat (match first with
        | some n => ((get? c.scales n).getD (0, t.tpol)).2
        | none => t.tpol)
    let tile := (encodeTile t.pl hdr t.rnd (fun i j => (at' i j).2) fun i j => (at' i j).1).map fun e => (t.dst + e.1, e.2)
    let n1 := c.counts.getD 1 1
    let scaleOf := fun i => match (if t.sblk = 2 then els else (els.drop (i * n1)).take n1).findSome? (blockOf t c.rcd) with
      | some n => ((get? c.scales n).getD (0x3F800000, 0)).1.toNat
      | none => 0x3F800000
    let svec := if t.sblk = 1 then
        (List.range 128).flatMap fun i => bytesAt (t.svec + 4 * i) (if i < c.counts.getD 0 0 then scaleOf i else 0x3F800000) 4
      else if t.sblk = 2 then bytesAt t.svec (scaleOf 0) 4
      else []
    tile ++ svec
  else
    (List.zip els vals).flatMap fun x =>
      bytesAt (padElem t x.1.t (padSize t)) (encodeCode t.dfmt t.rnd true false (rnd x.1) x.2).1 (padSize t)

/-- The block entry written by an outbound copy (R226, R230). -/
def entryCells (t : Template) (n tag scale : Nat) : Cells :=
  bytesAt (t.scl + entrySize t * n) scale 4 ++ (if t.slay = 0 then bytesAt (t.scl + 8 * n + 4) tag 4 else [])

/-- Source values by block. -/
def byBlock (t : Template) (r : Record) (l : List (Elem × FV)) : List (Nat × List FV) :=
  l.foldl (fun k x => match blockOf t r x.1 with
    | some n => put k n (((get? k n).getD []) ++ [x.2])
    | none => k) []

/-- What an outbound copy writes (R230): bytes, and 4-bit elements. -/
def outPayload (c : Copy) : Cells × Cells :=
  let t := c.t
  let els := elemsOf t c.rcd c.origin c.counts
  let l := (List.zipWith (fun e b => (e, decodeCode t.sfmt false b)) els c.src).filter fun x => x.1.bad.isNone
  let rnd := fun e : Elem => if t.rnd = 4 then copyRandom c.seed c.stamp.lc e.c else 0
  let va := fun e : Elem => vaOf c.rcd.obj e.off
  if t.dblk = 0 then
    let enc := fun x : Elem × FV => (encodeCode t.dfmt t.rnd true false (rnd x.1) x.2).1
    if c.rcd.lay = 1 then ([], l.map fun x => (2 * va x.1 + x.1.half, BitVec.ofNat 8 (enc x % 16)))
    else (l.flatMap fun x => bytesAt (va x.1) (enc x) (elemSize c.rcd), [])
  else
    let blocks := (byBlock t c.rcd l).map fun b => (b.1, quantScale t.tpol b.2)
    let data := l.map fun x =>
      let q := (get? blocks ((blockOf t c.rcd x.1).getD 0)).getD (0, 0x3F800000)
      let y := decodeF fp32 false (divFp32 x.2 (decodeF fp32 false q.2))
      (va x.1, BitVec.ofNat 8 (encodeCode (tagFormat q.1) t.rnd true false (rnd x.1) y).1)
    (data ++ blocks.flatMap fun b => entryCells t b.1 b.2.1 b.2.2, [])

/-- The amax contribution of a copy (R231): the largest magnitude of its in-shape elements that are not NaN. -/
def copyAmax (c : Copy) : Option Contrib :=
  let l := (List.zip (elemsOf c.t c.rcd c.origin c.counts) c.src).filterMap fun x =>
    if x.1.bad.isSome then none
    else match decodeCode c.t.sfmt false x.2 with
      | .nan => none
      | v => some (fvAbs v)
  if !c.t.amx then none
  else match l with
    | [] => none
    | v :: vs =>
      let top := vs.foldl (FV.pick true) v
      let exact := match top with
        | .fin _ m e => some ((m : Int), e)
        | _ => none
      some ⟨c.t.amxa, .rfmax, 2, 32, (toFormat fp32 0 false false 0 top).1, exact, c.stamp.gid⟩

/-- COPY_ENGINE_READ: the engine converts what the copy reads (R228 to R232, R235). -/
def convertCopy (c : Copy) : Copy :=
  if c.t.dir = 1 then
    let p := outPayload c
    { c with read := true, payload := p.1, nibs := p.2, amax := copyAmax c,
             stampCells := if c.t.stm = 1 then bytesAt c.t.sta c.stamp.lc 8 else [] }
  else
    { c with read := true, payload := inPayload c,
             stampCells := if c.t.stm = 2 then bytesAt c.t.sta c.value.toNat 4 else [] }

/-! ### The checks of `xfr` -/

/-- Object permissions of a copy (R121, R102, R303): source c and r, destination c and w in a PARCEL or PRIVATE object. -/
def copyPerm (r : Record) (gid : Nat) (out : Bool) : Option Nat :=
  if r.obj = 1 || !hasPerm r 3 || !hasPerm r (if out then 1 else 0) then some 1
  else if out then (if r.mode == 1 || (r.mode == 3 && isOwner r gid) then none else some 2)
  else if modeRefuses r gid .load then some 2 else none

/-- Check 4: every scratchpad item (address, bytes, alignment): alignment, then extent. -/
def padItemsTrap (b : Option Block) (items : List (Nat × Nat × Nat)) : Option Trap :=
  match items.find? fun x => x.1 % x.2.2 ≠ 0 with
  | some x => some (addrTrap 2 1 x.1 0)
  | none =>
    match items.find? fun x => match b with
      | some b => !padValid b x.1 x.2.1
      | none => true with
    | some x => some (addrTrap 3 3 x.1 0)
    | none => none

/-- The scratchpad items of a copy (R238). -/
def padItems (t : Template) (els : List Elem) : List (Nat × Nat × Nat) :=
  (if isCanon t then
      (t.dst, tileBytes t.pl, 1) :: (if t.sblk = 1 then [(t.svec, 512, 4)] else if t.sblk = 2 then [(t.svec, 4, 4)] else [])
    else els.map fun e => (padElem t e.t (padSize t), padSize t, padSize t))
  ++ (if t.stm = 2 then [(t.sta, 4, 4)] else [])

/-- Check 5: the memory side, the lowest failing element (R123, R124, R295). -/
def elemTrap (t : Template) (r : Record) (gid : Nat) (i : Nat) (e : Elem) : Option Trap :=
  let fa := BitVec.ofNat 64 (vaOf r.obj e.off)
  if e.off % (elemSize r : Int) ≠ 0 then some ⟨2, 1, fa, 0, 0, 0⟩
  else match e.bad with
    | some d =>
      if r.pmt && t.pmt then none
      else
        let info := if d = 7 then 7 else d + 2 ^ 32 * wrapI 32 (e.c.getD d 0)
        some ⟨4, 1, fa, 0, BitVec.ofNat 64 i, BitVec.ofNat 64 info⟩
    | none => (copyPerm r gid (t.dir = 1)).map fun code => ⟨5, code, fa, 0, 0, 0⟩

/-- Check 6 on one item of memory, at an offset of an object: alignment, extent, permission (R122). -/
def itemTrap (c : Cpu) (m : Cells) (obj off size align : Nat) (perm : Record → Option Nat) : Option Trap :=
  let va := vaOf obj off
  if off % align ≠ 0 then some (addrTrap 2 1 va 0)
  else match c.record m obj with
    | none => some (addrTrap 3 2 va 0)
    | some r =>
      if r.ext < off + size then some (addrTrap 3 1 va 0)
      else (perm r).map fun code => addrTrap 5 code va 0

/-- The permission of a plain or reducing access, as a code. -/
def accessPerm (gid : Nat) (k : Access) (r : Record) : Option Nat :=
  if r.obj = 1 || !permOk r k then some 1 else if modeRefuses r gid k then some 2 else none

/-- Check 6: scale entries, amax word, memory stamp (R231, R235). (DEDUCED, log 8) -/
def extrasTrap (c : Cpu) (m : Cells) (t : Template) (blocks : List Nat) : Option Trap :=
  let out := t.dir == 1
  let gid := c.grp.gid
  match blocks.findSome? fun n => itemTrap c m (vaObj t.scl) (vaOff t.scl + entrySize t * n) (entrySize t) 4 fun r => copyPerm r gid out with
  | some e => some e
  | none =>
    match if t.amx then itemTrap c m (vaObj t.amxa) (vaOff t.amxa) 4 4 (accessPerm gid .reduce) else none with
    | some e => some e
    | none => if t.stm = 1 then itemTrap c m (vaObj t.sta) (vaOff t.sta) 8 8 fun r => copyPerm r gid true else none

/-- The block condition of R227. -/
def wholeBlocks (t : Template) (r : Record) (origin : List Int) (counts : List Nat) : Bool :=
  memBlk t == 0 || !(t.dir == 1 || isCanon t) ||
    (List.range r.rank).all fun i =>
      if r.rank - memBlk t ≤ i then
        let o := origin.getD i 0
        let n := counts.getD i 0
        o % 128 == 0 && (n % 128 == 0 || decide (o + n = ((frameDims t r).getD i 0 : Int)))
      else true

/-- Element size and rank agree with the template (R225). -/
def recordFits (t : Template) (r : Record) : Bool :=
  r.rank == t.rank &&
    (if memBlk t != 0 then r.esz == 1
     else if memFmt t = 5 then r.lay == 1
     else r.lay == 0 && 8 * elemSize r == fmtBits (memFmt t))

/-! ### `xfr` -/

/-- The block entries that a copy reads or writes, in order. -/
def entriesOf (t : Template) (r : Record) (els : List Elem) : List Nat :=
  ((els.foldl (fun k e => match blockOf t r e with
    | some n => put k n ()
    | none => k) ([] : List (Nat × Unit))).map Prod.fst)

/-- A pending copy leaves `xfr` (R238): the group goes on. -/
def pendCopy (w : Iss) (c : Cpu) (k : Copy) : Cpu :=
  ({ c with ctx := { c.ctx with copies := c.ctx.copies ++ [k], nextCopy := c.ctx.nextCopy + 1 } } : Cpu).retire w c.grp

/-- What a copy past its checks leaves in the caches: its object, its scale entries, its amax word and its memory stamp (R283, R284). -/
def touchCopy (m : Cells) (c : Cpu) (t : Template) (r : Record) (els : List Elem) : Cpu :=
  let other := fun (c : Cpu) (used : Bool) (va : Nat) (offs : List Nat) =>
    match if used then c.record m (vaObj va) else none with
    | some q => touchLines m c q offs
    | none => c
  let c := touchLines m c r ((els.filter fun e => e.bad.isNone).map fun e => e.off.toNat)
  let c := other c (memBlk t != 0) t.scl ((entriesOf t r els).map fun n => vaOff t.scl + entrySize t * n)
  other (other c t.amx t.amxa [vaOff t.amxa]) (t.stm == 1) t.sta [vaOff t.sta]

/-- What the source of a copy waits on (R281). -/
def sourceWait (m : Cells) (r : Record) (spans : List (Nat × Nat)) : List (Nat × (Nat × Nat)) :=
  spans.flatMap fun x => (accessBlocks m r false (vaOff x.1) x.2).map fun b => (x.1, b)

/-- An inbound copy past its checks: its source is read as a plain load of the group reads (R228). -/
def xfrIn (m : Cells) (w : Iss) (c : Cpu) (r : Record) (els : List Elem) (k : Copy) : Cpu :=
  let t := k.t
  let size := elemSize r
  let ins := els.filter fun e => e.bad.isNone
  let spans := ins.map fun e => (vaOf r.obj e.off, size)
  let entries := if t.sblk = 0 then [] else entriesOf t r els
  let sr := c.record m (vaObj t.scl)
  let eSpans := entries.map fun n => (t.scl + entrySize t * n, entrySize t)
  match sourceWait m r spans ++ ((sr.map fun q => sourceWait m q eSpans).getD []) with
  | x :: l => waitSubtiles c (x :: l)
  | [] =>
    match missingLines c r (spans.flatMap fun x => span x.1 x.2), sr.map fun q => missingLines c q (eSpans.flatMap fun x => span x.1 x.2) with
    | l :: ls, _ => askLines .copy c r (l :: ls)
    | [], some (l :: ls) => askLines .copy c (sr.getD r) (l :: ls)
    | [], _ =>
      let src := els.map fun e =>
        if e.bad.isSome then 0
        else
          let x := leNat (loadByte c m r) (vaOf r.obj e.off) size
          if r.lay = 1 then x / 16 ^ e.half % 16 else x
      let scales := match sr with
        | none => []
        | some q => entries.map fun n =>
          let a := t.scl + entrySize t * n
          (n, BitVec.ofNat 32 (leNat (loadByte c m q) a 4), if t.slay = 0 then leNat (loadByte c m q) (a + 4) 1 % 4 else t.tpol)
      pendCopy w c { k with src := src, scales := scales }

/-- An outbound copy past its checks: its source is read at its place in program order (R230). Every element is read, the dropped ones of
R124 with the others, so the source bytes of each take the reader's tag (DESIGN CHOICE, log 57). -/
def xfrOut (w : Iss) (c : Cpu) (els : List Elem) (k : Copy) : Cpu :=
  match c.ctx.block c.grp with
  | none => c.trap w (padTrap k.t.src)
  | some b =>
    let size := padSize k.t
    let addrs := els.map fun e => padElem k.t e.t size
    let src := addrs.map fun a => leNat (padByte b c.grp.gid) a size
    let b' := padTag b c.grp.gid false (addrs.flatMap fun a => span a size)
    pendCopy w { c with ctx := c.ctx.setBlock b' } { k with src := src }

/-- The parameter words (R225). In the trap window a word whose number is above 31 reads as 0 (DESIGN CHOICE, log 59). -/
def paramWords (g : Group) (kp : BitVec 8) (n : Nat) : List Word := (List.range n).map fun i => g.readK (kp + BitVec.ofNat 8 i)

/-- The parameters are allowed: counts within SHAPE, the landing distance (R225). -/
def paramsOk (t : Template) (ws : List Word) : Bool :=
  let d := (ws.getD (2 * t.rank) 0).toNat
  decide (1 ≤ d) && decide (d ≤ 7) &&
    (List.range t.rank).all fun i =>
      let n := (ws.getD (t.rank + i) 0).toNat
      decide (1 ≤ n) && decide (n ≤ t.shape.getD i 0)

/-- A system copy (R288): both ranges name memory and do not overlap. -/
def sysCopyTrap (t : Template) (n : Nat) : Option Trap :=
  let bad := fun a => n ≠ 0 && !(namesMemory a && namesMemory (a + n - 1) && decide (a / 2 ^ 38 = (a + n - 1) / 2 ^ 38 ∨ hostPa a))
  if bad t.src then some (addrTrap 5 5 t.src 0)
  else if bad t.dst then some (addrTrap 5 5 t.dst 0)
  else if t.src < t.dst + n && t.dst < t.src + n then some (addrTrap 5 5 t.dst 0)
  else none

/-- The check that a template of DIR 2 makes right after that of its index (R238, R249): it requires system level. -/
def xfrPre (a : BitVec 8) (m : Cells) (x : Ctx) (g : Group) : Option Trap :=
  let n := (g.readK a).toNat
  if g.inWin && 31 < a.toNat && a.toNat < 160 then none
  else if x.tmplb.toNat % 4096 ≤ n then none
  else if (templateAt m x.tmplb n).dir = 2 then sysPre g
  else none

/-- `xfr` (R238), after the check of `xfrPre`. -/
def xfrOp (ch : BitVec 2) (a kp : BitVec 8) : Meaning := fun m w c0 =>
  let c := if drainPending c0.grp then c0.settle else c0
  let g := c.grp
  let n := (g.readK a).toNat
  let t := templateAt m c.ctx.tmplb n
  if c.ctx.tmplb.toNat % 4096 ≤ n then c.trap w (modeTrap g 8)
  else if !(templateRaw m c.ctx.tmplb n && templateOk t) then c.trap w (modeTrap g 8)
  else
    let len := 2 * t.rank + (if t.stm = 2 then 2 else 1)
    let ws := paramWords g kp len
    if 160 < kp.toNat + len || !paramsOk t ws then c.trap w (modeTrap g 9)
    else
      let origin := (ws.take t.rank).map BitVec.toInt
      let counts := ((ws.drop t.rank).take t.rank).map BitVec.toNat
      let dist := (ws.getD (2 * t.rank) 0).toNat
      if t.dir = 2 then
        if origin ≠ [0] || counts ≠ t.shape.take 1 then c.trap w (addrTrap 5 5 t.src 0)
        else match sysCopyTrap t (counts.headD 0) with
          | some e => c.trap w e
          | none =>
            let id := c.ctx.nextCopy
            ({ c with ctx := { c.ctx with
                sysCopies := c.ctx.sysCopies ++ [({ id := id, gid := g.gid, src := t.src, dst := t.dst, bytes := counts.headD 0, done := false } : SysCopy)], nextCopy := id + 1 } } : Cpu).retire w
              { g with sysCopies := g.sysCopies ++ [id] }
      else
        let va := if t.dir = 1 then t.dst else t.src
        match c.record m (vaObj va) with
        | none => c.trap w (addrTrap 3 2 va 0)
        | some r =>
          if !recordFits t r then c.trap w (modeTrap g 8)
          else if !wholeBlocks t r origin counts then c.trap w (modeTrap g 9)
          else
            let els := elemsOf t r origin counts
            let blk := c.ctx.block g
            match padItemsTrap blk (padItems t els) with
            | some e => c.trap w e
            | none =>
              match (els.zipIdx).findSome? fun (x : Elem × Nat) => elemTrap t r g.gid x.2 x.1 with
              | some e => c.trap w e
              | none =>
                match extrasTrap c m t (if memBlk t = 0 then [] else entriesOf t r els) with
                | some e => c.trap w e
                | none =>
                  let c := touchCopy m c t r els
                  let k : Copy :=
                    { id := c.ctx.nextCopy, stamp := g.stamp, lord := g.lord, blk := g.blk, ch := ch.toNat, t := t, rcd := r,
                      origin := origin, counts := counts, value := ws.getD (2 * t.rank + 1) 0, seed := c.ctx.seed, toPad := t.dir == 0,
                      landAt := if t.dir = 0 then ((blk.map Block.syncs).getD 0) + dist else c.ctx.leg + dist - 1,
                      src := [], scales := [], read := false, payload := [], nibs := [], stampCells := [], amax := none }
                  if t.dir = 1 then xfrOut w c els k else xfrIn m w c r els k

/-- The group's copies that have not landed (R240). -/
def copiesOf (x : Ctx) (gid : Nat) : List Copy := x.copies.filter fun k => k.stamp.gid == gid

/-- A system copy of the group is still going on (R240). -/
def sysCopyGoing (x : Ctx) (g : Group) : Bool := x.sysCopies.any fun k => k.id ∈ g.sysCopies && !k.done

/-- `xfrw` (R239): it counts finished system copies off (R240). -/
def xfrwOp : Meaning := fun _ w c =>
  let g := c.grp
  if (copiesOf c.ctx g.gid).isEmpty && !sysCopyGoing c.ctx g then c.retire w { g with sysCopies := [] }
  else { c with grp := { g with status := .ceded (weight w.i) .xfrw none } }

/-- `xfrq` (R240). -/
def xfrqOp (d : BitVec 8) : Meaning := fun _ w c =>
  let g := c.grp
  c.retire w (g.writeK d (BitVec.ofNat 32 ((copiesOf c.ctx g.gid).length + g.sysCopies.length)))

/-! ### The engine's steps -/

/-- A landing (`f` gives its stamp for the groups whose copies land), or the end of a system copy, for a group that waits in `xfrw`: it
fires once nothing of the group is pending, at the stamp of the last landing, or at the group's own where only system copies were pending
(R239, R288). -/
def wakeXfrw (x : Ctx) (f : Group → Option Stamp) (g : Group) : Group :=
  match g.status with
  | .ceded w .xfrw none =>
    let last := (f g).orElse fun _ => g.landed
    if (copiesOf x g.gid).isEmpty && !sysCopyGoing x g then { g with status := .ceded w .xfrw (some (last.getD g.stamp)), landed := none }
    else { g with landed := last }
  | _ => g

/-- COPY_ENGINE_READ (R230): the copy of that number is read and converted, under the SEED of its issue (R65; DEDUCED, log 49). -/
def copyRead (id : Nat) (x : Ctx) : Ctx :=
  { x with copies := x.copies.map fun k => if k.id = id && !k.read then convertCopy k else k }

/-- The tags of the PARCEL lines of the context, by the PA of the line (R104, R288). -/
def tagPas (h : Module) (m : Cells) (x : Ctx) : List Tag :=
  x.movedTags ++ x.ptags.filterMap fun t =>
    (recordOf h m x.objtb (vaObj t.unit)).bind fun r => (framePa m r (vaOff t.unit)).map fun pa => { t with unit := lineOf pa }

/-- The tags of the lines that a system copy has moved go with them. -/
def moveTags (h : Module) (m : Cells) (k : SysCopy) (lines : List Nat) (x : Ctx) : Ctx :=
  let kept := x.movedTags.filter fun t => !decide (t.unit ∈ lines.map fun i => k.dst + 128 * i)
  let news := lines.flatMap fun i =>
    ((tagPas h m x).filter fun t => t.unit == k.src + 128 * i).map fun t => { t with unit := k.dst + 128 * i }
  { x with movedTags := (kept ++ news).eraseDups }

/-- The bytes, tags and marks of a system copy (R288): lines with a translation mark are left alone and logged (R287). (DEDUCED, log 35) -/
def sysCopyMove (k : SysCopy) (s : State) : State :=
  let h := s.cpu.hw
  let lines := (List.range (k.bytes / 128)).filter fun i => !decide (k.dst + 128 * i ∈ h.tmarks)
  let lost := (List.range (k.bytes / 128)).filter fun i => decide (k.dst + 128 * i ∈ h.tmarks)
  let mem := lines.foldl (fun m i =>
    (List.range 128).foldl (fun m j => memPut m (k.dst + 128 * i + j) (memByte s.mem (k.src + 128 * i + j))) m) s.mem
  let marks := lines.foldl (fun t i => if k.src + 128 * i ∈ h.tmarks then insertNew t (k.dst + 128 * i) else t) h.tmarks
  let c := lost.foldl (fun c i => c.logs 40 7 (BitVec.ofNat 64 (k.dst + 128 * i))) s.cpu
  { s with mem := mem, cpu := { c with hw := { c.hw with tmarks := marks }, ctx := moveTags h s.mem k lines c.ctx } }

/-- SYSTEM_COPY_COMPLETE (R288): its last byte is written. -/
def sysCopyDone (id : Nat) (s : State) : State :=
  match s.cpu.ctx.sysCopies.find? fun k => k.id == id && !k.done with
  | none => s
  | some k =>
    let s := sysCopyMove k s
    let x := { s.cpu.ctx with sysCopies := s.cpu.ctx.sysCopies.map fun q => if q.id = id then { q with done := true } else q }
    { s with cpu := { s.cpu with ctx := x }.mapGroups (wakeXfrw x fun _ => none) }

/-! ### One meaning per word and step -/

/-- `xfr` (R238). -/
def execXfr (ch : BitVec 2) (a b : BitVec 8) (s : State) : Host.Outcome State Fault Refusal := 
  issue (xfrPre a s.mem s.cpu.ctx) (xfrOp ch a b) (.xfr ch a b) s
/-- `xfrw` (R239). -/
def execXfrw (s : State) : Host.Outcome State Fault Refusal := issue noPre xfrwOp .xfrw s
/-- `xfrq` (R240). -/
def execXfrq (d : BitVec 8) (s : State) : Host.Outcome State Fault Refusal := issue noPre (xfrqOp d) (.xfrq d) s
/-- COPY_ENGINE_READ (R230). -/
def execCopyEngineRead (id : Nat) (s : State) : Host.Outcome State Fault Refusal := .next (s.onCtx (copyRead id))
/-- SYSTEM_COPY_COMPLETE (R288). -/
def execSystemCopyComplete (id : Nat) (s : State) : Host.Outcome State Fault Refusal := .next (sysCopyDone id s)

end Sys2Proof.Machine
end

