-- ==== Sys2Proof/Machine/Horizon.lean ====
section
/-! DEFINITION. The horizon (R82, R86), wake bounds (R87) and the perform rule (R83). -/

namespace Sys2Proof.Machine

/-- The first clock of the next leg, (k + 1)·Q (R92). -/
def legTop (x : Ctx) : Nat := (x.leg + 1) * 2 ^ x.legq

/-- The stamp ((k + 1)·Q, 0). -/
def endStamp (x : Ctx) : Stamp := ⟨legTop x, 0⟩

/-- The contribution of a group that has not ceded (R82); one whose wake source has fired counts at its re-entry clock. -/
def groupStamp (top : Nat) (g : Group) : Option Stamp :=
  let at' := fun lc => if lc < top then some (⟨lc, g.gid⟩ : Stamp) else none
  match g.status with
  | .running => at' g.lc
  | .xlat _ => at' g.lc
  | .remote _ => at' g.lc
  | .fence => at' g.lc
  | .service => at' g.lc
  | .turn t => some ⟨g.lc + t.weight, g.gid⟩
  | .ceded w _ (some f) => at' (max g.lc f.lc + w)
  | .ceded _ _ none => none
  | .absent => none
  | .stopped _ => none
  | .exited => none

/-- Publications on their way to homes on this module. -/
def flightStamps : List Flying → List Stamp
  | [] => []
  | .publication s _ :: l => s :: flightStamps l
  | .contribution _ :: l => flightStamps l

/-- Packets of the context, not yet acknowledged, that carry a publication, a wake, or the word that a release has performed. -/
def packetStamps (h : Module) (x : Ctx) : List Stamp :=
  h.retry.filterMap fun p =>
    if p.ctx = x.key then
      match p.body with
      | .publication s _ _ _ => some s
      | .wake _ _ _ s => some s
      | .performed s _ => some s
      | _ => none
    else none

/-- Entries sent to other modules and not yet answered. -/
def sentStamps (h : Module) (x : Ctx) : List Stamp :=
  (x.queue.filter fun e => e.home != h.number).map fun e => e.stamp

/-- Two gids are of one block. -/
def sameBlock (a b : Nat) : Bool := a / 512 == b / 512

/-- Other modules that take part in the context's leg ends. -/
def livePeers (x : Ctx) : List Peer := x.peers.filter fun p => !p.lost

/-- What this module has sent and received for the context in the leg, by the other module and sequence number. -/
def sentNow (h : Module) (x : Ctx) : List (Nat × Nat) :=
  (h.sentLog.filter fun t => t.ctx == x.key && t.leg == x.leg % 65536).map fun t => (t.peer, t.seq)
def gotNow (h : Module) (x : Ctx) : List (Nat × Nat) :=
  (h.gotLog.filter fun t => t.ctx == x.key && t.leg == x.leg % 65536).map fun t => (t.peer, t.seq)

/-- Everything that one module has sent to another is received there, and nothing more. -/
def channelClear (a b : Nat) (sent got : List (Nat × Nat)) : Bool :=
  ((sent.filter fun p => p.1 == b).map Prod.snd).isPerm ((got.filter fun p => p.1 == a).map Prod.snd)

/-- The reports of the other modules and the state of this one are of one moment of the leg: every other module has spoken in this phase,
and no packet between two modules is sent and not received by them (R346; DESIGN CHOICE, log 14). -/
def reportsAgree (h : Module) (x : Ctx) : Bool :=
  let all := (h.number, sentNow h x, gotNow h x) :: (livePeers x).map fun p => (p.module, p.sent, p.got)
  (livePeers x).all (fun p => p.leg == x.leg && p.phase == x.phase) &&
    all.all fun a => all.all fun b => a.1 == b.1 || channelClear a.1 b.1 a.2.1 b.2.2

/-- The contributions of the other modules to the system horizon, or their wake bounds (R82, R86). Until their reports agree, all is held
at the leg's start. -/
def peerStamps (h : Module) (x : Ctx) (f : Peer → List Stamp) : List Stamp :=
  if (livePeers x).isEmpty then []
  else if reportsAgree h x then (livePeers x).flatMap f
  else [⟨x.leg * 2 ^ x.legq, 0⟩]

/-- Groups, entries and publications of a scope on this module, ceded groups left out (R82, R87); `gid` names the block of block scope. -/
def baseStamps (h : Module) (x : Ctx) (gs : List Group) (sc : Scope) (gid : Nat) : List Stamp :=
  let top := legTop x
  match sc with
  | .block =>
    ((gs.filter fun g => sameBlock g.gid gid).filterMap (groupStamp top)) ++
      (flightStamps x.flight ++ packetStamps h x ++ sentStamps h x).filter fun s => sameBlock s.gid gid
  | _ => gs.filterMap (groupStamp top) ++ flightStamps x.flight ++ packetStamps h x ++ sentStamps h x

/-- What the other modules add to a scope. -/
def farStamps (h : Module) (x : Ctx) (sc : Scope) (f : Peer → List Stamp) : List Stamp :=
  match sc with
  | .system => peerStamps h x f
  | _ => []

/-- The base horizon of a scope for a waiting group, capped by the leg's end; the group's own contributions are left out (R87). -/
def baseHorizon (h : Module) (x : Ctx) (gs : List Group) (sc : Scope) (gid : Nat) : Stamp :=
  (((baseStamps h x gs sc gid).filter fun s => s.gid != gid) ++ farStamps h x sc fun p => p.horizon).foldl Stamp.min (endStamp x)

/-- An entry may write a line of memory: its operation does, or its release may (R87, R169). -/
def mayWrite (e : Entry) (line : Nat) (sc : Scope) : Bool :=
  match e.op with
  | .atomic .ldacq .. => false
  | .atomic .waita .. => false
  | .atomic _ _ addr _ _ _ _ => sc != .block || (e.scope == .block && lineOf addr == line)
  | _ => false

/-- An entry is an arrival at one of the barriers of a block. -/
def arrivesAt (e : Entry) (gid : Nat) (bar : Option Nat) : Bool :=
  match e.op with
  | .arrive b _ _ => sameBlock e.stamp.gid gid && (bar == none || bar == some b)
  | _ => false

/-- The lowest stamp among entries that a test admits, not above a stamp. -/
def lowest (x : Ctx) (s : Stamp) (p : Entry → Bool) : Stamp :=
  (x.queue.filter p).foldl (fun a e => Stamp.min a e.stamp) s

/-- The higher of two stamps. -/
def Stamp.max (a b : Stamp) : Stamp := if Stamp.lt a b then b else a

/-- The lowest stamp at which a copy of the group can land (R87). -/
def landBound (h : Module) (x : Ctx) (gs : List Group) (g : Group) (k : Copy) : Stamp :=
  if k.toPad then lowest x (baseHorizon h x gs .block g.gid) fun e => arrivesAt e g.gid none
  else ⟨(k.landAt + 1) * 2 ^ x.legq, 0⟩

/-- The lowest stamp at which a wake source can fire, m (R87). -/
def sourceBound (h : Module) (x : Ctx) (gs : List Group) (g : Group) : Wait → Stamp
  | .line sc a =>
    lowest x (baseHorizon h x gs sc g.gid) fun e => mayWrite e (lineOf a) sc && (sc != .block || sameBlock e.stamp.gid g.gid)
  | .barrier b _ => lowest x (baseHorizon h x gs .block g.gid) fun e => arrivesAt e g.gid (some b)
  | .xfrw =>
    (copiesOf x g.gid).foldl (fun s k => Stamp.max s (landBound h x gs g k)) (g.landed.getD g.stamp)
  | .objfence => endStamp x
  | .mwait _ => g.stamp

/-- The wake bound B of a ceded group (R87). -/
def wakeBound (h : Module) (x : Ctx) (gs : List Group) (g : Group) : Option Stamp :=
  match g.status with
  | .ceded w wait none => some ⟨max g.lc (sourceBound h x gs g wait).lc + w, g.gid⟩
  | _ => none

/-- What an entry is measured against (R82): everything in its scope but its own contribution and that of its own publications. -/
def horizonOf (h : Module) (x : Ctx) (gs : List Group) (e : Entry) : List Stamp :=
  let ceded := (if e.scope = .block then gs.filter fun g => sameBlock g.gid e.stamp.gid else gs).filterMap (wakeBound h x gs)
  let own := fun s : Stamp => s.gid == e.stamp.gid && decide (e.stamp.lc ≤ s.lc)
  let silent := e.scope == .system && !(livePeers x).isEmpty && !reportsAgree h x
  ((baseStamps h x gs e.scope e.stamp.gid ++ ceded ++ if silent then [] else farStamps h x e.scope fun p => p.horizon ++ p.bounds).filter
    fun s => !own s) ++ if silent then [⟨x.leg * 2 ^ x.legq, 0⟩] else []

/-- The queues of an entry (R81, R259): those of its scratchpad words in a block, its line of memory, a barrier of a block, the launch turn
queue, a translation line. -/
def queuesOf (e : Entry) : List (Nat × Nat × Nat) :=
  match e.op with
  | .atomic _ _ addr wide _ _ _ =>
    if e.scope = .block then (0, e.stamp.gid / 512, addr / 4) :: if wide then [(0, e.stamp.gid / 512, addr / 4 + 1)] else []
    else [(1, lineOf addr, 0)]
  | .arrive b _ _ => [(2, e.stamp.gid / 512, b)]
  | .launch _ => [(3, 0, 0)]
  | .objw pa _ => [(4, lineOf pa, 0)]

/-- Two entries stand in one queue. -/
def sharesQueue (e f : Entry) : Bool := (queuesOf e).any fun q => decide (q ∈ queuesOf f)

/-- The perform rule (R83). -/
def performable (h : Module) (x : Ctx) (gs : List Group) (e : Entry) : Bool :=
  e.home == h.number
  && !(x.queue.any fun f => f.home == h.number && sharesQueue e f && Stamp.lt f.stamp e.stamp)
  && (horizonOf h x gs e).all fun s => Stamp.lt e.stamp s

/-- The entry that performs next: of those that may, the one with the lowest stamp, so that turns come about in the order of R85. -/
def nextTurn (h : Module) (x : Ctx) (gs : List Group) : Option Entry :=
  (x.queue.filter (performable h x gs)).foldl (fun best e => match best with
    | none => some e
    | some b => if Stamp.lt e.stamp b.stamp then some e else some b) none

/-- What the module says of its contributions to the system horizon (R346): entries queued here count at their own stamps. -/
def ownStamps (h : Module) (x : Ctx) (gs : List Group) : List Stamp :=
  baseStamps h x gs .device 0 ++ x.queue.map fun e => e.stamp

/-- The wake bounds of its ceded groups. -/
def ownBounds (h : Module) (x : Ctx) (gs : List Group) : List Stamp := gs.filterMap (wakeBound h x gs)

end Sys2Proof.Machine
end

