-- ==== Sys2Proof/Machine/System.lean ====
section
/-! DEFINITION. Privilege, control registers, launch and the other system instructions, first bytes 0xF0 to 0xFB (R248 to R274), and
the Corku instructions, first bytes 0xEC to 0xEF (R350 to R354). -/

namespace Sys2Proof.Machine

/-! ### Control registers -/

/-- `csrr` of a register that user level may not read, or of TSC where NONDET forbids it (R249, R253, R270). -/
def csrrPre (n : BitVec 8) (x : Ctx) (g : Group) : Option Trap :=
  if 7 ≤ n.toNat && n.toNat ≤ 11 then sysPre g
  else if n = 12 && !x.nondet.getLsbD 0 then some (privTrap g)
  else none

/-- The value of a control register (R253, R254); TSC is read apart. -/
def csrValue (x : Ctx) (g : Group) (n : Nat) : Dword :=
  match n with
  | 0 => (ctxId x).setWidth 64
  | 1 => BitVec.ofNat 64 x.legq
  | 2 => x.seed.setWidth 64
  | 3 => (x.nondet &&& 1).setWidth 64
  | 4 => g.fpflags.setWidth 64
  | 5 => g.trapv
  | 6 => g.fstat.setWidth 64
  | 7 => BitVec.ofNat 64 x.dq
  | 8 => x.objtb
  | 9 => x.tmplb
  | 10 => x.ovlb
  | _ => x.scrb

/-- Reading the timestamp counter (R270): a free value for every reading (DESIGN CHOICE, log 5). -/
def tscOp (d : BitVec 8) : Meaning := fun _ w c =>
  let v := Config.tscReading c.hw.tscCount
  ({ c with hw := { c.hw with tscCount := c.hw.tscCount + 1 } } : Cpu).retire w (c.grp.writeKK d v)

/-- `csrr` (R256). -/
def csrrOp (d n : BitVec 8) : Meaning := fun m w c =>
  if n = 12 then tscOp d m w c
  else
    let v := csrValue c.ctx c.grp n.toNat
    c.retire w (if csr64 n then c.grp.writeKK d v else c.grp.writeK d (v.extractLsb' 0 32))

/-- The bits that OBJTB and TMPLB hold (R254). -/
def csrMask (n : BitVec 8) (x : Dword) : Dword := if n = 8 then x &&& 0x000FFFFFFFFFF01F else x &&& 0x000FFFFFFFFFFFFF

/-- `csrw` of OBJTB and TMPLB at user level (R253). -/
def csrwPre (n : BitVec 8) (g : Group) : Option Trap := if n = 8 || n = 9 then sysPre g else none

/-- `csrw` (R255, R256). An NLOG of 0 or above 24 is taken as written (DESIGN CHOICE, log 62). -/
def csrwOp (a n : BitVec 8) : Meaning := fun _ w c =>
  let g := c.grp
  match n.toNat with
  | 4 => c.retire w { g with fpflags := (g.readK a).extractLsb' 0 5 }
  | 5 => c.retire w { g with trapv := g.readKK a &&& ~~~(3 : Dword) }
  | _ => ({ c with ctx := { c.ctx with pendCsr := c.ctx.pendCsr ++ [(decide (n = 9), g.stamp, csrMask n (g.readKK a))] } } : Cpu).retire w g

/-! ### Launch -/

/-- Bits [hi:lo] of word i of a launch record. -/
def recBits (r : List Word) (i hi lo : Nat) : Nat := (r.getD i 0).toNat / 2 ^ lo % 2 ^ (hi - lo + 1)

/-- The fields of a launch record (R257). -/
structure LRec where
  entry : Dword
  param : Dword
  gx : Nat
  gy : Nat
  gz : Nat
  bx : Nat
  bY : Nat
  bz : Nat
  acc : Nat
  sys : Bool
  aft : Bool
  pri : Nat
  que : Nat
  qta : Nat
  scr : Nat
  after : Nat
  deriving DecidableEq, Repr

/-- Read a launch record. -/
def lrecOf (r : List Word) : LRec where
  entry := r.getD 1 0 ++ r.getD 0 0
  param := r.getD 3 0 ++ r.getD 2 0
  gx := recBits r 4 15 0
  gy := recBits r 4 25 16
  gz := recBits r 4 31 26
  bx := recBits r 5 9 0
  bY := recBits r 5 19 10
  bz := recBits r 5 29 20
  acc := recBits r 5 31 30
  sys := recBits r 6 28 28 == 1
  aft := recBits r 6 27 27 == 1
  pri := recBits r 6 26 24
  que := recBits r 6 23 21
  qta := recBits r 6 20 16
  scr := recBits r 6 15 0
  after := recBits r 7 23 0

/-- G, the groups of a block. -/
def LRec.g (r : LRec) : Nat := r.bx * r.bY * r.bz
/-- The blocks of the grid. -/
def LRec.grid (r : LRec) : Nat := r.gx * r.gy * r.gz
/-- The quota of each group (R257). -/
def LRec.quota (r : LRec) (dq : Nat) : Nat := if r.qta = 31 then dq else r.qta
/-- The scratchpad bytes S. -/
def LRec.bytes (r : LRec) : Nat := 256 * r.scr
/-- The share of each role of n (R179). -/
def LRec.share (r : LRec) (n : Nat) : Nat := (r.bytes + 256 * n - 1) / (256 * n) * 256

/-- The record's fields are in range (R258, check 2). -/
def lrecOk (w : List Word) : Bool :=
  let r := lrecOf w
  decide (1 ≤ r.gx) && decide (1 ≤ r.gy) && decide (1 ≤ r.gz) && decide (r.grid < 2 ^ 31)
  && decide (1 ≤ r.bx) && decide (r.bx ≤ 512) && decide (1 ≤ r.bY) && decide (r.bY ≤ 512) && decide (1 ≤ r.bz) && decide (r.bz ≤ 512)
  && decide (r.g ≤ 512) && r.acc != 3 && recBits w 6 31 29 == 0 && r.qta != 30 && decide (r.scr ≤ 32768)
  && recBits w 7 31 24 == 0 && (r.aft || r.after == 0)

/-- n of R11, if one meets the conditions. -/
def coresFor (r : LRec) (dq : Nat) : Option Nat :=
  [1, 2, 3, 4].find? fun n =>
    decide (r.g ≤ 256 * n) && decide ((r.g + n - 1) / n * (8 * r.quota dq) ≤ Config.pinLimit) && decide (r.bytes ≤ n * 2 ^ 21)

/-- The checks of the entry address (R258, check 3). (DEDUCED, log 12) -/
def entryTrap (c : Cpu) (m : Cells) (t : Dword) : Option Trap :=
  if t.toNat % 4 ≠ 0 then some (addrTrap 2 2 t.toNat 0)
  else match c.record m (baseObj t) with
    | none => some (addrTrap 3 2 t.toNat 0)
    | some r =>
      if r.ext < baseOff t + 4 then some (addrTrap 3 1 t.toNat 0)
      else if hasPerm r 4 then none else some (addrTrap 5 1 t.toNat 0)

/-- The module whose launch turn queue the context uses (R259). -/
def launchHome (h : Module) (x : Ctx) : Nat := if x.span then (moduleList h).headD h.number else h.number

/-- The record of a `launch`. -/
def launchWords (g : Group) (a : BitVec 8) : List Word := (List.range 8).map fun i => g.readK (a + BitVec.ofNat 8 i)

/-- A `launch` with SYS set at user level: the privilege fault comes before any other check (R249, R258). -/
def launchPre (a : BitVec 8) (g : Group) : Option Trap := if (lrecOf (launchWords g a)).sys then sysPre g else none

/-- `launch` (R258, R259). -/
def launchOp (d a : BitVec 8) : Meaning := fun m w c =>
  let g := c.grp
  let r := launchWords g a
  let c := touchRecord m (baseObj (lrecOf r).entry) c
  if (lrecOf r).sys && !g.sys then c.trap w (privTrap g)
  else if !lrecOk r then c.trap w (modeTrap g 10)
  else match entryTrap c m (lrecOf r).entry with
    | some t => c.trap w t
    | none =>
      sendEntry m c ⟨g.stamp, weight w.i, .system, .launch r, c.hw.number, launchHome c.hw c.ctx, 0⟩
        ⟨none, some d, false, 0, weight w.i, issLen w⟩

/-! ### Translation writes -/

/-- `objw` (R272): classified at its home, which is this module's memory (R285, R287). (DEDUCED, log 36) -/
def objwOp (a b : BitVec 8) : Meaning := fun m w c =>
  let g := c.grp
  let pa := (g.readKK a).toNat
  let val := g.readKK b
  if pa % 8 ≠ 0 then c.trap w (addrTrap 2 1 pa 0)
  else match changeOf c.hw m c.ctx pa val with
    | none => c.trap w (addrTrap 5 5 pa 0)
    | some .same => (c.sameXlat pa false).retire w g
    | some .deferred =>
      sendEntry m c ⟨g.stamp, weight w.i, .system, .objw pa val, c.hw.number, c.hw.number, 0⟩
        ⟨none, none, false, 0, weight w.i, issLen w⟩
    | some _ =>
      { c.sendSvc pa val (some g.gid) with grp := { g with status := .service } }

/-- `objfence` (R273). -/
def objfenceOp : Meaning := fun _ w c =>
  if c.grp.objws = 0 then c.retire w c.grp
  else { c with grp := { c.grp with status := .ceded (weight w.i) .objfence none } }

/-- `icinv` (R271): the object's code image is renewed at the leg end. -/
def icinvOp (a : BitVec 8) : Meaning := fun m w c =>
  let base := c.grp.readKK a
  let c := touchRecord m (baseObj base) c
  match checkAccess (c.record m (baseObj base)) c.grp.gid (baseObj base) (baseOff base) 1 1 .execute with
  | some p => c.trap w (addrTrap p.1 p.2 base.toNat 0)
  | none => ({ c with ctx := { c.ctx with icinvs := insertNew c.ctx.icinvs (baseObj base) } } : Cpu).retire w c.grp

/-! ### Traps and stops -/

/-- `trap` (R266): it retires, then the trap is taken at the word after it. -/
def trapOp (n : BitVec 8) : Meaning := fun _ w c =>
  (c.retire w c.grp).trapWith (wordOf w.i) none ⟨8, n.toNat, c.grp.pc, 0, 0, 0⟩ 0

/-- A stop of the leg is recorded (R267, R268, R274). -/
def Cpu.stop (c : Cpu) (g : Group) (r : StopRec) : Cpu :=
  { c with grp := { g with status := .stopped r.why }, ctx := { c.ctx with stops := c.ctx.stops ++ [r] } }

/-- `asrt` (R268). -/
def asrtOp (d b : BitVec 8) : Meaning := fun _ w c =>
  let g := c.grp
  match lanesOf (g.active &&& ~~~(g.readP d.toNat)) with
  | [] => c.retire w g
  | lane :: _ => c.stop g ⟨.asrt, g.stamp, g.pc, 0, lane, g.readKK b⟩

/-- `rfe` (R269, R304). -/
def rfeOp : Meaning := fun _ w c =>
  if c.grp.inWin then { c with grp := (c.grp.retire w).leaveWindow } else c.trap w (modeTrap c.grp 11)

/-- `brkp` (R267). -/
def brkpOp (n : BitVec 8) : Meaning := fun _ w c =>
  let g := c.grp
  if c.ctx.dbg then c.stop (g.retire w) ⟨.brkp, g.stamp, g.pc, n.setWidth 32, 0, 0⟩ else c.retire w g

/-- `halt` (R274). -/
def haltOp (a : BitVec 8) : Meaning := fun _ w c =>
  let g := c.grp
  c.stop (g.retire w) ⟨.halt, g.stamp, g.pc, g.readK a, 0, 0⟩

/-! ### The Corku instructions -/

/-- The groups whose operation a packet carries; a response or a control packet carries none (R347, R352). -/
def packetGids : PBody → List Nat
  | .readReq _ gid _ _ => [gid]
  | .lineWrite gid landing _ _ => if landing.isSome then [] else [gid]
  | .publication st _ _ _ => [st.gid]
  | .turn st _ => [st.gid]
  | .reduction c => [c.gid]
  | .combined _ _ cs => cs.map fun c => c.gid
  | .multicast gid _ _ _ _ => [gid]
  | _ => []

/-- Packets of a group not yet answered or lost. -/
def outstanding (h : Module) (ctx gid : Nat) : List Packet := h.retry.filter fun p => p.ctx == ctx && gid ∈ packetGids p.body

/-- The retirement of `fence.sys` once nothing of the group is outstanding (R352). -/
def Group.fenceDone (g : Group) : Group := { g with pc := g.pc + 4, lc := g.lc + 16, cmask := 0, status := .running }

/-- `fence.sys` (R352). -/
def fenceOp : Meaning := fun _ w c =>
  let g := c.grp
  let n := c.ctx.key
  let c := (c.hw.wcb.filter fun e => e.ctx == n && e.gid == g.gid).foldl sendWc c
  if (outstanding c.hw n g.gid).isEmpty then c.retire w g else { c with grp := { g with status := .fence } }

/-- The members that a multicast group number names: modules of the domain but this one (R350). -/
def multicastSet (h : Module) (m : Cells) (mctb : Dword) (n : Nat) : List Nat :=
  let mask := memNat m (mctb.toNat + 8 * n) 8
  (moduleList h).filter fun i => i != h.number && mask.testBit i

/-- `stmc` (R351). -/
def stmcOp (d a b : BitVec 8) : Meaning := fun m w c =>
  let g := c.grp
  let base := g.readKK a
  let obj := baseObj base
  let off : Int := (baseOff base : Int) + dispOf w
  let va := vaOf obj off
  match lanesOf g.active with
  | [] => c.retire w g
  | lanes =>
    if off % 128 ≠ 0 then c.trap w (addrTrap 2 1 va 0)
    else match c.record m obj with
      | none => c.trap w (addrTrap 3 2 va 0)
      | some r =>
        if off < 0 || (r.ext : Int) < off + 128 then c.trap w (addrTrap 3 1 va 0)
        else if obj = 1 || !permOk r .store then c.trap w (addrTrap 5 1 va 0)
        else if r.mode ≠ 1 then c.trap w (addrTrap 5 2 va 0)
        else if r.home ≠ 0 then c.trap w (addrTrap 5 3 va 0)
        else
          let cells := storeCells lanes (fun j => va + 4 * j) (srcData g d 4) 4
          let members := multicastSet c.hw m c.ctx.mctb ((g.readK b).toNat % 256)
          (members.foldl (fun c n => c.send 8 n (.multicast g.gid cells r.ext r.mode r.perm)) (touchLines m c r [])).retire w g

/-! ### One meaning per word -/

/-- `stmc` (R351). -/
def execStmc (d a b : BitVec 8) (s : State) : Host.Outcome State Fault Refusal := issue noPre (stmcOp d a b) (.stmc d a b) s
/-- `fence.sys` (R352). -/
def execFenceSys (s : State) : Host.Outcome State Fault Refusal := issue noPre fenceOp .fenceSys s
/-- `fstat` (R353). -/
def execFstat (d : BitVec 8) (s : State) : Host.Outcome State Fault Refusal :=
  issue noPre (fun _ w c => c.retire w (c.grp.writeK d c.grp.fstat)) (.fstat d) s
/-- `fclr` (R354). -/
def execFclr (a : BitVec 8) (s : State) : Host.Outcome State Fault Refusal :=
  issue noPre (fun _ w c => c.retire w { c.grp with fstat := fstatClear c.grp.fstat (c.grp.readK a) }) (.fclr a) s
/-- `trap` (R266). -/
def execTrap (n : BitVec 8) (s : State) : Host.Outcome State Fault Refusal := issue noPre (trapOp n) (.trap n) s
/-- `asrt` (R268). -/
def execAsrt (d b : BitVec 8) (s : State) : Host.Outcome State Fault Refusal := issue noPre (asrtOp d b) (.asrt d b) s
/-- `rfe` (R269). -/
def execRfe (s : State) : Host.Outcome State Fault Refusal := issue noPre rfeOp .rfe s
/-- `csrr` (R256). -/
def execCsrr (d n : BitVec 8) (s : State) : Host.Outcome State Fault Refusal :=
  issue (csrrPre n s.cpu.ctx) (csrrOp d n) (.csrr d n) s
/-- `csrw` (R256). -/
def execCsrw (a n : BitVec 8) (s : State) : Host.Outcome State Fault Refusal := issue (csrwPre n) (csrwOp a n) (.csrw a n) s
/-- `launch` (R258). -/
def execLaunch (d a : BitVec 8) (s : State) : Host.Outcome State Fault Refusal := issue (launchPre a) (launchOp d a) (.launch d a) s
/-- `objw` (R272). -/
def execObjw (a b : BitVec 8) (s : State) : Host.Outcome State Fault Refusal := issue sysPre (objwOp a b) (.objw a b) s
/-- `objfence` (R273). -/
def execObjfence (s : State) : Host.Outcome State Fault Refusal := issue sysPre objfenceOp .objfence s
/-- `tscrd` (R270). -/
def execTscrd (d : BitVec 8) (s : State) : Host.Outcome State Fault Refusal :=
  issue (csrrPre 12 s.cpu.ctx) (tscOp d) (.tscrd d) s
/-- `icinv` (R271). -/
def execIcinv (a : BitVec 8) (s : State) : Host.Outcome State Fault Refusal := issue noPre (icinvOp a) (.icinv a) s
/-- `brkp` (R267). -/
def execBrkp (n : BitVec 8) (s : State) : Host.Outcome State Fault Refusal := issue noPre (brkpOp n) (.brkp n) s
/-- `halt` (R274). -/
def execHalt (a : BitVec 8) (s : State) : Host.Outcome State Fault Refusal := issue sysPre (haltOp a) (.halt a) s

end Sys2Proof.Machine
end

