-- ==== Sys2Proof/Machine/Turn.lean ====
section
/-! DEFINITION. Turns: what an entry does when it performs (R84), barrier generations (R111), block-wide syncs (R110), wakes and re-entry
(R87), the routing of deterministic faults (R97), and the overlay (R90, R98). -/

namespace Sys2Proof.Machine

/-! ### Deterministic faults -/

/-- The group a fault goes to, of the live ones in increasing order: the lower gid that it names, then the other, then by the rest of
R97. -/
def faultTarget (live named : List Nat) : Option Nat :=
  let gids := match named with
    | [a, b] => [min a b, max a b]
    | l => l
  (gids.find? fun i => decide (i ∈ live))
    |>.orElse fun _ => (gids.head?.bind fun i => live.find? fun j => j / 2 ^ 40 == i / 2 ^ 40)
    |>.orElse fun _ => (live.find? fun j => j / 2 ^ 40 == 0)
    |>.orElse fun _ => live.head?

/-- The live groups of a list, by gid. -/
def liveGids (gs : List Group) : List Nat := (gs.filter Group.live).map fun g => g.gid

/-- Faults by leg, then by kind, address and gids (R96). -/
def faultBefore (a b : Nat × Trap) : Bool :=
  let key := fun f : Nat × Trap => [f.1, f.2.cls, f.2.faddr.toNat, f.2.info0.toNat, f.2.info1.toNat]
  decide (key a < key b)

/-- A fault takes its place among those that a group holds. (DEDUCED, log 27) -/
def holdFault (f : Nat × Trap) : List (Nat × Trap) → List (Nat × Trap)
  | [] => [f]
  | g :: l => if faultBefore f g then f :: g :: l else g :: holdFault f l

/-- A waiting group leaves its wait for a fault, its instruction unretired, whether or not the source fires at the same point; a barrier
wait whose generation completes retires first (R97). So does a group outside the block that a sync's fault is redirected to, of which the
rule says nothing (DESIGN CHOICE, log 52). -/
def leaveWait (lc : Nat) (g : Group) : Group :=
  match g.status with
  | .ceded _ (.barrier _ _) (some _) => g
  | .ceded _ _ _ => { g with lc := max g.lc lc, status := .running }
  | _ => g

/-- Deliver a fault of a leg, found at a sync or a leg end (R97), among the live groups; ceding waits end at clock `lc`. Where no group is
live the context is suspended with class 39. -/
def routeFault (leg lc : Nat) (live : List Nat) (c : Cpu) (f : List Nat × Trap) : Cpu :=
  match faultTarget live f.1 with
  | some gid => c.onGid gid fun g => { leaveWait lc g with faults := holdFault (leg, f.2) g.faults }
  | none => (c.logs 39 f.2.cls 0).suspend

/-! ### Wakes -/

/-- A wake source fires at a stamp for the groups whose wait a test admits. -/
def fireWait (p : Group → Wait → Bool) (f : Stamp) (g : Group) : Group :=
  match g.status with
  | .ceded w wait none => if p g wait then { g with status := .ceded w wait (some f) } else g
  | _ => g

/-- The wake of one wait on a line of memory: that of a group which began to wait on it at a clock (DESIGN CHOICE, log 15). -/
def fireSince (line since : Nat) (f : Stamp) (g : Group) : Group :=
  fireWait (fun g w => match w with
    | .line sc a => sc != .block && lineOf a == line && g.lc == since
    | _ => false) f g

/-- Writing lines of memory wakes the groups that watch them, here and on other modules (R87, R169; DESIGN CHOICE, log 15). -/
def Cpu.wakeLines (c : Cpu) (f : Stamp) (lines : List Nat) : Cpu :=
  let c := c.mapGroups (fireWait (fun _ w => match w with
    | .line sc a => sc != .block && decide (lineOf a ∈ lines)
    | _ => false) f)
  let far := c.ctx.watchers.filter fun w => decide (w.line ∈ lines)
  let c := { c with ctx := { c.ctx with watchers := c.ctx.watchers.filter fun w => !decide (w.line ∈ lines) } }
  far.foldl (fun c w => c.send 5 w.module (.wake w.gid w.line w.since f)) c

/-- Writing lines of a block's scratchpad wakes the groups of the block that watch them (R185). -/
def Cpu.wakePad (c : Cpu) (gid : Nat) (f : Stamp) (lines : List Nat) : Cpu :=
  c.mapGroups (fireWait (fun g w => match w with
    | .line .block a => sameBlock g.gid gid && decide (lineOf a ∈ lines)
    | _ => false) f)

/-- Re-entry (R87): `waita` issues its next check, every other wait retires without adding W again. (DEDUCED, log 37) -/
def reenter (g : Group) : Group :=
  match g.status with
  | .ceded w wait (some f) =>
    let lc := max g.lc f.lc + w
    let done := { g with pc := g.pc + 4, lc := lc, cmask := 0, status := .running }
    match wait with
    | .line _ _ => if w = 64 then { g with lc := lc, status := .running } else done
    | .barrier b gen => if get? g.baras b = some gen && w = 16 then { done with baras := del g.baras b } else done
    | .xfrw => { done with sysCopies := [], landed := none }
    | .objfence => done
    | .mwait _ => done
  | _ => g

/-! ### The overlay -/

/-- The lines of the entries that the leg holds in the overlay (R90, R98): versions; a pre-image for each PARCEL line and an entry for each
group beyond its first writer (R103); accumulators. The start-of-epoch bytes of scratchpads that R108 spills are not counted, which the
spec does not settle (DESIGN CHOICE, log 53). -/
def overlayLines (x : Ctx) : List Nat :=
  x.versions.map (fun u => lineOf ((u.cells.head?.map Prod.fst).getD 0)) ++
  x.parcel.flatMap (fun p => (byLine p.2).map Prod.fst) ++
  (byTarget x.reds).map fun t => lineOf (t.1 / 256)

/-- The die of a line's home (R275, R279). For a host-homed object the spec names none: the same bits of BASE are taken (DESIGN CHOICE, log 64). -/
def homeDie (r : Record) (off : Nat) : Nat := if r.home = 1 then off / 4096 % 4 else paDie r.base

/-- The home slice of a line, 32 of each die (R279; DESIGN CHOICE, log 41). -/
def lineSlice (h : Module) (m : Cells) (x : Ctx) (line : Nat) : Nat :=
  match recordOf h m x.objtb (vaObj line) with
  | some r => 32 * homeDie r (vaOff line) + Config.homeSlice (vaObj line) (vaOff line / 128) % 32
  | none => 0

/-- Entries of one slice, and those of all slices that have no room on chip and stand in the overlay region (R90). -/
def sliceUsed (h : Module) (m : Cells) (x : Ctx) (slice : Nat) : Nat :=
  ((overlayLines x).filter fun l => lineSlice h m x l == slice).length
def spillUsed (h : Module) (m : Cells) (x : Ctx) : Nat :=
  ((List.range 128).map fun i => sliceUsed h m x i - Config.overlayOnChip).foldl (· + ·) 0

/-- Entries that the overlay region holds (R265). -/
def regionSize (x : Ctx) : Nat := 2 ^ (x.ovlb.toNat % 64) / 256

/-- The overlay accepts nothing further for a line: its slice's on-chip entries and the region are full (R98). -/
def overlayFull (h : Module) (m : Cells) (x : Ctx) (line : Nat) : Bool :=
  decide (Config.overlayOnChip ≤ (overlayLines x).length) &&
    (decide (Config.overlayOnChip ≤ sliceUsed h m x (lineSlice h m x line)) && decide (regionSize x ≤ spillUsed h m x))

/-- The leg holds more than the overlay: PARCEL stores wait in their sources (R98, R103). -/
def overlayOver (h : Module) (m : Cells) (x : Ctx) : Bool :=
  decide (Config.overlayOnChip < (overlayLines x).length) && decide (regionSize x < spillUsed h m x)

/-- Exhaustion (R98): the context is suspended with class 37; resumed without a larger region it ends with the fault of class 15, whose
frame goes to the group that R97 names (R295). (DEDUCED, log 31) What arrives while it is suspended waits. -/
def Cpu.exhausted (c : Cpu) : Cpu :=
  if c.ctx.status ≠ .running then c
  else if c.ctx.ovlFull then
    let c := match faultTarget (liveGids c.groups) [] with
      | some gid => ((c.take gid).trapWith 0 none ⟨15, 1, 0, 0, BitVec.ofNat 64 c.ctx.leg, 0⟩ 0).park
      | none => c
    let c := c.logs 15 1 (BitVec.ofNat 64 c.ctx.leg)
    { c with ctx := { c.ctx with status := .ended } }
  else { (c.logs 37 0 (BitVec.ofNat 64 c.ctx.leg)).suspend with ctx := { c.suspend.ctx with ovlFull := true } }

/-! ### Ordering operations -/

/-- The value that an operation writes, if it writes (R183). -/
def atomicWrites (op : AOp) (n : Nat) (sgn : Bool) (old src cmp : Nat) : Option Nat :=
  match op with
  | .axchg => some src
  | .acas => if old = cmp then some src else none
  | .aadd => some ((old + src) % 2 ^ n)
  | .amin => some (if toI n sgn src < toI n sgn old then src else old)
  | .amax => some (if toI n sgn old < toI n sgn src then src else old)
  | .aand => some (old &&& src)
  | .aor => some (old ||| src)
  | .axor => some (old ^^^ src)
  | .ldacq => none
  | .strel => some src
  | .waita => none

/-- The operation acquires on this value (R183). -/
def atomicAcquires (op : AOp) (cond : BitVec 4) (n : Nat) (sgn : Bool) (old cmp : Nat) : Bool :=
  match op with
  | .strel => false
  | .waita => condHolds cond.toNat (toI n sgn old) (toI n sgn cmp) old cmp
  | _ => true

/-- The word that an ordering operation of memory reads (R84): versions of ordering operations inside its scope below its stamp, else
the base image. An entry whose sub-tile has been marked moving since it was sent reads the frame that it translated, as it stood at the end of
the drain once that is over (R286, R291). -/
def orderedByte (c : Cpu) (m : Cells) (e : Entry) (a : Nat) : Byte :=
  let ok := fun u : Version => u.ord.isSome && Stamp.lt u.stamp e.stamp && (e.scope == .system || u.module == e.module)
  match newestByte ok c.ctx.versions a with
  | some (_, x) => x
  | none => match (c.ctx.drained.find? fun d => d.1 == e.stamp).bind fun d => get? d.2 a with
    | some x => x
    | none => match c.record m (vaObj a) with
      | some r => frameByte m r (vaOff a)
      | none => 0

/-- The word that a block-scope operation with a stamp reads: writes of others below the stamp, else the start of the epoch (R84, R108). -/
def padOrdered (s : Stamp) (b : Block) (a : Nat) : Byte :=
  let best := b.ords.foldl (fun (best : Option (Stamp × Byte)) v => match if Stamp.lt v.stamp s then get? v.cells a else none with
    | none => best
    | some x => match best with
      | some (s, y) => if Stamp.lt s v.stamp then some (v.stamp, x) else some (s, y)
      | none => some (v.stamp, x)) none
  match best with
  | some (_, x) => x
  | none => rd 0 b.pad a

/-- The entry's group goes on after its turn (R81, R182): the result in every active lane, LC = s.LC + w. -/
def turnDone (t : TurnWait) (val : Dword) (g : Group) : Group :=
  let g := match t.vdst with
    | some d => g.writeLanes t.wide d t.act (Vector.replicate 32 val)
    | none => g
  let g := match t.kdst with
    | some d => g.writeK d (val.extractLsb' 0 32)
    | none => g
  { g with pc := g.pc + BitVec.ofNat 64 t.len, lc := g.lc + t.weight, cmask := 0, fills := [], status := .running }

/-- What a turn means to its group: the sketch is emptied by a release, the view is set by an acquire, and the group goes on, or cedes
after a failed check (R84, R185). -/
def turnGroup (e : Entry) (ok : Bool) (val : Dword) (g : Group) : Group :=
  let g := if opReleases e.op then { g with sketch := [] } else g
  match g.status, e.op with
  | .turn t, .atomic op _ addr _ _ _ _ =>
    if op = .waita && !ok then { g with status := .ceded t.weight (.line e.scope addr) none }
    else
      let g := if op != .strel && e.scope != .block then { g with view := some (e.stamp, e.scope) } else g
      turnDone t val g
  | .turn t, _ => turnDone t val g
  | _, _ => g

/-- The answer to a turn goes to its group here, or across the fabric (R340). A failed check of another module's group is remembered as
a watch on the line (DESIGN CHOICE, log 15). -/
def Cpu.answer (c : Cpu) (e : Entry) (ok : Bool) (val : Dword) : Cpu :=
  if e.module = c.hw.number then c.onGid e.stamp.gid (turnGroup e ok val)
  else
    let s := nextSeq c.hw e.module
    let c := c.send 5 e.module (.result e.seq e.stamp.gid val ok)
    let p : Packet := ⟨5, c.hw.number, e.module, s, c.ctx.leg % 65536, 0, c.ctx.key, .result e.seq e.stamp.gid val ok⟩
    let c := { c with hw := { c.hw with results := c.hw.results ++ [(e.module, e.seq, p)] } }
    match e.op with
    | .atomic .waita _ addr _ _ _ _ =>
      if ok then c else { c with ctx := { c.ctx with watchers := c.ctx.watchers ++ [⟨e.module, e.stamp.gid, lineOf addr, e.stamp.lc⟩] } }
    | _ => c

/-- The lines that the publications of a release write: those of the group's sketch (R169). -/
def releasedLines (c : Cpu) (e : Entry) : List Nat :=
  if opReleases e.op then
    match c.find e.stamp.gid with
    | some g => g.sketch.map Prod.fst
    | none => []
  else []

/-- Where the lines of a release are homed: here, and on other modules. -/
def linesHere (m : Cells) (c : Cpu) (ls : List Nat) : List Nat := ls.filter fun l => (bytesHere c.hw (c.record m (vaObj l)) l).isNone
def linesAway (m : Cells) (c : Cpu) (ls : List Nat) : List (Nat × List Nat) :=
  ls.foldl (fun k l => match bytesHere c.hw (c.record m (vaObj l)) l with
    | some n => put k n (((get? k n).getD []) ++ [l])
    | none => k) []

/-- A release of a group here has performed: its publications wake those that watch their lines, here, and through the homes of the lines on
other modules (R87, R169; DESIGN CHOICE, log 15). -/
def Cpu.wakeReleased (m : Cells) (c : Cpu) (f : Stamp) (ls : List Nat) : Cpu :=
  let here := linesHere m c ls
  let c := if here.isEmpty then c else c.wakeLines f here
  (linesAway m c ls).foldl (fun c p => c.send 5 p.1 (.performed f p.2)) c

/-- The turn of an ordering operation (R84, R183). -/
def performAtomic (m : Cells) (c : Cpu) (e : Entry) (op : AOp) (cond : BitVec 4) (addr : Nat) (wide sgn : Bool) (src cmp : Dword) : Cpu :=
  let len := if wide then 8 else 4
  let n := 8 * len
  let s := src.toNat % 2 ^ n
  let k := cmp.toNat % 2 ^ n
  let freed := if e.module = c.hw.number then releasedLines c e else []
  if e.scope = .block then
    match c.ctx.blocks.find? fun b => b.lord == e.stamp.gid / 2 ^ 40 && b.blk == e.stamp.gid / 512 % 2 ^ 31 with
    | none => c
    | some b =>
      let old := leNat (padOrdered e.stamp b) addr len
      let new := atomicWrites op n sgn old s k
      let b := { b with
        ords := match new with
          | some x => b.ords ++ [⟨e.stamp, bytesAt addr x len⟩]
          | none => b.ords
        ordTags := insertNew b.ordTags ⟨granuleOf addr, e.stamp.gid, new.isSome⟩ }
      let c := { c with ctx := c.ctx.setBlock b }
      let c := c.answer e (atomicAcquires op cond n sgn old k) (BitVec.ofNat 64 old)
      let c := if new.isSome then c.wakePad e.stamp.gid e.stamp [lineOf addr] else c
      c.wakeReleased m e.stamp freed
  else
    let old := leNat (orderedByte c m e) addr len
    let new := atomicWrites op n sgn old s k
    let x := (span addr len).foldl (fun x a => markWord x 2 0 (some e.scope) e.stamp.gid e.module a) c.ctx
    let x := match new with
      | some v => { x with versions := x.versions ++ [⟨e.stamp, e.module, some e.scope, bytesAt addr v len⟩] }
      | none => x
    let c := ({ c with ctx := x } : Cpu).answer e (atomicAcquires op cond n sgn old k) (BitVec.ofNat 64 old)
    let c := if new.isSome then c.wakeLines e.stamp [lineOf addr] else c
    c.wakeReleased m e.stamp freed

/-! ### Block-wide syncs -/

/-- Pairs compare by the lower gid, then the higher (R104). -/
def pairLe (a b : Nat × Nat) : Bool := a.1 < b.1 || (a.1 == b.1 && a.2 ≤ b.2)

/-- Two gids as a pair. -/
def mkPair (a b : Nat) : Nat × Nat := (min a b, max a b)

/-- The lowest of a list of pairs. -/
def lowestPair : List (Nat × Nat) → Option (Nat × Nat)
  | [] => none
  | p :: l => some (l.foldl (fun a b => if pairLe a b then a else b) p)

/-- The lowest number of a list. -/
def lowestNat : List Nat → Option Nat
  | [] => none
  | a :: l => some (l.foldl min a)

/-- The lowest pair of distinct groups that share a unit, one of them by a write (R104, R109 case 1, R201). -/
def sharedPair (ts : List Tag) : Option (Nat × Nat) :=
  lowestPair (ts.flatMap fun a => ts.filterMap fun b =>
    if a.gid != b.gid && (a.wrote || b.wrote) then some (mkPair a.gid b.gid) else none)

/-- A pair of the lowest gids of two lists. -/
def crossPair (a b : List Nat) : Option (Nat × Nat) :=
  match lowestNat a, lowestNat b with
  | some x, some y => some (mkPair x y)
  | _, _ => none

/-- The granule of a contribution. -/
def redGranules (c : Contrib) : List Nat := (contribWords c).map granuleOf

/-- Case 4 of R109: a word with two kinds, the lowest gid of each of the two lowest. -/
def kindPair (cs : List Contrib) (g : Nat) : Option (Nat × Nat) :=
  let words := ((cs.flatMap contribWords).filter fun a => granuleOf a == g).eraseDups
  lowestPair (words.filterMap fun a =>
    let on := cs.filter fun c => decide (a ∈ contribWords c)
    let kinds := (on.map contribKind).eraseDups
    match lowestNat kinds with
    | none => none
    | some k1 => match lowestNat (kinds.filter fun k => k != k1) with
      | none => none
      | some k2 =>
        crossPair ((on.filter fun c => contribKind c == k1).map fun c => c.gid) ((on.filter fun c => contribKind c == k2).map fun c => c.gid))

/-- The lowest pair of a granule over the four cases of R109, if it conflicts. -/
def granulePair (b : Block) (g : Nat) : Option (Nat × Nat) :=
  let ts := b.tags.filter fun t => t.unit == g
  let stores := (ts.filter fun t => t.wrote).map fun t => t.gid
  let ords := (b.ordTags.filter fun t => t.unit == g).map fun t => t.gid
  let reds := (b.reds.filter fun c => decide (g ∈ redGranules c)).map fun c => c.gid
  lowestPair ((sharedPair ts).toList ++ (crossPair ords (stores ++ reds)).toList ++ (crossPair reds stores).toList ++
    (kindPair b.reds g).toList)

/-- The granules that the epoch touched. -/
def touchedGranules (b : Block) : List Nat :=
  (b.tags.map (fun t => t.unit) ++ b.ordTags.map (fun t => t.unit) ++ b.reds.flatMap redGranules).eraseDups

/-- The lowest pair, then the lowest unit, of a list of conflicts. -/
def lowestConflict : List ((Nat × Nat) × Nat) → Option ((Nat × Nat) × Nat)
  | [] => none
  | x :: l => some (l.foldl (fun a b => if pairLe a.1 b.1 && (!pairLe b.1 a.1 || a.2 ≤ b.2) then a else b) x)

/-- The fault of a sync (R109, R201, R295): granules come before tiles. -/
def syncFault (b : Block) : Option (List Nat × Trap) :=
  let gr := (touchedGranules b).filterMap fun g => (granulePair b g).map fun p => (p, g)
  let tl := ((b.tileTags.map fun t => t.unit).eraseDups).filterMap fun u =>
    (sharedPair (b.tileTags.filter fun t => t.unit == u)).map fun p => (p, 2 ^ 32 + u)
  match lowestConflict (gr ++ tl) with
  | none => none
  | some (p, u) =>
    let tile := 2 ^ 32 ≤ u
    some ([p.1, p.2], ⟨12, if tile then 2 else 1, BitVec.ofNat 64 (if tile then u % 16 else u), 0, BitVec.ofNat 64 p.1, BitVec.ofNat 64 p.2⟩)

/-- The scratchpad with every store and ordering write of the epoch in place, as it stands before a sync. -/
def padContents (b : Block) : Cells :=
  let p := b.own.foldl (fun p o => wrAll 0 p o.2) b.pad
  b.ords.foldl (fun p v => wrAll 0 p v.cells) p

/-- The granules that conflict in the epoch. -/
def badGranules (b : Block) : List Nat := (touchedGranules b).filter fun g => (granulePair b g).isSome

/-- Step 1 of R110: conflicted granules are restored. -/
def syncStores (b : Block) : Cells :=
  let bad := badGranules b
  let ok := fun e : Nat × Byte => !decide (granuleOf e.1 ∈ bad)
  let p := b.own.foldl (fun p o => wrAll 0 p (o.2.filter ok)) b.pad
  b.ords.foldl (fun p v => wrAll 0 p (v.cells.filter ok)) p

/-- Step 2 of R110: the reductions that step 1 has not discarded apply. -/
def syncReds (b : Block) (p : Cells) : Cells :=
  let bad := badGranules b
  let reds := b.reds.filter fun c => !((redGranules c).any fun g => decide (g ∈ bad))
  wrAll 0 p (applyReds reds (rd 0 p))

/-- The tiles after a sync: conflicted ones are restored (R201). -/
def syncTiles (b : Block) : List (Nat × List (Nat × Word)) :=
  let badTile := fun u => (sharedPair (b.tileTags.filter fun t => t.unit == u)).isSome
  b.ownTiles.foldl (fun ts o => if badTile o.2.1 then ts else put ts o.2.1 o.2.2) b.tiles

/-- Steps 1 and 2 of R110. -/
def syncContents (b : Block) : Block := { b with pad := syncReds b (syncStores b), tiles := syncTiles b }

/-- The lines in which two scratchpads differ. -/
def changedLines (a b : Cells) : List Nat :=
  (((a.filter fun e => rd 0 b e.1 != e.2) ++ (b.filter fun e => rd 0 a e.1 != e.2)).map fun e => lineOf e.1).eraseDups

/-- Copies in the order of their stamps (R234). -/
def insertCopy (k : Copy) : List Copy → List Copy
  | [] => [k]
  | h :: t => if Stamp.lt k.stamp h.stamp then k :: h :: t else h :: insertCopy k t

/-- Sort copies by stamp. -/
def sortCopies : List Copy → List Copy
  | [] => []
  | k :: l => insertCopy k (sortCopies l)

/-- A copy with its source read and converted. -/
def ensureRead (k : Copy) : Copy := if k.read then k else convertCopy k

/-- A copy issued after a sync in the order of stamps lands one sync later (R233; DEDUCED, log 48). -/
def deferLanding (b : Block) (f : Stamp) (k : Copy) : Copy :=
  if k.toPad && k.lord == b.lord && k.blk == b.blk && Stamp.lt f k.stamp then { k with landAt := k.landAt + 1 } else k

/-- A block-wide sync (R110): f is the stamp of the arrival that completed it. An access that a group makes between its own `bara` and the
completing arrival belongs to the epoch in which it happens (DESIGN CHOICE, log 54). -/
def blockSync (c : Cpu) (b0 : Block) (f : Stamp) : Cpu :=
  let gs := c.groups.filter fun g => g.lord == b0.lord && g.blk == b0.blk
  let settled := gs.foldl (fun (acc : Block × List Group) g => let r := settleGroup acc.1 g; (r.1, acc.2 ++ [r.2])) (b0, [])
  let b := settled.1
  let c := settled.2.foldl (fun c g => c.onGid g.gid fun _ => g) c
  let before := padContents b
  let fault := syncFault b
  let b1 := syncContents b
  let lands := fun k : Copy => k.toPad && k.lord == b.lord && k.blk == b.blk && k.landAt == b.syncs + 1
  let copies := c.ctx.copies.map (deferLanding b f)
  let due := (sortCopies (copies.filter lands)).map ensureRead
  let pad := due.foldl (fun p k => wrAll 0 (wrAll 0 p k.payload) k.stampCells) b1.pad
  let b2 : Block := { b1 with
    pad := pad, own := [], tags := [], ords := [], ordTags := [], reds := [], ownTiles := [], tileTags := [], syncs := b.syncs + 1 }
  let x := { (c.ctx.setBlock b2) with copies := copies.filter fun k => !lands k }
  let c := ({ c with ctx := x } : Cpu).mapGroups (wakeXfrw x fun g => if due.any fun k => k.stamp.gid == g.gid then some f else none)
  let c := c.wakePad f.gid f ((changedLines before (syncStores b) ++ changedLines (syncStores b) b1.pad ++ changedLines b1.pad pad).eraseDups)
  match fault with
  | some t => routeFault c.ctx.leg f.lc (liveGids c.groups) c t
  | none => c

/-! ### Barriers -/

/-- The code of the barrier-count fault that an arrival raises, if any (R111). -/
def arrivalCode (b : Block) (x : Barrier) (gid count : Nat) : Option Nat :=
  if b.g < count then some 3
  else if gid ∈ x.arrivals then some 2
  else if x.count ≠ 0 && x.count ≠ count then some 1
  else none

/-- The group of an arrival goes on at its turn: `bar` of a completed generation and `bara` retire, `bar` otherwise cedes (R191). -/
def arriveGroup (bar gen : Nat) (waits complete : Bool) (g : Group) : Group :=
  match g.status with
  | .turn t =>
    if waits && !complete then { g with status := .ceded t.weight (.barrier bar gen) none }
    else
      let g := turnDone t 0 g
      if waits then g else { g with baras := put g.baras bar gen }
  | _ => g

/-- The turn of a barrier arrival (R111, R191, R192). Once a group of the block has exited, no generation of all its groups completes any
more. -/
def performArrival (c : Cpu) (e : Entry) (bar count : Nat) (waits : Bool) : Cpu :=
  match c.ctx.blocks.find? fun b => b.lord == e.stamp.gid / 2 ^ 40 && b.blk == e.stamp.gid / 512 % 2 ^ 31 with
  | none => c
  | some b =>
    match b.bars[bar]? with
    | none => c
    | some x =>
      match arrivalCode b x e.stamp.gid count with
      | some code =>
        let t : Trap := ⟨13, code, BitVec.ofNat 64 bar, 0, BitVec.ofNat 64 x.count, BitVec.ofNat 64 count⟩
        ((c.take e.stamp.gid).trapWith 0 none t 0).park
      | none =>
        let arr := x.arrivals ++ [e.stamp.gid]
        let complete := arr.length == count && !(count == b.g && b.anyExit)
        let x' : Barrier := if complete then ⟨x.gen + 1, 0, [], x.done ++ [(x.gen, e.stamp)]⟩ else { x with count := count, arrivals := arr }
        let b := { b with bars := b.bars.setIfInBounds bar x' }
        let c := { c with ctx := c.ctx.setBlock b }
        let c := c.onGid e.stamp.gid (arriveGroup bar x.gen waits complete)
        if complete then
          let c := c.mapGroups (fireWait (fun g w => sameBlock g.gid e.stamp.gid && w == .barrier bar x.gen) e.stamp)
          if count = b.g then blockSync c b e.stamp else c
        else c

/-! ### Launches and translation writes -/

/-- Launches pending in a queue of this module (R259). -/
def pendingIn (x : Ctx) (que : Nat) : Nat :=
  (x.launches.filter fun l => (lrecOf l.rcd).que == que && !l.killed && l.next < (lrecOf l.rcd).grid).length

/-- Launches pending in a queue of another module: those granted to it in this leg, and those that its last report calls pending, the first
program's among them, which has no turn (R250). -/
def pendingAt (x : Ctx) (module que : Nat) : Nat :=
  let said := ((x.peers.find? fun p => p.module == module).map fun p => p.pending).getD []
  (x.granted.filter fun a => a.module == module && a.que == que && (a.ord != 0 && a.leg == x.leg || decide (a.ord ∈ said))).length

/-- What a launch turn decides (R259): the result, and the launch when it succeeds. -/
def launchTurn (self : Nat) (x : Ctx) (e : Entry) (r : List Word) : Word × Option Launch :=
  let l := lrecOf r
  match coresFor l x.dq with
  | none => (0x80000001, none)
  | some n =>
    if 2 ^ 24 ≤ x.nextOrd then (0x80000002, none)
    else if l.aft && x.nextOrd ≤ l.after then (0x80000003, none)
    else if Config.queueLimit ≤ (if e.module = self then pendingIn x l.que else pendingAt x e.module l.que) then (0x80000004, none)
    else (BitVec.ofNat 32 x.nextOrd, some ⟨x.nextOrd, r, x.leg, 0, 1, n, false⟩)

/-- The turn of a launch (R259). -/
def performLaunch (c : Cpu) (e : Entry) (r : List Word) : Cpu :=
  let d := launchTurn c.hw.number c.ctx e r
  let x := match d.2 with
    | none => c.ctx
    | some l => { c.ctx with
        nextOrd := c.ctx.nextOrd + 1
        launches := if e.module = c.hw.number then c.ctx.launches ++ [l] else c.ctx.launches
        granted := if e.module = c.hw.number then c.ctx.granted else c.ctx.granted ++ [⟨l.ord, e.module, (lrecOf r).que, c.ctx.leg⟩] }
  ({ c with ctx := x } : Cpu).answer e true (d.1.setWidth 64)

/-- The turn of a deferred `objw` (R285, R287): the new value is recorded as pending. -/
def performObjw (c : Cpu) (e : Entry) (pa : Nat) (val : Dword) : Cpu :=
  let c := c.pend ⟨pa, val, some e.stamp, some e.stamp.gid⟩
  (c.answer e true 0).onGid e.stamp.gid fun g => { g with objws := g.objws + 1 }

/-! ### The steps -/

/-- An ordering operation of memory has a version to add (R84, R98). -/
def entryWrites (m : Cells) (c : Cpu) (e : Entry) : Option Nat :=
  match e.op with
  | .atomic op _ addr wide sgn src cmp =>
    let len := if wide then 8 else 4
    let n := 8 * len
    if e.scope = .block then none
    else (atomicWrites op n sgn (leNat (orderedByte c m e) addr len) (src.toNat % 2 ^ n) (cmp.toNat % 2 ^ n)).map fun _ => lineOf addr
  | _ => none

/-- An entry performs (R84); the group that sent it need not be in hand. -/
def performEntry (m : Cells) (c0 : Cpu) (e : Entry) : Cpu :=
  let c := { c0.park with ctx := { c0.park.ctx with queue := c0.park.ctx.queue.filter fun f => f != e } }
  match e.op with
  | .atomic op cond addr wide sgn src cmp =>
    if ((entryWrites m c e).map (overlayFull c.hw m c.ctx)).getD false then c0.exhausted
    else performAtomic m c e op cond addr wide sgn src cmp
  | .arrive bar count waits => performArrival c e bar count waits
  | .launch r => performLaunch c e r
  | .objw pa val => performObjw c e pa val

/-- TURN_PERFORM (R83, R84): the queued entry of a group performs once the horizon allows it; else it goes on waiting. -/
def turnStep (gid : Nat) (s0 : State) : State := s0.keepSaved fun s =>
  let c := s.cpu
  match c.ctx.queue.find? fun e => e.stamp.gid == gid && e.home == c.hw.number with
  | none => s
  | some e => if performable c.hw c.ctx c.groups e then { s with cpu := performEntry s.mem c e } else s

/-- CEDE_REENTRY (R87). -/
def reentryStep (gid : Nat) (s : State) : State := s.keepSaved fun s => { s with cpu := s.cpu.onGid gid reenter }

/-- PUBLICATION_APPLY (R90): the n-th thing on its way is a publication and becomes a version, unless the overlay is full (R98). -/
def publicationStep (n : Nat) (s : State) : State :=
  s.onCpu fun c =>
    match c.ctx.flight[n]? with
    | some (.publication st cells) =>
      if overlayFull c.hw s.mem c.ctx (lineOf ((cells.head?.map Prod.fst).getD 0)) then c.exhausted
      else { c with ctx := { c.ctx with
        flight := c.ctx.flight.eraseIdx n, versions := c.ctx.versions ++ [⟨st, c.hw.number, none, cells⟩], ovlFull := false } }
    | _ => c

/-- A contribution joins the accumulator of its target, whose words it marks (R95, R106). -/
def acceptContrib (x : Ctx) (module : Nat) (k : Contrib) : Ctx :=
  let x := (contribWords k).foldl (fun x a => markWord x 3 (contribKind k) none k.gid module a) x
  { x with reds := x.reds ++ [k], ovlFull := false }

/-- The target of a contribution has its accumulator (R95). -/
def hasAccumulator (x : Ctx) (k : Contrib) : Bool := x.reds.any fun c => c.addr == k.addr && contribKind c == contribKind k

/-- The overlay has no room for a contribution: only a new accumulator needs an entry (R98). -/
def noAccumulator (h : Module) (m : Cells) (x : Ctx) (k : Contrib) : Bool := !hasAccumulator x k && overlayFull h m x (lineOf k.addr)

/-- REDUCTION_CONTRIBUTION_ARRIVE (R95). -/
def contributionStep (n : Nat) (s : State) : State :=
  s.onCpu fun c =>
    match c.ctx.flight[n]? with
    | some (.contribution k) =>
      if noAccumulator c.hw s.mem c.ctx k then c.exhausted
      else { c with ctx := acceptContrib { c.ctx with flight := c.ctx.flight.eraseIdx n } c.hw.number k }
    | _ => c

/-- MATRIX_PRODUCT_COMPLETE (R204, R208): the unit completes the group's oldest member. -/
def productStep (gid : Nat) (s0 : State) : State := s0.keepSaved fun s =>
  s.onCpu fun c =>
    match c.find gid with
    | none => c
    | some g => match c.ctx.block g with
      | none => c
      | some b =>
        let r := completeOldest b g
        ({ c with ctx := c.ctx.setBlock r.1 } : Cpu).onGid gid fun _ => r.2

/-! ### One meaning per step -/

/-- TURN_PERFORM (R84). -/
def execTurnPerform (gid : Nat) (s : State) : Host.Outcome State Fault Refusal := .next (turnStep gid s)
/-- CEDE_REENTRY (R87). -/
def execCedeReentry (gid : Nat) (s : State) : Host.Outcome State Fault Refusal := .next (reentryStep gid s)
/-- PUBLICATION_APPLY (R90). -/
def execPublicationApply (n : Nat) (s : State) : Host.Outcome State Fault Refusal := .next (publicationStep n s)
/-- REDUCTION_CONTRIBUTION_ARRIVE (R95). -/
def execReductionContributionArrive (n : Nat) (s : State) : Host.Outcome State Fault Refusal := .next (contributionStep n s)
/-- MATRIX_PRODUCT_COMPLETE (R204). -/
def execMatrixProductComplete (gid : Nat) (s : State) : Host.Outcome State Fault Refusal := .next (productStep gid s)

end Sys2Proof.Machine
end

