-- ==== Sys2Proof/Machine/Rings.lean ====
section
/-! DEFINITION. The on-chip network: ring pairs and stops (R320 to R325), stations (R326), gateways (R327) and the paths of traffic (R328).
One RING_HOP is one clock of one output link, one PACKET_EJECT one flit taken by an endpoint; which of them happen when is open (R319). -/

namespace Sys2Proof.Machine

/-! ### Packets (R320, R321) -/

/-- The ring pair of a kind: 0 for A, 1 for B (R320, R321). -/
def netPair : NetKind → Nat
  | .readResponse => 1
  | .acknowledgement => 1
  | .padResponse => 1
  | _ => 0

/-- The flits of a packet: its header and its payload (R321). -/
def netFlits (p : NetPacket) : Nat := 1 + (p.payload.length + 63) / 64

/-- The lengths that a kind may have (R321). -/
def netLengthOk (p : NetPacket) : Bool :=
  let n := netFlits p
  match p.kind with
  | .readRequest => n == 1
  | .turnEntry => n == 1
  | .barrierArrival => n == 1
  | .acknowledgement => n == 1
  | .lineWrite => n == 3
  | .publication => n == 3
  | .copyWrite => decide (64 ≤ p.payload.length) && decide (p.payload.length ≤ 256)
  | .readResponse => n == 3
  | .padRequest => n == 1
  | .padResponse => n == 2 || n == 3

/-- The die of a place. -/
def placeDie : NetPlace → Nat
  | .core d _ _ => d
  | .slice d _ _ => d
  | .gateway d _ => d

/-- The quadrant and stop of a place that a ring reaches. -/
def placeStop : NetPlace → Option (Nat × Nat)
  | .core _ q s => some (q, s)
  | .slice _ q s => some (q, s)
  | .gateway _ _ => none

/-! ### Where a packet goes -/

/-- A packet goes up the station cycle from a quadrant of its die: the shorter way, and ascending on a tie (R326). -/
def goesUp (quad : Nat) (p : NetPacket) (die : Nat) : Bool :=
  match placeStop p.dst with
  | some (q, _) => if placeDie p.dst = die then (q + 4 - quad) % 4 ≤ 2 else 2 ≤ quad
  | none => 2 ≤ quad

/-- The same from the gateway, which stands between station 3 and quadrant 0 (R327). -/
def gatewayUp (p : NetPacket) : Bool :=
  match placeStop p.dst with
  | some (q, _) => q ≤ 2
  | none => true

/-- Where a packet leaves the rings of a quadrant: its destination stop, or the stop of the station or gateway that it takes, with the
direction there. -/
def ringExit (die quad : Nat) (p : NetPacket) : Nat × Option Bool :=
  let away := (Config.stationStop (4 * die + quad) (if goesUp quad p die then 0 else 1) % 8, some (goesUp quad p die))
  match placeStop p.dst with
  | some (q, s) => if placeDie p.dst = die && q = quad then (s % 8, none) else away
  | none => away

/-- The die, quadrant, pair and direction of a ring number: 4 · quadrant of the module + 2 · pair + direction, 0 clockwise. -/
def ringDie (ring : Nat) : Nat := ring / 16
def ringQuad (ring : Nat) : Nat := ring / 4 % 4

/-- The stop at which a packet leaves a ring. -/
def exitStop (ring : Nat) (p : NetPacket) : Nat := (ringExit (ringDie ring) (ringQuad ring) p).1

/-- The ring that a source takes (R322): the shorter route, clockwise at four hops; where one ring of the pair is mapped out, the other. -/
def ringFor (out : List Nat) (die quad pair src dst : Nat) : Nat :=
  let base := 4 * (4 * die + quad) + 2 * pair
  let best := if (dst + 8 - src) % 8 ≤ 4 then base else base + 1
  if best ∈ out then 2 * base + 1 - best else best

/-- The ring that a packet at a stop of a quadrant takes. -/
def ringOf (out : List Nat) (die quad stop : Nat) (p : NetPacket) : Nat :=
  ringFor out die quad (netPair p.kind) stop (ringExit die quad p).1

/-! ### Rings -/

/-- The next stop of a ring: even rings turn clockwise (R320, R322). -/
def nextStop (ring stop : Nat) : Nat := if ring % 2 = 0 then (stop + 1) % 8 else (stop + 7) % 8

/-- The room that a stay still claims (R324): its flits that have not left. -/
def stayRoom (flits : Nat) (y : Stay) : Nat := flits - y.left

/-- The stays at a stop of a ring, each with the length of its packet. -/
def staysAt (rs : List RingPacket) (ring stop : Nat) : List (Nat × Stay) :=
  rs.flatMap fun q => if q.ring = ring then (q.stays.filter fun y => y.stop == stop && y.room != 3).map fun y => (netFlits q.packet, y) else []

/-- The room that a packet finds at a stop, in the order of R324: 0 shared, 1 reserved flit, 2 escape slot. -/
def roomAt (rs : List RingPacket) (ring stop flits : Nat) (vc1 : Bool) : Option Nat :=
  let here := staysAt rs ring stop
  let taken := ((here.filter fun q => q.2.room == 0).map fun q => stayRoom q.1 q.2).foldl (· + ·) 0
  if taken + flits ≤ 16 then some 0
  else if flits = 1 && ((here.filter fun q => q.2.room == 1 && q.2.vc1 == vc1).length < 2) then some 1
  else if vc1 && decide (flits ≤ 5) && !here.any fun q => q.2.room == 2 then some 2
  else none

/-- The channel after a hop: VC1 from the dateline on (R323). -/
def hopVc (y : Stay) (ring : Nat) : Bool := y.vc1 || nextStop ring y.stop == 0

/-- The room that a packet's header finds at the next stop. -/
def hopRoom (rs : List RingPacket) (q : RingPacket) : Option Nat :=
  match q.stays with
  | [] => none
  | y :: _ => roomAt rs q.ring (nextStop q.ring y.stop) (netFlits q.packet) (hopVc y q.ring)

/-- A packet whose header stands at a stop of a ring. -/
def headAt (ring stop : Nat) (q : RingPacket) : Bool :=
  q.ring == ring && match q.stays with
    | y :: _ => y.stop == stop && y.left == 0 && decide (0 < y.arrived)
    | [] => false

/-- The age of a packet's foremost header. -/
def headAge (q : RingPacket) : Nat := (q.stays.head?.map Stay.age).getD 0

/-- The packet is not on the ring yet. -/
def waitsEntry (q : RingPacket) : Bool := (q.stays.head?.map fun y => y.room == 3).getD false

/-- The oldest of a list of packets, by the arrival of the header. -/
def oldestOf : List RingPacket → Option RingPacket
  | [] => none
  | p :: l => some (l.foldl (fun a b => if headAge a < headAge b then b else a) p)

/-- A header arrives at a stop: those there grow older. -/
def ageStop (ring stop : Nat) (rs : List RingPacket) : List RingPacket :=
  rs.map fun q => if q.ring = ring then { q with stays := q.stays.map fun y => if y.stop = stop then { y with age := y.age + 1 } else y } else q

/-- A packet that is partly past a stop: its next flit there has the link (R322). -/
def passing (ring stop : Nat) (q : RingPacket) : Bool :=
  q.ring == ring && (q.stays.drop 1).any fun y => y.stop == stop

/-- One flit moves on from a stop to the stay ahead of it; a stay that all flits have left is over. -/
def moveFlit (flits stop : Nat) : List Stay → List Stay
  | [] => []
  | [y] => [y]
  | a :: y :: l =>
    if y.stop = stop then
      if y.left < y.arrived then
        { a with arrived := a.arrived + 1 } :: if y.left + 1 = flits then l else { y with left := y.left + 1 } :: l
      else a :: y :: l
    else a :: moveFlit flits stop (y :: l)

/-- A header moves to the next stop, where it has claimed room for the whole packet. -/
def moveHead (q : RingPacket) (room : Nat) : RingPacket :=
  match q.stays with
  | [] => q
  | y :: l =>
    let new : Stay := ⟨nextStop q.ring y.stop, hopVc y q.ring, room, 1, 0, 0⟩
    { q with stays := new :: if netFlits q.packet = 1 then l else { y with left := 1 } :: l }

/-- A packet offered at one of the eight stops for injection (R320, R322): from the core or the slice there, onto the ring of its pair. -/
def offered (h : Module) (ring stop : Nat) (p : NetPacket) : Bool :=
  decide (stop < 8) && netLengthOk p && placeDie p.src == ringDie ring && placeStop p.src == some (ringQuad ring, stop)
    && ringOf h.ringsOut (ringDie ring) (ringQuad ring) stop p == ring

/-- A packet at the place where it enters a ring, on VC0 (R323). -/
def entering (ring stop : Nat) (p : NetPacket) : RingPacket := ⟨p, ring, [⟨stop, false, 3, netFlits p, 0, 0⟩]⟩

/-- The flits of the response to a request or write of ring pair A, 3 when it brings data (R321). -/
def responseFlits (k : NetKind) : Nat :=
  match k with
  | .readRequest => 3
  | .padRequest => 3
  | _ => 1

/-- Flits that a core has reserved room for. -/
def promisedTo (h : Module) (core : NetPlace) : Nat := ((h.promised.find? fun q => q.1 == core).map Prod.snd).getD 0

/-- A core's reservations. -/
def setPromised (core : NetPlace) (n : Nat) (h : Module) : Module :=
  { h with promised := (h.promised.filter fun q => q.1 != core) ++ if n = 0 then [] else [(core, n)] }

/-- A core that issues a request reserves room for the response (R325). -/
def reserveRoom (p : NetPacket) (h : Module) : Module :=
  match p.src with
  | .core .. => if netPair p.kind = 0 then setPromised p.src (promisedTo h p.src + responseFlits p.kind) h else h
  | _ => h

/-- A packet enters the wait for injection at a stop. -/
def inject (ring stop : Nat) (p : NetPacket) (h : Module) : Module := { h with rings := h.rings ++ [entering ring stop p] }

/-- One clock of the link after a stop of a ring (R322, R325): the next flit of the packet that has the link; else the header of a waiting
packet that finds room, one on the ring before an injection, and the oldest first. -/
def ringHop (ring stop : Nat) (h : Module) : Module :=
  match h.rings.find? (passing ring stop) with
  | some q => { h with rings := h.rings.map fun r => if r = q then { q with stays := moveFlit (netFlits q.packet) stop q.stays } else r }
  | none =>
    let ready := h.rings.filter fun q => headAt ring stop q && exitStop ring q.packet != stop && (hopRoom h.rings q).isSome
    let pick := (oldestOf (ready.filter fun q => !waitsEntry q)).orElse fun _ => oldestOf (ready.filter waitsEntry)
    match pick with
    | none => h
    | some q => match hopRoom h.rings q with
      | none => h
      | some r => { h with rings := ageStop ring (nextStop ring stop) (h.rings.erase q) ++ [moveHead q r] }

/-- A packet is at its destination endpoint's stop: the slice there, or the core. -/
def atEndpoint (ring stop : Nat) (slice : Bool) (q : RingPacket) : Bool :=
  q.ring == ring && (q.stays.head?.map Stay.stop) == some stop && ringExit (ringDie ring) (ringQuad ring) q.packet == (stop, none) &&
    (match q.packet.dst with
      | .slice .. => slice
      | .core .. => !slice
      | .gateway .. => false)

/-- PACKET_EJECT (R325): an endpoint takes the next flit of the oldest packet for it; the room of a flit is free once it is taken. An
endpoint that refuses takes no step. -/
def packetEject (ring stop : Nat) (slice : Bool) (h : Module) : Module :=
  match oldestOf (h.rings.filter (atEndpoint ring stop slice)) with
  | none => h
  | some q => match q.stays with
    | [] => h
    | y :: l =>
      if y.arrived ≤ y.left then h
      else if y.left + 1 = netFlits q.packet then { h with rings := h.rings.erase q, ejected := h.ejected ++ [q.packet] }
      else { h with rings := h.rings.map fun r => if r = q then { q with stays := { y with left := y.left + 1 } :: l } else r }

/-- The core of a stop takes a flit of ring pair B for which it has reserved room; it refuses none of those (R325). -/
def coreTakes (ring stop : Nat) (h : Module) : Module :=
  let core := NetPlace.core (ringDie ring) (ringQuad ring) stop
  let n := promisedTo h core
  let due := (oldestOf (h.rings.filter (atEndpoint ring stop false))).bind fun q => q.stays.head?
  if ring / 2 % 2 = 1 && 0 < n && (due.map fun y => decide (y.left < y.arrived)).getD false then packetEject ring stop false (setPromised core (n - 1) h)
  else h

/-! ### Stations and gateways (R326, R327) -/

/-- The Corku port of a die by which traffic for a module leaves: one that is up to the next hop of the route. Ports 4d to 4d + 3 are those
of die d (R327; DESIGN CHOICE, log 19). -/
def gatePort (h : Module) (die module : Nat) : Option Nat :=
  ((routeTo h module).bind List.head?).bind fun hop =>
    (List.range 4).map (4 * die + ·) |>.find? fun i => (h.ports[i]?.map fun q => q.st == 1 && q.peer == hop).getD false

/-- A packet in the buffer of a member has crossed the dateline of the station cycle, which is at station 3; member 4 is the gateway. -/
def crossedAt (p : NetPacket) (die member : Nat) (up : Bool) : Bool :=
  match placeStop p.src with
  | some (a, _) =>
    if placeDie p.src = die then (if up then member == 4 || decide (member < a) else decide (a ≤ member) && decide (member ≤ 2))
    else !up && decide (member ≤ 2)
  | none => !up && decide (member ≤ 2)

/-- A member has room for a packet: 32 flits of each direction for those that have crossed the dateline, and 32 for the others. -/
def memberRoom (h : Module) (p : NetPacket) (die member : Nat) (up : Bool) : Bool :=
  let cr := crossedAt p die member up
  let taken := ((h.stations.filter fun q => q.die == die && q.member == member && q.up == up && q.crossed == cr).map fun q => netFlits q.packet).foldl (· + ·) 0
  taken + netFlits p ≤ 32

/-- A packet joins the end of a member's buffer. -/
def enterMember (p : NetPacket) (die member : Nat) (up : Bool) (h : Module) : Module :=
  { h with stations := h.stations ++ [⟨p, die, member, up, crossedAt p die member up⟩] }

/-- The die next on the way to another (R327): the diagonal one is reached through the neighbour of the same package row. Dies 0 and 1 are
one row, 2 and 3 the other (DESIGN CHOICE, log 19). -/
def nextDie (die dst : Nat) : Nat := if die ^^^ dst = 3 then die ^^^ 1 else dst

/-- Where a packet at the head of a member's buffer goes. -/
inductive MemberHop where
  | ring (quad side : Nat)
  | member (die member : Nat) (up : Bool)
  | port (module : Nat)
  deriving DecidableEq, Repr

/-- The way on from a member: a station leads to the quadrant after it, going up, or before it, going down; station 3 going up to the
gateway. The gateway leads to its ports, to another die, to quadrant 0 going up, or to station 3 going down. -/
def memberHop (p : NetPacket) (die member : Nat) (up : Bool) : MemberHop :=
  if member = 4 then
    if placeDie p.dst ≠ die then
      let n := nextDie die (placeDie p.dst)
      .member n 4 (gatewayUp p)
    else match p.dst with
      | .gateway _ n => .port n
      | _ => if gatewayUp p then .ring 0 1 else .member die 3 false
  else if up then (if member = 3 then .member die 4 true else .ring (member + 1) 1)
  else .ring member 0

/-- The member that a packet takes at its exit from a quadrant. -/
def memberAfter (quad : Nat) (up : Bool) : Nat := if up then quad else if quad = 0 then 4 else quad - 1

/-- A packet that has come whole to the stop where a ring meets a member. -/
def atMember (die member : Nat) (up : Bool) (q : RingPacket) : Bool :=
  decide (q.ring < 64) && ringDie q.ring == die &&
    (match q.stays with
      | [y] => ringExit die (ringQuad q.ring) q.packet == (y.stop, some up) && memberAfter (ringQuad q.ring) up == member
          && y.left == 0 && y.arrived == netFlits q.packet
      | _ => false)

/-- Nothing waits for injection from a member at a stop. -/
def entryFree (h : Module) (ring stop : Nat) : Bool := !h.rings.any fun q => headAt ring stop q && waitsEntry q

/-- A member takes in the oldest packet that a ring has brought, when it has room. Packets pass between rings and members whole (DESIGN
CHOICE, log 19). -/
def memberTake (die member : Nat) (up : Bool) (h : Module) : Module :=
  match oldestOf (h.rings.filter fun q => atMember die member up q && memberRoom h q.packet die member up) with
  | none => h
  | some q => enterMember q.packet die member up { h with rings := h.rings.erase q }

/-- One step of a member in one direction: it forwards its oldest packet, in FIFO order; where it cannot, it takes one in (R326). -/
def memberStep (die member : Nat) (up : Bool) (h : Module) : Module :=
  match h.stations.find? fun q => q.die == die && q.member == member && q.up == up with
  | none => memberTake die member up h
  | some q =>
    let h' := { h with stations := h.stations.erase q }
    match memberHop q.packet die member up with
    | .port n => match gatePort h die n with
      | some i => { h' with departed := h'.departed ++ [(i, q.packet)] }
      | none => memberTake die member up h
    | .member d n u => if memberRoom h' q.packet d n u then enterMember q.packet d n u h' else memberTake die member up h
    | .ring quad side =>
      let stop := Config.stationStop (4 * die + quad) side % 8
      let ring := ringOf h.ringsOut die quad stop q.packet
      if entryFree h ring stop then inject ring stop q.packet h' else memberTake die member up h

/-- A packet that comes from another module at the gateway of a die: it has room in the buffer of its direction (R327). -/
def gateOffered (h : Module) (die : Nat) (up : Bool) (p : NetPacket) : Bool :=
  netLengthOk p && (match p.src with
    | .gateway d n => d == die && n != h.number
    | _ => false) && gatewayUp p == up && memberRoom h p die 4 up

/-! ### Paths (R328) -/

/-- Two places lie on the rings of one quadrant. -/
def sameQuad (a b : NetPlace) : Bool :=
  placeDie a == placeDie b && (placeStop a).isSome && (placeStop a).map Prod.fst == (placeStop b).map Prod.fst

/-- A slice of the module by number: 32 · die + 8 · quadrant + stop. -/
def slicePlace (n : Nat) : NetPlace := .slice (n / 32 % 4) (n / 8 % 4) (n % 8)

/-- A core. -/
def isCore (p : NetPlace) : Bool := p matches .core ..

/-- A place is where accesses of a context to an address go: the home slice of its line, or the gateway to its home module. -/
def accessPlaceOf (c : Cpu) (m : Cells) (a : Nat) (p : NetPlace) : Bool :=
  match bytesHere c.hw (c.record m (vaObj a)) a with
  | some n => (List.range 4).any fun d => p == .gateway d n && (gatePort c.hw d n).isSome
  | none => p == slicePlace (lineSlice c.hw m c.ctx (lineOf a))

/-- The same for any context of the module. -/
def accessPlace (s : State) (a : Nat) (p : NetPlace) : Bool := s.contexts.any fun x => accessPlaceOf ⟨Group.none, x, s.cpu.hw⟩ s.mem a p

/-- The path of each kind of traffic (R328): scratchpad accesses, block-scope turn entries and barrier arrivals go from core to core of one
quadrant (R81, R180), a copy's bytes to a core of the quadrant or to their homes, requests and writes to the home of the line, and answers
come from there. A store to another core's share travels as a line write (DESIGN CHOICE, log 19). -/
def pathOk (s : State) (p : NetPacket) : Bool :=
  let onRing := sameQuad p.src p.dst && isCore p.dst
  match p.kind with
  | .padRequest => onRing
  | .padResponse => onRing
  | .barrierArrival => onRing
  | .readResponse => accessPlace s p.addr p.src
  | .acknowledgement => accessPlace s p.addr p.src || onRing
  | .readRequest => accessPlace s p.addr p.dst
  | .turnEntry => accessPlace s p.addr p.dst || onRing
  | .lineWrite => accessPlace s p.addr p.dst || onRing
  | .publication => accessPlace s p.addr p.dst
  | .copyWrite => accessPlace s p.addr p.dst || onRing

/-- RING_HOP (R322 to R327): one clock of a ring's link, with what the core or slice of the stop may offer for injection; numbers from 64 on
name the station cycles, 64 + 2 · die + direction (0 ascending), whose stops are the stations 0 to 3 and the gateway 4, which takes in what
comes from other modules. -/
def networkHop (ring stop : Nat) (offer : Option NetPacket) (s : State) : State :=
  if 64 ≤ ring then
    let die := (ring - 64) / 2 % 4
    let up := ring % 2 == 0
    let s := match offer with
      | some p => if gateOffered s.cpu.hw die up p && pathOk s p && decide (stop % 5 = 4) then s.onHw (enterMember p die 4 up) else s
      | none => s
    s.onHw (memberStep die (stop % 5) up)
  else
    let s := match offer with
      | some p => if offered s.cpu.hw ring stop p && pathOk s p then s.onHw fun h => reserveRoom p (inject ring stop p h) else s
      | none => s
    s.onHw fun h => ringHop ring stop (coreTakes ring stop h)

/-! ### One meaning per step -/

/-- RING_HOP (R325). -/
def execRingHop (ring : Nat) (link : RingLink) (s : State) : Host.Outcome State Fault Refusal := .next (networkHop ring link.stop link.offer s)
/-- PACKET_EJECT (R325). -/
def execPacketEject (ring : Nat) (e : RingEndpoint) (s : State) : Host.Outcome State Fault Refusal :=
  .next (s.onHw (packetEject ring e.stop e.slice))

end Sys2Proof.Machine
end

