-- ==== Sys2Proof/Machine/Fabric.lean ====
section
/-! DEFINITION. The Corku fabric as this module sees it: reports (R295, R348), packets of every type at their destination (R335, R338 to
R340, R343, R345), passing packets (R333, R345), links and their failure (R336, R337, R339, R347). -/

namespace Sys2Proof.Machine

/-! ### Reports -/

/-- An event of kind 10 and a log entry for a context (R295, R369). -/
def reportTo (h : Module) (x : Ctx) (cls code : Nat) (detail : Dword) : Module :=
  { h with
    events := h.events ++ [⟨sourceOf h 10, x.dpart.toNat, ctxId x, 10, 0, 0, BitVec.ofNat 64 (256 * cls + code)⟩]
    log := h.log ++ [⟨sourceOf h cls, cls, code, ctxId x, detail⟩] }

/-- Report to every context that a test admits; where none is, the log alone. -/
def State.report (ok : Ctx → Bool) (cls code : Nat) (detail : Dword) (s : State) : State :=
  match s.contexts.filter ok with
  | [] => s.onHw fun h => { h with log := h.log ++ [⟨sourceOf h cls, cls, code, 0, detail⟩] }
  | xs => s.onHw fun h => xs.foldl (fun h x => reportTo h x cls code detail) h

/-- Change every group of every context. -/
def State.mapAll (f : Nat → Group → Group) (s : State) : State :=
  { s with
    cpu := s.cpu.mapGroups (f s.cpu.ctx.key)
    others := s.others.map fun x => { x with groups := x.groups.map (f x.key) } }

/-- R1 is suspended for the context in hand by a machine check or a fabric event (R4). -/
def checkR1 (cls code : Nat) (detail : Dword) (c : Cpu) : Cpu :=
  { c with ctx := { c.ctx with r1off := true }, hw := reportTo c.hw c.ctx cls code detail }

/-- Codes 3 and 4 of class 35 set SUSP in every FSTAT of the context as well (R347 to R349). -/
def suspendR1 (code : Nat) (detail : Dword) (c : Cpu) : Cpu :=
  (checkR1 35 code detail c).mapGroups fun g => { g with fstat := fstatSusp g.fstat }

/-- Class 35, code 4, for the context that a packet names (R348). -/
def badPacket (p : Packet) (s : State) : State := s.keepAll fun s =>
  match s.byNumber p.ctx with
  | some s => s.onCpu (suspendR1 4 (BitVec.ofNat 64 p.seq))
  | none => s.onHw fun h => { h with log := h.log ++ [⟨sourceOf h 35, 35, 4, 0, BitVec.ofNat 64 p.seq⟩] }

/-! ### Sequence numbers received -/

/-- What a receiver makes of a sequence number (R338, R340, R348). -/
inductive Arrival where
  | fresh
  | duplicate
  | outside
  deriving DecidableEq, Repr

/-- What the receiver keeps of a source (R338). -/
def windowOf (h : Module) (src : Nat) : Window := (h.windows.find? fun w => w.src == src).getD ⟨src, 0, []⟩

/-- Judge a sequence number. -/
def arrivalOf (w : Window) (n : Nat) : Arrival :=
  let d := (n + 65536 - w.e) % 65536
  if d < Config.seqWindow then (if n ∈ w.got then .duplicate else .fresh)
  else if 65536 - Config.seqWindow ≤ d then .duplicate
  else .outside

/-- e moves past the numbers received. -/
def slide : Nat → Window → Window
  | 0, w => w
  | n + 1, w => if w.e ∈ w.got then slide n { w with e := (w.e + 1) % 65536, got := w.got.filter fun i => i != w.e } else w

/-- A number of a source counts as received (R338). -/
def markReceived (h : Module) (src n : Nat) : Module :=
  let w := windowOf h src
  { h with windows := (h.windows.filter fun u => u.src != src) ++ [slide (w.got.length + 1) { w with got := w.got ++ [n] }] }

/-- A packet received counts for its context and leg (DESIGN CHOICE, log 14). -/
def countReceived (ctx leg src n : Nat) (h : Module) : Module :=
  { markReceived h src n with gotLog := h.gotLog ++ [⟨ctx, leg, src, n⟩] }

/-- Acknowledge a packet (R335). -/
def ackPacket (p : Packet) (h : Module) : Module := sendControl h p.ctx p.leg 9 p.src (.ack [p.seq])

/-- Answer a repeated request from the result cache (R340); an answer that still waits for its window goes on waiting (R338). (DEDUCED,
log 32) -/
def answerAgain (p : Packet) (h : Module) : Module :=
  match h.results.find? fun r => r.1 == p.src && r.2.1 == p.seq with
  | some r => if inSendWindow h p.src r.2.2.seq then { h with outbox := h.outbox ++ [r.2.2] } else h
  | none => h

/-- A packet that is not for this module passes on, one hop further (R333). -/
def passOn (p : Packet) (h : Module) : Module := { h with outbox := h.outbox ++ [{ p with hop := p.hop + 1 }] }

/-- The packet belongs to the leg that its context is in here (R92, R334). -/
def thisLeg (p : Packet) (s : State) : Bool := s.contexts.any fun x => x.key == p.ctx && x.leg % 65536 == p.leg

/-- A sequenced packet: applied once, handled as a duplicate, or outside the window (R338, R340). `apply` says whether the packet could be
applied; one that could not is held. So is one of another leg and one whose context has not started here, so that no order of delivery and
no moment of a start decides what becomes of it (R2, R355, R381). What it does to saved groups goes into their images (R308). -/
def receive (again : Module → Module) (apply : State → State × Bool) (p : Packet) (s : State) : State :=
  if p.dst ≠ s.cpu.hw.number then s.onHw (passOn p)
  else match arrivalOf (windowOf s.cpu.hw p.src) p.seq with
    | .duplicate => s.onHw again
    | .outside => badPacket p s
    | .fresh =>
      if !thisLeg p s then s.onHw fun h => { h with held := insertNew h.held p }
      else
        let t := s.keepAll fun s => (apply s).1
        if (apply s).2 then t.onHw (countReceived p.ctx p.leg p.src p.seq)
        else t.onHw fun h => { h with held := insertNew h.held p }

/-! ### Answers received -/

/-- A wait for answers loses one of them; with none left the group goes on. -/
def answered (n module : Nat) (g : Group) : Group :=
  match g.status with
  | .remote asked =>
    match asked.filter fun a => a != (n, module) with
    | [] => { g with status := .running }
    | rest => { g with status := .remote rest }
  | _ => g

/-- A `fence.sys` with nothing outstanding retires (R352). -/
def fenceStep (h : Module) (ctx : Nat) (g : Group) : Group :=
  match g.status with
  | .fence => if (outstanding h ctx g.gid).isEmpty then g.fenceDone else g
  | _ => g

/-- A packet of this module to `dst` is answered: it leaves the retry buffer, the answers that it was are forgotten (R340), and packets
that waited for the window go out (R338). -/
def freeRetry (dst n : Nat) (h : Module) : Module :=
  let h' := { h with
    retry := h.retry.filter fun p => !(p.dst == dst && p.seq == n)
    results := h.results.filter fun r => !(r.1 == dst && r.2.2.seq == n) }
  let out := h'.retry.filter fun p => p.dst == dst && !inSendWindow h dst p.seq && inSendWindow h' dst p.seq
  { h' with outbox := h'.outbox ++ out }

/-- The sources of a combined packet learn of its acknowledgement (R345). -/
def forwardAck (dst : Nat) (p : Packet) (h : Module) : Module :=
  match p.body with
  | .combined parts via _ => (parts ++ via).foldl (fun h q =>
      if q.1 = h.number then freeRetry dst q.2 h
      else { h with outbox := h.outbox ++ [⟨9, dst, q.1, 0, p.leg, 0, p.ctx, .ack [q.2]⟩] }) h
  | _ => h

/-- The answer to packet n of this module to `dst` (R338). -/
def settleRetry (dst n : Nat) (s : State) : State :=
  let s := s.onHw fun h =>
    let h' := freeRetry dst n h
    match h.retry.find? fun p => p.dst == dst && p.seq == n with
    | some p => forwardAck dst p h'
    | none => h'
  (s.mapAll fun _ g => answered n dst g).mapAll (fenceStep s.cpu.hw)

/-! ### Unreachable destinations -/

/-- A packet that will not be answered (R347). -/
def losePacket (s : State) (p : Packet) : State :=
  match s.byNumber p.ctx with
  | none => s
  | some s => s.onCpu fun c =>
    let fail := fun bit gid (c : Cpu) => c.onGid gid fun g => { g with fstat := fstatFail g.fstat p.dst bit }
    match p.body with
    | .readReq line gid _ _ => fail 1 gid (c.onGid gid fun g => { g with fills := put g.fills line none })
    | .turn st _ =>
      match c.ctx.queue.find? fun e => e.home == p.dst && e.stamp == st with
      | none => c
      | some e => fail 2 st.gid (({ c with ctx := { c.ctx with queue := c.ctx.queue.filter fun f => f != e } } : Cpu).onGid st.gid
          (turnGroup e true (BitVec.allOnes 64)))
    | .lineWrite gid _ _ _ => fail 3 gid c
    | .publication st _ _ _ => fail 3 st.gid c
    | .reduction k => fail 3 k.gid c
    | .combined _ _ cs => cs.foldl (fun c k => fail 3 k.gid c) c
    | .multicast gid _ _ _ _ => fail 3 gid c
    | _ => c

/-- A module that can no longer be reached (R347): its packets are lost, it leaves the horizon, and R1 is suspended for every context with
traffic to it. -/
def loseModule (s : State) (t : Nat) : State := s.keepAll fun s =>
  let ps := s.cpu.hw.retry.filter fun p => p.dst == t
  let hit := (s.contexts.filter fun x => x.span || ps.any fun p => p.ctx == x.key).map fun x => x.key
  let s := s.onHw fun h => { h with retry := h.retry.filter fun p => p.dst != t }
  let s := ps.foldl losePacket s
  let s := ps.foldl (fun s p => s.mapAll fun _ g => answered p.seq t g) s
  let s := hit.foldl (fun s n => match s.byNumber n with
    | some s => s.onCpu fun c =>
      suspendR1 3 (BitVec.ofNat 64 t) { c with ctx := { c.ctx with peers := c.ctx.peers.map fun q => if q.module = t then { q with lost := true } else q } }
    | none => s) s
  s.mapAll (fenceStep s.cpu.hw)

/-- Modules of the domain that this one cannot reach and still has packets for. -/
def strayModules (h : Module) : List Nat :=
  (moduleList h).filter fun t => t != h.number && (routeTo h t).isNone && h.retry.any fun p => p.dst == t

/-- Packets sent to a module after it was lost are lost as well (R347). -/
def loseStray (s : State) : State := (strayModules s.cpu.hw).foldl loseModule s

/-! ### Links -/

/-- A route uses a link. -/
def routeUses (l : Nat × Nat) : Nat → List Nat → Bool
  | _, [] => false
  | a, b :: r => (min a b, max a b) == l || routeUses l b r

/-- A report said once more (R346). -/
def repeatReport (ctx : Nat) (r : Report) (h : Module) (t : Nat) : Module := sendControl h ctx r.leg 11 t (.agree r)

/-- What a context has last said to the others is said again where the route has changed: a type 11 packet is kept in no retry buffer (R335,
R359). -/
def sayAgain (again : Nat → Bool) (h : Module) (x : Ctx) : Module :=
  match x.said with
  | none => h
  | some r => (((livePeers x).map fun q => q.module).filter again).foldl (repeatReport x.key r) h

/-- So is the last report of a context that has left (DESIGN CHOICE, log 14). -/
def farewellAgain (again : Nat → Bool) (h : Module) (f : Farewell) : Module :=
  (f.peers.filter again).foldl (repeatReport f.ctx f.report) h

/-- This module learns that a link is failed (R339): unanswered packets whose route used it go again, in order, by the new route; modules
now out of reach are lost. Where a second link still joins the two modules (R330), the packets go again over it and no module is lost. -/
def linkDown (a b : Nat) (joined : Bool) (s : State) : State :=
  let l := (min a b, max a b)
  let h := s.cpu.hw
  if l ∈ h.failed then s
  else
    let h' := if joined then h else { h with failed := h.failed ++ [l] }
    let far := (moduleList h).filter fun t => t != h.number
    let uses := fun t => match routeTo h t with
      | some r => routeUses l h.number r
      | none => false
    let again := h'.retry.filter fun p => uses p.dst && (routeTo h' p.dst).isSome && inSendWindow h' p.dst p.seq
    let lost := far.filter fun t => (routeTo h t).isSome && (routeTo h' t).isNone
    let reached := fun t => uses t && (routeTo h' t).isSome
    let h'' := s.contexts.foldl (sayAgain reached) { h' with outbox := h'.outbox ++ again }
    let h'' := h''.farewells.foldl (farewellAgain reached) h''
    lost.foldl loseModule (s.onHw fun _ => h'')

/-- Ports of this module that are up to a peer. -/
def portsUp (ports : Vector Port 16) (peer : Nat) : Nat := (ports.toList.filter fun r => r.st == 1 && r.peer == peer).length

/-- This module declares the link of a port failed (R336, R348): notices go to every module of the domain. They say whether a second link
to the same peer still joins the pair (R330). -/
def declareFailed (port : Nat) (s : State) : State :=
  let h := s.cpu.hw
  match h.ports[port]? with
  | none => s
  | some q =>
    let ports := h.ports.setIfInBounds port { q with st := 2, bad := 0, trained := false }
    let s := s.onHw fun h => { h with ports := ports }
    let s := s.onHw fun h => (moduleList h).foldl (fun h t =>
      if t = h.number then h else sendControl h 0 0 10 t (.failure h.number q.peer (0 < portsUp ports q.peer))) h
    let s := s.report (fun x => x.span) 35 1 (BitVec.ofNat 64 port)
    linkDown h.number q.peer (0 < portsUp ports q.peer) s

/-- FLIT_RECEIVE (R336): a flit whose CRC fails is resent; one that fails 16 resends in a row fails the link. -/
def flitReceive (port : Nat) (crcOk : Bool) (s : State) : State :=
  match s.cpu.hw.ports[port]? with
  | none => s
  | some q =>
    if q.st ≠ 1 then s
    else if crcOk then s.onHw fun h => { h with ports := h.ports.setIfInBounds port { q with bad := 0 } }
    else if q.bad = 16 then declareFailed port s
    else s.onHw fun h => { h with ports := h.ports.setIfInBounds port { q with bad := q.bad + 1, nrep := min 255 (q.nrep + 1) } }

/-- LINK_SILENCE_TIMEOUT (R336). -/
def linkSilence (port : Nat) (s : State) : State :=
  match s.cpu.hw.ports[port]? with
  | some q => if q.st = 1 then declareFailed port s else s
  | none => s

/-- ROUTER_FAILURE (R336, R348): every link is declared failed. -/
def routerFail (s : State) : State :=
  let s := s.report (fun x => x.span) 35 2 0
  (List.range 16).foldl (fun s i => linkSilence i s) s

/-- LINK_TRAINED (R337): a port that was down comes up, and a failed pair that it joins is joined again (R330); a failed one may now be
restored. -/
def linkTrained (port : Nat) (h : Module) : Module :=
  match h.ports[port]? with
  | none => h
  | some q =>
    { h with
      ports := h.ports.setIfInBounds port { q with trained := true, st := if q.st = 0 then 1 else q.st }
      failed := if q.st = 0 then h.failed.filter fun l => l != (min h.number q.peer, max h.number q.peer) else h.failed }

/-- A write of PSTAT (R337): a 1 written into NREP clears that bit; 1 in ST restores a failed link that has trained. -/
def writePstat (port : Nat) (val : Word) (h : Module) : Module :=
  match h.ports[port]? with
  | none => h
  | some q =>
    let q := { q with nrep := q.nrep &&& (255 ^^^ (val.toNat / 2 ^ 16 % 256)) }
    if val.toNat % 4 = 1 && q.st = 2 && q.trained then
      { h with
        ports := h.ports.setIfInBounds port { q with st := 1 }
        failed := h.failed.filter fun l => l != (min h.number q.peer, max h.number q.peer) }
    else { h with ports := h.ports.setIfInBounds port q }

/-- The two modules of a failed link are still joined: the notice says so, or this module is one of them and has a second link up (R330). -/
def stillJoined (h : Module) (a b : Nat) (joined : Bool) : Bool :=
  joined || (h.number == a && decide (2 ≤ portsUp h.ports b)) || (h.number == b && decide (2 ≤ portsUp h.ports a))

/-- FAILURE_NOTICE (R339). -/
def failureNotice (p : Packet) (s : State) : State :=
  if p.dst ≠ s.cpu.hw.number then s.onHw (passOn p)
  else match p.body with
    | .failure a b joined => linkDown a b (stillJoined s.cpu.hw a b joined) s
    | _ => s

/-! ### Packets at their destination -/

/-- Send an answer and keep it in the result cache (R340). -/
def answerRequest (p : Packet) (body : PBody) (h : Module) : Module :=
  let q : Packet := ⟨1, h.number, p.src, nextSeq h p.src, p.leg % 65536, 0, p.ctx, body⟩
  let h' := sendSeq h p.ctx p.leg 1 p.src body
  { h' with results := h'.results ++ [(p.src, p.seq, q)] }

/-- What the home answers to a read request (R343): the bytes that R100 or R103 selects for the group, which is one of the asking module; for
a fetch those of the code image (R271). Only a plain load sets a tag (R104). Without a record here the line counts as lost (DESIGN CHOICE,
log 17). -/
def readAnswer (p : Packet) (line gid : Nat) (view : Option (Stamp × Scope)) (use : ReadUse) (m : Cells) (c : Cpu) : Cpu :=
  match c.record m (vaObj line) with
  | none => { c with hw := answerRequest p (.readResp p.seq line [] true) c.hw }
  | some r =>
    let cells := (span line 128).map fun a => (a, match use with
      | .fetch => codeByteHere c.hw c.ctx m r (vaOff a)
      | _ => homeByteFor p.src c m r gid view a)
    let c := if use = .load then { c with ctx := tagLine c.ctx r gid false line } else c
    let c := { c with hw := { c.hw with dir := { c.hw.dir with shared := shareLines m c.ctx r [vaOff line] c.hw.dir.shared } } }
    { c with hw := answerRequest p (.readResp p.seq line cells false) c.hw }

/-- FABRIC_READ_REQUEST (R343), type 0; a request to watch a line is noted (DESIGN CHOICE, log 15). -/
def readRequest (p : Packet) (s : State) : State :=
  receive (answerAgain p) (fun s =>
    match s.byNumber p.ctx, p.body with
    | some s, .readReq line gid view use => (s.onCpu (readAnswer p line gid view use s.mem), true)
    | some s, .watch line gid since =>
      (s.onCpu fun c => { c with ctx := { c.ctx with watchers := c.ctx.watchers ++ [⟨p.src, gid, line, since⟩] },
                                 hw := answerRequest p (.readResp p.seq line [] false) c.hw }, true)
    | _, _ => (s, true)) p s

/-- READ_RESPONSE (R335, R347), type 1: it answers its request, and the load of the group goes on once it has every line. One that comes
again does nothing but be acknowledged again (R340; DEDUCED, log 32). -/
def readResponse (p : Packet) (s : State) : State :=
  receive (ackPacket p) (fun s =>
    match p.body with
    | .readResp n line cells lost =>
      let gid := (s.cpu.hw.retry.find? fun q => q.dst == p.src && q.seq == n).bind fun q => match q.body with
        | .readReq _ gid _ _ => some gid
        | _ => none
      let s := match gid, s.byNumber p.ctx with
        | some gid, some s => s.onCpu fun c => c.onGid gid fun g => { g with fills := put g.fills line (if lost then none else some cells) }
        | _, _ => s
      ((settleRetry p.src n s).onHw (ackPacket p), true)
    | _ => (s, true)) p s

/-- One sequence number comes after another (R338). -/
def laterSeq (a b : Nat) : Bool := a != b && decide ((a + 65536 - b) % 65536 < 32768)

/-- The bytes of a write-through that no later one of the same group, already here, has written (R381). -/
def newestThrough (x : Ctx) (t : Through) : Cells :=
  t.cells.filter fun e => !x.throughs.any fun u =>
    u.gid == t.gid && u.module == t.module && laterSeq u.seq t.seq && (get? u.cells e.1).isSome

/-- A write-through of a group of another module at its home (R103, R104, R106): of two that write one byte the one sent later stands, in
whichever order they come. -/
def homeWrite (x : Ctx) (r : Record) (t : Through) : Ctx :=
  let y := t.cells.foldl (fun x e => tagLine x r t.gid true e.1) (markPlain x t.gid t.module t.cells)
  { parcelPut y t.gid (newestThrough x t) with throughs := x.throughs ++ [t] }

/-- The line of some bytes. -/
def lineOfCells (cells : Cells) : Nat := lineOf ((cells.head?.map Prod.fst).getD 0)

/-- A write-through that needs an overlay entry of its own finds no room (R98, R103). -/
def writeFull (h : Module) (m : Cells) (x : Ctx) (gid : Nat) (cells : Cells) : Bool :=
  !(((get? x.parcel gid).getD []).any fun e => lineOf e.1 == lineOfCells cells) && overlayFull h m x (lineOfCells cells)

/-- LINE_WRITE (R343), type 2: a write-through, or bytes of a copy that lands at this leg end. -/
def lineWrite (p : Packet) (s : State) : State :=
  receive (ackPacket p) (fun s =>
    match s.byNumber p.ctx, p.body with
    | some s, .lineWrite _ (some st) cells nibs =>
      (((s.onCtx fun x => { x with landings := x.landings ++ [⟨st, cells, nibs⟩] }) : State).onHw (ackPacket p), true)
    | some s, .lineWrite gid none cells _ =>
      if writeFull s.cpu.hw s.mem s.cpu.ctx gid cells then (s.onCpu Cpu.exhausted, false)
      else
        let s := match s.cpu.record s.mem (vaObj (lineOfCells cells)) with
          | some r => s.onCtx fun x => { homeWrite x r ⟨gid, p.src, p.seq, cells⟩ with ovlFull := false }
          | none => s
        (s.onHw (ackPacket p), true)
    | _, _ => (s.onHw (ackPacket p), true)) p s

/-- FABRIC_PUBLICATION (R343, R90), type 3. One of a killed group only marks its words: its bytes are discarded (R106, R313). -/
def publicationArrive (p : Packet) (s : State) : State :=
  receive (ackPacket p) (fun s =>
    match s.byNumber p.ctx, p.body with
    | some s, .publication st _ cells true =>
      ((s.onCtx fun x => markPlain x st.gid p.src cells).onHw (ackPacket p), true)
    | some s, .publication st line cells false =>
      if overlayFull s.cpu.hw s.mem s.cpu.ctx line then (s.onCpu Cpu.exhausted, false)
      else
        let x := markPlain s.cpu.ctx st.gid p.src cells
        ((s.onCtx fun _ => { x with versions := x.versions ++ [⟨st, p.src, none, cells⟩], ovlFull := false }).onHw (ackPacket p), true)
    | _, _ => (s.onHw (ackPacket p), true)) p s

/-- FABRIC_TURN_ENTRY (R340, R343), type 4: the entry joins its queue here. -/
def turnArrive (p : Packet) (s : State) : State :=
  receive (answerAgain p) (fun s =>
    match s.byNumber p.ctx, p.body with
    | some s, .turn st op =>
      (s.onCtx fun x => { x with queue := x.queue ++ [⟨st, 64, .system, op, p.src, s.cpu.hw.number, p.seq⟩] }, true)
    | _, _ => (s, true)) p s

/-- What the answer of a launch turn leaves on the issuing module (R259): a launch that got an ordinal joins the queue here, and the ordinals
below it are known to be given. -/
def launchAnswer (e : Entry) (val : Dword) (x : Ctx) : Ctx :=
  match e.op with
  | .launch r =>
    match coresFor (lrecOf r) x.dq with
    | some n =>
      if val.toNat < 2 ^ 24 then
        { x with launches := x.launches ++ [⟨val.toNat, r, x.leg, 0, 1, n, false⟩], nextOrd := max x.nextOrd (val.toNat + 1) }
      else x
    | none => x
  | _ => x

/-- The answer to a turn: the issuing group resumes, and what its release has published wakes those that watch (R84, R87, R340). -/
def resultArrive (m : Cells) (e : Entry) (ok : Bool) (val : Dword) (c : Cpu) : Cpu :=
  let freed := releasedLines c e
  let x := launchAnswer e val { c.ctx with queue := c.ctx.queue.filter fun f => f != e }
  (({ c with ctx := x } : Cpu).onGid e.stamp.gid (turnGroup e ok val)).wakeReleased m e.stamp freed

/-- A group waits for the answer to a turn. -/
def awaitsTurn (g : Group) : Bool := g.status matches .turn _

/-- TURN_RESULT (R340), type 5: the issuing group resumes; or a wake for a group that waits on a line of another module; or the word that a
release has performed whose publications are homed here (DESIGN CHOICE, log 15). A wake that overtakes the result of its group's failed check
waits for it (R381). One that comes again does nothing but be acknowledged again (R340; DEDUCED, log 32). -/
def turnResult (p : Packet) (s : State) : State :=
  receive (ackPacket p) (fun s =>
    match s.byNumber p.ctx, p.body with
    | some s, .result n gid val ok =>
      let s := match s.cpu.ctx.queue.find? fun e => e.home == p.src && e.stamp.gid == gid with
        | some e => s.onCpu (resultArrive s.mem e ok val)
        | none => s
      ((settleRetry p.src n s).onHw (ackPacket p), true)
    | some s, .wake gid line since st =>
      if (s.cpu.find gid).any fun g => awaitsTurn g && g.lc == since then (s, false)
      else ((s.onCpu fun c => c.onGid gid (fireSince line since st)).onHw (ackPacket p), true)
    | some s, .performed st lines => ((s.onCpu fun c => c.wakeLines st lines).onHw (ackPacket p), true)
    | _, _ => (s.onHw (ackPacket p), true)) p s

/-- FABRIC_DEFERRED_REDUCTION (R343, R95), type 6. -/
def reductionArrive (p : Packet) (s : State) : State :=
  receive (ackPacket p) (fun s =>
    match s.byNumber p.ctx, p.body with
    | some s, .reduction k =>
      if noAccumulator s.cpu.hw s.mem s.cpu.ctx k then (s.onCpu Cpu.exhausted, false)
      else ((s.onCtx fun x => acceptContrib x p.src k).onHw (ackPacket p), true)
    | _, _ => (s.onHw (ackPacket p), true)) p s

/-- One contribution of a combined packet: applied and counted as received, unless it was before, or finds no accumulator; `true` when it
need not come again. -/
def takePart (p : Packet) (acc : State × Bool) (q : (Nat × Nat) × Contrib) : State × Bool :=
  let s := acc.1
  match arrivalOf (windowOf s.cpu.hw q.1.1) q.1.2 with
  | .fresh =>
    if noAccumulator s.cpu.hw s.mem s.cpu.ctx q.2 then (s, false)
    else ((s.onCtx fun x => acceptContrib x q.1.1 q.2).onHw (countReceived p.ctx p.leg q.1.1 q.1.2), acc.2)
  | _ => acc

/-- A combined packet that another took up counts as received. -/
def takeVia (p : Packet) (h : Module) (q : Nat × Nat) : Module :=
  match arrivalOf (windowOf h q.1) q.2 with
  | .fresh => countReceived p.ctx p.leg q.1 q.2 h
  | _ => h

/-- COMBINED_REDUCTION (R345), type 7: each listed number counts as received, and what was received before is not applied again. -/
def combinedArrive (p : Packet) (s : State) : State :=
  receive (ackPacket p) (fun s =>
    match s.byNumber p.ctx, p.body with
    | some s, .combined parts via cs =>
      match (List.zip parts cs).foldl (takePart p) (s, true) with
      | (s, true) => (s.onHw fun h => ackPacket p (via.foldl (takeVia p) h), true)
      | (s, false) => (s.onCpu Cpu.exhausted, false)
    | _, _ => (s.onHw (ackPacket p), true)) p s

/-- A record that a multicast line may be written through (R351): the same extent, mode and permissions as on the issuing module, where
they have admitted the line, and homed here. -/
def multicastOk (r : Record) (ext mode perm : Nat) : Bool := r.ext == ext && r.mode == mode && r.perm == perm && r.home == 0

/-- The line of a multicast is dropped: a machine check of the context (R4, R351; DESIGN CHOICE, log 17). -/
def multicastDrop (p : Packet) (va : Nat) (s : State) : State :=
  (s.onCpu (checkR1 36 Config.multicastCode.toNat (BitVec.ofNat 64 va))).onHw (ackPacket p)

/-- MULTICAST_WRITE (R351), type 8: a write-through of the issuing group through this module's own record. (DESIGN CHOICE, log 17) -/
def multicastArrive (p : Packet) (s : State) : State :=
  receive (ackPacket p) (fun s =>
    match s.byNumber p.ctx, p.body with
    | some s, .multicast gid cells ext mode perm =>
      let va := lineOfCells cells
      match s.cpu.record s.mem (vaObj va) with
      | none => (multicastDrop p va s, true)
      | some r =>
        if !multicastOk r ext mode perm then (multicastDrop p va s, true)
        else if writeFull s.cpu.hw s.mem s.cpu.ctx gid cells then (s.onCpu Cpu.exhausted, false)
        else match accessBlock s.mem r true (vaOff va) 128 with
          | none => ((s.onCtx fun x => { homeWrite x r ⟨gid, p.src, p.seq, cells⟩ with ovlFull := false }).onHw (ackPacket p), true)
          | some (e, 3) => (s.onCpu fun c => ((c.event 3 gid va e).logs 34 3 (BitVec.ofNat 64 va)).suspend, false)
          | some (e, kind) =>
            if kind = 0 || e ∈ s.cpu.ctx.xlatEvents then (s, false)
            else (s.onCpu fun c => { c.event kind gid va e with ctx := { c.ctx with xlatEvents := c.ctx.xlatEvents ++ [e] } }, false)
    | _, _ => (s.onHw (ackPacket p), true)) p s

/-- ACKNOWLEDGEMENT (R338), type 9. -/
def ackArrive (p : Packet) (s : State) : State :=
  if p.dst ≠ s.cpu.hw.number then s.onHw (passOn p)
  else match p.body with
    | .ack ns => s.keepAll fun s => ns.foldl (fun s n => settleRetry p.src n s) s
    | _ => s

/-- One report is older than another of the same module: by leg, phase and serial number. -/
def olderReport (a b : Report) : Bool :=
  decide (a.leg < b.leg) || (a.leg == b.leg && (decide (a.phase < b.phase) || (a.phase == b.phase && decide (a.serial < b.serial))))

/-- What a type 11 packet says replaces what the module said before, unless it is older (R346). What the module found at a leg end stays
known until it says what it found at the next. -/
def hearPeer (ps : List Peer) (q : Peer) : List Peer :=
  match ps.find? fun o => o.module == q.module with
  | none => ps ++ [q]
  | some o =>
    if olderReport q.toReport o.toReport then ps
    else ps.map fun r => if r.module = q.module then { q with found := q.found.or o.found, lost := o.lost } else r

/-- A module has been heard of no report of a context yet. -/
def unheard (ps : List Peer) (module : Nat) : Bool := ps.any fun o => o.module == module && o.serial == 0

/-- LEG_END_AGREEMENT (R346), type 11. One that comes before the context has started here is lost; a module that is heard for the first time
may have lost what this one said before, and is told again (DESIGN CHOICE, log 14). -/
def agreementArrive (p : Packet) (s : State) : State :=
  if p.dst ≠ s.cpu.hw.number then s.onHw (passOn p)
  else match s.byNumber p.ctx, p.body with
    | some s, .agree r =>
      let t := s.onCtx fun x => { x with peers := hearPeer x.peers ⟨r, p.src, false⟩ }
      if unheard s.cpu.ctx.peers p.src then t.onHw fun h => sayAgain (· == p.src) h t.cpu.ctx else t
    | _, _ => s

/-- A packet of a type at its destination. -/
def deliver (s : State) (p : Packet) : State :=
  match p.typ with
  | 0 => readRequest p s
  | 1 => readResponse p s
  | 2 => lineWrite p s
  | 3 => publicationArrive p s
  | 4 => turnArrive p s
  | 5 => turnResult p s
  | 6 => reductionArrive p s
  | 7 => combinedArrive p s
  | 8 => multicastArrive p s
  | 9 => ackArrive p s
  | 10 => failureNotice p s
  | 11 => agreementArrive p s
  | _ => badPacket p s

/-- Packets that were held arrive again, in the order in which they came. -/
def deliverOnce (s : State) : State := s.cpu.hw.held.foldl deliver (s.onHw fun h => { h with held := [] })

/-- They do so twice, since one may have waited for a later one. -/
def deliverHeld (s : State) : State := deliverOnce (deliverOnce s)

/-! ### Passing packets -/

/-- A combining entry is sent (R345). -/
def sendCombined (h : Module) (e : Combine) : Module :=
  sendSeq { h with combining := h.combining.filter fun x => x != e } e.ctx e.leg 7 e.dst (.combined e.parts e.via e.cs)

/-- The contributions of a reduction packet, with the packets they came in, and the combined packets among those. (DESIGN CHOICE, log 18) -/
def combineParts (p : Packet) : List (Nat × Nat) × List (Nat × Nat) × List Contrib :=
  match p.body with
  | .reduction k => ([(p.src, p.seq)], [], [k])
  | .combined parts via cs => (parts, via ++ [(p.src, p.seq)], cs)
  | _ => ([], [], [])

/-- ROUTER_COMBINE (R345): a passing reduction joins the entry it agrees with, or opens one, or passes when the table is full. -/
def routerCombine (p : Packet) (h : Module) : Module :=
  let (parts, via, cs) := combineParts p
  match cs with
  | [] => passOn p h
  | k :: _ =>
    let agrees := fun e : Combine => e.dst == p.dst && e.line == lineOf k.addr && e.leg == p.leg && e.op == k.op && e.ety == k.ety && e.ctx == p.ctx
    let h := match h.combining.find? agrees with
      | some e => if Config.combineMax < e.parts.length + parts.length then sendCombined h e else h
      | none => h
    match h.combining.find? agrees with
    | some e =>
      let e' := { e with parts := e.parts ++ parts, via := e.via ++ via, cs := e.cs ++ cs }
      let h := { h with combining := h.combining.map fun x => if x = e then e' else x }
      if Config.combineMax ≤ e'.parts.length then sendCombined h e' else h
    | none =>
      if Config.combineEntries ≤ h.combining.length then passOn p h
      else
        let e : Combine := ⟨p.dst, lineOf k.addr, p.leg, k.op, k.ety, p.ctx, parts, via, cs⟩
        let h := { h with combining := h.combining ++ [e] }
        if Config.combineMax ≤ parts.length then sendCombined h e else h

/-- Entries that nothing joins are sent as well (DESIGN CHOICE, log 18). -/
def drainRouter (h : Module) : Module := h.combining.foldl sendCombined h

/-- WRITE_COMBINING_TIMER (R344): the n-th entry has aged past the timer. -/
def wcTimer (n : Nat) (s : State) : State :=
  match s.cpu.hw.wcb[n]? with
  | none => s
  | some e => match s.byNumber e.ctx with
    | some s => s.onCpu fun c => sendWc c e
    | none => s

/-! ### Packets on a link (R333, R334) -/

/-- The virtual channel of a packet on its next hop (R333). -/
def packetVc (p : Packet) : Nat :=
  match p.typ with
  | 1 | 5 => 3 + p.hop
  | 9 | 10 | 11 => 6
  | _ => p.hop

/-- The stamp that a packet carries. -/
def packetStamp : PBody → Option Stamp
  | .readReq _ _ view _ => view.map Prod.fst
  | .lineWrite _ landing _ _ => landing
  | .publication st _ _ _ => some st
  | .turn st _ => some st
  | .wake _ _ _ st => some st
  | .performed st _ => some st
  | _ => none

/-- The line or word that a packet is about. -/
def packetAddr : PBody → Nat
  | .readReq line _ _ _ => line
  | .readResp _ line _ _ => line
  | .lineWrite _ _ cells _ => lineOfCells cells
  | .publication _ line _ _ => line
  | .turn _ (.atomic _ _ addr _ _ _ _) => addr
  | .turn _ (.objw pa _) => pa
  | .reduction k => k.addr
  | .combined _ _ cs => (cs.head?.map fun k => lineOf k.addr).getD 0
  | .multicast _ cells _ _ _ => lineOfCells cells
  | .watch line _ _ => line
  | .wake _ line _ _ => line
  | _ => 0

/-- The bytes of the line that a packet writes. -/
def packetMask : PBody → Nat
  | .lineWrite _ _ cells _ => cells.foldl (fun s e => s ||| 2 ^ (e.1 % 128)) 0
  | .publication _ _ cells _ => cells.foldl (fun s e => s ||| 2 ^ (e.1 % 128)) 0
  | .multicast _ cells _ _ _ => cells.foldl (fun s e => s ||| 2 ^ (e.1 % 128)) 0
  | _ => 0

/-- Operation and element type, for types 4, 6 and 7, by a numbering of the model's own (DESIGN CHOICE, log 55). -/
def packetOp : PBody → BitVec 16
  | .turn _ (.atomic op cond _ wide sgn _ _) =>
    Config.packetOp (op.ctorIdx + 16 * cond.toNat) ((if wide then 1 else 0) + (if sgn then 2 else 0))
  | .turn _ (.launch _) => Config.packetOp 256 0
  | .turn _ (.objw _ _) => Config.packetOp 257 0
  | .turn _ (.arrive ..) => Config.packetOp 258 0
  | .reduction k => Config.packetOp (512 + k.op.ctorIdx) k.ety.toNat
  | .combined _ _ (k :: _) => Config.packetOp (512 + k.op.ctorIdx) k.ety.toNat
  | _ => 0

/-- Payload flits, at most four (R334): the 128 bytes of a line take two, operands and values one (DESIGN CHOICE, log 55). -/
def payloadFlits : PBody → Nat
  | .readResp .. => 2
  | .lineWrite .. => 2
  | .publication .. => 2
  | .multicast .. => 2
  | .turn .. => 1
  | .result .. => 1
  | .reduction _ => 1
  | .combined _ _ cs => 1 + Config.combinedFlits cs.length % 4
  | _ => 0

/-- The header flit of a packet: 64 bytes (R334). Reserved bits are 0. -/
def headerFlit (p : Packet) : List Byte :=
  let num := fun x n => (bytesAt 0 x n).map Prod.snd
  let st := (packetStamp p.body).getD ⟨0, 0⟩
  num (p.typ % 16 + 16 * (packetVc p % 8)) 1 ++ num (p.hop % 4 + 4 * (payloadFlits p.body % 8)) 1 ++ num (p.src % 64) 1 ++
    num (p.dst % 64) 1 ++ num p.seq 2 ++ num p.leg 2 ++ num (p.ctx % 2 ^ 28) 4 ++ num st.lc 8 ++ num st.gid 8 ++
    num (packetAddr p.body) 8 ++ num (packetMask p.body) 16 ++ num (packetOp p.body).toNat 2 ++ num 0 10

/-! ### One meaning per step -/

/-- FLIT_RECEIVE (R336). -/
def execFlitReceive (port : BitVec 4) (crcOk : Bool) (s : State) : Host.Outcome State Fault Refusal := .next (flitReceive port.toNat crcOk s)
/-- LINK_SILENCE_TIMEOUT (R336). -/
def execLinkSilenceTimeout (port : BitVec 4) (s : State) : Host.Outcome State Fault Refusal := .next (linkSilence port.toNat s)
/-- ROUTER_FAILURE (R336). -/
def execRouterFailure (s : State) : Host.Outcome State Fault Refusal := .next (routerFail s)
/-- LINK_TRAINED (R337). -/
def execLinkTrained (port : BitVec 4) (s : State) : Host.Outcome State Fault Refusal := .next (s.onHw (linkTrained port.toNat))
/-- FABRIC_READ_REQUEST (R343). -/
def execFabricReadRequest (p : Packet) (s : State) : Host.Outcome State Fault Refusal := .next (readRequest p s)
/-- READ_RESPONSE (R335). -/
def execReadResponse (p : Packet) (s : State) : Host.Outcome State Fault Refusal := .next (readResponse p s)
/-- LINE_WRITE (R343). -/
def execLineWrite (p : Packet) (s : State) : Host.Outcome State Fault Refusal := .next (lineWrite p s)
/-- FABRIC_PUBLICATION (R343). -/
def execFabricPublication (p : Packet) (s : State) : Host.Outcome State Fault Refusal := .next (publicationArrive p s)
/-- FABRIC_TURN_ENTRY (R340). -/
def execFabricTurnEntry (p : Packet) (s : State) : Host.Outcome State Fault Refusal := .next (turnArrive p s)
/-- TURN_RESULT (R340): what has waited for it is delivered. -/
def execTurnResult (p : Packet) (s : State) : Host.Outcome State Fault Refusal := .next (deliverHeld (turnResult p s))
/-- FABRIC_DEFERRED_REDUCTION (R345). -/
def execFabricDeferredReduction (p : Packet) (s : State) : Host.Outcome State Fault Refusal := .next (reductionArrive p s)
/-- COMBINED_REDUCTION (R345). -/
def execCombinedReduction (p : Packet) (s : State) : Host.Outcome State Fault Refusal := .next (combinedArrive p s)
/-- ROUTER_COMBINE (R345). -/
def execRouterCombine (p : Packet) (s : State) : Host.Outcome State Fault Refusal :=
  .next (if p.dst = s.cpu.hw.number then deliver s p else s.onHw (routerCombine p))
/-- MULTICAST_WRITE (R351). -/
def execMulticastWrite (p : Packet) (s : State) : Host.Outcome State Fault Refusal := .next (multicastArrive p s)
/-- ACKNOWLEDGEMENT (R338). -/
def execAcknowledgement (p : Packet) (s : State) : Host.Outcome State Fault Refusal := .next (ackArrive p s)
/-- FAILURE_NOTICE (R339). -/
def execFailureNotice (p : Packet) (s : State) : Host.Outcome State Fault Refusal := .next (failureNotice p s)
/-- LEG_END_AGREEMENT (R346). -/
def execLegEndAgreement (p : Packet) (s : State) : Host.Outcome State Fault Refusal := .next (agreementArrive p s)
/-- RESERVED_PACKET_TYPE (R335). -/
def execReservedPacketType (p : Packet) (s : State) : Host.Outcome State Fault Refusal := .next (badPacket p s)
/-- WRITE_COMBINING_TIMER (R344). -/
def execWriteCombiningTimer (n : Nat) (s : State) : Host.Outcome State Fault Refusal := .next (wcTimer n s)
/-- TRANSLATION_CHANGE_COMPLETE (R285): packets that waited for the change are served as well, and a group that is out goes on in its image
(R308). -/
def execTranslationChangeComplete (n : Nat) (s : State) : Host.Outcome State Fault Refusal := .next (deliverHeld (s.keepSaved (svcComplete n)))

end Sys2Proof.Machine
end

