-- ==== Sys2Proof/Machine/Fill.lean ====
section
/-! DEFINITION. Fills of vector registers from the context image (R13, R17): which main or window registers an instruction reads and writes,
and what it means when one of them has a reserved format byte in its image. -/

namespace Sys2Proof.Machine

/-- Registers n to n + len − 1 by the numbers of the image: v n of the main file as n, of the window as 256 + n (R298). Other names have no
slot there. -/
def fillNames (g : Group) (n : BitVec 8) (len : Nat) : List Nat :=
  ((List.range len).map fun i => n.toNat + i).filterMap fun i =>
    if g.inWin then (if i < 32 then some (256 + i) else none) else if i < 232 then some i else none

/-- What an instruction word does with its vector registers: those it reads and those it writes, by first byte (R51). -/
def fillUse (g : Group) (w : Word) : List Nat × List Nat :=
  let op := (w.extractLsb' 24 8).toNat
  let d := w.extractLsb' 16 8
  let a := w.extractLsb' 8 8
  let b := w.extractLsb' 0 8
  let n := if isWide g.ety then 2 else 1
  let reads := fun x len => fillNames g x len
  let size := fun base => if op = base + 3 then 2 else if op = base + 4 then 4 else 1
  if unassigned op then ([], [])
  else if op ≤ 0x69 then
    let hasA := !decide (op ∈ [0x0E, 0x0F, 0x10, 0x11, 0x1A, 0x1B, 0x24, 0x25, 0x26, 0x27, 0x28, 0x29, 0x30, 0x31, 0x34, 0x4E, 0x4F,
      0x50, 0x51, 0x54, 0x55, 0x56, 0x57, 0x58, 0x59]) && op < 0x5E
    let hasB := op % 2 == 0 && op != 0x34
    let addsD := decide (op ∈ [0x08, 0x09, 0x2C, 0x2D, 0x46, 0x47, 0x48, 0x49, 0x5A, 0x5B, 0x5C, 0x5D])
    let cmp := decide (op ∈ [0x32, 0x33, 0x52, 0x53])
    let conv := op == 0x54 || op == 0x55
    let nb := if conv then (if code64 (a.toNat % 16) then 2 else 1) else n
    let nd := if conv then (if code64 (a.toNat / 16) then 2 else 1) else n
    ((if hasA then reads a n else []) ++ (if hasB then reads b nb else []) ++ (if addsD then reads d n else []), if cmp then [] else reads d nd)
  else if op = 0x74 then (reads b 1, [])
  else if op = 0x75 then (reads a n ++ reads b 1, reads d n)
  else if op = 0x76 || op = 0x77 then (reads a n, reads d n)
  else if op = 0x79 || op = 0x7A then (reads b n, reads d n)
  else if 0xB0 ≤ op && op ≤ 0xB4 then (reads b 1, reads d (size 0xB0))
  else if 0xB5 ≤ op && op ≤ 0xB9 then (reads b 1 ++ reads d (size 0xB5), [])
  else if 0xBC ≤ op && op ≤ 0xC0 then (reads b 1, reads d (size 0xBC))
  else if 0xC1 ≤ op && op ≤ 0xC5 then (reads b 1 ++ reads d (size 0xC1), [])
  else if op = 0xC6 then (reads b 1, [])
  else if 0xC7 ≤ op && op ≤ 0xCF then (reads b 1 ++ reads d n, [])
  else if 0xD0 ≤ op && op ≤ 0xD7 then (reads b n ++ (if op = 0xD1 then reads d n else []), reads d n)
  else if op = 0xD8 then ([], reads d n)
  else if op = 0xD9 || op = 0xDA then (reads b n, [])
  else if op = 0xE5 then ([], reads d 4)
  else if op = 0xE6 then (reads b 4, [])
  else if op = 0xEC then (reads d 1, [])
  else ([], [])

/-- The lanes in which an instruction acts: `sel` reads or writes in every lane of the current lane set (R138), the others in the active
lanes (R46). -/
def actLanes (g : Group) (i : Instr) : Word :=
  match i with
  | .sel _ _ _ => g.lanes
  | .selVk _ _ _ => g.lanes
  | _ => g.active

/-- The fills that an instruction at issue makes (R13, R17): of the registers it reads, and of those it writes in some lanes only. A reserved
format byte is a machine check against the context (class 36, code 2), and R1 is lost (R4); the register then holds the free value. A write
of every lane needs no fill (DESIGN CHOICE, log 46). -/
def fillAt (i : Instr) (c : Cpu) : Cpu :=
  let g := c.grp
  if g.badSlots.isEmpty || actLanes g i = 0 then c
  else
    let u := fillUse g (wordOf i)
    let need := if actLanes g i = BitVec.allOnes 32 then u.1 else u.1 ++ u.2
    let c := { c with grp := { g with badSlots := g.badSlots.filter fun n => !decide (n ∈ u.1 ++ u.2) } }
    if g.badSlots.any fun n => decide (n ∈ need) then checkR1 36 2 (BitVec.ofNat 64 g.gid) c else c

end Sys2Proof.Machine
end

