-- ==== Sys2Proof/Machine/Placement.lean ====
section
/-! DEFINITION. The grid scheduler: room (R262), placement (R261, R263), and a block and its groups at their start (R260, R297). -/

namespace Sys2Proof.Machine

/-! ### What the live blocks of a context take -/

/-- Slots of a partition that groups hold; an exited group's slot is free at the leg end (R163). -/
def slotsOf (gs : List Group) (core part : Nat) : List Nat :=
  (gs.filter fun g => g.live && g.core == core && g.part == part).map fun g => g.slot

/-- Pinned lines of a core, never more than the limit: what the quotas name beyond it waits in the pool (R14, R170). -/
def pinnedLines (gs : List Group) (core : Nat) : Nat :=
  min Config.pinLimit (((gs.filter fun g => g.live && g.core == core).map fun g => 8 * g.quota).foldl (· + ·) 0)

/-- The blocks that stand on a core, each with its role there. -/
def onCore (bs : List Block) (core : Nat) : List (Block × Nat) :=
  (bs.filter fun b => decide (b.core ≤ core) && decide (core < b.core + b.n)).map fun b => (b, core - b.core)

/-- Scratchpad ranges of a core that are taken, lowest first. -/
def rangesOf (bs : List Block) (core : Nat) : List (Nat × Nat) :=
  (onCore bs core).foldl (fun l p => if p.1.share = 0 then l else put l (p.1.offs.getD p.2 0) p.1.share) []

/-- The lowest free range of a size, `at'` being free so far (R262). -/
def lowestGap (size : Nat) : Nat → List (Nat × Nat) → Option Nat
  | at', [] => if at' + size ≤ 2 ^ 21 then some at' else none
  | at', (s, n) :: l => if at' + size ≤ s then some at' else lowestGap size (max at' (s + n)) l

/-- Physical tiles of a partition that are granted. -/
def tilesTaken (bs : List Block) (core part : Nat) : List Nat :=
  (onCore bs core).flatMap fun p => (p.1.phys.filter fun e => e.1 / 16 == p.2 && e.1 % 16 / 2 == part).map fun e => e.2

/-- The groups that a role and partition of a block of G groups on n cores hold (R11, R262). -/
def dealt (g n role part : Nat) : Nat := ((List.range g).filter fun i => i % n == role && i / n % 8 == part).length

/-- Room for a block of a launch on cores c to c + n − 1 (R262). -/
def hasRoom (x : Ctx) (l : LRec) (n c : Nat) : Bool :=
  c / 8 == (c + n - 1) / 8 && decide (c + n ≤ 8 * x.ncore8) &&
  (List.range n).all fun i =>
    let core := c + i
    decide (pinnedLines x.groups core + 8 * l.quota x.dq * ((List.range 8).map fun p => dealt l.g n i p).foldl (· + ·) 0 ≤ Config.pinLimit) &&
    (l.share n == 0 || (lowestGap (l.share n) 0 (rangesOf x.blocks core)).isSome) &&
    (List.range 8).all fun p =>
      decide (dealt l.g n i p + (slotsOf x.groups core p).length ≤ 32) && decide ((tilesTaken x.blocks core p).length + l.acc ≤ 2)

/-- The lowest core with room (R261). -/
def findCore (x : Ctx) (l : LRec) (n : Nat) : Option Nat := (List.range (8 * x.ncore8)).find? (hasRoom x l n)

/-! ### A block at its start -/

/-- The lowest numbers below a bound that a list lacks. -/
def lowestFree (used : List Nat) (bound : Nat) : Nat := ((List.range bound).find? fun i => !decide (i ∈ used)).getD 0

/-- Tiles granted to a block: for each role, partition and name, the physical tile, lowest first (R198, R262). -/
def grantTiles (x : Ctx) (l : LRec) (n c : Nat) : List (Nat × Nat) :=
  (List.range n).flatMap fun i => (List.range 8).flatMap fun p =>
    let free := [2 * p, 2 * p + 1].filter fun t => !decide (t ∈ tilesTaken x.blocks (c + i) p)
    (List.range l.acc).map fun t => (16 * i + 2 * p + t, free.getD t (2 * p + t))

/-- The uniform registers of a group at its start (R260). -/
def startK (l : LRec) (lord blk gix : Nat) (b : Bank 232 160) : Bank 232 160 :=
  let vals := [l.param.toNat % 2 ^ 32, l.param.toNat / 2 ^ 32, blk, blk % l.gx, blk / l.gx % l.gy, blk / (l.gx * l.gy),
    gix % l.bx, gix / l.bx % l.bY, gix / (l.bx * l.bY), lord, l.g]
  (vals.zipIdx).foldl (fun b v => b.writeK v.2 (BitVec.ofNat 32 v.1)) b

/-- Put the groups of a block on their slots, in increasing gid (R11, R260, R297). Quota code 31 names the DQ of the moment of placement, of
which the spec says nothing (DESIGN CHOICE, log 50). -/
def startGroups (x : Ctx) (l : LRec) (lord blk n c lc : Nat) : List Group :=
  (List.range l.g).foldl (fun gs gix =>
    let core := c + gix % n
    let part := gix / n % 8
    let gid := 2 ^ 40 * lord + 512 * blk + gix
    let g := Group.start gid core part (lowestFree (slotsOf gs core part) 32) (gix % n) l.sys l.entry lc (l.quota x.dq) x.trapv0
    putGroup gs { g with main := startK l lord blk gix g.main }) x.groups

/-- A block at its start (R108, R111, R199). -/
def startBlock (x : Ctx) (l : LRec) (lord blk n c : Nat) : Block where
  lord := lord
  blk := blk
  g := l.g
  n := n
  core := c
  share := l.share n
  offs := (List.range n).map fun i => if l.share n = 0 then 0 else (lowestGap (l.share n) 0 (rangesOf x.blocks (c + i))).getD 0
  quota := l.quota x.dq
  acc := l.acc
  phys := grantTiles x l n c
  pad := []
  own := []
  tags := []
  ords := []
  ordTags := []
  reds := []
  tiles := []
  ownTiles := []
  tileTags := []
  bars := Vector.replicate 16 ⟨0, 0, [], []⟩
  syncs := 0
  anyExit := false
  preempted := false

/-! ### The queues -/

/-- Blocks of a launch are still to be placed (R261, R313). -/
def Launch.pending (l : Launch) : Bool := !l.killed && decide (l.next < (lrecOf l.rcd).grid)

/-- The head of a queue: its lowest-ordinal unfinished launch (R261). -/
def headOf (x : Ctx) (q : Nat) : Option Launch :=
  (x.launches.filter fun l => l.pending && (lrecOf l.rcd).que == q).foldl (fun best l =>
    match best with
    | none => some l
    | some b => if l.ord < b.ord then some l else some b) none

/-- A launch of this module is not complete: blocks to place, or blocks live. -/
def launchLive (x : Ctx) (n : Nat) : Bool := (x.launches.any fun l => l.ord == n && l.pending) || x.blocks.any fun b => b.lord == n

/-- A launch has completed on every module, by what the others found at the leg end (R261). -/
def launchDone (x : Ctx) (n : Nat) : Bool :=
  !launchLive x n && !x.peers.any fun p => !p.lost && ((p.found.map fun f => decide (n ∈ f.live)).getD false)

/-- The head's next block finds a place (R261). -/
def headPlace (x : Ctx) (l : Launch) : Option Nat :=
  let r := lrecOf l.rcd
  if r.aft && !launchDone x r.after then none else findCore x r l.n

/-- The next block of a launch is placed; its groups start at a clock. -/
def placeBlock (x : Ctx) (l : Launch) (c lc : Nat) : Ctx :=
  let r := lrecOf l.rcd
  { x with
    groups := startGroups x r l.ord l.next l.n c lc
    blocks := x.blocks ++ [startBlock x r l.ord l.next l.n c]
    launches := x.launches.map fun k => if k.ord = l.ord then { k with next := k.next + k.step } else k }

/-- Place the blocks of one queue until it stops (R261). -/
def placeQueue (lc q : Nat) : Nat → Ctx → Ctx
  | 0, x => x
  | n + 1, x =>
    match headOf x q with
    | none => x
    | some l =>
      match headPlace x l with
      | none => x
      | some c => placeQueue lc q n (placeBlock x l c lc)

/-- The effective priority of a queue at the end of a leg (R261). -/
def queuePri (x : Ctx) (k q : Nat) : Option (Nat × Nat) := (headOf x q).map fun l => ((lrecOf l.rcd).pri - (k - l.turnLeg) / 64, q)

/-- Queues in increasing (e, queue number). -/
def queueOrder (x : Ctx) (k : Nat) : List Nat :=
  (((List.range 8).filterMap (queuePri x k)).foldl (fun l p => put l (8 * p.1 + p.2) p.2) []).map Prod.snd

/-- At most this many blocks are live on a module: one slot each. -/
def maxBlocks : Nat := 32768

/-- Step 9 of R94 at the end of leg k (R261): the groups placed start at `lc`. -/
def placeBlocks (k lc : Nat) (x : Ctx) : Ctx := (queueOrder x k).foldl (fun x q => placeQueue lc q maxBlocks x) x

/-- Blocks that step 9 would place here (R22): the head of each queue that has room, with the launch that must first be complete. -/
def placesNow (x : Ctx) : List (Option Nat) :=
  (List.range 8).filterMap fun q => (headOf x q).bind fun l =>
    let r := lrecOf l.rcd
    (findCore x r l.n).map fun _ => if r.aft then some r.after else none

end Sys2Proof.Machine
end

