-- ==== Sys2Proof/Machine/Legs.lean ====
section
/-! DEFINITION. The end of a leg (R92 to R94, R378): readiness (R93, R346), kills (R313), the fold (R103), reductions (R95), landings
(R233 to R235), host writes (R105), faults (R96, R104, R106, R107), the quiescent-stall check (R22), deferred changes (R255, R285), stops
(R267, R268, R274), placement (R261) and completion (R252). -/

namespace Sys2Proof.Machine

/-! ### Writing to objects -/

/-- Bytes at virtual addresses written through the translation in effect (R281); a line with a translation mark is left alone (R287). -/
def vaWrite (c : Cpu) (m : Cells) (s : Cells) : Cells :=
  s.foldl (fun m' e =>
    match c.record m (vaObj e.1) with
    | none => m'
    | some r => match translate m r (vaOff e.1) with
      | .at pa => if lineOf pa ∈ c.hw.tmarks then m' else memPut m' pa e.2
      | _ => m') m

/-- A byte of the base image at a virtual address. -/
def vaByte (c : Cpu) (m : Cells) (a : Nat) : Byte :=
  match c.record m (vaObj a) with
  | some r => baseByte m r (vaOff a)
  | none => 0

/-- The marked lines that a write meets (R287). -/
def markedLines (c : Cpu) (m : Cells) (s : Cells) : List Nat :=
  s.foldl (fun l e =>
    match c.record m (vaObj e.1) with
    | none => l
    | some r => match translate m r (vaOff e.1) with
      | .at pa => if lineOf pa ∈ c.hw.tmarks then insertNew l (lineOf pa) else l
      | _ => l) []

/-- What bytes wait for that cannot be written yet: the first address in each sub-tile, with its map entry and event kind (R281, R292). -/
def heldWrite (c : Cpu) (m : Cells) (s : Cells) : List (Nat × (Nat × Nat)) :=
  s.foldl (fun l e => match (c.record m (vaObj e.1)).bind fun r => blocked true (translate m r (vaOff e.1)) with
    | some b => if l.any fun x => x.2 == b then l else l ++ [(e.1, b)]
    | none => l) []

/-- 4-bit elements, by 2 · address + half, as bytes over what stands there (R225). -/
def nibCells (get : Nat → Byte) (nibs : Cells) : Cells :=
  nibs.foldl (fun (s : Cells) e =>
    let a := e.1 / 2
    let old : Byte := (get? s a).getD (get a)
    let new : Byte := if e.1 % 2 = 0 then (old &&& 0xF0) ||| (e.2 &&& 0x0F) else (old &&& 0x0F) ||| (e.2 * 16)
    put s a new) []

/-! ### Readiness (R93) -/

/-- Nothing of the leg can still happen here: no group below the leg's end, no entry, publication or wake on its way. -/
def legQuiet (h : Module) (x : Ctx) (gs : List Group) : Bool :=
  x.queue.isEmpty && x.flight.isEmpty &&
  gs.all fun g =>
    (groupStamp (legTop x) g).isNone && (match g.status with
      | .turn _ => false
      | .ceded _ _ (some _) => false
      | _ => true) &&
    (match wakeBound h x gs g with
      | some b => !Stamp.lt b (endStamp x)
      | none => true)

/-- Another module has gone on to a later phase of the leg end, or to the next leg. -/
def wentOn (x : Ctx) (p : Peer) : Bool := decide (x.leg < p.leg) || (p.leg == x.leg && decide (x.phase < p.phase))

/-- Nothing of the leg can still happen in the domain (R93, R346): nothing here, and by reports of one moment no stamp below the leg's end
elsewhere. A module that has gone on has seen as much of every other. -/
def domainQuiet (h : Module) (x : Ctx) (gs : List Group) : Bool :=
  legQuiet h x gs &&
    ((livePeers x).isEmpty || (livePeers x).any (wentOn x) ||
      (reportsAgree h x && (livePeers x).all fun p => (p.horizon ++ p.bounds).all fun s => !Stamp.lt s (endStamp x)))

/-- Every other module has met the condition of this phase (R346). -/
def peersReady (x : Ctx) : Bool := (livePeers x).all fun p => wentOn x p || (p.leg == x.leg && p.phase == x.phase && p.ready)

/-- Packets of the context not yet acknowledged (R346). -/
def unacked (h : Module) (x : Ctx) : Bool := h.retry.any fun p => p.ctx == x.key

/-- Entries of the context in write-combining buffers (R344). -/
def wcEntries (h : Module) (x : Ctx) : List WcEntry := h.wcb.filter fun e => e.ctx == x.key

/-- A copy to memory or a system copy is pending (R252). -/
def copiesPending (x : Ctx) : Bool := x.copies.any (fun k => !k.toPad) || x.sysCopies.any fun k => !k.done

/-- Launches of this module that are not complete, and 2^24 while copies are pending (DESIGN CHOICE, log 14). -/
def liveHere (x : Ctx) (gs : List Group) : List Nat :=
  ((x.launches.filter Launch.pending).map (fun l => l.ord) ++ (gs.filter Group.live).map fun g => g.lord).eraseDups ++
    if copiesPending x then [2 ^ 24] else []

/-- Ranges of the module's blocks, placed or queued: launch, first block, step, limit (R261, R368; DESIGN CHOICE, log 14). -/
def blocksHere (x : Ctx) : List (Nat × Nat × Nat × Nat) :=
  x.blocks.map (fun b => (b.lord, b.blk, 1, b.blk + 1)) ++
    (x.launches.filter Launch.pending).map fun l => (l.ord, l.next, l.step, (lrecOf l.rcd).grid)

/-- The kills that this module tells the others of. Once it has said that it is ready for the leg end, a further one waits for the next
(R313, R369; DESIGN CHOICE, log 14). -/
def toldKills (x : Ctx) : List Kill :=
  match x.said with
  | some r => if r.leg = x.leg && (r.ready || r.phase != 0) then r.kills else x.kills
  | none => x.kills

/-- What this module has to say to the others (R346). -/
def sayNow (h : Module) (x : Ctx) (gs : List Group) : Report where
  leg := x.leg
  phase := x.phase
  serial := (x.said.map fun r => r.serial + 1).getD 1
  ready := (x.phase != 0 || domainQuiet h x gs) && (wcEntries h x).isEmpty && !unacked h x
  horizon := ownStamps h x gs
  bounds := ownBounds h x gs
  pending := (x.launches.filter Launch.pending).map fun l => l.ord
  sent := sentNow h x
  got := gotNow h x
  found := x.said.bind fun r => r.found
  kills := toldKills x
  nextOrd := x.nextOrd
  blocks := blocksHere x

/-- The module has something new to say. -/
def newsToSay (h : Module) (x : Ctx) (gs : List Group) : Bool :=
  match x.said with
  | none => true
  | some r => { sayNow h x gs with serial := r.serial } != r

/-- A report goes to every other module in type 11 packets (R346). -/
def sayReport (r : Report) (c : Cpu) : Cpu :=
  { c with
    hw := (livePeers c.ctx).foldl (fun h q => sendControl h c.ctx.key c.ctx.leg 11 q.module (.agree r)) c.hw
    ctx := { c.ctx with said := some r } }

/-- Say what is new. -/
def say (c : Cpu) : Cpu := if newsToSay c.hw c.ctx c.groups then sayReport (sayNow c.hw c.ctx c.groups) c else c

/-! ### Step 0: kills (R313) -/

/-- A kill names a group. -/
def killHits (k : Kill) (g : Group) : Bool :=
  match k with
  | .context => true
  | .launch n => g.lord == n
  | .block n b => g.lord == n && g.blk == b

/-- A killed group: its sketch and batches are discarded. -/
def killGroup (g : Group) : Group := { g with sketch := [], batches := [], faults := [], bypass := none, status := .exited }

/-- The gids that a fault names, for its redirection (R97, R295). -/
def faultGids (gid : Nat) (t : Trap) : List Nat := if 9 ≤ t.cls && t.cls ≤ 12 then [t.info0.toNat, t.info1.toNat] else [gid]

/-- Lines of a killed group's sketch that are homed on another module go there as a publication whose bytes are discarded: the words that it
stored to are marked all the same (R106). -/
def markKilled (m : Cells) (c : Cpu) (g : Group) : Cpu :=
  g.sketch.foldl (fun c l => match bytesHere c.hw (c.record m (vaObj l.1)) l.1 with
    | some n => c.send 3 n (.publication ⟨legTop c.ctx, g.gid⟩ l.1 l.2 true)
    | none => c) c

/-- Kills take effect; faults addressed to killed groups are kept for redirection at step 6, when the live groups of every module are known
(R97). -/
def killThese (ks : List Kill) (m : Cells) (c0 : Cpu) : Cpu :=
  let c := c0.park
  let hit := fun g : Group => g.live && ks.any fun k => killHits k g
  let gone := c.ctx.groups.filter hit
  let x := { c.ctx with
    groups := c.ctx.groups.map fun g => if hit g then killGroup g else g
    blocks := c.ctx.blocks.map fun b => if gone.any fun g => g.lord == b.lord && g.blk == b.blk then { b with anyExit := true } else b
    launches := c.ctx.launches.map fun l => if ks.any fun k => match k with
        | .context => true
        | .launch n => l.ord == n
        | .block _ _ => false
      then { l with killed := true } else l
    moved := c.ctx.moved ++ gone.flatMap fun g => g.faults.map fun f => (f.1, faultGids g.gid f.2, f.2) }
  gone.foldl (markKilled m) { c with ctx := x }

/-- The kills of this module that a leg end applies, and those of the other modules of the domain (R313, R369; DESIGN CHOICE, log 14). -/
def killsHere (x : Ctx) : List Kill := if (livePeers x).isEmpty then x.kills else (x.said.map fun r => r.kills).getD []
def killsFar (x : Ctx) : List Kill := (livePeers x).flatMap fun p => if p.leg = x.leg then p.kills else []

/-- Step 0: the requested kills take effect (R313). -/
def applyKills (m : Cells) (c : Cpu) : Cpu :=
  let d := killThese (killsHere c.ctx ++ killsFar c.ctx) m c
  { d with ctx := { d.ctx with kills := d.ctx.kills.drop (killsHere c.ctx).length } }

/-! ### Step 1: sketches (R94) -/

/-- Every sketch is published at ((k + 1)·Q, gid), in increasing gid. -/
def publishSketches (m : Cells) (c0 : Cpu) : Cpu :=
  let c := c0.park
  let top := legTop c.ctx
  let c := c.ctx.groups.foldl (fun c g => publishAll m ⟨top, g.gid⟩ g.sketch c) c
  c.mapGroups fun g => { g with sketch := [] }

/-- What is on its way to homes here arrives. -/
def landFlight (module : Nat) (x : Ctx) : Ctx :=
  x.flight.foldl (fun x f => match f with
    | .publication st cells => { x with versions := x.versions ++ [⟨st, module, none, cells⟩] }
    | .contribution k => acceptContrib x module k) { x with flight := [] }

/-! ### Steps 2 to 5 -/

/-- One version comes before another, or they have one place: by stamp, and of one stamp a release's publications before the operation that
made it (R84, R375). -/
def versionLe (v u : Version) : Bool := Stamp.lt v.stamp u.stamp || (v.stamp == u.stamp && (v.ord.isNone || u.ord.isSome))

/-- Insert a version in its place. -/
def insertVersion (v : Version) : List Version → List Version
  | [] => [v]
  | u :: l => if versionLe v u then v :: u :: l else u :: insertVersion v l

/-- Versions in increasing order of stamps. -/
def sortVersions : List Version → List Version
  | [] => []
  | v :: l => insertVersion v (sortVersions l)

/-- The tags of a PARCEL or PRIVATE line: those of its accesses, and those that a system copy has moved to where it lies now (R104, R288). -/
def lineTags (h : Module) (m : Cells) (x : Ctx) (u : Nat) : List Tag :=
  (x.ptags.filter fun t => t.unit == u) ++
    if x.movedTags.isEmpty then []
    else match (recordOf h m x.objtb (vaObj u)).bind fun r => framePa m r (vaOff u) with
      | some pa => x.movedTags.filter fun t => t.unit == lineOf pa
      | none => []

/-- The lowest pair that conflicts on a line. -/
def linePair (h : Module) (m : Cells) (x : Ctx) (u : Nat) : Option (Nat × Nat) := sharedPair (lineTags h m x u)

/-- The lines of PARCEL and PRIVATE objects with a conflict (R104). -/
def conflictLines (h : Module) (m : Cells) (x : Ctx) : List Nat :=
  ((x.ptags.map fun t => t.unit).eraseDups).filter fun u => (linePair h m x u).isSome

/-- Step 2: for each byte the version with the highest stamp; a conflicted line keeps its pre-image (R94, R103). -/
def foldCells (h : Module) (m : Cells) (x : Ctx) : Cells :=
  let bad := conflictLines h m x
  let s := (sortVersions x.versions).foldl (fun s v => putAll s v.cells) []
  x.parcel.foldl (fun s p => putAll s (p.2.filter fun e => !decide (lineOf e.1 ∈ bad))) s

/-- Copies that land at this leg end, in stamp order (R233, R234). -/
def dueCopies (x : Ctx) : List Copy := (sortCopies (x.copies.filter fun k => !k.toPad && k.landAt == x.leg)).map ensureRead

/-- A landing of this leg end: a copy of this module, or bytes that came from another. -/
def landingsNow (x : Ctx) : List Landing :=
  ((dueCopies x).map (fun k => (⟨k.stamp, k.payload ++ k.stampCells, k.nibs⟩ : Landing)) ++ x.landings).foldl (fun l a =>
    l.takeWhile (fun b => Stamp.le b.stamp a.stamp) ++ [a] ++ l.dropWhile fun b => Stamp.le b.stamp a.stamp) []

/-- Memory after each of steps 2 to 5, the earliest first, and all bytes written through objects. -/
structure LegImages where
  images : List Cells
  written : Cells
  deriving DecidableEq, Repr

/-- Step 4: one landing after another (R234). -/
def landAll (c : Cpu) (m : Cells) (ls : List Landing) : Cells × Cells :=
  ls.foldl (fun (acc : Cells × Cells) l =>
    let s := nibCells (vaByte c acc.1) l.nibs ++ l.cells
    (vaWrite c acc.1 s, acc.2 ++ s)) (m, [])

/-- Step 5: host writes, in arrival order; marked lines are left alone (R105, R287). -/
def hostLand (h : Module) (m : Cells) (ws : List Cells) : Cells :=
  ws.foldl (fun m s => s.foldl (fun m e => if lineOf e.1 ∈ h.tmarks then m else memPut m e.1 e.2) m) m

/-- The images of the leg end. -/
def legImages (c : Cpu) (m : Cells) : LegImages :=
  let x := c.ctx
  let s2 := foldCells c.hw m x
  let m2 := vaWrite c m s2
  let s3 := applyReds (x.reds ++ (dueCopies x).filterMap fun k => k.amax) (vaByte c m2)
  let m3 := vaWrite c m2 s3
  let r4 := landAll c m3 (landingsNow x)
  { images := [m, m2, m3, r4.1, hostLand c.hw r4.1 x.hostWrites], written := s2 ++ s3 ++ r4.2 }

/-- A line changes at one of the steps. -/
def lineChanges (c : Cpu) (ms : List Cells) (line : Nat) : Bool :=
  (List.zip ms (ms.drop 1)).any fun p => (span line 128).any fun a => vaByte c p.1 a != vaByte c p.2 a

/-! ### Step 6: faults (R96) -/

/-- The conflict fault of the leg (R104). -/
def conflictFault (h : Module) (m : Cells) (x : Ctx) : List (List Nat × Trap) :=
  match lowestConflict ((conflictLines h m x).filterMap fun u => (linePair h m x u).map fun p => (p, u)) with
  | some (p, u) => [([p.1, p.2], ⟨9, 1, BitVec.ofNat 64 u, 0, BitVec.ofNat 64 p.1, BitVec.ofNat 64 p.2⟩)]
  | none => []

/-- Marks by word. -/
def byWord (ms : List Mark) : List (Nat × List Mark) := ms.foldl (fun l k => put l k.word (((get? l k.word).getD []) ++ [k])) []

/-- The lowest gid among marks that a test admits. -/
def lowGid (ms : List Mark) (p : Mark → Bool) : Option Nat := lowestNat ((ms.filter p).map fun k => k.gid)

/-- A class-conflict fault of a word: its code and its gids (R106). -/
def classFault (w : Nat) (ms : List Mark) : List (List Nat × Trap) :=
  let low := fun c => lowGid ms fun k => k.cls == c
  let fault := fun code a b => [([a, b], (⟨10, code, BitVec.ofNat 64 w, 0, BitVec.ofNat 64 a, BitVec.ofNat 64 b⟩ : Trap))]
  match low 1, low 2, low 3 with
  | some a, some b, _ => fault 6 a b
  | some a, none, some b => fault 7 a b
  | none, some a, some b => fault 11 a b
  | none, none, some _ =>
    match lowestNat (ms.map fun k => k.kind) with
    | none => []
    | some k1 => match lowestNat ((ms.map fun k => k.kind).filter fun k => k != k1) with
      | none => []
      | some k2 => match lowGid ms fun k => k.kind == k1, lowGid ms fun k => k.kind == k2 with
        | some a, some b => fault 15 a b
        | _, _ => []
  | _, _, _ => []

/-- A scope-conflict fault of a word (R107). -/
def scopeFault (w : Nat) (ms : List Mark) : List (List Nat × Trap) :=
  let ds := ms.filter fun k => k.cls == 2 && k.scope == some .device
  let ss := ms.filter fun k => k.cls == 2 && k.scope == some .system
  if ds.any fun d => ss.any fun s => d.module != s.module then
    match lowGid ds fun _ => true, lowGid ss fun _ => true with
    | some a, some b => [([a, b], ⟨11, 1, BitVec.ofNat 64 w, 0, BitVec.ofNat 64 a, BitVec.ofNat 64 b⟩)]
    | _, _ => []
  else []

/-- The groups of a block. -/
def blockGroups (gs : List Group) (g : Group) : List Group := gs.filter fun h => h.lord == g.lord && h.blk == g.blk && h.live

/-- Arrivals at block-wide generations now open that a group has made (R22). -/
def arrivedAt (b : Block) (gid : Nat) : Nat :=
  (b.bars.toList.filter fun x => x.count == b.g && decide (gid ∈ x.arrivals)).length

/-- A wait that can never end, whatever the others do (R22). -/
def hopeless (x : Ctx) (gs : List Group) (g : Group) : Bool :=
  match g.status, x.block g with
  | .ceded _ (.barrier n _) none, some b =>
    match b.bars[n]? with
    | none => false
    | some bar =>
      let sync := bar.count == b.g
      let suits := fun h : Group => !decide (h.gid ∈ bar.arrivals) &&
        !(sync && h.status matches .ceded _ .xfrw none && (copiesOf x h.gid).any fun k => k.toPad && k.landAt == b.syncs + 1)
      decide (((blockGroups gs g).filter suits).length < bar.count - bar.arrivals.length)
  | .ceded _ .xfrw none, some b =>
    (copiesOf x g.gid).any fun k => k.toPad && (b.anyExit || decide (arrivedAt b g.gid < k.landAt - b.syncs))
  | _, _ => false

/-- The opcode that a group waits in (R295). -/
def waitOpcode (g : Group) : Nat :=
  match g.status with
  | .ceded w (.line _ _) _ => if w = 64 then 0xDA else 0xAE
  | .ceded _ (.barrier b gen) _ => if get? g.baras b = some gen then 0xDD else 0xDB
  | .ceded _ .xfrw _ => 0xE9
  | .ceded _ .objfence _ => 0xF7
  | .ceded _ (.mwait _) _ => 0xE3
  | _ => 0

/-- The wake-source address or barrier number (R295). (DEDUCED, log 29) -/
def waitSource (g : Group) : Nat :=
  match g.status with
  | .ceded _ (.line _ a) _ => a
  | .ceded _ (.barrier b _) _ => b
  | _ => 0

/-- A group is in a ceding wait whose source has not fired. -/
def waiting (g : Group) : Bool := g.status matches .ceded _ _ none

/-- A wait on a line of memory, which a host write may still change. -/
def memoryWait (g : Group) : Bool :=
  match g.status with
  | .ceded _ (.line sc _) none => sc != .block
  | _ => false

/-- Something pending will end the wait: copies to memory and system copies, where no copy to the scratchpad is pending as well, whose sync no
group could complete; or a change that takes effect. -/
def rescued (x : Ctx) (g : Group) : Bool :=
  match g.status with
  | .ceded _ .xfrw none => !((copiesOf x g.gid).any fun k => k.toPad) && (!(copiesOf x g.gid).isEmpty || sysCopyGoing x g)
  | .ceded _ .objfence none => true
  | _ => false

/-- Every live group waits, and nothing here could end one of the waits, the placement of step 9 left out (R22). -/
def deadHere (x : Ctx) (gs : List Group) : Bool :=
  let live := gs.filter Group.live
  live.all waiting && !live.any memoryWait && !live.any (rescued x)

/-- The quiescent-stall faults (R22), from the state with the leg's wakes noted: all waits of a context deadlock, else hopeless waits. -/
def stallFaults (dead : Bool) (x : Ctx) (gs : List Group) : List (List Nat × Trap) :=
  let ws := (gs.filter Group.live).filter waiting
  (if dead then ws else ws.filter (hopeless x gs)).map fun g =>
    ([g.gid], ⟨14, 1, g.pc, 0, BitVec.ofNat 64 (waitSource g), BitVec.ofNat 64 (waitOpcode g)⟩)

/-- Faults by kind, then address, then gids (R96). -/
def faultLe (a b : List Nat × Trap) : Bool :=
  decide (a.2.cls < b.2.cls) || (a.2.cls == b.2.cls && (decide (a.2.faddr.toNat < b.2.faddr.toNat) ||
    (a.2.faddr == b.2.faddr && decide (a.1 ≤ b.1))))

/-- Insert a fault in its place. -/
def insertFault (f : List Nat × Trap) : List (List Nat × Trap) → List (List Nat × Trap)
  | [] => [f]
  | g :: l => if faultLe f g then f :: g :: l else g :: insertFault f l

/-- Faults in the order of R96. -/
def sortFaults : List (List Nat × Trap) → List (List Nat × Trap)
  | [] => []
  | f :: l => insertFault f (sortFaults l)

/-- The faults of the leg but for stalls (R96). -/
def orderFaults (h : Module) (m : Cells) (x : Ctx) : List (List Nat × Trap) :=
  conflictFault h m x ++ (byWord x.marks).flatMap fun w => classFault w.1 w.2 ++ scopeFault w.1 w.2

/-! ### Steps 5 to 10 together -/

/-- The marks that the amax contributions of landing copies make (R106, R231). -/
def amaxMarks (module : Nat) (x : Ctx) : Ctx :=
  ((dueCopies x).filterMap fun k => k.amax).foldl (fun x k => markWord x 3 (contribKind k) none k.gid module k.addr) x

/-- The lines that groups here and on other modules watch and that steps 2 to 5 change. -/
def changedWatched (c : Cpu) (ms : List Cells) : List Nat :=
  (((c.groups.filterMap fun g => match g.status with
      | .ceded _ (.line sc a) none => if sc = .block then none else some (lineOf a)
      | _ => none) ++ c.ctx.watchers.map fun w => w.line).eraseDups).filter (lineChanges c ms)

/-- A group that watches a line of memory, whether the line is homed here or not; the test is on its gid, the line, and the clock since which
it waits. -/
def wakeWatch (p : Nat × Nat × Nat → Bool) (f : Stamp) (g : Group) : Group :=
  fireWait (fun g w => match w with
    | .line sc a => sc != .block && p (g.gid, lineOf a, g.lc)
    | _ => false) f g

/-- Wakes of steps 2 to 5: changed lines and landed copies (R87, R94). Groups on other modules learn of theirs with what this module found
(DESIGN CHOICE, log 15). -/
def noteWakes (c : Cpu) (ms : List Cells) : Cpu :=
  let f := endStamp c.ctx
  let lines := changedWatched c ms
  let c := c.mapGroups (wakeWatch (fun q => decide (q.2.1 ∈ lines)) f)
  let lands := fun k : Copy => !k.toPad && k.landAt == c.ctx.leg
  let done := (c.ctx.copies.filter lands).map fun k => k.stamp.gid
  let x := { c.ctx with
    copies := c.ctx.copies.filter fun k => !lands k
    watchers := c.ctx.watchers.filter fun w => !decide (w.line ∈ lines) }
  ({ c with ctx := x } : Cpu).mapGroups (wakeXfrw x fun g => if g.gid ∈ done then some f else none)

/-- Exited groups leave, then blocks without groups, with their copies to the scratchpad (R163, R237, R263, R312). -/
def freeEnded (x : Ctx) : Ctx :=
  let gs := x.groups.filter Group.live
  let here := fun (lord blk : Nat) => gs.any fun g => g.lord == lord && g.blk == blk
  { x with
    groups := gs
    blocks := x.blocks.filter fun b => here b.lord b.blk
    copies := x.copies.filter fun k => !k.toPad || here k.lord k.blk }

/-- Step 7: views, versions, tags and classes of the leg are cleared (R94). -/
def clearLeg (c : Cpu) : Cpu :=
  let c := c.mapGroups fun g => { g with view := none }
  { c with ctx := { c.ctx with
      versions := [], parcel := [], ptags := [], movedTags := [], marks := [], reds := [], landings := [], throughs := [], drained := []
      moved := [], xlatLeg := []
      hostWrites := c.ctx.hostNext, hostNext := [], ovlFull := false
      mctb := c.ctx.pendMctb.getD c.ctx.mctb, pendMctb := none } }

/-- The `csrw` of a register with the highest stamp of the leg (R255). -/
def newestCsr (tmpl : Bool) (l : List (Bool × Stamp × Dword)) (old : Dword) : Dword :=
  ((l.filter fun e => e.1 == tmpl).foldl (fun (best : Option (Stamp × Dword)) e =>
    match best with
    | none => some e.2
    | some b => if Stamp.lt b.1 e.2.1 then some e.2 else some b) none).elim old Prod.snd

/-- Objects whose records the leg's deferred writes have made valid are loaded now, where their code image had none (R271; DEDUCED, log
26). -/
def loadedObjs (h : Module) (old new : Cells) (x : Ctx) : List Nat :=
  ((x.pendXlat.filter fun p => inTable x.objtb p.pa).map fun p => (p.pa - recordPa x.objtb 0) / 128).eraseDups.filter fun o =>
    let i := codeImage x o
    (recordOf h i.mem i.objtb o).isNone && (recordOf h old x.objtb o).isNone && (recordOf h new x.objtb o).isSome

/-- Step 8a: deferred translation writes, OBJTB, TMPLB and `icinv` (R255, R271, R285); `objfence` fires (R273). Writes of OBJTB and TMPLB and
`icinv` take effect for the whole context, whichever module's groups made them. -/
def applyDeferred (fs : List Found) (s : State) : State :=
  let old := s.mem
  let s := s.cpu.ctx.pendXlat.foldl (fun s p => writeXlat s p.pa p.val) s
  s.onCpu fun c =>
    let f := endStamp c.ctx
    let csrs := fs.flatMap fun f => f.csrs
    let objs := (fs.flatMap (fun f => f.icinvs) ++ loadedObjs c.hw old s.mem c.ctx).eraseDups
    let x := { c.ctx with
      objtb := newestCsr false csrs c.ctx.objtb
      tmplb := newestCsr true csrs c.ctx.tmplb
      pendCsr := [], pendXlat := [], icinvs := [] }
    let imgs := objs.map fun o => (⟨o, x.objtb, s.mem⟩ : Image)
    let x := { x with images := imgs ++ x.images.filter fun i => !decide (i.obj ∈ objs) }
    ({ c with ctx := x } : Cpu).mapGroups fun g => fireWait (fun _ w => w == .objfence) f { g with objws := 0 }

/-- The stops of a kind, the lowest stamp first. -/
def firstStop (l : List StopRec) (w : Stop) : Option StopRec :=
  (l.filter fun r => r.why == w).foldl (fun best r => match best with
    | none => some r
    | some b => if Stamp.lt r.stamp b.stamp then some r else some b) none

/-- Put an event of kind 7 to 9 on its way (R369). -/
def Cpu.tell (c : Cpu) (kind : Nat) (v : Dword) : Cpu := c.event kind 0 0 v.toNat

/-- Host writes for absent contexts among those of a context, in the order in which they came (R362); `i` of the context's own stand
before. -/
def mergeLate (key : Nat) : Nat → List LateWrite → List LateWrite → List LateWrite
  | _, own, [] => own
  | i, own, l :: ls =>
    let n := (get? l.places key).getD i
    own.take (n - i) ++ l :: mergeLate key (max i n) (own.drop (n - i)) ls

/-- All host writes that a context and the module hold. -/
def heldWrites (c : Cpu) : List LateWrite := mergeLate c.ctx.key 0 (c.ctx.hostWrites.map fun s => ⟨[], s⟩) c.hw.hostLate

/-- What a context that leaves keeps for modules that have not heard its last report (DESIGN CHOICE, log 14). -/
def farewell (x : Ctx) : List Farewell :=
  match x.said with
  | some r => [⟨x.key, r, (livePeers x).map fun p => p.module⟩]
  | none => []

/-- The context is over and leaves the module; host writes that it still holds are kept. -/
def Cpu.done (c : Cpu) (v : Dword) : Cpu :=
  let d := c.tell 7 v
  { d with
    grp := Group.none, ctx := Ctx.none
    hw := { d.hw with hostLate := heldWrites c, farewells := d.hw.farewells ++ farewell c.ctx } }

/-- Nothing live, pending or landing is left in the domain (R252). -/
def allDone (x : Ctx) : Bool :=
  !x.groups.any Group.live && !x.launches.any Launch.pending && !copiesPending x &&
    (livePeers x).all fun p => (p.found.map fun f => f.live.isEmpty).getD true

/-- Step 9 (R261) and the completion of the context (R252): `k` is the leg that ended. -/
def placeStep (k : Nat) (c0 : Cpu) : Cpu :=
  let c := c0.park
  let x := placeBlocks k ((k + 1) * 2 ^ c.ctx.legq) { c.ctx with placeDue := false }
  let c := { c with ctx := x }
  if allDone x then c.done 0 else c

/-- The group goes on after a `brkp` (R267). -/
def afterBrkp (top : Nat) (g : Group) : Group :=
  if g.status = .stopped .brkp then { g with status := .running, lc := max g.lc top } else g

/-- What the stops of the leg report (R267, R268): every `brkp`, or the failing assertion of the lowest stamp and how many others failed. -/
def reportStops (stops : List StopRec) (c : Cpu) : Cpu :=
  let asrts := stops.filter fun r => r.why == .asrt
  let rs : List StopReport := match firstStop stops .asrt with
    | some r => [⟨c.ctx.dpart.toNat, ctxId c.ctx, r, asrts.length - 1⟩]
    | none => (stops.filter fun r => r.why == .brkp).map fun r => ⟨c.ctx.dpart.toNat, ctxId c.ctx, r, 0⟩
  { c with hw := { c.hw with stopReports := c.hw.stopReports ++ rs } }

/-- Stops and suspension after step 8, then step 9 (R267, R268, R274, R369); the next leg begins. A context that a fault without a live group
has suspended (R97) stays so, but for a stop. An `asrt` or a `halt` of the leg ends the context, and then a `brkp` of the leg suspends nothing
and only an `asrt` hides its report (DESIGN CHOICE, log 61). -/
def endStops (stops : List StopRec) (c0 : Cpu) : Cpu :=
  let c := reportStops stops c0.park
  let k := c.ctx.leg
  let x := { c.ctx with leg := k + 1, phase := 0, suspendReq := false, placeDue := true, stops := [] }
  match firstStop stops .asrt, firstStop stops .halt with
  | some r, _ => { c.tell 8 r.msg with ctx := { x with status := .ended, imaged := false } }
  | none, some r => c.done (r.n.setWidth 64)
  | none, none =>
    match firstStop stops .brkp with
    | some _ => ({ c.tell 9 (BitVec.ofNat 64 k) with ctx := { x with status := .suspended, imaged := false } } : Cpu).mapGroups (afterBrkp (legTop c.ctx))
    | none =>
      if c.ctx.suspendReq || c.ctx.status == .suspended then { c with ctx := { x with status := .suspended, imaged := false } }
      else placeStep k { c with ctx := x }

/-- The event of a sub-tile that a leg end waits on, raised once while it stays unserviced (R292). -/
def noteHeld (c : Cpu) (x : Nat × (Nat × Nat)) : Cpu :=
  if x.2.2 = 0 || x.2.1 ∈ c.ctx.xlatEvents then c
  else { c.event x.2.2 0 x.1 x.2.1 with ctx := { c.ctx with xlatEvents := c.ctx.xlatEvents ++ [x.2.1] } }

/-- A leg end waits on sub-tiles; a malformed entry suspends the context at once (R281, R282, R292). -/
def holdLeg (c : Cpu) (ws : List (Nat × (Nat × Nat))) : Cpu :=
  match ws.find? fun x => x.2.2 == 3 with
  | some (va, b) => ((c.event 3 0 va b.1).logs 34 3 (BitVec.ofNat 64 va)).suspend
  | none => ws.foldl noteHeld c

/-- Map entries of the context's objects whose sub-tile is moving, with the frame and its size (R280). -/
def movingFrames (h : Module) (m : Cells) (x : Ctx) : List (Nat × Nat × Nat) :=
  (List.range (2 ^ (x.objtb.toNat % 32))).flatMap fun n =>
    match recordOf h m x.objtb n with
    | none => []
    | some r =>
      if !r.mapped then []
      else (List.range ((r.ext - 1) / 2 ^ r.stlog + 1)).filterMap fun i =>
        match translate m r (2 ^ r.stlog * i) with
        | .moving e => some (e, memNat m e 8 / 2 ^ 14 % 2 ^ 38 * 2 ^ 14, 2 ^ r.stlog)
        | _ => none

/-- A host write that meets the frame of a moving sub-tile waits, and holds the leg end (R281, R282; DEDUCED, log 20). -/
def heldHost (h : Module) (m : Cells) (x : Ctx) : List (Nat × (Nat × Nat)) :=
  if x.hostWrites.isEmpty then []
  else (movingFrames h m x).filterMap fun f =>
    (x.hostWrites.flatten.find? fun e => decide (f.2.1 ≤ e.1) && decide (e.1 < f.2.1 + f.2.2)).map fun e => (e.1, (f.1, 0))

/-- The lines that host writes meet and that carry a mark. -/
def hostMarked (h : Module) (ws : List Cells) : List Nat :=
  (ws.flatMap fun s => (s.filter fun e => decide (lineOf e.1 ∈ h.tmarks)).map fun e => lineOf e.1).eraseDups

/-- The state once the folds, landings and host writes of the leg are known and its wakes are noted, and what is found in it. -/
structure LegView where
  images : List Cells
  cpu : Cpu
  found : Found
  deriving DecidableEq, Repr

/-- Everything that is on its way to this module has arrived. -/
def landedCpu (s : State) : Cpu := { s.cpu.park with ctx := landFlight s.cpu.hw.number s.cpu.park.ctx }

/-- Steps 2 to 6 of R94 as this module sees them. -/
def legView (s : State) : LegView :=
  let c := landedCpu s
  let r := legImages c s.mem
  let c := { c with ctx := amaxMarks c.hw.number c.ctx }
  let order := orderFaults c.hw s.mem c.ctx
  let lines := changedWatched c r.images
  let woken := (c.ctx.watchers.filter fun w => decide (w.line ∈ lines)).map fun w => (w.gid, w.line, w.since)
  let c := noteWakes c r.images
  let x := freeEnded c.ctx
  { images := r.images, cpu := { c with ctx := x },
    found :=
      { leg := x.leg, faults := order, alive := liveGids x.groups, dead := deadHere x x.groups, stops := x.stops, woken := woken
        moved := x.moved, csrs := x.pendCsr, icinvs := x.icinvs, live := liveHere x x.groups, places := placesNow x } }

/-- The lines that the leg end's writes meet and that carry a mark (R287). -/
def lostLines (c : Cpu) (m : Cells) : List Nat := markedLines c m (legImages c m).written ++ hostMarked c.hw c.ctx.hostWrites

/-- The conflict faults of a domain are one: the lowest pair, then the lowest line (R96). -/
def oneConflict (l : List (List Nat × Trap)) : List (List Nat × Trap) :=
  match sortFaults (l.filter fun f => f.2.cls == 9) with
  | [] => l
  | f :: fs => (l.filter fun g => g.2.cls != 9) ++ [fs.foldl (fun a b =>
      let pair := fun t : List Nat × Trap => (t.2.info0.toNat, t.2.info1.toNat)
      if pair a != pair b && pairLe (pair b) (pair a) then b else a) f]

/-- What the modules of the domain found (DESIGN CHOICE, log 14). -/
def allFound (x : Ctx) (mine : Found) : List Found :=
  mine :: (livePeers x).filterMap fun p => p.found.bind fun f => if f.leg = x.leg then some f else none

/-- Insert a number in order. -/
def insertNat (a : Nat) : List Nat → List Nat
  | [] => [a]
  | b :: l => if a ≤ b then a :: b :: l else b :: insertNat a l

/-- Step 9 would place a block on some module of the domain (R22). -/
def wouldPlace (fs : List Found) : Bool :=
  fs.any fun f => f.places.any fun p => match p with
    | none => true
    | some n => !fs.any fun g => decide (n ∈ g.live)

/-- Step 6 (R96, R97): the faults of the leg go to their groups, with the earlier faults of groups that were killed (R313). -/
def deliverFaults (fs : List Found) (c : Cpu) : Cpu :=
  let alive := (fs.flatMap fun f => f.alive).foldr insertNat []
  let dead := fs.all (fun f => f.dead) && !alive.isEmpty && !wouldPlace fs
  let c := (fs.flatMap fun f => f.moved).foldl (fun c f => routeFault f.1 (legTop c.ctx) alive c f.2) c
  let faults := sortFaults (oneConflict (fs.flatMap fun f => f.faults) ++ stallFaults dead c.ctx c.ctx.groups)
  faults.foldl (routeFault c.ctx.leg (legTop c.ctx) alive) c

/-- Lines of device memory that the host holds and that the fold changes are recalled from it before step 5 (R362). -/
def recallLines (ms : List Cells) (h : Module) : Module :=
  let hit := fun l => match ms with
    | m :: m2 :: _ => (span l 128).any fun a => memByte m a != memByte m2 a
    | _ => false
  { h with hostLines := h.hostLines.filter fun l => !hit l, recalls := h.recalls ++ h.hostLines.filter hit }

/-- A leg of the context is open: it runs, or it was suspended in the middle of a leg (R98, R296). -/
def legOpen (x : Ctx) : Bool := x.status == .running || (x.status == .suspended && !x.placeDue)

/-- Step 5 on the lines of host memory (R363): the context's lines are no longer held, and a snoop is answered once no other context whose
leg it awaits has that leg open. -/
def releaseSnoops (openNow : List (Nat × Nat)) (x : Ctx) (h : Module) : Module :=
  let me := (x.dpart.toNat, x.number.toNat)
  let left := h.snoops.map fun q => (q.1, q.2.filter fun n => n != me && decide (n ∈ openNow))
  { h with
    dir := { h.dir with shared := h.dir.shared.filter fun l => !(l.1 == me.1 && l.2.1 == me.2) }
    snoops := left.filter fun q => !q.2.isEmpty
    snooped := h.snooped ++ (left.filter fun q => q.2.isEmpty).map Prod.fst }

/-- What was counted for the leg's agreement is forgotten. -/
def forgetTraffic (x : Ctx) (h : Module) : Module :=
  let old := fun t : Traffic => t.ctx == x.key && t.leg == x.leg % 65536
  { h with sentLog := h.sentLog.filter fun t => !old t, gotLog := h.gotLog.filter fun t => !old t }

/-- Host writes for contexts that are not here land with this context's (R3; DEDUCED, log 20). -/
def takeLate (s : State) : State :=
  { s with cpu := { s.cpu with
    ctx := { s.cpu.ctx with hostWrites := (heldWrites s.cpu).map fun l => l.cells }, hw := { s.cpu.hw with hostLate := [] } } }

/-- Where no leg is open any more, host writes that are still held land at once (R3; DEDUCED, log 20). -/
def landLate (s : State) : State :=
  if s.cpu.hw.hostLate.isEmpty || s.contexts.any legOpen then s
  else
    let ws := s.cpu.hw.hostLate.map fun l => l.cells
    let t := { s with mem := hostLand s.cpu.hw s.mem ws }
    t.onHw fun h => logLost 0 (hostMarked h ws) { h with hostLate := [] }

/-- What holds the leg end up (R282). -/
def heldLeg (s : State) : List (Nat × (Nat × Nat)) :=
  let c := landedCpu s
  heldWrite c s.mem (legImages c s.mem).written ++ heldHost c.hw s.mem c.ctx

/-- What this module has told the others that it found in this leg. -/
def foundSaid (x : Ctx) : Option Found :=
  match x.said.bind fun r => r.found with
  | some f => if f.leg = x.leg then some f else none
  | none => none

/-- Steps 2 to 10 of R94 on this module. -/
def finishLeg (s0 : State) : State :=
  let s := if (livePeers s0.cpu.ctx).isEmpty then takeLate s0 else s0
  let c := landedCpu s
  match heldLeg s with
  | w :: ws => { s with cpu := holdLeg c (w :: ws) }
  | [] =>
    let v := legView s
    let fs := allFound v.cpu.ctx ((foundSaid c.ctx).getD v.found)
    let woken := fs.flatMap fun f => f.woken
    let openNow := (s.others.filter legOpen).map fun x => (x.dpart.toNat, x.number.toNat)
    let c := (lostLines c s.mem).foldl (fun c l => c.logs 40 7 (BitVec.ofNat 64 l)) v.cpu
    let c := { c with hw := forgetTraffic c.ctx (releaseSnoops openNow c.ctx (recallLines v.images c.hw)) }
    let c := c.mapGroups (wakeWatch (fun q => decide (q ∈ woken)) (endStamp c.ctx))
    let c := deliverFaults fs c
    let s := { s with cpu := clearLeg c, mem := v.images.getLastD s.mem }
    deliverHeld (landLate ((applyDeferred fs s).onCpu (endStops (fs.flatMap fun f => f.stops))))

/-! ### The step -/

/-- Copies due at this leg end send what lands on other modules (R343): lines, and amax contributions. -/
def sendLandings (m : Cells) (c : Cpu) : Cpu :=
  (dueCopies c.ctx).foldl (fun c k =>
    let away := fun a => bytesHere c.hw (c.record m (vaObj a)) a
    let split := fun (s : Cells) (f : Nat → Nat) => (s.filter (fun e => (away (f e.1)).isNone), s.filter fun e => (away (f e.1)).isSome)
    let p := split (k.payload ++ k.stampCells) id
    let q := split k.nibs fun a => a / 2
    let far := ((p.2.map fun e => lineOf e.1) ++ q.2.map fun e => lineOf (e.1 / 2)).eraseDups
    let c := far.foldl (fun c l => match away l with
      | some n => c.send 2 n (.lineWrite k.stamp.gid (some k.stamp) (p.2.filter fun e => lineOf e.1 == l) (q.2.filter fun e => lineOf (e.1 / 2) == l))
      | none => c) c
    let am := k.amax.bind fun a => (away a.addr).map fun n => (n, a)
    let c := match am with
      | some (n, a) => c.send 6 n (.reduction a)
      | none => c
    let k' := { k with payload := p.1, stampCells := [], nibs := q.1, amax := if am.isSome then none else k.amax }
    { c with ctx := { c.ctx with copies := c.ctx.copies.map fun y => if y.id = k.id then k' else y } }) c

/-- The context shares its leg ends with other modules. -/
def shared (x : Ctx) : Bool := !(livePeers x).isEmpty

/-- The amax contributions of this leg's landings take accumulators as well (R98, R231). -/
def withAmax (x : Ctx) : Ctx := { x with reds := x.reds ++ (dueCopies x).filterMap fun k => k.amax }

/-- Steps 0 and 1 of the leg end: kills, then sketches; where these do not fit into the overlay the context is suspended before step 1 (R98,
R313). -/
def beginEnd (m : Cells) (c0 : Cpu) : Cpu :=
  let c := applyKills m c0
  let d := publishSketches m c
  if overlayOver c.hw m (withAmax (landFlight c.hw.number d.ctx)) then c.exhausted else { d with ctx := { d.ctx with phase := 1 } }

/-- Every other module has said what it found in this leg. -/
def peersFound (x : Ctx) : Bool := (livePeers x).all fun p => (p.found.map fun f => f.leg) == some x.leg

/-- The module says what it found (DESIGN CHOICE, log 14). -/
def sayFound (s0 : State) : State :=
  let s := takeLate s0
  let x := { s.cpu.ctx with phase := 2 }
  let r := { sayNow s.cpu.hw x x.groups with found := some (legView s).found }
  { s with cpu := sayReport r { s.cpu with ctx := x } }

/-- The leg end on this module alone: steps 0 and 1 once, then the rest, which a wait on translation may hold up (R282). -/
def aloneStep (s : State) : State :=
  let s := if s.cpu.ctx.phase = 0 then { s with cpu := beginEnd s.mem s.cpu } else s
  if s.cpu.ctx.status = .running then finishLeg s else s

/-- A leg end that every module has agreed on waits here for a sub-tile (R282, R378); else there may be news to say. -/
def holdShared (s : State) : State :=
  let c := s.cpu
  if (sayNow c.hw c.ctx c.ctx.groups).ready && peersReady c.ctx then
    match heldLeg s with
    | w :: ws => { s with cpu := holdLeg c (w :: ws) }
    | [] => s
  else { s with cpu := say c }

/-- The leg end in a domain of several modules: first the agreement of R346, then, once every sketch sent to another home is acknowledged,
what each module found, then the rest (DESIGN CHOICE, log 14). -/
def sharedStep (s : State) : State :=
  let c := s.cpu
  let x := c.ctx
  if x.phase = 2 then if peersFound x then finishLeg s else s
  else if x.phase = 1 then if (sayNow c.hw x x.groups).ready && peersReady x && (heldLeg s).isEmpty then sayFound s else holdShared s
  else if !legQuiet c.hw x x.groups then { s with cpu := say c }
  else
    let c := sendLandings s.mem ((wcEntries c.hw x).foldl sendWc c)
    if (sayNow c.hw c.ctx c.ctx.groups).ready && peersReady c.ctx then
      let c := beginEnd s.mem (say c)
      { s with cpu := if c.ctx.status = .running then say c else c }
    else { s with cpu := say c }

/-- LEG_END (R94): the step of the leg end that is due. -/
def legStep (s0 : State) : State :=
  let s := loseStray { s0 with cpu := s0.cpu.park }
  let x := s.cpu.ctx
  if x.status ≠ .running then s
  else s.keepSaved fun s =>
    if shared x then sharedStep s
    else if x.phase = 0 && !legQuiet s.cpu.hw x x.groups then s
    else aloneStep s

/-- LEG_END has something to do for the context in hand. -/
def legDue (c : Cpu) : Bool :=
  let x := c.ctx
  let gs := c.groups
  !(strayModules c.hw).isEmpty ||
  (if shared x then
      if x.phase = 2 then peersFound x
      else newsToSay c.hw x gs || ((sayNow c.hw x gs).ready && peersReady x) || (x.phase == 0 && legQuiet c.hw x gs && !(wcEntries c.hw x).isEmpty)
    else x.phase != 0 || legQuiet c.hw x gs)

/-- LEG_END (R94). -/
def execLegEnd (s : State) : Host.Outcome State Fault Refusal := .next (legStep s)

end Sys2Proof.Machine
end

