-- ==== Sys2Proof/Machine/HostWindow.lean ====
section
/-! DEFINITION. The host and the management window: CXL.mem (R362, R363), ownership (R365), page 0 (R364), the pages of the device
partitions (R368), event queues (R292, R369) and machine checks (R4, R23, R295, R371). -/

namespace Sys2Proof.Machine

/-! ### CXL.mem -/

/-- HOST_MEM_READ (R362): the line as it stands in the base image. The host holds the line from then on. -/
def hostRead (pa : Nat) (s : State) : Host.Outcome State Fault Refusal :=
  if devicePa pa then
    .next (s.onHw fun h => { h with
      hostReads := h.hostReads ++ [(lineOf pa, (span (lineOf pa) 128).map fun a => (a, memByte s.mem a))]
      hostLines := insertNew h.hostLines (lineOf pa) })
  else .fault (.hostAddress pa)

/-- How many host writes each context of the module holds. -/
def hostPlaces (s : State) : List (Nat × Nat) :=
  s.contexts.map fun x => (x.key, if x.phase = 2 then x.hostNext.length else x.hostWrites.length)

/-- HOST_MEM_WRITE (R105, R362): it lands at step 5 of the leg end of the context it is for; once the modules of a domain have agreed on what
a leg end changes, of the next. Where that context is not on the module it lands at the next step 5 of a leg that is open here, and at once
where none is (R3; DEDUCED, log 20); a line with a translation mark is left alone (R287). -/
def hostWrite (cno : Nat) (cells : Cells) (s : State) : Host.Outcome State Fault Refusal :=
  match cells.find? fun e => !namesMemory e.1 with
  | some e => .fault (.hostAddress e.1)
  | none =>
    match s.byNumber cno with
    | some s => .next (s.onCtx fun x =>
        if x.phase = 2 then { x with hostNext := x.hostNext ++ [cells] } else { x with hostWrites := x.hostWrites ++ [cells] })
    | none =>
      if s.contexts.any legOpen then .next (s.onHw fun h => { h with hostLate := h.hostLate ++ [⟨hostPlaces s, cells⟩] })
      else
        let lost := hostMarked s.cpu.hw [cells]
        let s := { s with mem := hostLand s.cpu.hw s.mem [cells] }
        .next (s.onHw fun h => { h with log := h.log ++ lost.map fun l => ⟨sourceOf h 40, 40, 7, 0, BitVec.ofNat 64 l⟩ })

/-- The contexts whose leg end a snoop awaits: those with an open leg that hold the line; where none holds it, every one with an open leg. -/
def snoopAwaits (ln : Nat) (s : State) : List (Nat × Nat) :=
  let openNow := (s.contexts.filter legOpen).map fun x => (x.dpart.toNat, x.number.toNat)
  let holders := openNow.filter fun n => decide ((n.1, n.2, lineOf ln) ∈ s.cpu.hw.dir.shared)
  if holders.isEmpty then openNow else holders

/-- HOST_SNOOP (R363): held until step 5 of the current leg end; answered at once where no leg is open (DEDUCED, log 20). -/
def hostSnoop (ln : Nat) (s : State) : State :=
  let ns := snoopAwaits ln s
  s.onHw fun h => if ns.isEmpty then { h with snooped := h.snooped ++ [ln] } else { h with snoops := h.snoops ++ [(ln, ns)] }

/-! ### Ownership -/

/-- The code of a master in OWN (R365). -/
def masterCode : Master → Nat
  | .hostA => 1
  | .hostB => 2
  | .controller => 3

/-- The window takes writes of its owner, and none after a failed bring-up (R363, R372). -/
def mayWindow (h : Module) (m : Master) : Bool := h.own == masterCode m && h.err == 0

/-- OWNER (R365): a claim while there is no owner, or a write of the owner, with EXP equal to OWN. OWN above 3 is reserved. (DEDUCED, log 34) -/
def writeOwner (m : Master) (val : Word) (h : Module) : Module :=
  let own := val.toNat % 16
  let exp := val.toNat / 16 % 16
  if h.err = 0 && exp = h.own && own ≤ 3 && (h.own = 0 || h.own = masterCode m) then { h with own := own, hbp := val.toNat / 256 % 256 } else h

/-- HEARTBEAT_LAPSE (R365). -/
def lapse (h : Module) : Module := { h with own := 0 }

/-! ### Page 0 -/

/-- The number of device partitions (R364). -/
def partCount (h : Module) : Nat := 2 ^ h.dpcfg

/-- The bytes of DPCFG that are measured (R373; DESIGN CHOICE, log 9). -/
def dpcfgBytes (c : Nat) : List Byte := (bytesAt 0 c 4).map Prod.snd

/-- DPCFG (R364, R373): only while no context is started; measured again. -/
def writeDpcfg (m : Master) (val : Word) (s : State) : State :=
  let c := val.toNat % 8
  if mayWindow s.cpu.hw m && s.contexts.isEmpty && c ≤ 4 then
    s.onHw fun h => { h with dpcfg := c, measures := h.measures.set 3 (Config.sha512 (dpcfgBytes c)) }
  else s

/-- A write of SPARE0 or SPARE1 (R330, R364): the spare ports are ports 14 and 15 (DESIGN CHOICE, log 21). -/
def bindSpare (i : Nat) (val : Word) (h : Module) : Module :=
  let v := val &&& 0x7F
  let ports := match h.ports[14 + i]? with
    | some q => h.ports.setIfInBounds (14 + i) (if v.getLsbD 6 then { q with peer := v.toNat % 64, st := if q.st = 3 then 0 else q.st } else { q with st := 3 })
    | none => h.ports
  { h with spares := h.spares.setIfInBounds i v, ports := ports }

/-! ### The pages of the device partitions -/

/-- A register of a partition's page that has no behaviour of its own (R368). -/
def writePart (off : Nat) (val : Dword) (p : Part) : Part :=
  let w := val.toNat % 2 ^ 32
  match off with
  | 0x08 => { p with ctxarg := val }
  | 0x18 => let x := w % 64; if 16 ≤ x && x ≤ 32 then { p with pmon := x } else p
  | 0x1C => let x := w % 128; if 1 ≤ x && x ≤ 64 then { p with wctmr := x } else p
  | 0x20 => { p with evqb := val &&& 0x000FFFFFFFFFF01F }
  | 0x28 => { p with evqh := BitVec.ofNat 32 w }
  | 0x30 => { p with evqovf := p.evqovf &&& ~~~(BitVec.ofNat 32 w) }
  | _ => p

/-- Change a partition's page. -/
def onPart (d : Nat) (f : Part → Part) (h : Module) : Module :=
  match h.parts[d]? with
  | some p => { h with parts := h.parts.setIfInBounds d (f p) }
  | none => h

/-- MGMT_REGISTER_WRITE (R363, R368): an offset in the window; what it does not name discards the write. -/
def writeWindow (off : Nat) (val : Dword) (h : Module) : Module :=
  if off < 0x8000 || partCount h < off / 0x8000 then h else onPart (off / 0x8000 - 1) (writePart (off % 0x8000) val) h

/-! ### Reading the window -/

/-- PSTAT as a word (R337). -/
def pstatWord (q : Port) : Nat := q.st % 4 + 16 * (q.peer % 64) + 2 ^ 16 * (q.nrep % 256)

/-- BOOTSTAT as a word (R372). -/
def bootstatWord (h : Module) : Nat := h.stage % 16 + 2 ^ 8 * (h.err % 256) + 2 ^ 16 * (h.nq % 256)

/-- OWNER as every master reads it back (R365): EXP is written only. -/
def ownerWord (h : Module) : Nat := h.own % 16 + 2 ^ 8 * (h.hbp % 256)

/-- What a read of page 0 returns (R364). The timestamp counter is time, a free value at each reading (R370; DESIGN CHOICE, log 5). -/
def pageZero (off : Nat) (h : Module) : Nat :=
  if 0x100 ≤ off && off < 0x140 && off % 4 = 0 then ((h.ports[(off - 0x100) / 4]?).map pstatWord).getD 0
  else match off with
    | 0x000 => ownerWord h
    | 0x008 => h.dpcfg
    | 0x00C => bootstatWord h
    | 0x010 => (Config.tscReading h.tscCount).toNat
    | 0x140 => h.spares[0].toNat
    | 0x144 => h.spares[1].toNat
    | _ => 0

/-- What a read of a partition's page returns (R368). -/
def pagePart (off : Nat) (p : Part) : Nat :=
  match off with
  | 0x08 => p.ctxarg.toNat
  | 0x10 => p.ctxstat.toNat
  | 0x18 => p.pmon
  | 0x1C => p.wctmr
  | 0x20 => p.evqb.toNat
  | 0x28 => p.evqh.toNat
  | 0x2C => p.evqt.toNat
  | 0x30 => p.evqovf.toNat
  | _ => 0

/-- What a read of the window returns at an offset: what no register names, and what is written only, reads zero (R363, R364, R368). -/
def windowRead (off : Nat) (h : Module) : Nat :=
  if off < 0x8000 then pageZero off h
  else if partCount h < off / 0x8000 then 0
  else ((h.parts[off / 0x8000 - 1]?).map (pagePart (off % 0x8000))).getD 0

/-! ### Event queues -/

/-- An entry of an event queue (R292). -/
def eventBytes (at' : Nat) (e : Event) : Cells :=
  bytesAt at' e.ctxid.toNat 4 ++ bytesAt (at' + 4) (e.kind % 256) 4 ++ bytesAt (at' + 8) e.gid 8 ++ bytesAt (at' + 16) e.vaddr.toNat 8 ++
    bytesAt (at' + 24) e.tlpa.toNat 8

/-- One event reaches its queue, or is dropped when the queue is full (R368). A queue of 2^n entries holds 2^n − 1 (DEDUCED, log 23). An entry
on a line with a translation mark is discarded and the attempt logged (R287). -/
def putEvent (s : State) (e : Event) : State :=
  match s.cpu.hw.parts[e.dpart]? with
  | none => s
  | some p =>
    let n := 2 ^ (p.evqb.toNat % 32)
    let t := p.evqt.toNat % n
    if (t + 1) % n = p.evqh.toNat % n then s.onHw (onPart e.dpart fun p => { p with evqovf := p.evqovf + 1 })
    else
      let cells := eventBytes (p.evqb.toNat / 4096 * 4096 + 32 * t) e
      let s := { s with mem := hostLand s.cpu.hw s.mem [cells] }.onHw fun h => logLost e.ctxid (hostMarked h [cells]) h
      s.onHw (onPart e.dpart fun p => { p with evqt := BitVec.ofNat 32 ((t + 1) % n) })

/-- An event takes its place among those of one moment, by the number of its source (R370; DESIGN CHOICE, log 42). -/
def insertEvent (e : Event) : List Event → List Event
  | [] => [e]
  | f :: l => if e.source ≤ f.source then e :: f :: l else f :: insertEvent e l

/-- Events of one moment in the order of R370; those of one source as they came. -/
def sortEvents : List Event → List Event
  | [] => []
  | e :: l => insertEvent e (sortEvents l)

/-- Every event on its way reaches its queue (R292, R370). -/
def putEvents (s : State) : State := (sortEvents s.cpu.hw.events).foldl putEvent (s.onHw fun h => { h with events := [] })

/-! ### Machine checks -/

/-- A machine check of a context suspends R1 for it (R4, R295). -/
def checkContext (cls code : Nat) (n : Nat) (s : State) : State :=
  match s.byNumber n with
  | some s => s.onCpu (checkR1 cls code 0)
  | none => s

/-- A group is work for the progress monitor (R23): it runs, or is in a holding wait other than one on absent or zero sub-tiles. One that is
out does not run, and may still hold a wait. -/
def groupWorks (m : Cells) (out : Bool) (g : Group) : Bool :=
  match g.status with
  | .running => !out && !g.preempted
  | .stopped _ => !out && !g.preempted
  | .turn _ => true
  | .remote _ => true
  | .fence => true
  | .service => true
  | .xlat es => es.any fun e => memNat m e 8 / 2 ^ 62 == 3
  | _ => false

/-- Work of a context remains (R23): a group's, or a copy, a packet or a leg-end step in progress. A copy is in progress until the engine has
read it (DESIGN CHOICE, log 56). -/
def ctxWorks (h : Module) (m : Cells) (x : Ctx) : Bool :=
  x.groups.any (groupWorks m (isOut x)) || x.copies.any (fun k => !k.read) || x.sysCopies.any (fun k => !k.done) || !x.flight.isEmpty ||
    !(wcEntries h x).isEmpty || unacked h x || (x.status == .running && x.phase != 0)

/-- Work remains in a device partition (R23). -/
def workRemains (d : Nat) (s : State) : Bool := s.contexts.any fun x => x.dpart.toNat == d && ctxWorks s.cpu.hw s.mem x

/-- A device partition is frozen, with a machine check for each of its contexts (R23, R371). -/
def freezePart (d code : Nat) (s : State) : State :=
  let ns := (s.contexts.filter fun x => x.dpart.toNat == d).map fun x => x.key
  ns.foldl (fun s n => checkContext 36 code n s) (s.onHw (onPart d fun p => { p with frozen := true }))

/-! ### One meaning per step -/

/-- HOST_MEM_READ (R362). -/
def execHostMemRead (pa : Nat) (s : State) : Host.Outcome State Fault Refusal := hostRead pa s
/-- HOST_MEM_WRITE (R362). -/
def execHostMemWrite (cno : Nat) (cells : Cells) (s : State) : Host.Outcome State Fault Refusal := hostWrite cno cells s
/-- HOST_SNOOP (R363). -/
def execHostSnoop (ln : Nat) (s : State) : Host.Outcome State Fault Refusal := .next (hostSnoop ln s)
/-- OWNER (R365). -/
def execOwner (m : Master) (val : Word) (s : State) : Host.Outcome State Fault Refusal := .next (s.onHw (writeOwner m val))
/-- HBEAT (R364, R365): it renews the ownership, whose period is time and not in State (DESIGN CHOICE, log 24). -/
def execHbeat (_m : Master) (s : State) : Host.Outcome State Fault Refusal := .next s
/-- HEARTBEAT_LAPSE (R365). -/
def execHeartbeatLapse (s : State) : Host.Outcome State Fault Refusal := .next (s.onHw lapse)
/-- DPCFG (R364). -/
def execDpcfg (m : Master) (val : Word) (s : State) : Host.Outcome State Fault Refusal := .next (writeDpcfg m val s)
/-- PSTAT (R337). -/
def execPstat (m : Master) (port : BitVec 4) (val : Word) (s : State) : Host.Outcome State Fault Refusal :=
  .next (if mayWindow s.cpu.hw m then s.onHw (writePstat port.toNat val) else s)
/-- SPARE_PORT_BIND (R364). -/
def execSparePortBind (m : Master) (i : BitVec 1) (val : Word) (s : State) : Host.Outcome State Fault Refusal :=
  .next (if mayWindow s.cpu.hw m then s.onHw (bindSpare i.toNat val) else s)
/-- MGMT_REGISTER_WRITE (R368). -/
def execMgmtRegisterWrite (m : Master) (off : Nat) (val : Dword) (s : State) : Host.Outcome State Fault Refusal :=
  .next (if mayWindow s.cpu.hw m then s.onHw (writeWindow off val) else s)
/-- PROGRESS_MONITOR_TIMEOUT (R23): 2^w clocks without a counted event are a stall only while work remains. -/
def execProgressMonitorTimeout (part : Nat) (s : State) : Host.Outcome State Fault Refusal :=
  .next (if workRemains part s then freezePart part 1 s else s)
/-- THERMAL_TRIP (R371). -/
def execThermalTrip (part : Nat) (s : State) : Host.Outcome State Fault Refusal := .next (freezePart part 4 s)
/-- UNCORRECTABLE_DATA (R295). -/
def execUncorrectableData (cno : Nat) (s : State) : Host.Outcome State Fault Refusal := .next (checkContext 36 3 cno s)

end Sys2Proof.Machine
end

