-- ==== Sys2Proof/Machine/Bringup.lean ====
section
/-! DEFINITION. Bring-up (R372) and measured boot with SPDM (R373). -/

namespace Sys2Proof.Machine

/-- The boot ROM verifies a firmware image (R372): a signature under a fused key that is not revoked, then the version. -/
def verifyFirmware (fw : FwImage) (h : Module) : Module :=
  if !(fw.sigValid && h.fuses.any fun f => f.1 == fw.keyHash && !f.2) then { h with err := 1 }
  else if fw.version < h.minVersion then { h with err := 2 }
  else { h with stage := 2, err := 0, firmware := fw.bytes }

/-- POWER_ON (R372): the module starts anew with what is built in: fuses, its place in the domain, its links. -/
def powerOn (fw : FwImage) (s : State) : State :=
  let h := s.cpu.hw
  let h' := { Module.reset with
    number := h.number, rows := h.rows, cols := h.cols, fuses := h.fuses, minVersion := h.minVersion
    ports := h.ports.map fun q => { q with nrep := 0, st := 0, bad := 0, trained := false }, stage := 1 }
  { State.reset with cpu := { State.reset.cpu with hw := verifyFirmware fw h' }, inputs := s.inputs }

/-- FIRMWARE_IMAGE_LOAD (R372): only after a failure; the sequence starts again. -/
def loadFirmware (fw : FwImage) (h : Module) : Module := if h.err = 0 then h else verifyFirmware fw { h with stage := 1, err := 0 }

/-! ### The binding table -/

/-- The core that a stop takes (R320, R372): its own, else the lowest spare of its die that is wired to it and free; 32 and 33 are a die's
spares. -/
def coreFor (t : TestResults) (used : List Nat) (quad stop : Nat) : Option Nat :=
  let die := quad / 4
  if t.stopCores.getLsbD (8 * quad + stop) then some (8 * (quad % 4) + stop)
  else
    let sp := if quad % 4 < 2 then 0 else 1
    if t.spares.getLsbD (2 * die + sp) && !decide (34 * die + 32 + sp ∈ used) then some (32 + sp) else none

/-- The stops of a quadrant, with the spares used so far as 34 · die + core. -/
def bindStops (t : TestResults) (quad : Nat) (used : List Nat) : List StopBinding × List Nat :=
  (List.range 8).foldl (fun (acc : List StopBinding × List Nat) stop =>
    let c := coreFor t acc.2 quad stop
    let used := match c with
      | some n => if 32 ≤ n then acc.2 ++ [34 * (quad / 4) + n] else acc.2
      | none => acc.2
    (acc.1 ++ [⟨quad, stop, c⟩], used)) ([], used)

/-- Rings of a quadrant by pair and direction: 4 · quadrant + 2 · pair + direction (R320). -/
def ringPassed (t : TestResults) (quad pair dir : Nat) : Bool := t.rings.getLsbD (4 * quad + 2 * pair + dir)

/-- A quadrant is working (R372). -/
def quadWorks (t : TestResults) (quad : Nat) (bs : List StopBinding) : Bool :=
  bs.all (fun b => b.core.isSome) && (List.range 8).all (fun i => t.slices.getLsbD (8 * quad + i)) &&
    (List.range 2).all fun p => ringPassed t quad p 0 || ringPassed t quad p 1

/-- One quadrant of the table; one that does not work is left out and its spares stay free. -/
def bindQuad (t : TestResults) (acc : Module × List Nat) (quad : Nat) : Module × List Nat :=
  let r := bindStops t quad acc.2
  if quadWorks t quad r.1 then
    let out := (List.range 4).filterMap fun i => if ringPassed t quad (i / 2) (i % 2) then none else some (4 * quad + i)
    ({ acc.1 with binding := acc.1.binding ++ r.1, working := acc.1.working ++ [quad], ringsOut := acc.1.ringsOut ++ out }, r.2)
  else acc

/-- The bytes of the binding table that are measured (DESIGN CHOICE, log 9). -/
def bindingBytes (h : Module) : List Byte := Config.bindingBytes (h.binding.map fun b => (b.quad, b.stop, b.core))

/-- The measurement registers before STAGE 5: ROM, firmware, binding tables, DPCFG (R373). -/
def measureBoot (h : Module) : Module :=
  { h with measures := [Config.romHash, Config.sha512 h.firmware, Config.sha512 (bindingBytes h), Config.sha512 (dpcfgBytes h.dpcfg)] }

/-- Steps 4 and 5 of bring-up (R372). -/
def buildBinding (t : TestResults) (h : Module) : Module :=
  let r := ((List.range 16).foldl (bindQuad t) ({ h with binding := [], working := [], ringsOut := [] }, [])).1
  let r := { r with nq := r.working.length }
  if r.nq = 0 then { r with err := 4 } else { measureBoot r with stage := 5 }

/-- DRAM_TRAINING_COMPLETE (R372): every layer of every die, then the binding tables. -/
def dramTrained (t : TestResults) (h : Module) : Module :=
  if h.stage ≠ 2 || h.err ≠ 0 then h
  else if t.layers ≠ BitVec.allOnes 24 then { h with err := 3 }
  else buildBinding t { h with stage := 3 }

/-- SPDM_REQUEST (R373; DESIGN CHOICE, logs 9 and 43): the answer goes out; a request may open or close a session, and within one it may set an
IDE key, which no request outside a session does. -/
def spdmRequest (req : List Byte) (h : Module) : Module :=
  { h with
    answers := h.answers ++ [Config.spdmAnswer req h.measures]
    session := Config.spdmOpens req h.session
    ideKeys := if h.session then h.ideKeys ++ (Config.spdmKey req).toList else h.ideKeys }

/-! ### One meaning per step -/

/-- POWER_ON (R372). -/
def execPowerOn (fw : FwImage) (s : State) : Host.Outcome State Fault Refusal := .next (powerOn fw s)
/-- DRAM_TRAINING_COMPLETE (R372). -/
def execDramTrainingComplete (t : TestResults) (s : State) : Host.Outcome State Fault Refusal := .next (s.onHw (dramTrained t))
/-- FIRMWARE_IMAGE_LOAD (R372). -/
def execFirmwareImageLoad (fw : FwImage) (s : State) : Host.Outcome State Fault Refusal := .next (s.onHw (loadFirmware fw))
/-- SPDM_REQUEST (R373). -/
def execSpdmRequest (req : List Byte) (s : State) : Host.Outcome State Fault Refusal := .next (s.onHw (spdmRequest req))

end Sys2Proof.Machine
end

