-- ==== Sys2Proof/Machine/Contexts.lean ====
section
/-! DEFINITION. The commands of CTXCMD (R368, R369): start (R250, R355), suspend, resume (R310), kill (R313), pre-empt (R307) and set
parameter. -/

namespace Sys2Proof.Machine

/-! ### Commands -/

/-- The context number and QMASK of a command (R368). -/
def cmdCtx (cmd : Dword) : Nat := cmd.toNat % 2 ^ 24
def cmdQuads (cmd : Dword) : List Nat := (List.range 16).filter fun q => cmd.getLsbD (40 + q)

/-- CTXARG of a partition. -/
def ctxArg (s : State) (d : Nat) : Dword := ((s.cpu.hw.parts[d]?).map fun p => p.ctxarg).getD 0

/-- The result of a command in CTXSTAT (R369). -/
def result (d : Nat) (cmd : Dword) (r : Nat) (s : State) : State :=
  s.onHw (onPart d fun p => { p with ctxstat := BitVec.ofNat 32 (r * 2 ^ 24 + cmdCtx cmd) })

/-- A command of the owner, on a partition that is there (R363, R368). -/
def command (m : Master) (d : BitVec 4) (cmd : Dword) (act : State → State) (s : State) : State :=
  if mayWindow s.cpu.hw m && decide (d.toNat < partCount s.cpu.hw) then
    if s.cpu.hw.stage = 5 then act s else result d.toNat cmd 6 s
  else s

/-- A command on a context that is there; `act` answers the result and the state when it is 0 (R369). -/
def onContext (d : BitVec 4) (cmd : Dword) (act : State → Nat × State) (s : State) : State :=
  match s.byPart (cmdCtx cmd) d.toNat with
  | none => result d.toNat cmd 4 s
  | some t => match act t with
    | (0, u) => result d.toNat cmd 0 u
    | (r, _) => result d.toNat cmd r s

/-! ### Quadrants -/

/-- Quadrants of a device partition (R367). -/
def partQuads (h : Module) (d : Nat) : List Nat := (List.range 16).filter fun q => q * partCount h / 16 == d

/-- Quadrants bound to contexts that run, the one of a number and partition left out. -/
def busyQuads (s : State) (d n : Nat) : List Nat :=
  (s.contexts.filter fun x => x.status == .running && !(x.number.toNat == n && x.dpart.toNat == d)).flatMap fun x => x.quads

/-- QMASK names as many working quadrants of the partition as the context needs, none of them busy (R368, R369). -/
def quadsOk (s : State) (d n need : Nat) (qs : List Nat) : Bool :=
  qs.length == need && qs.all fun q => decide (q ∈ partQuads s.cpu.hw d) && decide (q ∈ s.cpu.hw.working) && !decide (q ∈ busyQuads s d n)

/-! ### Start (R250) -/

/-- The descriptor's fields are allowed (R250). -/
def descriptorOk (s : State) (d pa : Nat) : Bool :=
  let f := fun o n => memNat s.mem (pa + o) n
  namesMemory pa && namesMemory (pa + 63)
  && f 0 8 / 2 ^ 52 == 0 && f 0 8 / 32 % 128 == 0 && f 8 8 / 2 ^ 52 == 0 && f 16 8 / 2 ^ 52 == 0 && f 16 8 / 64 % 2 ^ 10 == 0
  && f 24 8 / 2 ^ 52 == 0 && f 24 8 % 4096 == 0 && f 32 8 % 4 == 0 && f 40 8 % 4 == 0 && f 53 1 / 8 == 0 && f 56 8 == 0
  && (f 52 1 == 0 || (decide (12 ≤ f 52 1) && decide (f 52 1 ≤ 24)))
  && f 0 8 % 32 != 0 && decide (f 54 1 ≤ 29) && decide (16 ≤ f 16 8 % 64) && decide (f 16 8 % 64 ≤ 40)
  && decide (1 ≤ f 55 1) && decide (f 55 1 ≤ (partQuads s.cpu.hw d).length)

/-- What another module counts as having said before it says anything: all is held at the start (DESIGN CHOICE, log 14). -/
def firstReport : Report := ⟨0, 0, 0, false, [⟨0, 0⟩], [], [], [], [], none, [], 1, []⟩

/-- The other modules of the domain of a context. -/
def otherModules (h : Module) (span : Bool) : List Nat := if span then (moduleList h).filter fun q => q != h.number else []

/-- The context that a descriptor describes, before its first program. -/
def describedCtx (s : State) (d n pa : Nat) (span : Bool) (qs : List Nat) : Ctx :=
  let f := fun o k => memNat s.mem (pa + o) k
  let objtb := BitVec.ofNat 64 (f 0 8)
  { Ctx.none with
    number := BitVec.ofNat 24 n
    dpart := BitVec.ofNat 4 d
    status := .running
    legq := if f 52 1 = 0 then 16 else f 52 1
    seed := BitVec.ofNat 32 (f 48 4)
    nondet := BitVec.ofNat 32 (f 53 1 % 2)
    dq := f 54 1
    objtb := objtb
    tmplb := BitVec.ofNat 64 (f 8 8)
    ovlb := BitVec.ofNat 64 (f 16 8)
    scrb := BitVec.ofNat 64 (f 24 8)
    trapv0 := BitVec.ofNat 64 (f 32 8)
    dbg := (f 53 1).testBit 2
    ncore8 := f 55 1
    quads := qs
    span := span
    loaded := ⟨0, objtb, s.mem⟩
    peers := (otherModules s.cpu.hw span).map fun q => ⟨firstReport, q, false⟩ }

/-- The first program's record, with the level that the descriptor gives its groups (R248, R250). -/
def firstRecord (s : State) (x : Ctx) (pa : Nat) : Option (List Word) :=
  let f := fun o k => memNat s.mem (pa + o) k
  let sys := (f 53 1).testBit 1
  let c : Cpu := { s.cpu with grp := Group.none, ctx := x }
  let va := f 40 8
  match c.record s.mem (vaObj va) with
  | none => none
  | some r =>
    if r.ext < vaOff va + 32 then none
    else
      let w := (List.range 8).map fun i => BitVec.ofNat 32 (leNat (vaByte c s.mem) (va + 4 * i) 4)
      let l := lrecOf w
      if (l.sys && !sys) || !lrecOk w || l.aft || (entryTrap c s.mem l.entry).isSome then none
      else some (if sys then w.set 6 (w.getD 6 0 ||| 0x10000000) else w)

/-- The domain forms the rectangle of R330 as the ports are bound: one port to every module of the row and the column. -/
def domainOk (h : Module) : Bool :=
  (moduleList h).all fun q => q == h.number || !(q / 8 == h.number / 8 || q % 8 == h.number % 8) || h.ports.any fun p => p.peer == q && p.st != 3

/-- The first program's share of a module: the launch of ordinal 0, which has no turn; its turn leg is 0 (DESIGN CHOICE, log 60). It is known to
stand in the queues of the other modules as well (R259, R355). -/
def firstLaunch (h : Module) (span : Bool) (w : List Word) (k : Nat) (x : Ctx) : Ctx :=
  let dealt := if span then moduleCount h else 1
  let first := if span then (moduleList h).findIdx (· == h.number) else 0
  { x with
    launches := [⟨0, w, 0, first, dealt, k, false⟩]
    granted := (otherModules h span).map fun q => ⟨0, q, (lrecOf w).que, 0⟩ }

/-- CONTEXT_START (R250, R355, R369). (DESIGN CHOICE, log 22) Packets that came for the context before are delivered. -/
def startContext (d : Nat) (cmd : Dword) (span : Bool) (s : State) : State :=
  let n := cmdCtx cmd
  let pa := (ctxArg s d).toNat
  let qs := cmdQuads cmd
  if s.contexts.any fun x => x.number.toNat == n && x.dpart.toNat == d then result d cmd 4 s
  else if span && !domainOk s.cpu.hw then result d cmd 6 s
  else if !descriptorOk s d pa then result d cmd 1 s
  else
    let x := describedCtx s d n pa span qs
    match firstRecord s x pa with
    | none => result d cmd 2 s
    | some w => match coresFor (lrecOf w) x.dq with
      | none => result d cmd 2 s
      | some k =>
        if !quadsOk s d n x.ncore8 qs then result d cmd 3 s
        else
          let x := placeBlocks 0 0 (firstLaunch s.cpu.hw span w k x)
          let s := s.parkCtx
          let hw := { s.cpu.hw with farewells := s.cpu.hw.farewells.filter fun f => f.ctx != x.key }
          result d cmd 0 (deliverHeld { s with cpu := { s.cpu with grp := Group.none, ctx := x, hw := hw } })

/-! ### Suspend and resume -/

/-- CONTEXT_SUSPEND (R369): requested; it acts after step 8 of the leg end. -/
def suspendContext (s : State) : Nat × State :=
  if s.cpu.ctx.status = .running then (0, s.onCtx fun x => { x with suspendReq := true }) else (4, s)

/-- The pending batch members of some groups complete first (R212): the groups and blocks after that. -/
def settleThese (p : Group → Bool) (x : Ctx) : Ctx :=
  (x.groups.filter p).foldl (fun x g => match x.block g with
    | some b =>
      let r := settleGroup b g
      let y := x.setBlock r.1
      { y with groups := y.groups.map fun k => if k.gid = g.gid then r.2 else k }
    | none => x) x

/-- The images of groups and the shares of blocks are written (R298, R307); what would reach a line with a translation mark is logged (R287). -/
def writeImages (gs : List Group) (bs : List Block) (s : State) : State :=
  let c := s.cpu
  let x := c.ctx
  let m := bs.foldl (fun m b => saveShares c.hw x b m) (saveImages c.hw x x.groups gs s.mem)
  { s with mem := m, cpu := { c with hw := logLost (ctxId x) (lostImages c.hw x gs s.mem ++ lostShares c.hw x bs) c.hw } }

/-- A suspended context, whether it may go on or not, is written out (R298, R307). (DEDUCED, log 30) -/
def imageContext (s0 : State) : State :=
  let s := s0.onCpu fun c => { c.park with ctx := settleThese Group.live c.park.ctx }
  (writeImages s.cpu.ctx.groups s.cpu.ctx.blocks s).onCtx fun x => { x with imaged := true }

/-- A byte of a saved image as it stands in memory; where the image object has no frame, as it was saved. -/
def imageByte (h : Module) (x : Ctx) (all : List Group) (m : Cells) (r : Record) (g : Group) : Nat → Byte :=
  let kept := segCells (storedSegs (savedFrame h x m g) (savedTiles x all g))
  fun o => match translate m r (imageOff g + o) with
    | .at pa => memByte m pa
    | _ => (get? kept o).getD 0

/-- A group restored from its image, and the tiles that the image saves into its block (R310; DEDUCED, log 30). A reserved format byte is
found by the fill of its register (R17). -/
def restoreGroup (h : Module) (m : Cells) (r : Record) (all : List Group) (x : Ctx) (g : Group) : Ctx :=
  let get := imageByte h x all m r g
  let g' := loadGroup get g
  let x' := { x with groups := x.groups.map fun k => if k.gid = g.gid then g' else k }
  match x.block g with
  | some b => x'.setBlock (loadTiles get g (savedTiles x all g) b)
  | none => x'

/-- Everything that is out comes back: shares, then groups with their tiles (R310). -/
def restoreAll (h : Module) (m : Cells) (x : Ctx) : Ctx :=
  let x' := { x with blocks := x.blocks.map fun b =>
    if b.preempted || (isOut x && x.imaged) then loadShares x b m else b }
  match recordOf h m x.objtb 1 with
  | some r => (x.groups.filter (isSaved x)).foldl (restoreGroup h m r x.groups) x'
  | none => x'

/-- A group that was out runs on: a wait on a sub-tile is tried again (R309), pre-emption is over, and so is an unhandled trap. -/
def runAgain (all : Bool) (g : Group) : Group :=
  if all || g.preempted then
    let g := { g with preempted := false, frame := if g.inWin then g.frame else { g.frame with cls := 0 } }
    match g.status with
    | .xlat _ => { g with status := .running }
    | _ => g
  else g

/-- The context goes on (R309, R310): shares, tiles and groups from where they were saved, then step 9 where it is still to come. What the leg
has recorded so far stays. -/
def resumeNow (qs : List Nat) (s : State) : State :=
  let c := s.cpu.park
  let out := c.ctx.status == .suspended
  let due := c.ctx.placeDue && out
  let x := restoreAll c.hw s.mem c.ctx
  let c := ({ c with ctx := { x with
    status := .running, quads := qs, xlatEvents := if out then [] else x.xlatEvents, imaged := false
    blocks := x.blocks.map fun b => { b with preempted := false } } } : Cpu).mapGroups (runAgain out)
  deliverHeld (landLate { s with cpu := if due then placeStep (x.leg - 1) c else { c with ctx := { c.ctx with placeDue := false } } })

/-- CONTEXT_RESUME (R310, R369): a suspended context, or one with pre-empted blocks. -/
def resumeContext (d : Nat) (cmd : Dword) (s : State) : Nat × State :=
  let x := s.cpu.ctx
  if x.status = .suspended || (x.status == .running && x.blocks.any fun b => b.preempted) then
    if quadsOk s d x.number.toNat x.ncore8 (cmdQuads cmd) then (0, resumeNow (cmdQuads cmd) s) else (3, s)
  else (4, s)

/-! ### Kill and pre-empt -/

/-- A kill is requested; it takes effect at the end of the current leg (R313). -/
def requestKill (k : Kill) (s : State) : State := s.onCtx fun x => { x with kills := x.kills ++ [k] }

/-- The entries of its own groups that are queued on a module are gone with a suspended context that is killed; those on other modules are
answered. -/
def othersEntries (h : Module) (q : List Entry) : List Entry := q.filter fun e => e.module != h.number || e.home != h.number

/-- KILL_CONTEXT (R313): the leg of a suspended context, in which nothing runs any more, ends at once (DEDUCED, log 25); that of a context on
several modules ends as they agree (R346). -/
def killContext (s : State) : Nat × State :=
  let s := requestKill .context s
  if s.cpu.ctx.status = .running then (0, s)
  else if shared s.cpu.ctx then
    let c := killThese [.context] s.mem s.cpu
    (0, { s with cpu := { c with ctx := { c.ctx with
      queue := othersEntries c.hw c.ctx.queue, status := .running, suspendReq := false, placeDue := false, stops := [] } } })
  else
    let c := publishSketches s.mem (applyKills s.mem s.cpu)
    (0, finishLeg { s with cpu := { c with ctx := { c.ctx with queue := [], status := .running, phase := 1, suspendReq := false, stops := [] } } })

/-- The launch ordinals below this one have been given, as far as the module knows (R259, R346). -/
def knownOrd (x : Ctx) : Nat := (livePeers x).foldl (fun n p => max n p.nextOrd) x.nextOrd

/-- KILL_LAUNCH (R313, R368): the ordinal of a launch of the context, whichever module issued it. -/
def killLaunch (arg : Dword) (s : State) : Nat × State :=
  if s.cpu.ctx.status = .ended then (4, s)
  else if arg.toNat < knownOrd s.cpu.ctx then (0, requestKill (.launch arg.toNat) s) else (5, s)

/-- The block that CTXARG names (R368): its launch and its number there. -/
def argBlock (arg : Dword) : Nat × Nat := (arg.toNat / 2 ^ 40, arg.toNat / 512 % 2 ^ 31)

/-- That block, when it stands on the module. -/
def namedBlock (arg : Dword) (x : Ctx) : Option Block :=
  if arg.toNat % 512 ≠ 0 then none
  else x.blocks.find? fun b => b.lord == (argBlock arg).1 && b.blk == (argBlock arg).2

/-- It is in one of these ranges of blocks. -/
def inRanges (arg : Dword) (rs : List (Nat × Nat × Nat × Nat)) : Bool :=
  arg.toNat % 512 == 0 && rs.any fun r =>
    let b := (argBlock arg).2
    r.1 == (argBlock arg).1 && decide (r.2.1 ≤ b) && decide (b < r.2.2.2) && (b - r.2.1) % r.2.2.1 == 0

/-- It is a block of the context that is still to be placed here (R261), or one that stands or is to be placed on another module. -/
def queuedBlock (arg : Dword) (x : Ctx) : Bool := inRanges arg (blocksHere x)
def farBlock (arg : Dword) (x : Ctx) : Bool := inRanges arg ((livePeers x).flatMap fun p => p.blocks)

/-- KILL_BLOCK (R313, R368). A block that is not placed yet has no group to kill, and its launch stays queued (DEDUCED, log 25). The kill of
one on another module is told there (DESIGN CHOICE, log 14). -/
def killBlock (arg : Dword) (s : State) : Nat × State :=
  if s.cpu.ctx.status = .ended then (4, s)
  else match namedBlock arg s.cpu.ctx with
  | some b => (0, requestKill (.block b.lord b.blk) s)
  | none =>
    if queuedBlock arg s.cpu.ctx then (0, s)
    else if farBlock arg s.cpu.ctx then (0, requestKill (.block (argBlock arg).1 (argBlock arg).2) s)
    else (5, s)

/-- A block is pre-empted (R307): its batches complete, its images and shares are written, its groups issue nothing. -/
def preemptNow (b0 : Block) (s : State) : State :=
  let here := fun b : Block => b.lord == b0.lord && b.blk == b0.blk
  let mine := fun g : Group => g.lord == b0.lord && g.blk == b0.blk && g.live
  let x := settleThese mine s.cpu.park.ctx
  let c := { s.cpu.park with ctx := { x with
    groups := x.groups.map fun g => if mine g then { g with preempted := true } else g
    blocks := x.blocks.map fun b => if here b then { b with preempted := true } else b } }
  let gs := c.ctx.groups.filter mine
  let waits := fun (g : Group) (pa : Nat) => match g.status with
    | .xlat es => decide (pa ∈ es)
    | _ => false
  let still := fun pa => c.ctx.groups.any fun g => !g.preempted && waits g pa
  (writeImages gs (c.ctx.blocks.filter here) { s with cpu := c }).onCtx fun x =>
    { x with xlatEvents := x.xlatEvents.filter fun pa => still pa || !gs.any fun g => waits g pa }

/-- PRE_EMPT_BLOCK (R307, R368). Of a block that is not placed yet, or stands on another module, there is nothing to take here. -/
def preemptBlock (arg : Dword) (s : State) : Nat × State :=
  if s.cpu.ctx.status ≠ .running then (4, s)
  else match namedBlock arg s.cpu.ctx with
    | some b => (0, preemptNow b s)
    | none => if queuedBlock arg s.cpu.ctx || farBlock arg s.cpu.ctx then (0, s) else (5, s)

/-! ### Parameters -/

/-- Set a parameter of a suspended context (R369). -/
def setParam (ok : Bool) (f : Ctx → Ctx) (s : State) : Nat × State :=
  if s.cpu.ctx.status ≠ .suspended then (4, s) else if ok then (0, s.onCtx f) else (5, s)

/-- SET_PARAMETER_LEGQ: the field LQ; reserved bits are discarded (R7, R254). The number of the leg stays and its end follows the new
quantum (DESIGN CHOICE, log 63). -/
def setLegq (v : Dword) : State → Nat × State :=
  setParam (12 ≤ v.toNat % 32 && v.toNat % 32 ≤ 24) fun x => { x with legq := v.toNat % 32 }
/-- SET_PARAMETER_SEED. -/
def setSeed (v : Dword) : State → Nat × State := setParam true fun x => { x with seed := v.extractLsb' 0 32 }
/-- SET_PARAMETER_NONDET. -/
def setNondet (v : Dword) : State → Nat × State := setParam true fun x => { x with nondet := v.extractLsb' 0 32 &&& 1 }
/-- SET_PARAMETER_QUOTA: the field DQ (R7, R254). -/
def setQuota (v : Dword) : State → Nat × State := setParam (v.toNat % 32 ≤ 29) fun x => { x with dq := v.toNat % 32 }
/-- SET_PARAMETER_OVLB (R254, R265): a larger region lets an exhausted leg go on (R98). -/
def setOvlb (v : Dword) : State → Nat × State :=
  setParam (16 ≤ v.toNat % 64 && v.toNat % 64 ≤ 40) fun x =>
    { x with ovlb := v &&& 0x000FFFFFFFFF003F, ovlFull := x.ovlFull && decide (v.toNat % 64 ≤ x.ovlb.toNat % 64) }
/-- SET_PARAMETER_SCRB (R254). -/
def setScrb (v : Dword) : State → Nat × State := setParam true fun x => { x with scrb := v &&& 0x000FFFFFFFFFF000 }
/-- SET_PARAMETER_MCTB (R350): it lands at step 5 of the leg end; a context that has ended has none (R268). -/
def setMctb (v : Dword) (s : State) : Nat × State :=
  if s.cpu.ctx.status = .ended then (4, s) else (0, s.onCtx fun x => { x with pendMctb := some v })

/-! ### One meaning per step -/

/-- CONTEXT_START (R250). -/
def execContextStart (m : Master) (part : BitVec 4) (cmd : Dword) (span : Bool) (s : State) : Host.Outcome State Fault Refusal :=
  .next (command m part cmd (startContext part.toNat cmd span) s)
/-- CONTEXT_SUSPEND (R369). -/
def execContextSuspend (m : Master) (part : BitVec 4) (cmd : Dword) (s : State) : Host.Outcome State Fault Refusal :=
  .next (command m part cmd (onContext part cmd suspendContext) s)
/-- CONTEXT_RESUME (R310). -/
def execContextResume (m : Master) (part : BitVec 4) (cmd : Dword) (s : State) : Host.Outcome State Fault Refusal :=
  .next (command m part cmd (onContext part cmd (resumeContext part.toNat cmd)) s)
/-- KILL_CONTEXT (R313). -/
def execKillContext (m : Master) (part : BitVec 4) (cmd : Dword) (s : State) : Host.Outcome State Fault Refusal :=
  .next (command m part cmd (onContext part cmd killContext) s)
/-- KILL_LAUNCH (R313). -/
def execKillLaunch (m : Master) (part : BitVec 4) (cmd : Dword) (s : State) : Host.Outcome State Fault Refusal :=
  .next (command m part cmd (onContext part cmd (killLaunch (ctxArg s part.toNat))) s)
/-- KILL_BLOCK (R313). -/
def execKillBlock (m : Master) (part : BitVec 4) (cmd : Dword) (s : State) : Host.Outcome State Fault Refusal :=
  .next (command m part cmd (onContext part cmd (killBlock (ctxArg s part.toNat))) s)
/-- PRE_EMPT_BLOCK (R307). -/
def execPreEmptBlock (m : Master) (part : BitVec 4) (cmd : Dword) (s : State) : Host.Outcome State Fault Refusal :=
  .next (command m part cmd (onContext part cmd (preemptBlock (ctxArg s part.toNat))) s)
/-- SET_PARAMETER_LEGQ (R369). -/
def execSetParameterLegq (m : Master) (part : BitVec 4) (cmd : Dword) (s : State) : Host.Outcome State Fault Refusal :=
  .next (command m part cmd (onContext part cmd (setLegq (ctxArg s part.toNat))) s)
/-- SET_PARAMETER_SEED (R369). -/
def execSetParameterSeed (m : Master) (part : BitVec 4) (cmd : Dword) (s : State) : Host.Outcome State Fault Refusal :=
  .next (command m part cmd (onContext part cmd (setSeed (ctxArg s part.toNat))) s)
/-- SET_PARAMETER_NONDET (R369). -/
def execSetParameterNondet (m : Master) (part : BitVec 4) (cmd : Dword) (s : State) : Host.Outcome State Fault Refusal :=
  .next (command m part cmd (onContext part cmd (setNondet (ctxArg s part.toNat))) s)
/-- SET_PARAMETER_QUOTA (R369). -/
def execSetParameterQuota (m : Master) (part : BitVec 4) (cmd : Dword) (s : State) : Host.Outcome State Fault Refusal :=
  .next (command m part cmd (onContext part cmd (setQuota (ctxArg s part.toNat))) s)
/-- SET_PARAMETER_OVLB (R265). -/
def execSetParameterOvlb (m : Master) (part : BitVec 4) (cmd : Dword) (s : State) : Host.Outcome State Fault Refusal :=
  .next (command m part cmd (onContext part cmd (setOvlb (ctxArg s part.toNat))) s)
/-- SET_PARAMETER_SCRB (R369). -/
def execSetParameterScrb (m : Master) (part : BitVec 4) (cmd : Dword) (s : State) : Host.Outcome State Fault Refusal :=
  .next (command m part cmd (onContext part cmd (setScrb (ctxArg s part.toNat))) s)
/-- SET_PARAMETER_MCTB (R350). -/
def execSetParameterMctb (m : Master) (part : BitVec 4) (cmd : Dword) (s : State) : Host.Outcome State Fault Refusal :=
  .next (command m part cmd (onContext part cmd (setMctb (ctxArg s part.toNat))) s)

end Sys2Proof.Machine
end

