-- ==== Sys2Proof/Machine/Words.lean ====
section
/-! DEFINITION. The words outside the families: a `lit` and the word after it (R49, R50), unassigned first bytes (R53), and a fetch that
fails (R34). -/

namespace Sys2Proof.Machine

/-- The meaning of a word that takes a `lit` (R52); no other word comes here. -/
def litMeaning : Instr → Meaning
  | .movi d imm => moviOp d imm
  | .kmovi d imm => kmoviOp d imm
  | .br d imm => brOp d imm
  | .mkj imm => mkjOp imm
  | .brv d imm => brvOp d imm
  | .ldB d a b => ldOp 1 d a b
  | .ldH d a b => ldOp 2 d a b
  | .ldW d a b => ldOp 4 d a b
  | .ldD d a b => ldOp 8 d a b
  | .ldQ d a b => ldOp 16 d a b
  | .stB d a b => stOp 1 d a b
  | .stH d a b => stOp 2 d a b
  | .stW d a b => stOp 4 d a b
  | .stD d a b => stOp 8 d a b
  | .stQ d a b => stOp 16 d a b
  | .ldk d a n => ldkOp d a n
  | .stk d a n => stkOp d a n
  | .ldsB d a b => ldsOp 1 d a b
  | .ldsH d a b => ldsOp 2 d a b
  | .ldsW d a b => ldsOp 4 d a b
  | .ldsD d a b => ldsOp 8 d a b
  | .ldsQ d a b => ldsOp 16 d a b
  | .stsB d a b => stsOp 1 d a b
  | .stsH d a b => stsOp 2 d a b
  | .stsW d a b => stsOp 4 d a b
  | .stsD d a b => stsOp 8 d a b
  | .stsQ d a b => stsOp 16 d a b
  | .pf _ a b => pfOp a b
  | .radd d a b => reduceOp .radd isInt d a b
  | .rfadd d a b => reduceOp .rfadd isFlt d a b
  | .rmin d a b => reduceOp .rmin isInt d a b
  | .rmax d a b => reduceOp .rmax isInt d a b
  | .rfmin d a b => reduceOp .rfmin isFlt d a b
  | .rfmax d a b => reduceOp .rfmax isFlt d a b
  | .rand d a b => reduceOp .rand isAny d a b
  | .ror d a b => reduceOp .ror isAny d a b
  | .rxor d a b => reduceOp .rxor isAny d a b
  | .axchg d a b => atomicOp .axchg isAny d a b
  | .acas d a b => atomicOp .acas isAny d a b
  | .aadd d a b => atomicOp .aadd isCmpI d a b
  | .amin d a b => atomicOp .amin isCmpI d a b
  | .amax d a b => atomicOp .amax isCmpI d a b
  | .aand d a b => atomicOp .aand isAny d a b
  | .aor d a b => atomicOp .aor isAny d a b
  | .axor d a b => atomicOp .axor isAny d a b
  | .ldacq d a => ldacqOp d a
  | .strel a b => strelOp a b
  | .waita c a b => waitaOp c a b
  | .stmc d a b => stmcOp d a b
  | _ => fun _ _ c => c

/-- A `lit` and the word after it, in the order of checks of R54. The frame holds the word after the `lit` (R50). -/
def litOp (l : BitVec 24) (w : Word) (m : Cells) (c : Cpu) : Cpu :=
  let op := (w.extractLsb' 24 8).toNat
  let bad := fun code => c.trapWith w (some l) (illegalTrap c.grp code) 0
  if unassigned op then bad 1
  else match litForm op with
    | none => bad 2
    | some f =>
      if f = .w && l.extractLsb' 16 8 != 0 then bad 2
      else match decodeWord w with
        | .error (.reservedBit code _) => bad code
        | .error _ => bad 4
        | .ok i => issueCpu noPre (litMeaning i) m ⟨i, some l⟩ c

/-- The trap of a fetch that fails: permission, code 6, on the word that could not be fetched, or on the `lit` before it (R34, R49). No
word was fetched, and the frame holds 0 for it. (DEDUCED, log 13) -/
def fetchFault (l : Option (BitVec 24)) (c : Cpu) : Cpu := c.trapWith 0 l (pcTrap c.grp 5 6) 0

/-- LIT (R49). -/
def execLit (l : BitVec 24) (w : Word) (s : State) : Host.Outcome State Fault Refusal :=
  .next { s with cpu := litOp l w s.mem s.cpu }
/-- UNASSIGNED_FIRST_BYTE (R53). -/
def execUnassignedFirstByte (w : Word) (s : State) : Host.Outcome State Fault Refusal :=
  .next { s with cpu := s.cpu.trapWith w none (illegalTrap s.cpu.grp 1) 0 }
/-- INSTRUCTION_FETCH_FAULT (R34). -/
def execInstructionFetchFault (l : Option (BitVec 24)) (s : State) : Host.Outcome State Fault Refusal :=
  .next { s with cpu := fetchFault l s.cpu }

end Sys2Proof.Machine
end

