-- ==== Sys2Proof/Machine/Schedule.lean ====
section
/-! DEFINITION. What happens next: instruction fetch (R34, R49, R271, R281), and the choice of the next step. The spec leaves the physical
order of steps open where no rule fixes it; the model takes one legal order (DESIGN CHOICE, log 6). -/

namespace Sys2Proof.Machine

/-! ### Fetch -/

/-- What fetch finds at an address. -/
inductive Fetched where
  /-- An instruction. -/
  | instr (i : Instr)
  /-- A trap: its word, and the `lit` before it. -/
  | trap (word : Word) (l : Option (BitVec 24)) (t : Trap)
  /-- A wait on the sub-tile of an address (R281). -/
  | wait (va : Nat) (b : Nat × Nat)
  /-- Lines homed on another module (R343; DEDUCED, log 26). -/
  | ask (r : Record) (lines : List Nat)
  deriving DecidableEq, Repr

/-- Fetch of the word at the PC (R34): alignment, extent, x, the mode (R102), then translation. (DEDUCED, log 13) -/
def fetch (c : Cpu) (m : Cells) : Fetched :=
  let pc := c.grp.pc
  let off := baseOff pc
  let bad := fun cls code => Fetched.trap 0 none (pcTrap c.grp cls code)
  if pc.toNat % 4 ≠ 0 then bad 2 2
  else match c.record m (baseObj pc) with
    | none => bad 3 2
    | some r =>
      if r.ext < off + 4 then bad 3 1
      else if !hasPerm r 4 then .instr (.instructionFetchFault none)
      else if modeRefuses r c.grp.gid .execute then bad 5 2
      else match accessBlock m r false off 4 with
        | some b => .wait pc.toNat b
        | none =>
          match missingLines c r (span (vaOf r.obj off) 4) with
          | l :: ls => .ask r (l :: ls)
          | [] =>
            let w := codeWord c.hw c.ctx m c.grp r off
            if w.extractLsb' 24 8 = 0xFE#8 then
              let l := w.extractLsb' 0 24
              if r.ext < off + 8 then .instr (.instructionFetchFault (some l))
              else match accessBlock m r false (off + 4) 4 with
                | some b => .wait (pc.toNat + 4) b
                | none =>
                  match missingLines c r (span (vaOf r.obj (off + 4)) 4) with
                  | l :: ls => .ask r (l :: ls)
                  | [] => .instr (.lit l (codeWord c.hw c.ctx m c.grp r (off + 4)))
            else match decodeWord w with
              | .ok i => .instr i
              | .error (.reservedBit code w) => .trap w none (illegalTrap c.grp code)
              | .error _ => .trap w none (illegalTrap c.grp 4)

/-- The caches that a fetch goes through (R283). -/
def fetchTouch (m : Cells) (c : Cpu) : Cpu :=
  match c.record m (baseObj c.grp.pc) with
  | some r => touchLines m c r [baseOff c.grp.pc]
  | none => c

/-! ### The work of a context -/

/-- The group's wake source has fired (R87). -/
def firedGroup (g : Group) : Bool := g.status matches .ceded _ _ (some _)

/-- The matrix unit has a member of the group to complete. -/
def hasMember (g : Group) : Bool := g.batches.any fun b => !b.members.isEmpty

/-- A group may issue a word in this leg (R92, R307). -/
def mayIssue (top : Nat) (g : Group) : Bool := g.status == .running && !g.preempted && decide (g.lc < top)

/-- The first of a list that a test admits, as the step on it. -/
def firstStep {α : Type} (l : List α) (p : α → Bool) (f : α → Instr) : Option Instr := (l.find? p).map f

/-- The n-th service write's next step (R285, R286). -/
def svcStep (n : Nat) (v : Svc) : Instr :=
  match v.stage with
  | .sent => .serviceWriteApply n
  | .draining => .movingDrainComplete n
  | .invalidating => .translationChangeComplete n

/-- A service write's next step can happen: a drain waits for those that have translated the entry as resident (R286). -/
def svcReady (m : Cells) (c : Cpu) (v : Svc) : Bool :=
  match v.stage with
  | .draining => drained c.hw m c.ctx c.groups v
  | _ => true

/-- The service writes that can go on, each with its number; writes of one entry go on in order. -/
def svcNext (m : Cells) (c : Cpu) : List (Svc × Nat) :=
  (c.ctx.svc.zipIdx).filter fun v => svcReady m c v.1 && !(c.ctx.svc.take v.2).any fun u => u.pa == v.1.pa

/-- The steps of the module's own agents for the context in hand, all but LEG_END. Of the turns that may perform, the one with the lowest
stamp comes first (R85). -/
def agentStep (m : Cells) (c : Cpu) : Option Instr :=
  let x := c.ctx
  let gs := c.groups
  [ firstStep gs firedGroup fun g => Instr.cedeReentry g.gid,
    x.flight.head?.map fun f => match f with
      | .publication _ _ => Instr.publicationApply 0
      | .contribution _ => Instr.reductionContributionArrive 0,
    firstStep x.copies (fun k => !k.read) fun k => Instr.copyEngineRead k.id,
    firstStep gs hasMember fun g => Instr.matrixProductComplete g.gid,
    firstStep x.sysCopies (fun k => !k.done) fun k => Instr.systemCopyComplete k.id,
    (svcNext m c).head?.map fun v => svcStep v.2 v.1,
    (nextTurn c.hw x gs).map fun e => Instr.turnPerform e.stamp.gid ].findSome? id

/-- The group that issues next: the lowest stamp of those that may. -/
def nextGroup (c : Cpu) : Option Nat :=
  (((c.groups.filter (mayIssue (legTop c.ctx))).foldl (fun (best : Option Stamp) g => match best with
    | none => some g.stamp
    | some b => if Stamp.lt g.stamp b then some g.stamp else some b) none).map fun t => t.gid)

/-- The context runs: its partition is not frozen (R23). -/
def ctxRuns (h : Module) (x : Ctx) : Bool := x.status == .running && !((h.parts[x.dpart.toNat]?).map fun p => p.frozen).getD false

/-- A context as the processor sees it with no group in hand. -/
def asCpu (h : Module) (x : Ctx) : Cpu := ⟨Group.none, x, h⟩

/-- The context has a step before its leg end. -/
def hasWork (m : Cells) (c : Cpu) : Bool := ctxRuns c.hw c.ctx && ((agentStep m c).isSome || (nextGroup c).isSome)

/-- Its leg end has something to do. -/
def endsLeg (c : Cpu) : Bool := ctxRuns c.hw c.ctx && legDue c

/-- Its images are still to be written (R298): every slot of a suspended context is valid, also of one that is suspended for good (R268). -/
def needsImages (x : Ctx) : Bool := isOut x && !x.imaged

/-- A group delivers its first fault at its next issue (R97), or fetches. The further faults of the same leg are counted; those of a later
leg stay (DEDUCED, log 27). An instruction's fills come before the checks of its word, so one that traps makes them as well (DESIGN CHOICE, log
46). -/
def issueStep (gid : Nat) (s : State) : State × Option Instr :=
  let c := s.cpu.take gid
  match c.grp.faults with
  | f :: rest =>
    let later := rest.filter fun x => x.1 != f.1
    ({ s with cpu := { c with grp := { c.grp with faults := later } }.trapWith 0 none f.2 (rest.length - later.length) }, none)
  | [] =>
    match fetch c s.mem with
    | .instr i => ({ s with cpu := fillAt i (fetchTouch s.mem c) }, some i)
    | .trap w l t => ({ s with cpu := (fetchTouch s.mem c).trapWith w l t 0 }, none)
    | .wait va b => ({ s with cpu := waitSubtile (fetchTouch s.mem c) va b }, none)
    | .ask r ls => ({ s with cpu := askLines .fetch (fetchTouch s.mem c) r ls }, none)

/-- The work of the context in hand. Where the overlay holds more than it can, the context is suspended or ends (R98). -/
def ctxStep (s : State) : State × Option Instr :=
  if overlayOver s.cpu.hw s.mem s.cpu.ctx then (s.onCpu Cpu.exhausted, none)
  else match agentStep s.mem s.cpu with
  | some i => (s, some i)
  | none => match nextGroup s.cpu with
    | some gid => issueStep gid s
    | none => (s, none)

/-! ### The choice -/

/-- The next context whose leg end is due, the one in hand last. -/
def endingCtx (s : State) : Option State :=
  match s.others.find? fun x => endsLeg (asCpu s.cpu.hw x) with
  | some x => s.takeCtx fun y => y == x
  | none => if endsLeg s.cpu then some s else none

/-- What happens next: an outside event; else an event of R292 reaches its queue, the images of a suspended context are written, a
context works, a leg ends, or the router empties its combining table (DESIGN CHOICE, log 18). -/
def schedule (s : State) : State × Option Instr :=
  match s.inputs with
  | i :: rest => ({ s with inputs := rest }, some i)
  | [] =>
    if !s.cpu.hw.events.isEmpty then (putEvents s, none)
    else match s.takeCtx needsImages with
      | some s => (imageContext s, none)
      | none =>
        if hasWork s.mem s.cpu then ctxStep s
        else match s.others.find? fun x => hasWork s.mem (asCpu s.cpu.hw x) with
          | some x => ((s.takeCtx fun y => y == x).map ctxStep).getD (s, none)
          | none => match endingCtx s with
            | some s => (s, some .legEnd)
            | none => (s.onHw drainRouter, none)

/-! ### A program in place -/

/-- OBJTB of the prepared context: four records at 0x10000 (DESIGN CHOICE, log 4). -/
def programTable : Dword := 0x10002

/-- The record of its object 2: OPEN, every permission, 4096 bytes at 0x20000 of die 0. -/
def programRecord : Nat := 5105 + 0x20000 * 2 ^ 64 + 4096 * 2 ^ 128 + 4096 * 2 ^ 192 + 2 ^ 352

/-- Memory with that record and with a program's first bytes. -/
def programMem (bytes : List Byte) (m : Cells) : Cells :=
  let m := wrAll unwritten m (bytesAt 0x10100 programRecord 128)
  wrAll unwritten m (bytes.zipIdx.map fun e => (0x20000 + e.2, e.1))

/-- Its block: one group, no scratchpad, no tile. -/
def programBlock : Block where
  lord := 0
  blk := 0
  g := 1
  n := 1
  core := 0
  share := 0
  offs := [0]
  quota := 0
  acc := 0
  phys := []
  pad := []
  own := []
  tags := []
  ords := []
  ordTags := []
  reds := []
  tiles := []
  ownTiles := []
  tileTags := []
  bars := Vector.replicate 16 ⟨0, 0, [], []⟩
  syncs := 0
  anyExit := false
  preempted := false

/-- The module with a context at its start whose one group fetches these bytes next: what loading a program and CONTEXT_START bring
about (DESIGN CHOICE, log 4). Registers stay as they are. -/
def placeProgram (bytes : List Byte) (s : State) : State :=
  let m := programMem bytes s.mem
  { s with
    inputs := []
    others := s.others.filter fun x => !needsImages x
    mem := m
    cpu :=
    { hw := { s.cpu.hw with events := [], parts := s.cpu.hw.parts.setIfInBounds 0 { s.cpu.hw.parts[0] with frozen := false } }
      ctx := { Ctx.none with
        status := .running, objtb := programTable, loaded := ⟨0, programTable, m⟩, blocks := [programBlock], ncore8 := 1, quads := [0]
        launches := [⟨0, [], 0, 1, 1, 1, false⟩] }
      grp := { s.cpu.grp with
        gid := 0, core := 0, part := 0, slot := 0, role := 0, sys := true, pc := BitVec.ofNat 64 (2 * 2 ^ 40), lc := 0, cmask := 0
        view := none, sketch := [], batches := [], baras := [], status := .running, faults := [], fills := [], preempted := false, badSlots := [] } } }

end Sys2Proof.Machine
end

