-- ==== Sys2Proof/Machine/Dispatch.lean ====
section
/-! DEFINITION. One arm per instruction: its meaning. -/

namespace Sys2Proof.Machine

def exec (i : Instr) (s : State) : Host.Outcome State Fault Refusal :=
  match i with
  | .add d a b => Sys2Proof.Machine.execAdd d a b s
  | .addVk d a b => Sys2Proof.Machine.execAddVk d a b s
  | .sub d a b => Sys2Proof.Machine.execSub d a b s
  | .subVk d a b => Sys2Proof.Machine.execSubVk d a b s
  | .mul d a b => Sys2Proof.Machine.execMul d a b s
  | .mulVk d a b => Sys2Proof.Machine.execMulVk d a b s
  | .mulh d a b => Sys2Proof.Machine.execMulh d a b s
  | .mulhVk d a b => Sys2Proof.Machine.execMulhVk d a b s
  | .mad d a b => Sys2Proof.Machine.execMad d a b s
  | .madVk d a b => Sys2Proof.Machine.execMadVk d a b s
  | .minV d a b => Sys2Proof.Machine.execMin d a b s
  | .minVk d a b => Sys2Proof.Machine.execMinVk d a b s
  | .maxV d a b => Sys2Proof.Machine.execMax d a b s
  | .maxVk d a b => Sys2Proof.Machine.execMaxVk d a b s
  | .absV d b => Sys2Proof.Machine.execAbs d b s
  | .absVk d b => Sys2Proof.Machine.execAbsVk d b s
  | .negV d b => Sys2Proof.Machine.execNeg d b s
  | .negVk d b => Sys2Proof.Machine.execNegVk d b s
  | .andV d a b => Sys2Proof.Machine.execAnd d a b s
  | .andVk d a b => Sys2Proof.Machine.execAndVk d a b s
  | .orV d a b => Sys2Proof.Machine.execOr d a b s
  | .orVk d a b => Sys2Proof.Machine.execOrVk d a b s
  | .xorV d a b => Sys2Proof.Machine.execXor d a b s
  | .xorVk d a b => Sys2Proof.Machine.execXorVk d a b s
  | .andn d a b => Sys2Proof.Machine.execAndn d a b s
  | .andnVk d a b => Sys2Proof.Machine.execAndnVk d a b s
  | .notV d b => Sys2Proof.Machine.execNot d b s
  | .notVk d b => Sys2Proof.Machine.execNotVk d b s
  | .shl d a b => Sys2Proof.Machine.execShl d a b s
  | .shlVk d a b => Sys2Proof.Machine.execShlVk d a b s
  | .shr d a b => Sys2Proof.Machine.execShr d a b s
  | .shrVk d a b => Sys2Proof.Machine.execShrVk d a b s
  | .sar d a b => Sys2Proof.Machine.execSar d a b s
  | .sarVk d a b => Sys2Proof.Machine.execSarVk d a b s
  | .rot d a b => Sys2Proof.Machine.execRot d a b s
  | .rotVk d a b => Sys2Proof.Machine.execRotVk d a b s
  | .clz d b => Sys2Proof.Machine.execClz d b s
  | .clzVk d b => Sys2Proof.Machine.execClzVk d b s
  | .popc d b => Sys2Proof.Machine.execPopc d b s
  | .popcVk d b => Sys2Proof.Machine.execPopcVk d b s
  | .brev d b => Sys2Proof.Machine.execBrev d b s
  | .brevVk d b => Sys2Proof.Machine.execBrevVk d b s
  | .bfx d a b => Sys2Proof.Machine.execBfx d a b s
  | .bfxVk d a b => Sys2Proof.Machine.execBfxVk d a b s
  | .bfi d a b => Sys2Proof.Machine.execBfi d a b s
  | .bfiVk d a b => Sys2Proof.Machine.execBfiVk d a b s
  | .sel d a b => Sys2Proof.Machine.execSel d a b s
  | .selVk d a b => Sys2Proof.Machine.execSelVk d a b s
  | .mov d b => Sys2Proof.Machine.execMov d b s
  | .movk d b => Sys2Proof.Machine.execMovk d b s
  | .cmp d a b => Sys2Proof.Machine.execCmp d a b s
  | .cmpVk d a b => Sys2Proof.Machine.execCmpVk d a b s
  | .movi d imm => Sys2Proof.Machine.execMovi d imm s
  | .fadd d a b => Sys2Proof.Machine.execFadd d a b s
  | .faddVk d a b => Sys2Proof.Machine.execFaddVk d a b s
  | .fsub d a b => Sys2Proof.Machine.execFsub d a b s
  | .fsubVk d a b => Sys2Proof.Machine.execFsubVk d a b s
  | .fmul d a b => Sys2Proof.Machine.execFmul d a b s
  | .fmulVk d a b => Sys2Proof.Machine.execFmulVk d a b s
  | .fma d a b => Sys2Proof.Machine.execFma d a b s
  | .fmaVk d a b => Sys2Proof.Machine.execFmaVk d a b s
  | .fms d a b => Sys2Proof.Machine.execFms d a b s
  | .fmsVk d a b => Sys2Proof.Machine.execFmsVk d a b s
  | .fmin d a b => Sys2Proof.Machine.execFmin d a b s
  | .fminVk d a b => Sys2Proof.Machine.execFminVk d a b s
  | .fmax d a b => Sys2Proof.Machine.execFmax d a b s
  | .fmaxVk d a b => Sys2Proof.Machine.execFmaxVk d a b s
  | .fabs d b => Sys2Proof.Machine.execFabs d b s
  | .fabsVk d b => Sys2Proof.Machine.execFabsVk d b s
  | .fneg d b => Sys2Proof.Machine.execFneg d b s
  | .fnegVk d b => Sys2Proof.Machine.execFnegVk d b s
  | .fcmp d a b => Sys2Proof.Machine.execFcmp d a b s
  | .fcmpVk d a b => Sys2Proof.Machine.execFcmpVk d a b s
  | .fcvt d a b => Sys2Proof.Machine.execFcvt d a b s
  | .fcvtVk d a b => Sys2Proof.Machine.execFcvtVk d a b s
  | .frnd d b => Sys2Proof.Machine.execFrnd d b s
  | .frndVk d b => Sys2Proof.Machine.execFrndVk d b s
  | .fclass d b => Sys2Proof.Machine.execFclass d b s
  | .fclassVk d b => Sys2Proof.Machine.execFclassVk d b s
  | .fdot2 d a b => Sys2Proof.Machine.execFdot2 d a b s
  | .fdot2Vk d a b => Sys2Proof.Machine.execFdot2Vk d a b s
  | .idot4 d a b => Sys2Proof.Machine.execIdot4 d a b s
  | .idot4Vk d a b => Sys2Proof.Machine.execIdot4Vk d a b s
  | .frcp d b => Sys2Proof.Machine.execFrcp d b s
  | .frcpVk d b => Sys2Proof.Machine.execFrcpVk d b s
  | .frsq d b => Sys2Proof.Machine.execFrsq d b s
  | .frsqVk d b => Sys2Proof.Machine.execFrsqVk d b s
  | .fsqrt d b => Sys2Proof.Machine.execFsqrt d b s
  | .fsqrtVk d b => Sys2Proof.Machine.execFsqrtVk d b s
  | .fex2 d b => Sys2Proof.Machine.execFex2 d b s
  | .fex2Vk d b => Sys2Proof.Machine.execFex2Vk d b s
  | .flg2 d b => Sys2Proof.Machine.execFlg2 d b s
  | .flg2Vk d b => Sys2Proof.Machine.execFlg2Vk d b s
  | .ftanh d b => Sys2Proof.Machine.execFtanh d b s
  | .ftanhVk d b => Sys2Proof.Machine.execFtanhVk d b s
  | .pand d a b => Sys2Proof.Machine.execPand d a b s
  | .por d a b => Sys2Proof.Machine.execPor d a b s
  | .pxor d a b => Sys2Proof.Machine.execPxor d a b s
  | .pnot d b => Sys2Proof.Machine.execPnot d b s
  | .pmov d b => Sys2Proof.Machine.execPmov d b s
  | .shfl d a b => Sys2Proof.Machine.execShfl d a b s
  | .shflVk d a b => Sys2Proof.Machine.execShflVk d a b s
  | .bcast d a n => Sys2Proof.Machine.execBcast d a n s
  | .vote d a op => Sys2Proof.Machine.execVote d a op s
  | .lsum d f b => Sys2Proof.Machine.execLsum d f b s
  | .lscan d f b => Sys2Proof.Machine.execLscan d f b s
  | .kadd d a b => Sys2Proof.Machine.execKadd d a b s
  | .ksub d a b => Sys2Proof.Machine.execKsub d a b s
  | .kmul d a b => Sys2Proof.Machine.execKmul d a b s
  | .kmulh d a b => Sys2Proof.Machine.execKmulh d a b s
  | .kand d a b => Sys2Proof.Machine.execKand d a b s
  | .kor d a b => Sys2Proof.Machine.execKor d a b s
  | .kxor d a b => Sys2Proof.Machine.execKxor d a b s
  | .kshl d a b => Sys2Proof.Machine.execKshl d a b s
  | .kshr d a b => Sys2Proof.Machine.execKshr d a b s
  | .ksar d a b => Sys2Proof.Machine.execKsar d a b s
  | .kmin d a b => Sys2Proof.Machine.execKmin d a b s
  | .kmax d a b => Sys2Proof.Machine.execKmax d a b s
  | .kmov d b => Sys2Proof.Machine.execKmov d b s
  | .kmovi d imm => Sys2Proof.Machine.execKmovi d imm s
  | .kcmp d a b => Sys2Proof.Machine.execKcmp d a b s
  | .ksel d a b => Sys2Proof.Machine.execKsel d a b s
  | .qand d a b => Sys2Proof.Machine.execQand d a b s
  | .qor d a b => Sys2Proof.Machine.execQor d a b s
  | .qnot d b => Sys2Proof.Machine.execQnot d b s
  | .rqmove d a => Sys2Proof.Machine.execRqmove d a s
  | .br d imm => Sys2Proof.Machine.execBr d imm s
  | .jmp off => Sys2Proof.Machine.execJmp off s
  | .call off => Sys2Proof.Machine.execCall off s
  | .ret a => Sys2Proof.Machine.execRet a s
  | .jmpk a => Sys2Proof.Machine.execJmpk a s
  | .mkj imm => Sys2Proof.Machine.execMkj imm s
  | .brv d imm => Sys2Proof.Machine.execBrv d imm s
  | .jn => Sys2Proof.Machine.execJn s
  | .exitI => Sys2Proof.Machine.execExit s
  | .nop => Sys2Proof.Machine.execNop s
  | .mdset imm => Sys2Proof.Machine.execMdset imm s
  | .mdget d => Sys2Proof.Machine.execMdget d s
  | .lcrd d => Sys2Proof.Machine.execLcrd d s
  | .lcadv a => Sys2Proof.Machine.execLcadv a s
  | .cede a => Sys2Proof.Machine.execCede a s
  | .rqset a => Sys2Proof.Machine.execRqset a s
  | .ldB d a b => Sys2Proof.Machine.execLdB d a b s
  | .ldH d a b => Sys2Proof.Machine.execLdH d a b s
  | .ldW d a b => Sys2Proof.Machine.execLdW d a b s
  | .ldD d a b => Sys2Proof.Machine.execLdD d a b s
  | .ldQ d a b => Sys2Proof.Machine.execLdQ d a b s
  | .stB d a b => Sys2Proof.Machine.execStB d a b s
  | .stH d a b => Sys2Proof.Machine.execStH d a b s
  | .stW d a b => Sys2Proof.Machine.execStW d a b s
  | .stD d a b => Sys2Proof.Machine.execStD d a b s
  | .stQ d a b => Sys2Proof.Machine.execStQ d a b s
  | .ldk d a n => Sys2Proof.Machine.execLdk d a n s
  | .stk d a n => Sys2Proof.Machine.execStk d a n s
  | .ldsB d a b => Sys2Proof.Machine.execLdsB d a b s
  | .ldsH d a b => Sys2Proof.Machine.execLdsH d a b s
  | .ldsW d a b => Sys2Proof.Machine.execLdsW d a b s
  | .ldsD d a b => Sys2Proof.Machine.execLdsD d a b s
  | .ldsQ d a b => Sys2Proof.Machine.execLdsQ d a b s
  | .stsB d a b => Sys2Proof.Machine.execStsB d a b s
  | .stsH d a b => Sys2Proof.Machine.execStsH d a b s
  | .stsW d a b => Sys2Proof.Machine.execStsW d a b s
  | .stsD d a b => Sys2Proof.Machine.execStsD d a b s
  | .stsQ d a b => Sys2Proof.Machine.execStsQ d a b s
  | .pf h a b => Sys2Proof.Machine.execPf h a b s
  | .radd d a b => Sys2Proof.Machine.execRadd d a b s
  | .rfadd d a b => Sys2Proof.Machine.execRfadd d a b s
  | .rmin d a b => Sys2Proof.Machine.execRmin d a b s
  | .rmax d a b => Sys2Proof.Machine.execRmax d a b s
  | .rfmin d a b => Sys2Proof.Machine.execRfmin d a b s
  | .rfmax d a b => Sys2Proof.Machine.execRfmax d a b s
  | .rand d a b => Sys2Proof.Machine.execRand d a b s
  | .ror d a b => Sys2Proof.Machine.execRor d a b s
  | .rxor d a b => Sys2Proof.Machine.execRxor d a b s
  | .axchg d a b => Sys2Proof.Machine.execAxchg d a b s
  | .acas d a b => Sys2Proof.Machine.execAcas d a b s
  | .aadd d a b => Sys2Proof.Machine.execAadd d a b s
  | .amin d a b => Sys2Proof.Machine.execAmin d a b s
  | .amax d a b => Sys2Proof.Machine.execAmax d a b s
  | .aand d a b => Sys2Proof.Machine.execAand d a b s
  | .aor d a b => Sys2Proof.Machine.execAor d a b s
  | .axor d a b => Sys2Proof.Machine.execAxor d a b s
  | .ldacq d a => Sys2Proof.Machine.execLdacq d a s
  | .strel a b => Sys2Proof.Machine.execStrel a b s
  | .waita c a b => Sys2Proof.Machine.execWaita c a b s
  | .bar n cnt => Sys2Proof.Machine.execBar n cnt s
  | .bara n cnt => Sys2Proof.Machine.execBara n cnt s
  | .barw n => Sys2Proof.Machine.execBarw n s
  | .mma t a => Sys2Proof.Machine.execMma t a s
  | .mmaz t a => Sys2Proof.Machine.execMmaz t a s
  | .mfence d => Sys2Proof.Machine.execMfence d s
  | .mwait n => Sys2Proof.Machine.execMwait n s
  | .acczero t => Sys2Proof.Machine.execAcczero t s
  | .accrd d t b => Sys2Proof.Machine.execAccrd d t b s
  | .accwr t a b => Sys2Proof.Machine.execAccwr t a b s
  | .accdrain t a z way => Sys2Proof.Machine.execAccdrain t a z way s
  | .xfr ch a b => Sys2Proof.Machine.execXfr ch a b s
  | .xfrw => Sys2Proof.Machine.execXfrw s
  | .xfrq d => Sys2Proof.Machine.execXfrq d s
  | .stmc d a b => Sys2Proof.Machine.execStmc d a b s
  | .fenceSys => Sys2Proof.Machine.execFenceSys s
  | .fstat d => Sys2Proof.Machine.execFstat d s
  | .fclr a => Sys2Proof.Machine.execFclr a s
  | .trap n => Sys2Proof.Machine.execTrap n s
  | .asrt d b => Sys2Proof.Machine.execAsrt d b s
  | .rfe => Sys2Proof.Machine.execRfe s
  | .csrr d n => Sys2Proof.Machine.execCsrr d n s
  | .csrw a n => Sys2Proof.Machine.execCsrw a n s
  | .launch d a => Sys2Proof.Machine.execLaunch d a s
  | .objw a b => Sys2Proof.Machine.execObjw a b s
  | .objfence => Sys2Proof.Machine.execObjfence s
  | .tscrd d => Sys2Proof.Machine.execTscrd d s
  | .icinv a => Sys2Proof.Machine.execIcinv a s
  | .brkp n => Sys2Proof.Machine.execBrkp n s
  | .halt a => Sys2Proof.Machine.execHalt a s
  | .lit l w => Sys2Proof.Machine.execLit l w s
  | .unassignedFirstByte w => Sys2Proof.Machine.execUnassignedFirstByte w s
  | .instructionFetchFault l => Sys2Proof.Machine.execInstructionFetchFault l s
  | .turnPerform gid => Sys2Proof.Machine.execTurnPerform gid s
  | .cedeReentry gid => Sys2Proof.Machine.execCedeReentry gid s
  | .publicationApply n => Sys2Proof.Machine.execPublicationApply n s
  | .reductionContributionArrive n => Sys2Proof.Machine.execReductionContributionArrive n s
  | .copyEngineRead id => Sys2Proof.Machine.execCopyEngineRead id s
  | .matrixProductComplete gid => Sys2Proof.Machine.execMatrixProductComplete gid s
  | .systemCopyComplete id => Sys2Proof.Machine.execSystemCopyComplete id s
  | .legEnd => Sys2Proof.Machine.execLegEnd s
  | .progressMonitorTimeout part => Sys2Proof.Machine.execProgressMonitorTimeout part s
  | .serviceWriteApply n => Sys2Proof.Machine.execServiceWriteApply n s
  | .translationChangeComplete n => Sys2Proof.Machine.execTranslationChangeComplete n s
  | .movingDrainComplete n => Sys2Proof.Machine.execMovingDrainComplete n s
  | .directoryEntryDrop ln => Sys2Proof.Machine.execDirectoryEntryDrop ln s
  | .directoryError ln => Sys2Proof.Machine.execDirectoryError ln s
  | .uncorrectableData cno => Sys2Proof.Machine.execUncorrectableData cno s
  | .hostMemRead pa => Sys2Proof.Machine.execHostMemRead pa s
  | .hostMemWrite cno cells => Sys2Proof.Machine.execHostMemWrite cno cells s
  | .translationApertureWrite x val => Sys2Proof.Machine.execTranslationApertureWrite x val s
  | .hostSnoop ln => Sys2Proof.Machine.execHostSnoop ln s
  | .owner m val => Sys2Proof.Machine.execOwner m val s
  | .hbeat m => Sys2Proof.Machine.execHbeat m s
  | .heartbeatLapse => Sys2Proof.Machine.execHeartbeatLapse s
  | .dpcfg m val => Sys2Proof.Machine.execDpcfg m val s
  | .pstat m port val => Sys2Proof.Machine.execPstat m port val s
  | .sparePortBind m n val => Sys2Proof.Machine.execSparePortBind m n val s
  | .mgmtRegisterWrite m off val => Sys2Proof.Machine.execMgmtRegisterWrite m off val s
  | .contextStart m part cmd span => Sys2Proof.Machine.execContextStart m part cmd span s
  | .contextSuspend m part cmd => Sys2Proof.Machine.execContextSuspend m part cmd s
  | .contextResume m part cmd => Sys2Proof.Machine.execContextResume m part cmd s
  | .killContext m part cmd => Sys2Proof.Machine.execKillContext m part cmd s
  | .killLaunch m part cmd => Sys2Proof.Machine.execKillLaunch m part cmd s
  | .killBlock m part cmd => Sys2Proof.Machine.execKillBlock m part cmd s
  | .preEmptBlock m part cmd => Sys2Proof.Machine.execPreEmptBlock m part cmd s
  | .setParameterLegq m part cmd => Sys2Proof.Machine.execSetParameterLegq m part cmd s
  | .setParameterSeed m part cmd => Sys2Proof.Machine.execSetParameterSeed m part cmd s
  | .setParameterNondet m part cmd => Sys2Proof.Machine.execSetParameterNondet m part cmd s
  | .setParameterQuota m part cmd => Sys2Proof.Machine.execSetParameterQuota m part cmd s
  | .setParameterOvlb m part cmd => Sys2Proof.Machine.execSetParameterOvlb m part cmd s
  | .setParameterScrb m part cmd => Sys2Proof.Machine.execSetParameterScrb m part cmd s
  | .setParameterMctb m part cmd => Sys2Proof.Machine.execSetParameterMctb m part cmd s
  | .flitReceive port crcOk => Sys2Proof.Machine.execFlitReceive port crcOk s
  | .linkSilenceTimeout port => Sys2Proof.Machine.execLinkSilenceTimeout port s
  | .routerFailure => Sys2Proof.Machine.execRouterFailure s
  | .fabricReadRequest p => Sys2Proof.Machine.execFabricReadRequest p s
  | .readResponse p => Sys2Proof.Machine.execReadResponse p s
  | .lineWrite p => Sys2Proof.Machine.execLineWrite p s
  | .fabricPublication p => Sys2Proof.Machine.execFabricPublication p s
  | .fabricTurnEntry p => Sys2Proof.Machine.execFabricTurnEntry p s
  | .turnResult p => Sys2Proof.Machine.execTurnResult p s
  | .fabricDeferredReduction p => Sys2Proof.Machine.execFabricDeferredReduction p s
  | .combinedReduction p => Sys2Proof.Machine.execCombinedReduction p s
  | .routerCombine p => Sys2Proof.Machine.execRouterCombine p s
  | .multicastWrite p => Sys2Proof.Machine.execMulticastWrite p s
  | .acknowledgement p => Sys2Proof.Machine.execAcknowledgement p s
  | .failureNotice p => Sys2Proof.Machine.execFailureNotice p s
  | .legEndAgreement p => Sys2Proof.Machine.execLegEndAgreement p s
  | .reservedPacketType p => Sys2Proof.Machine.execReservedPacketType p s
  | .writeCombiningTimer n => Sys2Proof.Machine.execWriteCombiningTimer n s
  | .ringHop ring link => Sys2Proof.Machine.execRingHop ring link s
  | .packetEject ring endpoint => Sys2Proof.Machine.execPacketEject ring endpoint s
  | .powerOn fw => Sys2Proof.Machine.execPowerOn fw s
  | .dramTrainingComplete t => Sys2Proof.Machine.execDramTrainingComplete t s
  | .firmwareImageLoad fw => Sys2Proof.Machine.execFirmwareImageLoad fw s
  | .thermalTrip part => Sys2Proof.Machine.execThermalTrip part s
  | .spdmRequest req => Sys2Proof.Machine.execSpdmRequest req s
  | .linkTrained port => Sys2Proof.Machine.execLinkTrained port s

end Sys2Proof.Machine
end

