-- ==== Sys2Proof/Machine/Step.lean ====
section
/-! DEFINITION. One step of the module: what `schedule` chooses, and, where that is an instruction or a step of an agent, its meaning. -/

namespace Sys2Proof.Machine

/-- One step. -/
def step (s : State) : Host.Outcome State Fault Refusal :=
  match schedule s with
  | (t, some i) => exec i t
  | (t, none) => .next t

/-- The state with an instruction where `step` fetches next (DESIGN CHOICE, log 4). -/
def State.withFetchWord (s : State) (nbits w : Nat) : State := placeProgram (tableBytes nbits w) s

end Sys2Proof.Machine
end

