-- ==== Sys2Proof/Safety.lean ====
section
/-! DEFINITION. The terms of the statements: when a word executes, what a step leaves unchanged, what it writes, and the invariant. -/

namespace Sys2Proof.Machine

/-! ### When a word executes, and what it leaves alone -/

/-- The word passes the checks of its operands (R54) and, in the trap window, names only registers the window has (R300). -/
def Issues (i : Instr) (g : Group) : Prop := wellFormed i = true ∧ (g.inWin = true → windowOk i = true)

/-- The instruction is one word, of an assigned first byte: no `lit` pair, no failed fetch, no step of another agent. -/
def OneWord (i : Instr) : Prop := (encode i).length = 1 ∧ ∀ w, i ≠ .unassignedFirstByte w

/-- What an instruction may write of a group beside the PC and the clock: a vector register by its name, the last-result file, a
uniform register, a lane predicate, a uniform predicate, MD, C, the reconvergence stack, FPFLAGS. -/
inductive Loc where
  | v (n : Nat)
  | last
  | k (n : Nat)
  | p (n : Nat)
  | q (n : Nat)
  | md
  | lanes
  | joins
  | fpflags
  deriving DecidableEq, Repr

/-- The registers that names reach are the same but for those listed. -/
structure SameRegs (dst : List Loc) (g h : Group) : Prop where
  v : ∀ n : BitVec 8, .v n.toNat ∉ dst → (n.toNat < 240 ∨ 244 ≤ n.toNat) → h.readV n = g.readV n
  last : .last ∉ dst → ∀ n : BitVec 8, 240 ≤ n.toNat → n.toNat < 244 → h.readV n = g.readV n
  k : ∀ n : BitVec 8, .k n.toNat ∉ dst → h.readK n = g.readK n
  p : ∀ n, .p (n % 8) ∉ dst → h.readP n = g.readP n
  q : ∀ n, .q (n % 8) ∉ dst → h.readQ n = g.readQ n
  md : .md ∉ dst → h.md = g.md
  lanes : .lanes ∉ dst → h.lanes = g.lanes
  joins : .joins ∉ dst → h.joins = g.joins
  fpflags : .fpflags ∉ dst → h.fpflags = g.fpflags

/-- The group is the same but for the registers listed, the PC, the clock, and what belongs to the instruction in hand alone (completed
lanes, answers of remote loads, a store in parts, the status). Names reach one of the two sets of registers; the other is the same. -/
structure SameGroup (dst : List Loc) (g h : Group) : Prop where
  regs : SameRegs dst g h
  hidden : if g.inWin then h.main = g.main else h.win = g.win
  rest : h = { g with
    main := h.main, win := h.win, pc := h.pc, lc := h.lc, cmask := h.cmask, fills := h.fills, bulk := h.bulk, status := h.status, fpflags := h.fpflags }

/-- Nothing but the group in hand is changed: no byte of memory, nothing of the context, the module, the other contexts. -/
structure GroupOnly (s t : State) : Prop where
  ctx : t.cpu.ctx = s.cpu.ctx
  hw : t.cpu.hw = s.cpu.hw
  others : t.others = s.others
  inputs : t.inputs = s.inputs
  bytes : ∀ a, memByte t.mem a = memByte s.mem a

/-- Nothing but the group in hand and the directory of R284 is changed. -/
structure DirOnly (s t : State) : Prop where
  ctx : t.cpu.ctx = s.cpu.ctx
  hw : t.cpu.hw = { s.cpu.hw with dir := t.cpu.hw.dir }
  others : t.others = s.others
  inputs : t.inputs = s.inputs
  bytes : ∀ a, memByte t.mem a = memByte s.mem a

/-- The state with another content of the caches and directories (R283, R284). -/
def State.withDir (s : State) (d : Directory) : State := { s with cpu := { s.cpu with hw := { s.cpu.hw with dir := d } } }

/-- No group and no block of the context is out in its image, so that no step writes to one (R307, R308). -/
structure AllIn (x : Ctx) : Prop where
  groups : ∀ g ∈ x.groups, g.preempted = false
  blocks : ∀ b ∈ x.blocks, b.preempted = false
  here : x.status = .suspended ∨ x.status = .ended → x.imaged = false

/-- The same of every context of the module. -/
def NoneSaved (s : State) : Prop := ∀ x ∈ s.contexts, AllIn x

/-- The group has retired an instruction of this weight (R79) and goes on at this address. -/
structure Retired (weight : Nat) (pc : Dword) (g h : Group) : Prop where
  pc : h.pc = pc
  lc : h.lc = g.lc + weight
  running : h.status = .running
  cmask : h.cmask = 0

/-- The word i has retired, wrote nothing but the registers listed, and the group goes on at pc. -/
structure DidTo (i : Instr) (dst : List Loc) (pc : Dword) (s t : State) : Prop where
  only : GroupOnly s t
  same : SameGroup dst s.cpu.grp t.cpu.grp
  retired : Retired (weight i) pc s.cpu.grp t.cpu.grp

/-- The word i has retired and the group goes on at the word after it. -/
abbrev Did (i : Instr) (dst : List Loc) (s t : State) : Prop := DidTo i dst (s.cpu.grp.pc + 4) s t

/-- A code address n bytes further on: the object index does not change (R35, R156). -/
def CodeAt (pc : Dword) (n : Int) (p : Dword) : Prop :=
  p.extractLsb' 40 24 = pc.extractLsb' 40 24 ∧ ((p.extractLsb' 0 40).toNat : Int) = ((pc.extractLsb' 0 40).toNat + n) % 2 ^ 40

/-! ### What a word writes -/

/-- A name that an instruction may write, in the bank that names reach. -/
def Group.Writable (g : Group) (n : BitVec 8) : Prop := n.toNat < 240 ∧ (g.inWin = true → n.toNat < 32 ∨ 232 ≤ n.toNat)

/-- The vector registers that a result in d fills, with the last-result file (R40, R41). -/
def vecDst (wide : Bool) (d : BitVec 8) : List Loc :=
  if wide then [.v d.toNat, .v (d.toNat + 1), .last] else [.v d.toNat, .last]

/-- The last-result file after a result in d: one shift, or two for a pair, the high register first (R41). -/
def Shifted (wide : Bool) (d : BitVec 8) (g h : Group) : Prop :=
  if wide then h.readV 240 = h.readV d ∧ h.readV 241 = h.readV (d + 1) ∧ h.readV 242 = g.readV 240 ∧ h.readV 243 = g.readV 241
  else h.readV 240 = h.readV d ∧ h.readV 241 = g.readV 240 ∧ h.readV 242 = g.readV 241 ∧ h.readV 243 = g.readV 242

/-- The elements of a lane under the group's element type, and how many there are (R45). -/
def elems (g : Group) : Nat := if etyBits g.ety = 64 then 1 else 32 / etyBits g.ety
def elemIn (g : Group) (x : Dword) (e : Nat) : Nat := elemOf (etyBits g.ety) x e

/-- Register d after an instruction that works element by element (R46, R132): in an active lane the result of every element is as R
says of the lane and the element; an inactive lane keeps its value. -/
def ElemResults (d : BitVec 8) (g h : Group) (R : Nat → Nat → Nat → Prop) : Prop :=
  ∀ j : Fin 32,
    if g.active.getLsbD j then ∀ e < elems g, R j e (elemIn g (h.laneV (isWide g.ety) d j) e)
    else h.laneV (isWide g.ety) d j = g.laneV (isWide g.ety) d j

/-- Register d after an instruction that works on whole lanes, or pairs under i64 and u64. -/
def LaneResults (wide : Bool) (mask : Word) (d : BitVec 8) (g h : Group) (f : Nat → Dword) : Prop :=
  ∀ j : Fin 32, h.laneV wide d j = if mask.getLsbD j then (if wide then f j else (f j).setWidth 32 |>.setWidth 64) else g.laneV wide d j

/-! ### The vector integer and logic words by what they compute (R134 to R138) -/

/-- The mode check of R47 passes: the element type is accepted, and under i64 and u64 the operands name pairs (R40). -/
def VecMode (ok : Nat → Bool) (g : Group) (dsts srcs : List (BitVec 8)) (bs : List Src) : Prop :=
  ok g.ety = true ∧ (isWide g.ety = true →
    (∀ n ∈ dsts, pairOk true n = true) ∧ (∀ n ∈ srcs, pairOk false n = true) ∧ ∀ b ∈ bs, srcPair b = true)

/-- The element operations of R134 that take INT. -/
inductive IntOp where
  | add | sub | mul | mulh | mad | min | max | abs | neg | shl | shr | sar | rot | clz | popc | brev
  deriving DecidableEq, Repr

/-- One source (R44). -/
def IntOp.unary : IntOp → Bool
  | .abs | .neg | .clz | .popc | .brev => true
  | _ => false

/-- The word in its VV or VK form (R44). -/
def IntOp.word (o : IntOp) (d a : BitVec 8) (b : Src) : Instr :=
  match o, b with
  | .add, .v b => .add d a b
  | .add, .k b => .addVk d a b
  | .sub, .v b => .sub d a b
  | .sub, .k b => .subVk d a b
  | .mul, .v b => .mul d a b
  | .mul, .k b => .mulVk d a b
  | .mulh, .v b => .mulh d a b
  | .mulh, .k b => .mulhVk d a b
  | .mad, .v b => .mad d a b
  | .mad, .k b => .madVk d a b
  | .min, .v b => .minV d a b
  | .min, .k b => .minVk d a b
  | .max, .v b => .maxV d a b
  | .max, .k b => .maxVk d a b
  | .abs, .v b => .absV d b
  | .abs, .k b => .absVk d b
  | .neg, .v b => .negV d b
  | .neg, .k b => .negVk d b
  | .shl, .v b => .shl d a b
  | .shl, .k b => .shlVk d a b
  | .shr, .v b => .shr d a b
  | .shr, .k b => .shrVk d a b
  | .sar, .v b => .sar d a b
  | .sar, .k b => .sarVk d a b
  | .rot, .v b => .rot d a b
  | .rot, .k b => .rotVk d a b
  | .clz, .v b => .clz d b
  | .clz, .k b => .clzVk d b
  | .popc, .v b => .popc d b
  | .popc, .k b => .popcVk d b
  | .brev, .v b => .brev d b
  | .brev, .k b => .brevVk d b

/-- x stored in n bits: clamped to the range of the type under SAT, else modulo 2^n (R68). -/
def Fits (n : Nat) (signed sat : Bool) (x : Int) (r : Nat) : Prop :=
  if sat then toI n signed r = max (minI n signed) (min (maxI n signed) x) else (r : Int) = x % 2 ^ n

/-- The element result r of R134, R135 from the elements a, b and d. -/
def IntOp.Result (o : IntOp) (n : Nat) (signed sat : Bool) (a b d r : Nat) : Prop :=
  let x := toI n signed a
  let y := toI n signed b
  let z := toI n signed d
  match o with
  | .add => Fits n signed sat (x + y) r
  | .sub => Fits n signed sat (x - y) r
  | .mul => Fits n signed sat (x * y) r
  | .mad => Fits n signed sat (x * y + z) r
  | .abs => Fits n signed sat |y| r
  | .neg => Fits n signed sat (-y) r
  | .mulh => (r : Int) = x * y / 2 ^ n % 2 ^ n
  | .min => toI n signed r = Min.min x y
  | .max => toI n signed r = Max.max x y
  | .shl => r = a * 2 ^ b % 2 ^ n
  | .shr => r = a / 2 ^ b
  | .sar => toI n true r = toI n true a / 2 ^ b
  | .rot => ∀ i < n, r.testBit ((i + b) % n) = a.testBit i
  | .clz => r ≤ n ∧ b < 2 ^ (n - r) ∧ (r < n → 2 ^ (n - 1 - r) ≤ b)
  | .popc => r = ((Finset.range n).filter fun i => b.testBit i).card
  | .brev => ∀ i < n, r.testBit (n - 1 - i) = b.testBit i

/-- The bit-field words of R136. -/
inductive FieldOp where
  | bfx | bfi
  deriving DecidableEq, Repr

def FieldOp.word (o : FieldOp) (d a : BitVec 8) (b : Src) : Instr :=
  match o, b with
  | .bfx, .v b => .bfx d a b
  | .bfx, .k b => .bfxVk d a b
  | .bfi, .v b => .bfi d a b
  | .bfi, .k b => .bfiVk d a b

/-- R136: the field of l bits at pos, bit by bit. -/
def FieldOp.Result (o : FieldOp) (signed : Bool) (a b d r : Nat) : Prop :=
  let pos := b % 32
  let l := min (b / 2 ^ 8 % 2 ^ 6) (32 - pos)
  match o with
  | .bfx => ∀ i < 32, r.testBit i = if i < l then a.testBit (pos + i) else (signed && 0 < l && a.testBit (pos + l - 1))
  | .bfi => ∀ i < 32, r.testBit i = if pos ≤ i ∧ i < pos + l then a.testBit (i - pos) else d.testBit i

/-- The words of R134 that work on whole lanes or pairs. -/
inductive BitOp where
  | and | or | xor | andn | not | mov
  deriving DecidableEq, Repr

def BitOp.unary : BitOp → Bool
  | .not | .mov => true
  | _ => false

def BitOp.word (o : BitOp) (d a : BitVec 8) (b : Src) : Instr :=
  match o, b with
  | .and, .v b => .andV d a b
  | .and, .k b => .andVk d a b
  | .or, .v b => .orV d a b
  | .or, .k b => .orVk d a b
  | .xor, .v b => .xorV d a b
  | .xor, .k b => .xorVk d a b
  | .andn, .v b => .andn d a b
  | .andn, .k b => .andnVk d a b
  | .not, .v b => .notV d b
  | .not, .k b => .notVk d b
  | .mov, .v b => .mov d b
  | .mov, .k b => .movk d b

/-- Bit i of the result from bits i of a and b. -/
def BitOp.bit (o : BitOp) (a b : Bool) : Bool :=
  match o with
  | .and => a && b
  | .or => a || b
  | .xor => a != b
  | .andn => a && !b
  | .not => !b
  | .mov => b

/-! ### The floating words (R140 to R147) -/

/-- The exact rational value of a finite floating value. -/
def FV.rat : FV → Option ℚ
  | .fin neg m e => some ((if neg then -1 else 1) * m * (2 : ℚ) ^ e)
  | _ => none

/-- A floating operand's element, decoded with FTZ (R63). -/
def floatIn (g : Group) (x : Dword) (e : Nat) : FV := decodeF (etyFmt g.ety) g.ftz (elemIn g x e)

/-- An instruction that sets flags (R69): element results, each with its flags, and FPFLAGS the OR of what it was and of the flags of
the active lanes. -/
def FlagResults (d : BitVec 8) (g h : Group) (R : Nat → Nat → Nat → FFlags → Prop) : Prop :=
  ∃ fl : Nat → Nat → FFlags,
    ElemResults d g h (fun j e r => R j e r (fl j e)) ∧
    ∀ k < 5, h.fpflags.getLsbD k = true ↔
      g.fpflags.getLsbD k = true ∨ ∃ j < 32, g.active.getLsbD j = true ∧ ∃ e < elems g, (fl j e).getLsbD k = true

/-- The same for an instruction with one result a lane, in the whole of it: `fcvt`, `fdot2`. -/
def FlagLanes (wide : Bool) (d : BitVec 8) (g h : Group) (R : Nat → Dword → FFlags → Prop) : Prop :=
  ∃ fl : Nat → FFlags,
    (∀ j : Fin 32, if g.active.getLsbD j then R j (h.laneV wide d j) (fl j) else h.laneV wide d j = g.laneV wide d j) ∧
    ∀ k < 5, h.fpflags.getLsbD k = true ↔ g.fpflags.getLsbD k = true ∨ ∃ j < 32, g.active.getLsbD j = true ∧ (fl j).getLsbD k = true

/-- The floating arithmetic of R140. -/
inductive FltOp where
  | add | sub | mul | fma | fms
  deriving DecidableEq, Repr

def FltOp.word (o : FltOp) (d a : BitVec 8) (b : Src) : Instr :=
  match o, b with
  | .add, .v b => .fadd d a b
  | .add, .k b => .faddVk d a b
  | .sub, .v b => .fsub d a b
  | .sub, .k b => .fsubVk d a b
  | .mul, .v b => .fmul d a b
  | .mul, .k b => .fmulVk d a b
  | .fma, .v b => .fma d a b
  | .fma, .k b => .fmaVk d a b
  | .fms, .v b => .fms d a b
  | .fms, .k b => .fmsVk d a b

/-- The operation adds d (R140). -/
def FltOp.fused : FltOp → Bool
  | .fma | .fms => true
  | _ => false

/-- The terms of its exact sum; a product is one term. -/
def FltOp.terms (o : FltOp) (a b d : FV) : List FV :=
  match o with
  | .add => [a, b]
  | .sub => [a, b.neg]
  | .mul => [(a.mul b).1]
  | .fma => [(a.mul b).1, d]
  | .fms => [(a.mul b).1, d.neg]

/-- Its exact result on finite operands. -/
def FltOp.exact (o : FltOp) (a b d : ℚ) : ℚ :=
  match o with
  | .add => a + b
  | .sub => a - b
  | .mul => a * b
  | .fma => a * b + d
  | .fms => a * b - d

/-- Infinity times zero, in a product of the operation (R67, R140). -/
def FltOp.infZero (o : FltOp) (a b : FV) : Prop :=
  (o = .mul ∨ o = .fma ∨ o = .fms) ∧
    ((∃ n, a = .inf n) ∧ (∃ n e, b = .fin n 0 e) ∨ (∃ n, b = .inf n) ∧ (∃ n e, a = .fin n 0 e))

/-- The sign of an exact zero sum: that of the terms where they agree; else +0, and −0 under RDN (R67). -/
def zeroSign (rdn : Bool) (terms : List FV) : Bool :=
  if terms.all FV.isNeg then true else if terms.any FV.isNeg then rdn else false

/-- The element result r and the flags of R140 from the decoded elements. -/
def FltOp.Result (o : FltOp) (g : Group) (a b d : FV) (r : Nat) (fl : FFlags) : Prop :=
  let f := etyFmt g.ety
  let ts := o.terms a b d
  (o.infZero a b → r = nanF f ∧ fl = flagNV) ∧
  (¬ o.infZero a b → (a = .nan ∨ b = .nan ∨ o.fused = true ∧ d = .nan) → r = nanF f ∧ fl = 0) ∧
  (.nan ∉ ts → .inf true ∈ ts → .inf false ∈ ts → r = nanF f ∧ fl = flagNV) ∧
  (∀ n, .nan ∉ ts → .inf n ∈ ts → .inf (!n) ∉ ts → r = infF f n ∧ fl = 0) ∧
  (∀ x y z, a.rat = some x → b.rat = some y → (o.fused = true → d.rat = some z) →
    ∃ v, v.rat = some (o.exact x y z) ∧ (o.exact x y z = 0 → v.isNeg = zeroSign (g.rnd == 3) ts) ∧
      (r, fl) = toFormat f (rndNoSr g) g.sat g.ftz 0 v)

/-- `fmin`, `fmax` (R141). -/
inductive PickOp where
  | min | max
  deriving DecidableEq, Repr

def PickOp.word (o : PickOp) (d a : BitVec 8) (b : Src) : Instr :=
  match o, b with
  | .min, .v b => .fmin d a b
  | .min, .k b => .fminVk d a b
  | .max, .v b => .fmax d a b
  | .max, .k b => .fmaxVk d a b

/-- x is at or below y, −0 below +0 (R141); neither is NaN. -/
def FV.atMost (x y : FV) : Prop :=
  match x, y with
  | .inf true, _ => True
  | _, .inf false => True
  | .fin .., .fin .. => ∃ p q, x.rat = some p ∧ y.rat = some q ∧ (p < q ∨ p = q ∧ (x.isNeg = true ∨ y.isNeg = false))
  | _, _ => x = y

/-- The value chosen (R141), as its encoding reads without FTZ: a flushed input gives a zero. -/
def PickOp.Result (o : PickOp) (g : Group) (a b : FV) (r : Nat) : Prop :=
  let f := etyFmt g.ety
  let v := decodeF f false r
  (a = .nan → b = .nan → r = nanF f) ∧ (a = .nan → b ≠ .nan → v = b) ∧ (a ≠ .nan → b = .nan → v = a) ∧
    (a ≠ .nan → b ≠ .nan → (v = a ∨ v = b) ∧
      (match o with
       | .min => v.atMost a ∧ v.atMost b
       | .max => a.atMost v ∧ b.atMost v))

/-- `fabs`, `fneg` (R142). -/
inductive SignOp where
  | abs | neg
  deriving DecidableEq, Repr

def SignOp.word (o : SignOp) (d : BitVec 8) (b : Src) : Instr :=
  match o, b with
  | .abs, .v b => .fabs d b
  | .abs, .k b => .fabsVk d b
  | .neg, .v b => .fneg d b
  | .neg, .k b => .fnegVk d b

/-- The value bits and the sign bit of an encoding; a subnormal (R58, R63). -/
def lowBits (f : Fmt) (x : Nat) : Nat := x % 2 ^ (f.ebits + f.fbits)
def signBit (f : Fmt) (x : Nat) : Bool := x.testBit (f.ebits + f.fbits)
def subnormal (f : Fmt) (x : Nat) : Prop := 0 < lowBits f x ∧ lowBits f x < 2 ^ f.fbits

/-- The encoding x with its sign cleared or inverted; a flushed input is a zero, a NaN is canonical (R142). -/
def SignOp.Result (o : SignOp) (g : Group) (x r : Nat) : Prop :=
  let f := etyFmt g.ety
  let sign := match o with
    | .abs => false
    | .neg => !signBit f x
  if (2 ^ f.ebits - 1) * 2 ^ f.fbits < lowBits f x then r = nanF f
  else r = signF f sign + (if g.ftz = true ∧ lowBits f x < 2 ^ f.fbits then 0 else lowBits f x)

/-- A condition of `fcmp` (R48, R143) on two values. -/
def floatCond (c : Nat) (x y : FV) : Prop :=
  let ord := x ≠ .nan ∧ y ≠ .nan
  let eq := x = y ∨ ∃ p, x.rat = some p ∧ y.rat = some p
  match c with
  | 0 => ord ∧ eq
  | 1 => ¬ ord ∨ ¬ eq
  | 2 => ord ∧ x.atMost y ∧ ¬ eq
  | 3 => ord ∧ (x.atMost y ∨ eq)
  | 4 => ord ∧ y.atMost x ∧ ¬ eq
  | 5 => ord ∧ (y.atMost x ∨ eq)
  | 10 => ¬ ord
  | _ => ord

/-- The class bit of an encoding (R145), which FTZ does not touch. -/
def classBit (f : Fmt) (x : Nat) : Nat :=
  let top := (2 ^ f.ebits - 1) * 2 ^ f.fbits
  let m := lowBits f x
  if top < m then 8
  else if m = top then (if signBit f x then 0 else 7)
  else if 2 ^ f.fbits ≤ m then (if signBit f x then 1 else 6)
  else if 0 < m then (if signBit f x then 2 else 5)
  else if signBit f x then 3 else 4

/-- k is the integer that a mode rounds q to (R72, R144; R64 with a grid of spacing 1). -/
def RoundsToInt (mode : Nat) (q : ℚ) (k : Int) : Prop :=
  match mode with
  | 1 => k = (if q < 0 then ⌈q⌉ else ⌊q⌋)
  | 2 => k = ⌈q⌉
  | 3 => k = ⌊q⌋
  | _ => |q - k| ≤ 1 / 2 ∧ (|q - k| = 1 / 2 → k % 2 = 0)

/-- Conversion to an integer format of n bits (R72). -/
def ToInt (n : Nat) (signed : Bool) (mode : Nat) (sat : Bool) (x : FV) (r : Nat) (fl : FFlags) : Prop :=
  let odd := if signed then 2 ^ (n - 1) else 0
  match x with
  | .nan => r = (if sat then 0 else odd) ∧ fl = flagNV
  | .inf neg => (if sat then toI n signed r = (if neg then minI n signed else maxI n signed) else r = odd) ∧ fl = flagNV
  | .fin .. => ∃ q k, x.rat = some q ∧ RoundsToInt mode q k ∧
      (if maxI n signed < k then (if sat then toI n signed r = maxI n signed else r = odd) ∧ fl = flagNV
       else if k < minI n signed then (if sat then toI n signed r = minI n signed else r = odd) ∧ fl = flagNV
       else toI n signed r = k ∧ fl = if (k : ℚ) = q then 0 else flagNX)

/-- One word taken into the hash of R66. -/
def mixed (h w : Nat) : Nat :=
  let x := (h ^^^ w) * 0xA54FF53B % 2 ^ 32
  let y := (x ^^^ x / 2 ^ 15) * 0x2C1B3C6D % 2 ^ 32
  y ^^^ y / 2 ^ 12

/-- The hash of R66 of a sequence of words. -/
def mix (ws : List Nat) : Nat :=
  let h := ws.foldl mixed 0x3C6EF372
  let y := (h ^^^ ws.length) * 0x297A2D39 % 2 ^ 32
  y ^^^ y / 2 ^ 16

/-- The two words of a doubleword, the low one first. -/
def halves (x : Nat) : List Nat := [x % 2 ^ 32, x / 2 ^ 32 % 2 ^ 32]

/-- The transcendentals of R146. -/
inductive FnOp where
  | rcp | rsq | sqrt | ex2 | lg2 | tanh
  deriving DecidableEq, Repr

def FnOp.word (o : FnOp) (d : BitVec 8) (b : Src) : Instr :=
  match o, b with
  | .rcp, .v b => .frcp d b
  | .rcp, .k b => .frcpVk d b
  | .rsq, .v b => .frsq d b
  | .rsq, .k b => .frsqVk d b
  | .sqrt, .v b => .fsqrt d b
  | .sqrt, .k b => .fsqrtVk d b
  | .ex2, .v b => .fex2 d b
  | .ex2, .k b => .fex2Vk d b
  | .lg2, .v b => .flg2 d b
  | .lg2, .k b => .flg2Vk d b
  | .tanh, .v b => .ftanh d b
  | .tanh, .k b => .ftanhVk d b

/-- 1.0 of a format, with a sign. -/
def oneF (f : Fmt) (neg : Bool) : Nat := signF f neg + f.bias * 2 ^ f.fbits

/-- The special inputs of R146: the result and the flags where the table names one. -/
def FnOp.special (o : FnOp) (f : Fmt) (x : FV) : Option (Nat × FFlags) :=
  match o, x with
  | _, .nan => some (nanF f, 0)
  | .rcp, .inf n => some (signF f n, 0)
  | .rcp, .fin n 0 _ => some (infF f n, flagDZ)
  | .rsq, .inf true => some (nanF f, flagNV)
  | .rsq, .inf false => some (0, 0)
  | .rsq, .fin n 0 _ => some (infF f n, flagDZ)
  | .rsq, .fin true _ _ => some (nanF f, flagNV)
  | .sqrt, .inf true => some (nanF f, flagNV)
  | .sqrt, .inf false => some (infF f false, 0)
  | .sqrt, .fin n 0 _ => some (signF f n, 0)
  | .sqrt, .fin true _ _ => some (nanF f, flagNV)
  | .ex2, .inf true => some (0, 0)
  | .ex2, .inf false => some (infF f false, 0)
  | .ex2, .fin _ 0 _ => some (oneF f false, 0)
  | .lg2, .inf true => some (nanF f, flagNV)
  | .lg2, .inf false => some (infF f false, 0)
  | .lg2, .fin _ 0 _ => some (infF f true, flagDZ)
  | .lg2, .fin true _ _ => some (nanF f, flagNV)
  | .tanh, .inf n => some (oneF f n, 0)
  | .tanh, .fin n 0 _ => some (signF f n, 0)
  | _, _ => none

/-- Two magnitudes lie on the same side of every value of at most 25 significant bits: no format of at most 24 bits rounds them apart. -/
def SameSides (v q : ℝ) : Prop :=
  ∀ (n : ℕ) (e : ℤ), n < 2 ^ 25 → -300 ≤ e → e ≤ 300 → ((n * 2 ^ e < v ↔ n * 2 ^ e < q) ∧ (v < n * 2 ^ e ↔ q < n * 2 ^ e))

/-- q stands for the exact magnitude v: it rounds as v does, or differs from it by less than one part in 2^64. -/
def StandsFor (v q : ℝ) : Prop := SameSides v q ∨ |q - v| ≤ v / 2 ^ 64

/-- The sign and the magnitude q that are rounded for an ordinary input x (R146): of the algebraic functions one that rounds as the exact
result; of the others one that stands for it, and the exact result where that is a power of two or the logarithm of one. -/
def FnOp.Rounds (o : FnOp) (x : ℚ) (neg : Bool) (q : ℝ) : Prop :=
  match o with
  | .rcp => neg = decide (x < 0) ∧ q = |1 / (x : ℝ)|
  | .rsq => neg = false ∧ SameSides (1 / Real.sqrt x) q
  | .sqrt => neg = false ∧ SameSides (Real.sqrt x) q
  | .ex2 => neg = false ∧ StandsFor ((2 : ℝ) ^ (x : ℝ)) q ∧ ∀ k : ℤ, x = k → |k| < 4096 → q = 2 ^ k
  | .lg2 => (neg = true ↔ x < 1) ∧ StandsFor |Real.logb 2 x| q ∧ ∀ k : ℤ, x = 2 ^ k → q = |(k : ℝ)|
  | .tanh => neg = decide (x < 0) ∧ StandsFor |Real.tanh x| q

/-- The highest exponent of the finite values of a format, and the spacing of its top binade (R58, R64). -/
def topExp (f : Fmt) : Int := ((if f.top = .ieee then 2 ^ f.ebits - 2 else 2 ^ f.ebits - 1 : Nat) : Int) - f.bias

/-- k is the integer that SR rounds q to with the random word r: the part of q beyond the integer below it in magnitude, in units of
2^−32 without a remainder, carries with r into the next (R64). -/
def RoundsSr (r : Word) (q : ℚ) (k : Int) : Prop :=
  |k| = (if 2 ^ 32 ≤ ⌊(|q| - ⌊|q|⌋) * 2 ^ 32⌋ + r.toNat then ⌊|q|⌋ + 1 else ⌊|q|⌋) ∧ 0 ≤ k * q

/-- k is the integer that a mode of RND rounds q to, with the random word r under SR (R45, R64). -/
def RoundsBy (mode : Nat) (r : Word) (q : ℚ) (k : Int) : Prop := if mode = 4 then RoundsSr r q k else RoundsToInt mode q k

/-- The values of a format about q are 2^t apart, with no bound above (R58, R64). -/
def Spacing (f : Fmt) (q : ℚ) (t : Int) : Prop :=
  let low : Int := 1 - f.bias - f.fbits
  low ≤ t ∧ |q| < 2 ^ (t + f.fbits + 1) ∧ (t = low ∨ (2 : ℚ) ^ (t + f.fbits) ≤ |q|)

/-- q rounds beyond the largest finite value of a format, on the grid that goes on above it (R64). -/
def Overflows (f : Fmt) (mode : Nat) (r : Word) (q : ℚ) : Prop :=
  ∃ (k : Int) (M : ℚ), RoundsBy mode r (q / 2 ^ (topExp f - f.fbits)) k ∧ (decodeF f false (maxF f false)).rat = some M ∧
    M < |(k : ℚ)| * 2 ^ (topExp f - f.fbits)

/-- q, rounded to the significand width with an unbounded exponent, is below the smallest normal (R69). -/
def Tiny (f : Fmt) (mode : Nat) (r : Word) (q : ℚ) : Prop :=
  ∃ k : Int, RoundsBy mode r (q / 2 ^ (-(f.bias : Int) - f.fbits)) k ∧ |k| < 2 ^ (f.fbits + 1)

/-- The dot products (R147, R148). -/
def fdot2Word (d a : BitVec 8) : Src → Instr
  | .v b => .fdot2 d a b
  | .k b => .fdot2Vk d a b
def idot4Word (d a : BitVec 8) : Src → Instr
  | .v b => .idot4 d a b
  | .k b => .idot4Vk d a b

/-! ### Predicates, lanes, uniform words, control (R149 to R171) -/

/-- The lane predicate words of R150. -/
inductive PredOp where
  | and | or | xor | not
  deriving DecidableEq, Repr

def PredOp.word (o : PredOp) (d a b : BitVec 8) : Instr :=
  match o with
  | .and => .pand d a b
  | .or => .por d a b
  | .xor => .pxor d a b
  | .not => .pnot d b

def PredOp.bit (o : PredOp) (a b : Bool) : Bool :=
  match o with
  | .and => a && b
  | .or => a || b
  | .xor => a != b
  | .not => !b

/-- The cross-lane moves (R151, R152), with the lane that lane j takes. -/
inductive MoveOp where
  | shflV (b : BitVec 8)
  | shflK (b : BitVec 8)
  | bcast (n : BitVec 5)
  deriving DecidableEq, Repr

def MoveOp.word (o : MoveOp) (d a : BitVec 8) : Instr :=
  match o with
  | .shflV b => .shfl d a b
  | .shflK b => .shflVk d a b
  | .bcast n => .bcast d a n

def MoveOp.lane (o : MoveOp) (g : Group) (j : Nat) : Nat :=
  match o with
  | .shflV b => (laneAt (g.readV b) j).toNat % 32
  | .shflK b => (g.readK b).toNat % 32
  | .bcast n => n.toNat

/-- The active lanes in which a predicate is true. -/
def trueLanes (g : Group) (a : BitVec 8) : Finset Nat :=
  (Finset.range 32).filter fun j => g.active.getLsbD j = true ∧ (g.readP a.toNat).getLsbD j = true

/-- The tree of R77 and the sequence of R78 over an addition. -/
def treeOf {α : Type} (add : α → α → α) : Nat → (Nat → α) → Nat → α
  | 0, x, i => x i
  | n + 1, x, i => add (treeOf add n x (2 * i)) (treeOf add n x (2 * i + 1))
def prefixOf {α : Type} (add : α → α → α) (zero : α) (x : Nat → α) : Nat → α
  | 0 => add zero (x 0)
  | n + 1 => add (prefixOf add zero x n) (x (n + 1))

/-- `lsum` or `lscan` of the elements x, in lane i. -/
def crossOf {α : Type} (scan : Bool) (add : α → α → α) (zero : α) (x : Nat → α) (i : Nat) : α :=
  if scan then prefixOf add zero x i else treeOf add 5 x 0

def crossWord (scan : Bool) (d : BitVec 8) (f : BitVec 1) (b : BitVec 8) : Instr := if scan then .lscan d f b else .lsum d f b

/-- The uniform words that write a uniform register from two (R155). -/
inductive UniOp where
  | add | sub | mul | mulh | and | or | xor | shl | shr | sar | min | max
  deriving DecidableEq, Repr

def UniOp.word (o : UniOp) (d a b : BitVec 8) : Instr :=
  match o with
  | .add => .kadd d a b
  | .sub => .ksub d a b
  | .mul => .kmul d a b
  | .mulh => .kmulh d a b
  | .and => .kand d a b
  | .or => .kor d a b
  | .xor => .kxor d a b
  | .shl => .kshl d a b
  | .shr => .kshr d a b
  | .sar => .ksar d a b
  | .min => .kmin d a b
  | .max => .kmax d a b

/-- The result of R155. -/
def UniOp.Result (o : UniOp) (a b r : Word) : Prop :=
  match o with
  | .add => r.toNat = (a.toNat + b.toNat) % 2 ^ 32
  | .sub => (r.toNat : Int) = ((a.toNat : Int) - b.toNat) % 2 ^ 32
  | .mul => r.toNat = a.toNat * b.toNat % 2 ^ 32
  | .mulh => r.toInt = a.toInt * b.toInt / 2 ^ 32
  | .and => ∀ k < 32, r.getLsbD k = (a.getLsbD k && b.getLsbD k)
  | .or => ∀ k < 32, r.getLsbD k = (a.getLsbD k || b.getLsbD k)
  | .xor => ∀ k < 32, r.getLsbD k = (a.getLsbD k != b.getLsbD k)
  | .shl => r.toNat = a.toNat * 2 ^ b.toNat % 2 ^ 32
  | .shr => r.toNat = a.toNat / 2 ^ b.toNat
  | .sar => r.toInt = a.toInt / 2 ^ b.toNat
  | .min => r.toInt = Min.min a.toInt b.toInt
  | .max => r.toInt = Max.max a.toInt b.toInt

/-- The group after a word that retires with this PC; registers and other fields are as they were. -/
def Group.after (g : Group) (i : Instr) (pc : Dword) : Group :=
  { g with pc := pc, lc := g.lc + weight i, cmask := 0, fills := [], bulk := false, status := .running }

/-- A code address that may be jumped to (R158). -/
def JumpTarget (s : State) (p : Dword) : Prop :=
  p.toNat % 4 = 0 ∧ ∃ r, s.cpu.record s.mem (baseObj p) = some r ∧ baseOff p + 4 ≤ r.ext ∧ hasPerm r 4 = true

/-! ### Traps (R294 to R304) -/

/-- The context is suspended with an entry of this class, and the group keeps every register (R296). -/
def SuspendedWith (cls detail : Nat) (s t : State) : Prop :=
  t.cpu.ctx = { s.cpu.ctx with status := .suspended, imaged := false } ∧
    t.cpu.hw = { s.cpu.hw with log := s.cpu.hw.log ++ [⟨sourceOf s.cpu.hw cls, cls, detail, ctxId s.cpu.ctx, 0⟩] }

/-- The frame of a trap (R299): classes 9 to 15 record no word, and classes 1, 6, 7 and 8 no completed lanes (R315). -/
def frameOf (g : Group) (word : Word) (lit : Option (BitVec 24)) (e : Trap) (nmore : Nat) : Frame where
  pc := g.pc
  pcEntry := g.pc
  lc := BitVec.ofNat 64 g.lc
  vlc := (g.view.map fun v => BitVec.ofNat 64 v.1.lc).getD 0
  vgid := (g.view.map fun v => BitVec.ofNat 64 v.1.gid).getD 0
  vsc := match g.view with
    | some (_, .device) => 1
    | some (_, .system) => 2
    | _ => 0
  cls := BitVec.ofNat 8 e.cls
  code := BitVec.ofNat 16 e.code
  word := if 9 ≤ e.cls then 0 else word
  lit := lit.isSome
  ext := lit.getD 0
  faddr := e.faddr
  fmask := e.fmask
  cmask := if e.cls = 1 ∨ 6 ≤ e.cls ∧ e.cls ≤ 8 then 0 else g.cmask
  nmore := BitVec.ofNat 32 nmore
  info0 := e.info0
  info1 := e.info1

/-- Taking a user-level trap (R296, R301): a trap in the window suspends the context with class 38 and writes no frame; without a handler
the frame is written and the context is suspended with class 39; else the group enters its window, whose k0:k1, k2, MD, C and stack are
loaded, and goes on at the handler. LC and the interrupted registers do not change, nor does anything outside the group. -/
structure TakesTrap (word : Word) (lit : Option (BitVec 24)) (e : Trap) (nmore : Nat) (s t : State) : Prop where
  others : t.others = s.others
  inputs : t.inputs = s.inputs
  bytes : ∀ a, memByte t.mem a = memByte s.mem a
  nested : s.cpu.grp.inWin = true → SuspendedWith 38 e.cls s t ∧ t.cpu.grp = { s.cpu.grp with fills := [], bulk := false, status := .running }
  unhandled : s.cpu.grp.inWin = false → s.cpu.grp.trapv.toNat / 4 = 0 → SuspendedWith 39 e.cls s t ∧
    t.cpu.grp = { s.cpu.grp with
      frame := frameOf s.cpu.grp word lit e nmore, cmask := (frameOf s.cpu.grp word lit e nmore).cmask, fills := [], bulk := false, status := .running }
  entered : s.cpu.grp.inWin = false → s.cpu.grp.trapv.toNat / 4 ≠ 0 → t.cpu.ctx = s.cpu.ctx ∧ t.cpu.hw = s.cpu.hw ∧
    let g := s.cpu.grp
    let h := t.cpu.grp
    h = { g with frame := frameOf g word lit e nmore, cmask := 0, inWin := true, pc := h.pc, win := h.win, fills := [], bulk := false, status := .running } ∧
      h.pc.toNat = g.trapv.toNat / 4 * 4 ∧ h.readKK 0 = BitVec.ofNat 64 (imageVA g) ∧
      (h.readK 2).toNat = e.code % 2 ^ 16 * 2 ^ 16 + e.cls % 2 ^ 8 ∧ h.md = 7 ∧ h.lanes = 0xFFFFFFFF ∧ h.joins = [] ∧
      (∀ n : BitVec 8, 3 ≤ n.toNat → n.toNat < 32 → h.readK n = g.win.readK n.toNat) ∧ h.win.v = g.win.v ∧ h.win.o = g.win.o ∧
      h.win.l = g.win.l ∧ h.win.p = g.win.p ∧ h.win.q = g.win.q

/-- A trap that reports the PC of the word (R295). -/
def atPc (g : Group) (cls code : Nat) : Trap := ⟨cls, code, g.pc, 0, 0, 0⟩

/-- A trap that reports an address. -/
def atAddr (cls code addr : Nat) (lanes : Word) : Trap := ⟨cls, code, BitVec.ofNat 64 addr, lanes, 0, 0⟩

/-- The words that need system level, or a NONDET bit, and the group may not execute (R249, R253, R270). -/
def Forbidden (g : Group) (x : Ctx) : Instr → Prop
  | .objw _ _ => g.sys = false
  | .objfence => g.sys = false
  | .halt _ => g.sys = false
  | .csrr _ n => (7 ≤ n.toNat ∧ n.toNat ≤ 11 ∧ g.sys = false) ∨ (n = 12 ∧ x.nondet.getLsbD 0 = false)
  | .csrw _ n => (n = 8 ∨ n = 9) ∧ g.sys = false
  | .tscrd _ => x.nondet.getLsbD 0 = false
  | .launch _ a => (lrecOf (launchWords g a)).sys = true ∧ g.sys = false
  | _ => False

/-! ### System words (R248 to R274) -/

/-- A stop of the group as at a leg boundary (R267, R268, R274): it is recorded in the context, and the group issues nothing. -/
def StopsAt (r : StopRec) (g' : Group) (s t : State) : Prop :=
  t.cpu.hw = s.cpu.hw ∧ t.others = s.others ∧ t.inputs = s.inputs ∧ (∀ a, memByte t.mem a = memByte s.mem a) ∧
    t.cpu.ctx = { s.cpu.ctx with stops := s.cpu.ctx.stops ++ [r] } ∧ t.cpu.grp = { g' with status := .stopped r.why }

/-- A control register's value (R253, R254). -/
def csrRead (x : Ctx) (g : Group) : Nat → Dword
  | 0 => (x.dpart ++ x.number).setWidth 64
  | 1 => BitVec.ofNat 64 x.legq
  | 2 => x.seed.setWidth 64
  | 3 => if x.nondet.getLsbD 0 then 1 else 0
  | 4 => g.fpflags.setWidth 64
  | 5 => g.trapv
  | 6 => g.fstat.setWidth 64
  | 7 => BitVec.ofNat 64 x.dq
  | 8 => x.objtb
  | 9 => x.tmplb
  | 10 => x.ovlb
  | 11 => x.scrb
  | _ => 0

/-- Nothing beside the group and its context changes. -/
structure CtxOnly (s t : State) : Prop where
  hw : t.cpu.hw = s.cpu.hw
  others : t.others = s.others
  inputs : t.inputs = s.inputs
  bytes : ∀ a, memByte t.mem a = memByte s.mem a

/-- A turn entry has been sent to a queue of this module (R81), and the group waits for its turn; it publishes nothing. -/
def Sends (e : Entry) (w : TurnWait) (s t : State) : Prop :=
  CtxOnly s t ∧ t.cpu.grp = { s.cpu.grp with status := .turn w } ∧ t.cpu.ctx = { s.cpu.ctx with queue := s.cpu.ctx.queue ++ [e] }

/-- The module once a translation dword has been written by an `objw` or by the host: a race with the other path is logged (R287). -/
def raceHw (h : Module) (x : Ctx) (pa : Nat) (host : Bool) : Module :=
  if (pa, !host) ∈ x.xlatLeg then { h with
    events := h.events ++ [⟨sourceOf h 5, x.dpart.toNat, ctxId x, 5, 0, 0, BitVec.ofNat 64 pa⟩]
    log := h.log ++ [⟨sourceOf h 40, 40, 5, ctxId x, BitVec.ofNat 64 pa⟩] }
  else h

/-- The writes of translation dwords that the leg remembers, with one more. -/
def RaceNoted (pa : Nat) (host : Bool) (x y : Ctx) : Prop := ∀ q, q ∈ y.xlatLeg ↔ q ∈ x.xlatLeg ∨ q = (pa, host)

/-! ### Memory (R100 to R128, R172 to R181) -/

/-- The group is the same but for the registers listed, what SameGroup leaves open, and its sketch. -/
def SameButSketch (dst : List Loc) (g h : Group) : Prop := SameGroup dst { g with sketch := h.sketch } h

/-- What holds an access up by the STATE of its sub-tile (R281): stores that reach the frame, and reductions, wait on a zero one too. -/
def waitsOnZero (r : Record) : Access → Bool
  | .store => storesThrough r
  | .reduce => true
  | _ => false

/-- An access of `size` bytes that passes the checks of R128 in their order (alignment, extent, permission, mode) and that no sub-tile
holds up (R281). -/
def Reach (s : State) (kind : Access) (align size obj : Nat) (off : Int) : Prop :=
  off % (align : Int) = 0 ∧ ∃ r, s.cpu.record s.mem obj = some r ∧ 0 ≤ off ∧ off + size ≤ r.ext ∧ obj ≠ 1 ∧ permOk r kind = true ∧
    modeRefuses r s.cpu.grp.gid kind = false ∧ accessBlock s.mem r (waitsOnZero r kind) off.toNat size = none

/-- The byte is homed on this module. -/
def LocalByte (s : State) (va : Nat) : Prop := ∀ r, s.cpu.record s.mem (vaObj va) = some r → homedAway s.cpu.hw r (vaOff va) = none

/-- The byte is homed here, or its home's answer has arrived, or the group's own sketch holds it (R343). -/
def Present (s : State) (va : Nat) : Prop :=
  LocalByte s va ∨ (get? s.cpu.grp.fills (lineOf va)).isSome = true ∨ (sketchByte s.cpu.grp.sketch va).isSome = true

/-- The byte of a virtual address as the group in hand loads it (R100, R103). -/
def seenByte (s : State) (va : Nat) : Byte :=
  match s.cpu.record s.mem (vaObj va) with
  | some r => loadByte s.cpu s.mem r va
  | none => 0

/-- Beside the group: the directory of R284, the tags of R104, the marks of R106 and the write-through bytes of R103 may change, nothing
else, and of the last three only what is listed. -/
structure MemoryOnly (marks : Mark → Prop) (tags : Tag → Prop) (s t : State) : Prop where
  hw : t.cpu.hw = { s.cpu.hw with dir := t.cpu.hw.dir }
  ctx : t.cpu.ctx = { s.cpu.ctx with ptags := t.cpu.ctx.ptags, marks := t.cpu.ctx.marks, parcel := t.cpu.ctx.parcel }
  marks : ∀ k, k ∈ t.cpu.ctx.marks ↔ k ∈ s.cpu.ctx.marks ∨ marks k
  tags : ∀ k, k ∈ t.cpu.ctx.ptags ↔ k ∈ s.cpu.ctx.ptags ∨ tags k
  others : t.others = s.others
  inputs : t.inputs = s.inputs
  bytes : ∀ a, memByte t.mem a = memByte s.mem a

/-- The tags that an access of the bytes P sets (R104). -/
def tagsOf (s : State) (obj : Nat) (wrote : Bool) (P : Nat → Prop) (k : Tag) : Prop :=
  ∃ r a, s.cpu.record s.mem obj = some r ∧ (r.mode = 1 ∨ r.mode = 3) ∧ P a ∧ homedAway s.cpu.hw r (vaOff a) = none ∧
    k = ⟨lineOf a, s.cpu.grp.gid, wrote⟩

/-- The plain marks of the stored bytes P (R106). -/
def plainMarks (s : State) (P : Nat → Prop) (k : Mark) : Prop :=
  ∃ a, P a ∧ k = ⟨a - a % 4, 1, 0, none, s.cpu.grp.gid, s.cpu.hw.number⟩

/-- The bytes of an access of some lanes. -/
def lanesBytes (lanes : List Nat) (addr : Nat → Nat) (size : Nat) (a : Nat) : Prop := ∃ j ∈ lanes, addr j ≤ a ∧ a < addr j + size

/-- What a store of some lanes leaves where `now` reads (R175): a byte that several lanes name holds the highest one's; every other byte is
as it was. -/
def StoredBytes {α : Type} (w : Byte → α) (lanes : List Nat) (addr val : Nat → Nat) (size : Nat) (old now : Nat → α) : Prop :=
  (∀ j ∈ lanes, ∀ k < size, (∀ l ∈ lanes, j < l → ¬ (addr l ≤ addr j + k ∧ addr j + k < addr l + size)) →
    now (addr j + k) = w (BitVec.ofNat 8 (val j / 256 ^ k))) ∧
  ∀ a, ¬ lanesBytes lanes addr size a → now a = old a

/-- The vector registers that a load fills; with the last-result file, which shifts at its retirement (R176, R41). -/
def loadRegs (size : Nat) (d : BitVec 8) : List Loc := (List.range (regsOf size)).map fun i => .v (d + BitVec.ofNat 8 i).toNat
def loadDst (size : Nat) (d : BitVec 8) : List Loc := .last :: loadRegs size d

/-- The lanes listed have taken their words, the others keep theirs (R174, R176). -/
def LanesLoaded (size : Nat) (d : BitVec 8) (lanes : List Nat) (val : Nat → Nat) (g h : Group) : Prop :=
  ∀ i < regsOf size, ∀ j : Fin 32, laneAt (h.readV (d + BitVec.ofNat 8 i)) j =
    if j.val ∈ lanes then BitVec.ofNat 32 (val j / 2 ^ (32 * i)) else laneAt (g.readV (d + BitVec.ofNat 8 i)) j

/-- The registers after a load of values by lane, which has retired: as LanesLoaded, and the last-result file shifts once per register, in
ascending order (R174, R176, R41). -/
def Loaded (size : Nat) (d : BitVec 8) (lanes : List Nat) (val : Nat → Nat) (g h : Group) : Prop :=
  let n := regsOf size
  LanesLoaded size d lanes val g h ∧ ∀ q < 4, h.readV (BitVec.ofNat 8 (240 + q)) =
    if q < n then h.readV (d + BitVec.ofNat 8 (n - 1 - q)) else g.readV (BitVec.ofNat 8 (240 + q - n))

/-- The loads and stores of a size, of memory and of the scratchpad. -/
def loadWord (size : Nat) (d a b : BitVec 8) : Instr :=
  match size with
  | 1 => .ldB d a b
  | 2 => .ldH d a b
  | 4 => .ldW d a b
  | 8 => .ldD d a b
  | _ => .ldQ d a b
def storeWord (size : Nat) (d a b : BitVec 8) : Instr :=
  match size with
  | 1 => .stB d a b
  | 2 => .stH d a b
  | 4 => .stW d a b
  | 8 => .stD d a b
  | _ => .stQ d a b
def padLoadWord (size : Nat) (d a b : BitVec 8) : Instr :=
  match size with
  | 1 => .ldsB d a b
  | 2 => .ldsH d a b
  | 4 => .ldsW d a b
  | 8 => .ldsD d a b
  | _ => .ldsQ d a b
def padStoreWord (size : Nat) (d a b : BitVec 8) : Instr :=
  match size with
  | 1 => .stsB d a b
  | 2 => .stsH d a b
  | 4 => .stsW d a b
  | 8 => .stsD d a b
  | _ => .stsQ d a b

/-- The five sizes of R174. -/
def sizes : List Nat := [1, 2, 4, 8, 16]

/-- The state without the answers of remote loads that the group holds for the instruction in hand (R343). -/
def State.forget (s : State) : State := { s with cpu := { s.cpu with grp := { s.cpu.grp with fills := [] } } }

/-- The lines of a store, without repeats. -/
def LinesOf (P : Nat → Prop) (ls : List Nat) : Prop := ls.Nodup ∧ ∀ l, l ∈ ls ↔ ∃ a, P a ∧ lineOf a = l

/-- The lines that the sketch would hold with those of a store (R88). -/
def sketchWith (g : Group) (ls : List Nat) : Nat := g.sketch.length + (ls.filter fun l => (get? g.sketch l).isNone).length

/-- A store stays on this module, and, in a PARCEL or PRIVATE object, meets no byte of the sketch (whose stores do not go there); a store to
the sketch is not the rest of one that waited on translation and of which other lanes were released (R89, R305). -/
def PlainTarget (s : State) (r : Record) (P : Nat → Prop) : Prop :=
  (storesThrough r = false → s.cpu.grp.bulk = false) ∧ ∀ a, P a → homedAway s.cpu.hw r (vaOff a) = none ∧ (storesThrough r = true → sketchByte s.cpu.grp.sketch a = none)

/-- Publications of sketch lines to homes on this module, at a stamp (R81). -/
def published (st : Stamp) (sk : List (Nat × Cells)) : List Flying := sk.map fun l => .publication st l.2

/-- What every other group reads at a home is unchanged: the stores of this leg are not seen before their turn (R100, R103). -/
def OthersSee (s t : State) : Prop :=
  ∀ r gid view a, gid ≠ s.cpu.grp.gid → homeByte t.cpu t.mem r gid view a = homeByte s.cpu s.mem r gid view a

/-! ### Ordering operations, barriers, reductions (R182 to R192) -/

/-- The word of an ordering operation (R183, R185). -/
def orderWord (op : AOp) (cond : BitVec 4) (d a b : BitVec 8) : Instr :=
  match op with
  | .axchg => .axchg d a b
  | .acas => .acas d a b
  | .aadd => .aadd d a b
  | .amin => .amin d a b
  | .amax => .amax d a b
  | .aand => .aand d a b
  | .aor => .aor d a b
  | .axor => .axor d a b
  | .ldacq => .ldacq d a
  | .strel => .strel a b
  | .waita => .waita cond a b

/-- The registers that it writes and reads, and the element types that it takes (R182, R183, R185). -/
def orderDst (op : AOp) (d : BitVec 8) : Option (BitVec 8) :=
  match op with
  | .strel => none
  | .waita => none
  | _ => some d
def orderSrcs (op : AOp) (b : BitVec 8) : List (BitVec 8) :=
  match op with
  | .ldacq => []
  | _ => [b]
def orderTypes (op : AOp) (cond : BitVec 4) : Nat → Bool :=
  match op with
  | .aadd => isCmpI
  | .amin => isCmpI
  | .amax => isCmpI
  | .waita => fun ty => cond.toNat < 2 || isCmpI ty
  | _ => isAny

/-- Its entry: source and comparand are those of one lane; `waita` compares with b and carries its condition (R84, R183, R185). -/
def orderEntry (op : AOp) (cond : BitVec 4) (d b : BitVec 8) (g : Group) (addr lam : Nat) : TurnOp :=
  let w := isWide g.ety
  let x := fun n : BitVec 8 => g.laneV w n lam
  match op with
  | .ldacq => .atomic op 0 addr w (etySigned g.ety) 0 0
  | .strel => .atomic op 0 addr w (etySigned g.ety) (x b) 0
  | .waita => .atomic op cond addr w (etySigned g.ety) 0 (x b)
  | _ => .atomic op 0 addr w (etySigned g.ety) (x b) (x d)

/-- It releases (R183). -/
def orderReleases : AOp → Bool
  | .ldacq => false
  | .waita => false
  | _ => true

/-- The place that a space field names with no displacement (R173): an offset, and an address. -/
def spaceOff (g : Group) (a : BitVec 8) : Nat := if a.toNat / 64 = 0 then spaceBase g a else baseOff (g.readKK (a &&& 63))
def spaceAddr (g : Group) (a : BitVec 8) : Nat := if a.toNat / 64 = 0 then spaceBase g a else (g.readKK (a &&& 63)).toNat

/-- Its checks pass (R184): in the scratchpad alignment and extent; else those of R128, on this module, and at device scope the word must
be homed here. -/
def AimOk (s : State) (a : BitVec 8) (size : Nat) : Prop :=
  let g := s.cpu.grp
  let off := spaceOff g a
  if a.toNat / 64 = 0 then off % size = 0 ∧ ∃ p, s.cpu.ctx.block g = some p ∧ padValid p off size = true
  else
    let obj := baseObj (g.readKK (a &&& 63))
    Reach s .order size size obj off ∧ ∀ r, s.cpu.record s.mem obj = some r →
      homedAway s.cpu.hw r off = none ∧ (a.toNat / 64 = 1 → homedHere s.cpu.hw r off = true)

/-- Beside the group only the directory of R284, the queue and what is on its way to homes may have changed. -/
structure SendOnly (s t : State) : Prop where
  hw : t.cpu.hw = { s.cpu.hw with dir := t.cpu.hw.dir }
  ctx : t.cpu.ctx = { s.cpu.ctx with queue := t.cpu.ctx.queue, flight := t.cpu.ctx.flight }
  others : t.others = s.others
  inputs : t.inputs = s.inputs
  bytes : ∀ a, memByte t.mem a = memByte s.mem a

/-- The word of a deferred reduction, and the element types that it takes (R188). -/
def reduceWord (op : ROp) (d a b : BitVec 8) : Instr :=
  match op with
  | .radd => .radd d a b
  | .rfadd => .rfadd d a b
  | .rmin => .rmin d a b
  | .rmax => .rmax d a b
  | .rfmin => .rfmin d a b
  | .rfmax => .rfmax d a b
  | .rand => .rand d a b
  | .ror => .ror d a b
  | .rxor => .rxor d a b
def reduceTypes : ROp → Nat → Bool
  | .radd => isInt
  | .rmin => isInt
  | .rmax => isInt
  | .rfadd => isFlt
  | .rfmin => isFlt
  | .rfmax => isFlt
  | _ => isAny

/-- The contributions of a reduction: one per element of each active lane, at its own bytes within the lane's span (R187). -/
def Contributes (op : ROp) (g : Group) (d : BitVec 8) (addr : Nat → Nat) (l : List Contrib) : Prop :=
  let n := etyBits g.ety
  l.length = (lanesOf g.active).length * elems g ∧
  ∀ c, c ∈ l ↔ ∃ j ∈ lanesOf g.active, ∃ e < elems g,
    c = ⟨addr j + e * n / 8, op, BitVec.ofNat 4 g.ety, n, elemIn g (g.laneV (isWide g.ety) d j) e, none, g.gid⟩

/-! ### The scratchpad (R179 to R181) -/

/-- Every pending matrix member of the group has completed: what a stall of R181 or R210 waits for (R20). -/
def settled (s : State) : State := { s with cpu := s.cpu.settle }

/-- The address of a lane without displacement (R179). -/
def padLane (g : Group) (a b : BitVec 8) (j : Nat) : Int := (g.readK a).toNat + (laneAt (g.readV b) j).toInt

/-- A scratchpad access that is aligned and valid (R128, R179). -/
def PadOk (p : Block) (size : Nat) (x : Int) : Prop := x % (size : Int) = 0 ∧ padValid p x size = true

/-- A block with granules tagged (R108), and with the group's own bytes of the epoch changed. -/
def padTags (p : Block) (tags : List Tag) : Block := { p with tags := tags }
def padOwn (p : Block) (own : List (Nat × Cells)) (tags : List Tag) : Block := { p with own := own, tags := tags }

/-! ### The matrix unit and copies (R198 to R240) -/

/-- The pending drains of the group have completed with what is before them (R210, R20). -/
def afterDrains (s : State) : State := { s with cpu := s.cpu.settleDrains }

/-- The pending members of a group, the oldest first, and the numbers of its closed batches (R208). -/
def membersOf (g : Group) : List Member := g.batches.flatMap Batch.members
def closedOf (g : Group) : List Nat := g.batches.filterMap Batch.num

/-- Only the last batch is open (R208). -/
def BatchesOk (g : Group) : Prop := ∀ b ∈ g.batches.dropLast, b.num ≠ none

/-- A member has joined the open batch (R208). -/
def Joined (mb : Member) (g h : Group) : Prop :=
  membersOf h = membersOf g ++ [mb] ∧ closedOf h = closedOf g ∧ ∃ b, h.batches.getLast? = some b ∧ b.num = none

/-- A tile that the group may name: the grant of its partition (R198). -/
def Granted (p : Block) (g : Group) (tile : Nat) : Prop := 2 * g.part ≤ tile ∧ tile < 2 * g.part + p.acc

/-- The block after an operation on a tile: the tile's tag is set (R201), and the group's own tiles may have changed. -/
def tilesNow (p : Block) (own : List (Nat × Nat × List (Nat × Word))) (tags : List Tag) : Block := { p with ownTiles := own, tileTags := tags }

/-- An element of a tile as the group sees it in the epoch (R201). -/
def tileAt (p : Block) (g : Group) (tile row col : Nat) : Word := rd 0 (tileNow p g.gid (16 * g.role + tile)) (128 * row + col)

/-- Every other tile, and this tile as other groups see it, is as it was. -/
def OtherTiles (p q : Block) (g : Group) (tile : Nat) : Prop :=
  ∀ gid key, gid ≠ g.gid ∨ key ≠ 16 * g.role + tile → tileNow q gid key = tileNow p gid key

/-- The state in which `xfr` is checked: pending drains have completed. -/
def xferState (s : State) : State := { s with cpu := if drainPending s.cpu.grp then s.cpu.settle else s.cpu }

/-- Checks 3 to 6 of R238 on a copy of DIR 0 or 1 pass. -/
structure CopyOk (u : State) (t : Template) (r : Record) (origin : List Int) (counts : List Nat) : Prop where
  record : u.cpu.record u.mem (vaObj (if t.dir = 1 then t.dst else t.src)) = some r
  fits : recordFits t r = true
  blocks : wholeBlocks t r origin counts = true
  pad : padItemsTrap (u.cpu.ctx.block u.cpu.grp) (padItems t (elemsOf t r origin counts)) = none
  elems : ∀ x ∈ (elemsOf t r origin counts).zipIdx, elemTrap t r u.cpu.grp.gid x.2 x.1 = none
  extras : extrasTrap u.cpu u.mem t (if memBlk t = 0 then [] else entriesOf t r (elemsOf t r origin counts)) = none

/-- A copy may not use an object (R121, R102, R303): code 1 without c, or r of the source, w of the destination; code 2 by the mode. -/
def CopyBarred (gid : Nat) (out : Bool) (r : Record) (code : Nat) : Prop :=
  let may := r.obj ≠ 1 ∧ hasPerm r 3 = true ∧ hasPerm r (if out then 1 else 0) = true
  code = 1 ∧ ¬ may ∨
    code = 2 ∧ may ∧ if out then r.mode ≠ 1 ∧ (r.mode ≠ 3 ∨ isOwner r gid = false) else modeRefuses r gid .load = true

/-- An item of memory of check 6: its object, offset, bytes, alignment, and what bars it. -/
structure MemItem where
  obj : Nat
  off : Nat
  size : Nat
  align : Nat
  barred : Record → Nat → Prop

/-- The items of check 6 in order (R238): scale entries, the amax word, a memory stamp. -/
def extraItems (t : Template) (gid : Nat) (entries : List Nat) : List MemItem :=
  let out := t.dir == 1
  entries.map (fun n => ⟨vaObj t.scl, vaOff t.scl + entrySize t * n, entrySize t, 4, CopyBarred gid out⟩) ++
  (if t.amx then [⟨vaObj t.amxa, vaOff t.amxa, 4, 4, fun r code =>
    code = 1 ∧ (r.obj = 1 ∨ permOk r .reduce = false) ∨ code = 2 ∧ r.obj ≠ 1 ∧ permOk r .reduce = true ∧ modeRefuses r gid .reduce = true⟩] else []) ++
  if t.stm = 1 then [⟨vaObj t.sta, vaOff t.sta, 8, 8, CopyBarred gid true⟩] else []

/-- The item fails, with the class and the code of the first check that does (R119, R122, R128). -/
def MemItem.Fails (x : MemItem) (u : State) (cls code : Nat) : Prop :=
  cls = 2 ∧ code = 1 ∧ x.off % x.align ≠ 0 ∨
  x.off % x.align = 0 ∧ (cls = 3 ∧ code = 2 ∧ u.cpu.record u.mem x.obj = none ∨
    ∃ r, u.cpu.record u.mem x.obj = some r ∧
      (cls = 3 ∧ code = 1 ∧ r.ext < x.off + x.size ∨ cls = 5 ∧ x.off + x.size ≤ r.ext ∧ x.barred r code))

/-- x is the first of a list that a condition admits. -/
def FirstOf {α : Type} (l : List α) (P : α → Prop) (x : α) : Prop := ∃ a b, l = a ++ x :: b ∧ P x ∧ ∀ y ∈ a, ¬ P y

/-- Some bytes of an object can be read now: no sub-tile holds them up and each is here or answered (R281, R343). -/
def Readable (u : State) (va size : Nat) : Prop :=
  ∀ q, u.cpu.record u.mem (vaObj va) = some q →
    accessBlock u.mem q false (vaOff va) size = none ∧ ∀ x, va ≤ x → x < va + size → homedAway u.cpu.hw q (vaOff x) = none ∨
      (get? u.cpu.grp.fills (lineOf x)).isSome = true ∨ (sketchByte u.cpu.grp.sketch x).isSome = true

/-- The bits of an in-shape element of a memory object, and 0 for one outside it (R228). -/
def elemBits (u : State) (r : Record) (e : Elem) : Nat :=
  if e.bad.isSome then 0
  else
    let x := leNat (seenByte u) (vaOf r.obj e.off) (elemSize r)
    if r.lay = 1 then x / 16 ^ e.half % 16 else x

/-! ### What the matrix unit and the copy engine compute (R73 to R76, R203 to R205, R219, R228 to R232) -/

/-- The bit of element (i, j) in a plane of a canonical tile (R73). -/
def planeBit (get : Nat → Byte) (plane i j : Nat) : Bool :=
  let b := (j + i / 8 % 4 * 32) % 128
  (get (2048 * plane + 16 * i + b / 8 + 128)).getLsbD (b % 8)

/-- The sign, the exponent and the first p significand bits that a canonical tile holds for an element (R73). -/
def TileCodes (get : Nat → Byte) (p i j : Nat) (s : Bool) (e m : Nat) : Prop :=
  s = planeBit get 0 i j ∧ e < 512 ∧ m < 2 ^ p ∧ (∀ n < 9, e.testBit (8 - n) = planeBit get (n + 1) i j) ∧
    ∀ n < p, m.testBit (p - 1 - n) = planeBit get (n + 10) i j

/-- The value of an element of a canonical tile, its first p significand planes read (R75; with the highest exponent DESIGN CHOICE, log
51). -/
def TileHolds (get : Nat → Byte) (p i j : Nat) (v : FV) : Prop :=
  ∃ s e m, TileCodes get p i j s e m ∧
    v = if e = 0 then .fin s 0 0 else if e = 511 then (if m = 0 then .inf s else .nan) else .fin s m ((e : Int) - 254 - p)

/-- k·2^t is q rounded to p significant bits by a mode of RND, with the random word w (R64). -/
def SigRounds (p mode : Nat) (w : Word) (q : ℚ) (t k : Int) : Prop :=
  (2 : ℚ) ^ (t + p - 1) ≤ |q| ∧ |q| < 2 ^ (t + p) ∧ RoundsBy mode w (q / 2 ^ t) k

/-- A value in P planes (R75). A tie at one plane goes to the larger magnitude (DESIGN CHOICE, log 66). -/
def Planes (p mode : Nat) (w : Word) (x : FV) (s : Bool) (e m : Nat) : Prop :=
  match x with
  | .nan => s = false ∧ e = 511 ∧ m = 2 ^ (p - 1)
  | .inf n => s = n ∧ e = 511 ∧ m = 0
  | .fin n .. => s = n ∧ ∃ q, x.rat = some q ∧ (q = 0 → e = 0 ∧ m = 0) ∧ (q ≠ 0 → 2 ^ (p - 1) ≤ m ∧ m < 2 ^ p ∧
      ∃ t k, SigRounds p mode w q t k ∧ |(k : ℚ)| * 2 ^ t = m * 2 ^ ((e : Int) - 254 - p))

/-- z is the product of two values (R67, R205). -/
def ProductOf (x y z : FV) : Prop :=
  match x, y with
  | .nan, _ => z = .nan
  | _, .nan => z = .nan
  | .inf a, .inf b => z = .inf (a != b)
  | .inf a, .fin b m _ => z = if m = 0 then .nan else .inf (a != b)
  | .fin a m _, .inf b => z = if m = 0 then .nan else .inf (a != b)
  | .fin a .., .fin b .. => z.isNeg = (a != b) ∧ ∃ p q, x.rat = some p ∧ y.rat = some q ∧ z.rat = some (p * q)

/-- z is a sum of two values, where they are not both finite (R67, R76). -/
def SumSpecial (x y z : FV) : Prop :=
  (x = .nan ∨ y = .nan → z = .nan) ∧ (∀ n, x = .inf n → y = .inf (!n) → z = .nan) ∧
    ∀ n, (x = .inf n ∨ y = .inf n) → x ≠ .nan → y ≠ .nan → x ≠ .inf (!n) → y ≠ .inf (!n) → z = .inf n

/-- z is the sum of two values rounded to 48 significant bits (R76). -/
def PartialSum (x y z : FV) : Prop :=
  SumSpecial x y z ∧ ∀ p q, x.rat = some p → y.rat = some q →
    (p + q = 0 → z.rat = some 0 ∧ z.isNeg = (x.isNeg && y.isNeg)) ∧
    (p + q ≠ 0 → ∃ t k, SigRounds 48 0 0 (p + q) t k ∧ z.rat = some ((k : ℚ) * 2 ^ t))

/-- r is an accumulator element with a term added, rounded once (R76, R204, R205). -/
def AccAdds (acc : Word) (x : FV) (r : Nat) : Prop :=
  let a := decodeF fp32 false acc.toNat
  ∃ v, SumSpecial a x v ∧ r = (toFormat fp32 0 false false 0 v).1 ∧ ∀ p q, a.rat = some p → x.rat = some q →
    v.rat = some (p + q) ∧ (p + q = 0 → v.isNeg = (a.isNeg && x.isNeg))

/-- The header of a canonical tile with these planes (R74). -/
def TileHead (get : Nat → Byte) (p : Nat) : Prop :=
  1 ≤ p ∧ p ≤ 11 ∧ ∃ f, f < 14 ∧ leNat get 0 4 = p + 16 * f

/-- Element (i, j) after a product (R203, R204): the products along k are summed in their order, each sum rounded, and the scaled sum is added
to the element. -/
def ProductElem (d : Desc) (getA getB pad : Nat → Byte) (pa pb : Nat) (acc : Word) (i j r : Nat) : Prop :=
  let one : FV := .fin false 1 0
  let scale := fun a => decodeF fp32 false (leNat pad a 4)
  ∃ (a b p s : Nat → FV) (u t : FV),
    (∀ k < d.k, (if d.ta then TileHolds getA pa k i (a k) else TileHolds getA pa i k (a k)) ∧
      (if d.tb then TileHolds getB pb j k (b k) else TileHolds getB pb k j (b k)) ∧ ProductOf (a k) (b k) (p k)) ∧
    s 0 = p 0 ∧ (∀ k, k + 1 < d.k → PartialSum (s k) (p (k + 1)) (s (k + 1))) ∧
    ProductOf (s (d.k - 1)) (if d.sma = 1 then scale (128 * d.saline + 4 * i) else one) u ∧
    ProductOf u (if d.smb = 1 then scale (128 * d.sbline) else if d.smb = 2 then scale (128 * d.sbline + 4 * j) else one) t ∧ AccAdds acc t r

/-- A product on a tile (R203, R204): its elements within M and N, and the others as they were. -/
def ProductTile (d : Desc) (getA getB pad : Nat → Byte) (old new : List (Nat × Word)) : Prop :=
  ∀ pa pb, TileHead getA pa → TileHead getB pb → d.pa ≤ pa → ∀ i j, i < 128 → j < 128 →
    if i < d.m ∧ j < d.n
    then ProductElem d getA getB pad (if d.pa = 0 then pa else d.pa) pb (rd 0 old (128 * i + j)) i j (rd 0 new (128 * i + j)).toNat
    else rd 0 new (128 * i + j) = rd 0 old (128 * i + j)

/-- The bytes of a canonical tile that a drain writes (R219). -/
def DrainsTile (tile : List (Nat × Word)) (p : Nat) (get : Nat → Byte) : Prop :=
  get 0 = BitVec.ofNat 8 p ∧ (∀ o, 1 ≤ o → o < 128 → get o = 0) ∧ ∀ i j, i < 128 → j < 128 →
    ∃ s e m, TileCodes get p i j s e m ∧ Planes p 0 0 (decodeF fp32 false (rd 0 tile (128 * i + j)).toNat) s e m

/-- The row-major bytes that a drain writes, FP32 or BF16 (R219). -/
def DrainsRows (tile : List (Nat × Word)) (bf : Bool) (get : Nat → Byte) : Prop :=
  ∀ e < 16384, ∀ b < (if bf then 2 else 4), get ((if bf then 2 else 4) * e + b) = BitVec.ofNat 8
    ((if bf then (toFormat (fmtOf 2) 0 false false 0 (decodeF fp32 false (rd 0 tile e).toNat)).1 else (rd 0 tile e).toNat) / 256 ^ b)

/-- y is a value in a format by its code, under SAT = 1, with the random word w (R64, R72, R229, R230). -/
def Encoded (c mode : Nat) (w : Word) (v : FV) (y : Nat) : Prop :=
  if c < 6 then y = (toFormat (fmtOf c) mode true false w v).1
  else y < 2 ^ fmtBits c ∧ ∃ fl, ToInt (fmtBits c) (fmtSigned c) (if mode = 4 then 0 else mode) true v y fl

/-- The random word of a copy's element (R65, R66): SEED, the clock, then the coordinates on the memory side. -/
def elemWord (k : Copy) (coords : List Int) : Word :=
  if k.t.rnd = 4 then BitVec.ofNat 32 (mix (k.seed.toNat :: halves k.stamp.lc ++ coords.map fun x => (x % 2 ^ 32).toNat)) else 0

/-- The format of a tag, and its largest finite value (R61, R230). -/
def tagCode (tag : Nat) : Nat := if tag = 0 then 3 else if tag = 1 then 4 else if tag = 2 then 5 else 10
def tagTop (tag : Nat) : ℚ := if tag = 0 then 448 else if tag = 1 then 57344 else if tag = 2 then 6 else 127

/-- r is q, not negative, rounded to FP32 with a sign (R64). -/
def Fp32Of (neg : Bool) (q : ℚ) (r : Nat) : Prop :=
  ∃ x : Mag, x.d ≠ 0 ∧ (x.n : ℚ) / x.d * 2 ^ x.e = q ∧ r = (roundMag fp32 0 false false 0 neg x).1

/-- The tag and the scale of a block of values (R230). -/
def Quantized (tpol : Nat) (xs : List FV) (tag sc : Nat) : Prop :=
  ∃ amax : ℚ, (∀ v ∈ xs, ∀ q, v.rat = some q → |q| ≤ amax) ∧ (amax = 0 ∨ ∃ v ∈ xs, ∃ q, v.rat = some q ∧ |q| = amax) ∧
    (tpol ≠ 4 → tag = tpol) ∧
    (tpol = 4 → (tag = 1 ∧ ∃ v ∈ xs, ∃ q, v.rat = some q ∧ q ≠ 0 ∧ 2 ^ 9 * |q| < amax) ∨
      tag = 0 ∧ ∀ v ∈ xs, ∀ q, v.rat = some q → q ≠ 0 → amax ≤ 2 ^ 9 * |q|) ∧
    ∃ r, Fp32Of false (amax / tagTop tag) r ∧ sc = if r = 0 then 0x3F800000 else r

/-- v is x divided by a scale, rounded to FP32 (R230). -/
def Scaled (x : FV) (sc : Nat) (v : FV) : Prop :=
  match x with
  | .nan => v = .nan
  | .inf n => v = .inf n
  | .fin n .. => ∃ p q r, x.rat = some p ∧ (decodeF fp32 false sc).rat = some q ∧ Fp32Of n (|p| / q) r ∧ v = decodeF fp32 false r

/-- The value of an element that an inbound copy takes in, and of one with its scale (R228, R229). -/
def InValue (k : Copy) (scaled : Bool) (e : Elem) (b : Nat) (v : FV) : Prop :=
  if e.bad.isSome then v = if k.t.sblk ≠ 0 ∨ k.t.sfmt < 6 then decodeF fp32 false k.t.fill.toNat else FV.ofInt k.t.fill.toInt
  else if k.t.sblk = 0 then v = decodeCode k.t.sfmt false b
  else ∃ n sc tag, blockOf k.t k.rcd e = some n ∧ get? k.scales n = some (sc, tag) ∧
    if scaled then ProductOf (decodeCode (tagCode tag) false b) (decodeF fp32 false sc.toNat) v else v = decodeCode (tagCode tag) false b

/-- The scale of the block of the first element that a condition admits and that is in the shape, else 1.0 (R229). -/
def RowScale (k : Copy) (P : Elem → Prop) (sc : Word) : Prop :=
  let els := elemsOf k.t k.rcd k.origin k.counts
  (∃ e n tag, FirstOf els (fun e => P e ∧ e.bad = none) e ∧ blockOf k.t k.rcd e = some n ∧ get? k.scales n = some (sc, tag)) ∨
    (∀ e ∈ els, P e → e.bad ≠ none) ∧ sc = 0x3F800000

/-- The value that a floating contribution adds: its element, or the maximum that a copy found (R95, R231). -/
def redTerm (k : Contrib) : FV :=
  match k.exact with
  | some p => .fin false p.1.toNat p.2
  | none => decodeF (etyFmt k.ety.toNat) false k.val

/-- What the engine leaves of a copy that it has read (R228 to R231): y is the copy k with its bytes. -/
structure CopyWrites (k y : Copy) : Prop where
  /-- Outbound, plain: each element in the shape, converted once; 4-bit elements by half bytes. -/
  plain : k.t.dir = 1 → k.t.dblk = 0 → ∃ ys : List Nat,
    List.Forall₂ (fun (x : Elem × Nat) z => x.1.bad = none → Encoded k.t.dfmt k.t.rnd (elemWord k x.1.c) (decodeCode k.t.sfmt false x.2) z)
      ((elemsOf k.t k.rcd k.origin k.counts).zip k.src) ys ∧
    let cells := fun one : Elem → Nat → Cells =>
      ((elemsOf k.t k.rcd k.origin k.counts).zip ys).flatMap fun x => if x.1.bad.isSome then [] else one x.1 x.2
    if k.rcd.lay = 1 then y.payload = [] ∧ y.nibs = cells fun e z => [(2 * vaOf k.rcd.obj e.off + e.half, BitVec.ofNat 8 (z % 16))]
    else y.nibs = [] ∧ y.payload = cells fun e z => bytesAt (vaOf k.rcd.obj e.off) z (elemSize k.rcd)
  /-- Outbound, tagged: each block has its tag and scale, and each element in the shape is divided by the scale and converted. -/
  tagged : k.t.dir = 1 → k.t.dblk ≠ 0 → ∃ (ys : List Nat) (bs : List (Nat × Nat × Nat)),
    let els := elemsOf k.t k.rcd k.origin k.counts
    bs.Pairwise (fun a b => a.1 < b.1) ∧ (∀ n, n ∈ bs.map Prod.fst ↔ ∃ x ∈ els.zip k.src, blockOf k.t k.rcd x.1 = some n) ∧
    (∀ b ∈ bs, Quantized k.t.tpol
      (((els.zip k.src).filter fun x => blockOf k.t k.rcd x.1 == some b.1).map fun x => decodeCode k.t.sfmt false x.2) b.2.1 b.2.2) ∧
    List.Forall₂ (fun (x : Elem × Nat) z => ∀ b ∈ bs, blockOf k.t k.rcd x.1 = some b.1 → ∃ v, Scaled (decodeCode k.t.sfmt false x.2) b.2.2 v ∧
      Encoded (tagCode b.2.1) k.t.rnd (elemWord k x.1.c) v z) (els.zip k.src) ys ∧
    y.nibs = [] ∧ y.payload =
      ((els.zip ys).flatMap fun x => if x.1.bad.isSome then [] else [(vaOf k.rcd.obj x.1.off, BitVec.ofNat 8 x.2)]) ++
      bs.flatMap fun b => bytesAt (k.t.scl + entrySize k.t * b.1) b.2.2 4 ++
        if k.t.slay = 0 then bytesAt (k.t.scl + 8 * b.1 + 4) b.2.1 4 else []
  /-- The maximum that an outbound copy adds. -/
  top : k.t.dir = 1 →
    let xs := (((elemsOf k.t k.rcd k.origin k.counts).zip k.src).filter fun x => x.1.bad.isNone).map fun x => decodeCode k.t.sfmt false x.2
    (k.t.amx = false ∨ (∀ v ∈ xs, v = .nan) → y.amax = none) ∧
    (k.t.amx = true → (∃ v ∈ xs, v ≠ .nan) → ∃ c, y.amax = some c ∧ c.addr = k.t.amxa ∧ c.op = .rfmax ∧ c.ety = 2 ∧ c.bits = 32 ∧
      c.gid = k.stamp.gid ∧ c.val < 2 ^ 32 ∧
      ((∃ n, .inf n ∈ xs) → redTerm c = .inf false) ∧
      ((∀ n, .inf n ∉ xs) → ∃ p, (redTerm c).rat = some p ∧ (∃ v ∈ xs, ∃ q, v.rat = some q ∧ p = |q|) ∧
        ∀ v ∈ xs, ∀ q, v.rat = some q → |q| ≤ p))
  /-- Inbound, row by row: each element, with the scale of its block, converted once. -/
  rows : k.t.dir = 0 → k.t.dlay = 1 → (∀ e ∈ elemsOf k.t k.rcd k.origin k.counts, ∀ n, blockOf k.t k.rcd e = some n → get? k.scales n ≠ none) →
    ∃ ys : List Nat,
    List.Forall₂ (fun (x : Elem × Nat) z => ∃ v, InValue k true x.1 x.2 v ∧ Encoded k.t.dfmt k.t.rnd (elemWord k (objCoords k.t x.1.c)) v z)
      ((elemsOf k.t k.rcd k.origin k.counts).zip k.src) ys ∧
    y.payload = ((elemsOf k.t k.rcd k.origin k.counts).zip ys).flatMap fun x => bytesAt (padElem k.t x.1.t (padSize k.t)) x.2 (padSize k.t)
  /-- Inbound, into a canonical tile: the header, each element in P planes, zeros beside them, and the scales. -/
  tile : k.t.dir = 0 → k.t.dlay = 0 → 1 ≤ k.t.pl → k.t.pl ≤ 11 → k.rcd.rank = 2 → k.origin.length = 2 →
    (∃ n0 n1, k.counts = [n0, n1] ∧ n0 ≤ 128 ∧ n1 ≤ 128) → k.src.length = (elemsOf k.t k.rcd k.origin k.counts).length →
    (∀ e ∈ elemsOf k.t k.rcd k.origin k.counts, ∀ n, blockOf k.t k.rcd e = some n → get? k.scales n ≠ none) →
    ∃ (get : Nat → Byte) (vec : Cells) (f : Nat),
    let els := elemsOf k.t k.rcd k.origin k.counts
    y.payload = ((List.range (128 + 2048 * (10 + k.t.pl))).map fun o => (k.t.dst + o, get o)) ++ vec ∧
    get 0 = BitVec.ofNat 8 (k.t.pl + 16 * f) ∧ (∀ o, 1 ≤ o → o < 128 → get o = 0) ∧
    (k.t.sblk = 0 → f = k.t.sfmt) ∧
    (k.t.sblk ≠ 0 → (∀ e n sc tag, FirstOf els (fun e => e.bad = none) e → blockOf k.t k.rcd e = some n → get? k.scales n = some (sc, tag) →
      f = tagCode tag) ∧ ((∀ e ∈ els, e.bad ≠ none) → f = tagCode k.t.tpol)) ∧
    (∀ x ∈ els.zip k.src, ∀ i j, x.1.t = [i, j] → ∃ v s e m, InValue k false x.1 x.2 v ∧ TileCodes get k.t.pl i j s e m ∧
      Planes k.t.pl k.t.rnd (elemWord k (objCoords k.t x.1.c)) v s e m) ∧
    (∀ i j, i < 128 → j < 128 → (∀ e ∈ els, e.t ≠ [i, j]) → TileCodes get k.t.pl i j false 0 0) ∧
    (k.t.sblk = 0 → vec = []) ∧
    (k.t.sblk = 1 → ∃ sc : Nat → Word, (∀ i, RowScale k (fun e => e.t.head? = some i) (sc i)) ∧
      vec = (List.range 128).flatMap fun i => bytesAt (k.t.svec + 4 * i) (sc i).toNat 4) ∧
    (k.t.sblk = 2 → ∃ sc, RowScale k (fun _ => True) sc ∧ vec = bytesAt k.t.svec sc.toNat 4)

/-! ### Turns (R81 to R87, R108 to R111) -/

/-- The value that an ordering operation writes, if it writes (R183). -/
def Operates (op : AOp) (n : Nat) (sgn : Bool) (old src cmp : Nat) (new : Option Nat) : Prop :=
  match op with
  | .axchg => new = some src
  | .strel => new = some src
  | .acas => new = if old = cmp then some src else none
  | .aadd => new = some ((old + src) % 2 ^ n)
  | .amin => ∃ x, new = some x ∧ (x = old ∨ x = src) ∧ toI n sgn x = min (toI n sgn old) (toI n sgn src)
  | .amax => ∃ x, new = some x ∧ (x = old ∨ x = src) ∧ toI n sgn x = max (toI n sgn old) (toI n sgn src)
  | .aand => ∃ x, new = some x ∧ ∀ i, x.testBit i = (old.testBit i && src.testBit i)
  | .aor => ∃ x, new = some x ∧ ∀ i, x.testBit i = (old.testBit i || src.testBit i)
  | .axor => ∃ x, new = some x ∧ ∀ i, x.testBit i = (old.testBit i != src.testBit i)
  | .ldacq => new = none
  | .waita => new = none

/-- The check of `waita` holds (R185, R48). -/
def waitHolds (cond n : Nat) (sgn : Bool) (old cmp : Nat) : Prop :=
  match cond with
  | 0 => old = cmp
  | 1 => old ≠ cmp
  | 2 => toI n sgn old < toI n sgn cmp
  | 3 => toI n sgn old ≤ toI n sgn cmp
  | 4 => toI n sgn cmp < toI n sgn old
  | 5 => toI n sgn cmp ≤ toI n sgn old
  | 6 => old < cmp
  | 7 => old ≤ cmp
  | 8 => cmp < old
  | _ => cmp ≤ old

/-- The byte that an entry reads of memory (R84): the newest version of an ordering operation inside its scope below its stamp, else the
base image, in the frame that holds it before any move; of a sub-tile whose drain ended since it was sent, as it stood then (R286; DEDUCED,
log 47). -/
def ReadsByte (s : State) (e : Entry) (a : Nat) (x : Byte) : Prop :=
  let ok := fun u : Version => u ∈ s.cpu.ctx.versions ∧ u.ord ≠ none ∧ Stamp.lt u.stamp e.stamp = true ∧ (e.scope = .system ∨ u.module = e.module)
  (∃ u, ok u ∧ get? u.cells a = some x ∧ ∀ w, ok w → get? w.cells a ≠ none → Stamp.le w.stamp u.stamp = true) ∨
  ((∀ u, ok u → get? u.cells a = none) ∧
    ((∃ d, s.cpu.ctx.drained.find? (fun d => d.1 == e.stamp) = some d ∧ get? d.2 a = some x) ∨
      (∀ d, s.cpu.ctx.drained.find? (fun d => d.1 == e.stamp) = some d → get? d.2 a = none) ∧
      x = match s.cpu.record s.mem (vaObj a) with
        | some r => frameByte s.mem r (vaOff a)
        | none => 0))

/-- The entry in hand of a group: its turn is the next of this group on this module (R81, R83). -/
def AtTurn (s : State) (e : Entry) : Prop :=
  s.cpu.ctx.queue.find? (fun f => f.stamp.gid == e.stamp.gid && f.home == s.cpu.hw.number) = some e ∧ e.home = s.cpu.hw.number ∧
    e.module = s.cpu.hw.number

/-- A waiting group's registers can take the result: the names passed their checks at issue. -/
def Takes (g : Group) (w : TurnWait) : Prop :=
  (∀ d, w.vdst = some d → g.Writable d ∧ (w.wide = true → pairOk true d = true)) ∧ w.kdst = none

/-- The group goes on with the value of its turn (R81, R182): in every lane that was active at issue, with the weight and the length of its
word. -/
def GoesOn (w : TurnWait) (val : Nat) (g h : Group) : Prop :=
  Retired w.weight (g.pc + BitVec.ofNat 64 w.len) g h ∧
    match w.vdst with
    | some d => SameGroup (vecDst w.wide d) { g with sketch := h.sketch, view := h.view } h ∧ Shifted w.wide d g h ∧
        LaneResults w.wide w.act d g h fun _ => BitVec.ofNat 64 val
    | none => SameGroup [] { g with sketch := h.sketch, view := h.view } h

/-- Every other group is as it was, but for a wake: a wait whose source has fired remembers the stamp (R87). -/
def Others (gid : Nat) (st : Stamp) (f : Group → Group) : Prop :=
  ∀ g, g.gid ≠ gid → f g = g ∨ ∃ w wait, g.status = .ceded w wait none ∧ f g = { g with status := .ceded w wait (some st) }

/-- All groups of the context after a step of an agent, none in hand. -/
def GroupsBecome (f : Group → Group) (s t : State) : Prop :=
  t.cpu.grp = Group.none ∧ t.cpu.ctx.groups = s.cpu.groups.map f

/-- The block that an arrival concerns, with its barrier (R111). -/
def ArrivesAt (s : State) (e : Entry) (bar : Nat) (p : Block) (x : Barrier) : Prop :=
  s.cpu.ctx.blocks.find? (fun b => b.lord == e.stamp.gid / 2 ^ 40 && b.blk == e.stamp.gid / 512 % 2 ^ 31) = some p ∧ p.bars[bar]? = some x

/-- The block of an entry's group is here. -/
def BlockOf (s : State) (e : Entry) (p : Block) : Prop :=
  s.cpu.ctx.blocks.find? (fun b => b.lord == e.stamp.gid / 2 ^ 40 && b.blk == e.stamp.gid / 512 % 2 ^ 31) = some p

/-- The byte of its scratchpad that a block-scope operation reads (R84, R108): the newest that an ordering operation below its stamp has
written in the epoch, else the byte as it stood at the start of the epoch. -/
def PadReads (p : Block) (st : Stamp) (a : Nat) (x : Byte) : Prop :=
  (∃ v ∈ p.ords, Stamp.lt v.stamp st = true ∧ get? v.cells a = some x ∧
    ∀ w ∈ p.ords, Stamp.lt w.stamp st = true → get? w.cells a ≠ none → Stamp.le w.stamp v.stamp = true) ∨
  (∀ v ∈ p.ords, Stamp.lt v.stamp st = true → get? v.cells a = none) ∧ x = rd 0 p.pad a

/-- The words of an ordering operation. -/
def opWord (addr : Nat) (wide : Bool) (u : Nat) : Prop := u = addr / 4 ∨ wide = true ∧ u = addr / 4 + 1

/-- n cores can take a block of a launch, under a default quota (R11). -/
def CoresTake (l : LRec) (dq n : Nat) : Prop :=
  1 ≤ n ∧ n ≤ 4 ∧ l.g ≤ 256 * n ∧ (∃ most, n * most < l.g + n ∧ l.g ≤ n * most ∧ most * (8 * if l.qta = 31 then dq else l.qta) ≤ 15872) ∧
    256 * l.scr ≤ n * 2 ^ 21

/-- What the turn of a launch decides (R259): the word for its kd, and the launch that is queued if none of the four cases stops it. -/
structure LaunchDecides (x : Ctx) (r : List Word) (kd : Word) (q : Option Launch) : Prop where
  cores : (∀ n, ¬ CoresTake (lrecOf r) x.dq n) → kd = 0x80000001 ∧ q = none
  ordinals : (∃ n, CoresTake (lrecOf r) x.dq n) → 2 ^ 24 ≤ x.nextOrd → kd = 0x80000002 ∧ q = none
  after : (∃ n, CoresTake (lrecOf r) x.dq n) → x.nextOrd < 2 ^ 24 → (lrecOf r).aft = true → x.nextOrd ≤ (lrecOf r).after →
    kd = 0x80000003 ∧ q = none
  full : (∃ n, CoresTake (lrecOf r) x.dq n) → x.nextOrd < 2 ^ 24 → ((lrecOf r).aft = true → (lrecOf r).after < x.nextOrd) →
    256 ≤ (x.launches.filter fun k => (lrecOf k.rcd).que == (lrecOf r).que && !k.killed && decide (k.next < (lrecOf k.rcd).grid)).length →
    kd = 0x80000004 ∧ q = none
  queued : ∀ n, CoresTake (lrecOf r) x.dq n → (∀ m < n, ¬ CoresTake (lrecOf r) x.dq m) → x.nextOrd < 2 ^ 24 →
    ((lrecOf r).aft = true → (lrecOf r).after < x.nextOrd) →
    (x.launches.filter fun k => (lrecOf k.rcd).que == (lrecOf r).que && !k.killed && decide (k.next < (lrecOf k.rcd).grid)).length < 256 →
    kd.toNat = x.nextOrd ∧ q = some ⟨x.nextOrd, r, x.leg, 0, 1, n, false⟩

/-- The block's barrier becomes x. -/
def barNow (p : Block) (bar : Nat) (x : Barrier) : Block := { p with bars := p.bars.setIfInBounds bar x }

/-- The value r of a target after the reductions cs, of the kind of k, on the value `old` (R95, R188): the exact combination of all of them,
a floating one rounded once to nearest even. -/
def RedValue (k : Contrib) (old : Nat) (cs : List Contrib) (r : Nat) : Prop :=
  let sgn := etySigned k.ety.toNat
  let f := etyFmt k.ety.toNat
  let xs := old :: cs.map Contrib.val
  let vs := decodeF f false old :: cs.map redTerm
  let picked := fun le : FV → FV → Prop => ((∀ v ∈ vs, v = .nan) → r = nanF f) ∧ ((∃ v ∈ vs, v ≠ .nan) →
    ∃ v ∈ vs, v ≠ .nan ∧ (∀ w ∈ vs, w ≠ .nan → le v w) ∧ r = (toFormat f 0 false false 0 v).1)
  match k.op with
  | .radd => r = xs.sum % 2 ^ k.bits
  | .rmin => r ∈ xs ∧ ∀ x ∈ xs, toI k.bits sgn r ≤ toI k.bits sgn x
  | .rmax => r ∈ xs ∧ ∀ x ∈ xs, toI k.bits sgn x ≤ toI k.bits sgn r
  | .rand => ∀ i, r.testBit i = true ↔ ∀ x ∈ xs, x.testBit i = true
  | .ror => ∀ i, r.testBit i = true ↔ ∃ x ∈ xs, x.testBit i = true
  | .rxor => ∀ i, r.testBit i = xs.foldr (fun x b => x.testBit i != b) false
  | .rfmin => picked FV.atMost
  | .rfmax => picked fun v w => w.atMost v
  | .rfadd =>
    (.nan ∈ vs → r = nanF f) ∧ (.inf true ∈ vs → .inf false ∈ vs → r = nanF f) ∧
      (∀ n, .nan ∉ vs → .inf n ∈ vs → .inf (!n) ∉ vs → r = infF f n) ∧
      ∀ qs : List ℚ, vs.map FV.rat = qs.map some →
        ∃ v, v.rat = some qs.sum ∧ (qs.sum = 0 → v.isNeg = zeroSign false vs) ∧ r = (toFormat f 0 false false 0 v).1

/-- The contribution meets the 32-bit word w (R106). -/
def onWord (k : Contrib) (w : Nat) : Prop := k.addr / 4 ≤ w ∧ w ≤ (k.addr + k.bits / 8 - 1) / 4

/-- Two kinds of contributions meet a word (R106). -/
def TwoKinds (rs : List Contrib) (w : Nat) : Prop := ∃ j ∈ rs, ∃ k ∈ rs, onWord j w ∧ onWord k w ∧ contribKind j ≠ contribKind k

/-- A target of well-formed contributions, each word of which meets this kind alone. -/
structure RedOk (rs : List Contrib) (k : Contrib) : Prop where
  here : k ∈ rs
  formed : ∀ j ∈ rs, j.bits ∈ [8, 16, 32, 64] ∧ j.addr % (j.bits / 8) = 0 ∧ j.val < 2 ^ j.bits
  alone : ∀ w, onWord k w → ¬ TwoKinds rs w
  width : ∀ j ∈ rs, contribKind j = contribKind k → j.bits = k.bits
  floating : k.op ∈ [.rfadd, .rfmin, .rfmax] → isFlt k.ety.toNat = true ∧ k.bits = etyBits k.ety.toNat

/-- A number of some bytes, the lowest first. -/
def bytesNat (get : Nat → Byte) (a n : Nat) : Nat := ((List.range n).map fun i => (get (a + i)).toNat * 256 ^ i).sum

/-- What reductions leave of the bytes b: at a target that one kind meets the value of their combination; else, and where two kinds meet, what
was there (R95, R106). -/
structure Reduced (rs : List Contrib) (b c : Nat → Byte) : Prop where
  target : ∀ k, RedOk rs k → ∃ r < 2 ^ k.bits,
    RedValue k (bytesNat b k.addr (k.bits / 8)) (rs.filter fun j => j.addr == k.addr && contribKind j == contribKind k) r ∧
      ∀ i < k.bits / 8, c (k.addr + i) = BitVec.ofNat 8 (r / 256 ^ i)
  kept : ∀ a, (∀ j ∈ rs, ¬ (j.addr ≤ a ∧ a < j.addr + j.bits / 8)) ∨ TwoKinds rs (a / 4) → c a = b a

/-- The bytes of a target of a reduction. -/
def redBytes (k : Contrib) (a : Nat) : Prop := k.addr ≤ a ∧ a < k.addr + k.bits / 8

/-- The lowest number with a property. -/
def IsLow (P : Nat → Prop) (n : Nat) : Prop := P n ∧ ∀ k, P k → n ≤ k

/-- The groups that stored to a granule in the epoch, that performed an ordering operation on it, and that reduced to a word of it. -/
def storesTo (p : Block) (u gid : Nat) : Prop := ∃ t ∈ p.tags, t.unit = u ∧ t.wrote = true ∧ t.gid = gid
def ordersOn (p : Block) (u gid : Nat) : Prop := ∃ t ∈ p.ordTags, t.unit = u ∧ t.gid = gid
def reducesTo (p : Block) (u gid : Nat) : Prop := ∃ k ∈ p.reds, k.gid = gid ∧ ∃ w, onWord k w ∧ 4 * w - 4 * w % 256 = u
def kindsOn (p : Block) (w kind : Nat) : Prop := ∃ k ∈ p.reds, onWord k w ∧ contribKind k = kind

/-- Two gids, the lower first, that a case of R109 names for a granule. -/
def PadPair (p : Block) (u x y : Nat) : Prop :=
  let named := fun a b => x = min a b ∧ y = max a b
  (∃ t ∈ p.tags, ∃ v ∈ p.tags, t.unit = u ∧ v.unit = u ∧ t.gid ≠ v.gid ∧ (t.wrote = true ∨ v.wrote = true) ∧ named t.gid v.gid) ∨
  (∃ a b, IsLow (ordersOn p u) a ∧ IsLow (fun g => storesTo p u g ∨ reducesTo p u g) b ∧ named a b) ∨
  (∃ a b, IsLow (reducesTo p u) a ∧ IsLow (storesTo p u) b ∧ named a b) ∨
  ∃ w k1 k2 a b, 4 * w - 4 * w % 256 = u ∧ IsLow (kindsOn p w) k1 ∧ IsLow (fun k => kindsOn p w k ∧ k ≠ k1) k2 ∧
    IsLow (fun g => ∃ k ∈ p.reds, onWord k w ∧ contribKind k = k1 ∧ k.gid = g) a ∧
    IsLow (fun g => ∃ k ∈ p.reds, onWord k w ∧ contribKind k = k2 ∧ k.gid = g) b ∧ named a b

/-- The granule of a byte conflicts (R109). -/
def Conflicts (p : Block) (a : Nat) : Prop := ∃ x y, PadPair p (a - a % 256) x y

/-- What a block holds of the epoch is as instructions leave it: canonical lists, one list of stored bytes a group, a tag for every byte,
ordering operations on a byte in the order of their stamps, well-formed contributions. -/
structure EpochOk (p : Block) : Prop where
  pad : rising p.pad = true
  own : rising p.own = true
  cells : ∀ o ∈ p.own, rising o.2 = true
  tags : ∀ o ∈ p.own, ∀ e ∈ o.2, (⟨e.1 - e.1 % 256, o.1, true⟩ : Tag) ∈ p.tags
  ords : p.ords.Pairwise fun v w => Stamp.lt v.stamp w.stamp = true ∨ ∀ a, get? v.cells a = none ∨ get? w.cells a = none
  ordCells : ∀ v ∈ p.ords, rising v.cells = true
  ordTags : ∀ v ∈ p.ords, ∀ e ∈ v.cells, (⟨e.1 - e.1 % 256, v.stamp.gid, true⟩ : Tag) ∈ p.ordTags
  reds : ∀ k ∈ p.reds, k.bits ∈ [8, 16, 32, 64] ∧ k.addr % (k.bits / 8) = 0 ∧ k.val < 2 ^ k.bits ∧ k.addr + 8 ≤ 2 ^ 32
  units : ∀ t ∈ p.tags ++ p.ordTags, t.unit < 2 ^ 32
  tiles : rising p.tiles = true
  ownTiles : (p.ownTiles.map fun o => (o.1, o.2.1)).Nodup
  tileTags : ∀ o ∈ p.ownTiles, (⟨o.2.1, o.1, true⟩ : Tag) ∈ p.tileTags

/-- A byte of a granule without a conflict once the stores and the ordering operations of the epoch are in place (R110): the newest ordering
operation on it, else what a group stored, else what it was. -/
def SyncByte (p : Block) (a : Nat) (y : Byte) : Prop :=
  (∃ v ∈ p.ords, get? v.cells a = some y ∧ ∀ w ∈ p.ords, get? w.cells a ≠ none → Stamp.le w.stamp v.stamp = true) ∨
  (∀ v ∈ p.ords, get? v.cells a = none) ∧
    ((∃ o ∈ p.own, get? o.2 a = some y) ∨ (∀ o ∈ p.own, get? o.2 a = none) ∧ rd 0 p.pad a = y)

/-- The scratchpad after steps 1 and 2 of a sync (R110): a granule that conflicts is as at the start of the epoch; elsewhere a target of
reductions has the value of their combination, and every other byte what was stored. -/
structure Synced (p : Block) (c : Nat → Byte) : Prop where
  restored : ∀ a, Conflicts p a → c a = rd 0 p.pad a
  stored : ∀ a, ¬ Conflicts p a → (∀ k ∈ p.reds, ¬ redBytes k a) → SyncByte p a (c a)
  reduced : ∀ k b, RedOk p.reds k → ¬ Conflicts p k.addr → (∀ i < k.bits / 8, SyncByte p (k.addr + i) (b (k.addr + i))) →
    ∃ r < 2 ^ k.bits,
      RedValue k (bytesNat b k.addr (k.bits / 8)) (p.reds.filter fun j => j.addr == k.addr && contribKind j == contribKind k) r ∧
        ∀ i < k.bits / 8, c (k.addr + i) = BitVec.ofNat 8 (r / 256 ^ i)

/-- The tile conflicts (R201): two groups accessed it in the epoch, one of them by a write. -/
def TileConflicts (p : Block) (u : Nat) : Prop :=
  ∃ t ∈ p.tileTags, ∃ v ∈ p.tileTags, t.unit = u ∧ v.unit = u ∧ t.gid ≠ v.gid ∧ (t.wrote = true ∨ v.wrote = true)

/-- A conflict that a sync finds: the unit of a granule, or 2^32 and the number of a tile, with its pair (R109, R201). -/
def SyncPair (p : Block) (u x y : Nat) : Prop :=
  u < 2 ^ 32 ∧ PadPair p u x y ∨
    ∃ v, u = 2 ^ 32 + v ∧ x < y ∧ ∃ t ∈ p.tileTags, ∃ w ∈ p.tileTags, t.unit = v ∧ w.unit = v ∧ (t.wrote = true ∨ w.wrote = true) ∧
      (t.gid = x ∧ w.gid = y ∨ t.gid = y ∧ w.gid = x)

/-- The conflict that the fault of the sync names (R109): the lowest pair, then the lowest unit, granules before tiles. -/
def SyncFault (p : Block) (u x y : Nat) : Prop :=
  SyncPair p u x y ∧ ∀ v a b, SyncPair p v a b → x < a ∨ x = a ∧ (y < b ∨ y = b ∧ u ≤ v)

/-- A copy of the block lands at the next sync, if the arrival that completes it has this stamp: a copy issued after it in the order of
stamps lands one sync later (R233; DEDUCED, log 48). -/
def LandsAt (p : Block) (f : Stamp) (k : Copy) : Prop :=
  k.toPad = true ∧ k.lord = p.lord ∧ k.blk = p.blk ∧ (if Stamp.lt f k.stamp then k.landAt + 1 else k.landAt) = p.syncs + 1

/-- The copies that stay pending after that sync. -/
def laterCopies (p : Block) (f : Stamp) (l : List Copy) : List Copy :=
  (l.filter fun k => !(k.toPad && k.lord == p.lord && k.blk == p.blk && (if Stamp.lt f k.stamp then k.landAt + 1 else k.landAt) == p.syncs + 1)).map
    fun k => if k.toPad && k.lord == p.lord && k.blk == p.blk && Stamp.lt f k.stamp then { k with landAt := k.landAt + 1 } else k

/-- Beside the context in hand nothing changes. -/
structure StepOf (s t : State) : Prop where
  grp : t.cpu.grp = s.cpu.grp
  hw : t.cpu.hw = s.cpu.hw
  others : t.others = s.others
  inputs : t.inputs = s.inputs
  bytes : ∀ a, memByte t.mem a = memByte s.mem a

/-- The overlay was full: the context is suspended with class 37, and what waited goes on waiting (R98). -/
def Exhausts (s t : State) : Prop :=
  StepOf { s with cpu := { s.cpu with hw := { s.cpu.hw with log := s.cpu.hw.log ++ [⟨sourceOf s.cpu.hw 37, 37, 0, ctxId s.cpu.ctx, BitVec.ofNat 64 s.cpu.ctx.leg⟩] } } } t ∧
    t.cpu.ctx = { s.cpu.ctx with status := .suspended, imaged := false, ovlFull := true }

/-- The overlay is still full after a resumption (R98, R295): the context ends with class 15, whose frame goes to the live group of the
lowest gid (DEDUCED, log 31). -/
structure EndsFull (s t : State) : Prop where
  others : t.others = s.others
  inputs : t.inputs = s.inputs
  mem : t.mem = s.mem
  ended : t.cpu.ctx.status = .ended
  hw : t.cpu.hw = { s.cpu.hw with log := t.cpu.hw.log }
  log : ∃ l, t.cpu.hw.log = s.cpu.hw.log ++ l ++ [⟨sourceOf s.cpu.hw 15, 15, 1, ctxId s.cpu.ctx, BitVec.ofNat 64 s.cpu.ctx.leg⟩]
  frame : (s.cpu.groups.map Group.gid).Pairwise (· < ·) → ∀ k ∈ s.cpu.groups, k.live = true →
    (∀ h ∈ s.cpu.groups, h.live = true → k.gid ≤ h.gid) → k.inWin = false → k.trapv.toNat / 4 ≠ 0 →
    ∃ h ∈ t.cpu.groups, h.gid = k.gid ∧ h.inWin = true ∧ h.pc.toNat = k.trapv.toNat / 4 * 4 ∧
      h.frame = frameOf { k with fills := [], bulk := false, status := .running } 0 none ⟨15, 1, 0, 0, BitVec.ofNat 64 s.cpu.ctx.leg, 0⟩ 0

/-! ### Steps of agents, the host and the fabric -/

/-- Only the module's own state may have changed. -/
structure HwOnly (s t : State) : Prop where
  grp : t.cpu.grp = s.cpu.grp
  ctx : t.cpu.ctx = s.cpu.ctx
  others : t.others = s.others
  inputs : t.inputs = s.inputs
  mem : t.mem = s.mem

/-- A tag of R104 on the line at a PA: moved there by a system copy, or on the PARCEL line whose bytes the PA holds. -/
def TagAt (s : State) (line : Nat) (t : Tag) : Prop :=
  t.unit = line ∧ (t ∈ s.cpu.ctx.movedTags ∨ ∃ u ∈ s.cpu.ctx.ptags, ∃ r pa, s.cpu.record s.mem (vaObj u.unit) = some r ∧
    framePa s.mem r (vaOff u.unit) = some pa ∧ t = { u with unit := lineOf pa })

/-- What a code image becomes when a sub-tile that was absent or malformed in it changes (R271; DEDUCED, log 26): it takes the entry, and the
bytes of the frame of a resident one. -/
def ImageTakes (m : Cells) (r : Record) (pa : Nat) (i j : Image) : Prop :=
  let e := memNat m pa 8
  let f := e / 2 ^ 14 % 2 ^ 38 * 2 ^ 14
  if memNat i.mem pa 8 / 2 ^ 62 = 0 ∨ entryBad r (memNat i.mem pa 8) = true then j.obj = i.obj ∧ j.objtb = i.objtb ∧ ∀ a, memByte j.mem a =
    if pa ≤ a ∧ a < pa + 8 ∨ e / 2 ^ 62 = 1 ∧ f ≤ a ∧ a < f + 2 ^ r.stlog then memByte m a else memByte i.mem a
  else j = i

/-- An ordering operation queued here has translated a sub-tile's entry and not performed (R286). -/
def QueuedOn (s : State) (pa : Nat) (e : Entry) : Prop :=
  e ∈ s.cpu.ctx.queue ∧ e.home = s.cpu.hw.number ∧ e.scope ≠ .block ∧ ∃ op c addr w g src cmp, e.op = .atomic op c addr w g src cmp ∧
    ∃ r, s.cpu.record s.mem (vaObj addr) = some r ∧ r.mapped = true ∧ entryPa r (vaOff addr) = pa

/-- The word of the frame that a queued ordering operation has translated, as the drain of its sub-tile leaves it (R286; DEDUCED, log 47). -/
def DrainedWord (s : State) (e : Entry) (d : Stamp × Cells) : Prop :=
  d.1 = e.stamp ∧ ∃ op c addr w g src cmp, e.op = .atomic op c addr w g src cmp ∧ d.2 = (List.range (if w then 8 else 4)).map fun i =>
    (addr + i, match s.cpu.record s.mem (vaObj (addr + i)) with
      | some r => frameByte s.mem r (vaOff (addr + i))
      | none => 0)

/-- A service write moves a sub-tile from the frame at the first address to that at the second (R289). -/
def Relocates (s : State) (v : Svc) (old new size : Nat) : Prop :=
  ∃ r, mapRecord s.cpu.hw s.mem s.cpu.ctx.objtb v.pa = some r ∧ memNat s.mem v.pa 8 / 2 ^ 62 = 3 ∧ v.val.toNat / 2 ^ 62 = 1 ∧ old ≠ new ∧
    old = memNat s.mem v.pa 8 / 2 ^ 14 % 2 ^ 38 * 2 ^ 14 ∧ new = v.val.toNat / 2 ^ 14 % 2 ^ 38 * 2 ^ 14 ∧ size = 2 ^ r.stlog

/-- The eight bytes at an address hold a value, and every other byte is as it was. -/
def Stored8 (pa : Nat) (val : Dword) (s t : State) : Prop :=
  (∀ i < 8, memByte t.mem (pa + i) = BitVec.ofNat 8 (val.toNat / 256 ^ i)) ∧ ∀ a, ¬ (pa ≤ a ∧ a < pa + 8) → memByte t.mem a = memByte s.mem a

/-- The module after packets may have been sent: numbers, the retry buffer, what is out, and what is counted as sent (R338). -/
def sentHw (h k : Module) : Module := { h with seqs := k.seqs, outbox := k.outbox, retry := k.retry, sentLog := k.sentLog, log := k.log }

/-- A sketch as stores leave it: rising lines, each with rising bytes of its own. -/
def SketchOk (sk : List (Nat × Cells)) : Prop := rising sk = true ∧ ∀ l ∈ sk, rising l.2 = true ∧ ∀ e ∈ l.2, lineOf e.1 = l.1

/-- x is the last of a list that a condition admits. -/
def LastOf {α : Type} (l : List α) (P : α → Prop) (x : α) : Prop := ∃ a b, l = a ++ x :: b ∧ P x ∧ ∀ y ∈ b, ¬ P y

/-- A kill requested in the leg names the group (R313). -/
def dies (x : Ctx) (g : Group) : Bool :=
  x.kills.any fun k => match k with
    | .context => true
    | .launch n => g.lord == n
    | .block n b => g.lord == n && g.blk == b

/-- The groups that go on after the leg end. -/
def survivors (s : State) : List Group := s.cpu.groups.filter fun g => g.status == .running && !dies s.cpu.ctx g

/-- A line of a PARCEL or PRIVATE object conflicts: two groups accessed it in the leg, one of them by a store (R104). -/
def LineConflict (s : State) (u : Nat) : Prop :=
  ∃ t ∈ s.cpu.ctx.ptags, ∃ v ∈ s.cpu.ctx.ptags, t.unit = u ∧ v.unit = u ∧ t.gid ≠ v.gid ∧ (t.wrote = true ∨ v.wrote = true)

/-- A byte that a group stored in a PARCEL or PRIVATE object and that stands: its line does not conflict (R103). -/
def ParcelByte (s : State) (va : Nat) (b : Byte) : Prop :=
  ¬ LineConflict s (lineOf va) ∧ ∃ p ∈ s.cpu.ctx.parcel, get? p.2 va = some b

/-- The byte that step 2 of a leg end writes at a virtual address (R94, R103): a PARCEL or PRIVATE store; else that of the sketch of the
highest gid that holds it, of the groups that are not killed; else of the version of the leg with the highest stamp. -/
def Folds (s : State) (va : Nat) (b : Byte) : Prop :=
  ParcelByte s va b ∨ (∀ y, ¬ ParcelByte s va y) ∧
  ((∃ g ∈ survivors s, sketchByte g.sketch va = some b ∧ ∀ h ∈ survivors s, sketchByte h.sketch va ≠ none → h.gid ≤ g.gid) ∨
  ((∀ g ∈ survivors s, sketchByte g.sketch va = none) ∧ ∃ v ∈ s.cpu.ctx.versions, get? v.cells va = some b ∧
    ∀ w ∈ s.cpu.ctx.versions, get? w.cells va ≠ none →
      Stamp.lt w.stamp v.stamp = true ∨ w.stamp = v.stamp ∧ (w.ord.isNone = true ∨ v.ord.isSome = true)))

/-- Some store or version of the leg that stands has written the byte. -/
def Written (s : State) (va : Nat) : Prop :=
  (∃ y, ParcelByte s va y) ∨ (∃ g ∈ survivors s, sketchByte g.sketch va ≠ none) ∨ ∃ v ∈ s.cpu.ctx.versions, get? v.cells va ≠ none

/-- The physical address of a virtual one, where it has one (R279, R280). -/
def physical (s : State) (va pa : Nat) : Prop := ∃ r, s.cpu.record s.mem (vaObj va) = some r ∧ translate s.mem r (vaOff va) = .at pa

/-- The versions of the survivors' sketches (R94). -/
def sketchVersions (s : State) : List Version :=
  (survivors s).flatMap fun g => g.sketch.map fun l => ⟨⟨legTop s.cpu.ctx, g.gid⟩, s.cpu.hw.number, none, l.2⟩

/-- A leg of a one-module context that is ready to end (R93): nothing is queued or on its way, every group has exited or reached the leg's
end, none stops, and nothing of another module, of a suspension or of a wait on translation comes into it. -/
structure LegEnds (s : State) : Prop where
  running : s.cpu.ctx.status = .running
  phase : s.cpu.ctx.phase = 0
  alone : s.cpu.ctx.peers = []
  said : s.cpu.ctx.said = none
  sent : s.cpu.hw.retry = []
  held : s.cpu.hw.held = []
  late : s.cpu.hw.hostLate = []
  queue : s.cpu.ctx.queue = []
  flight : s.cpu.ctx.flight = []
  groups : ∀ g ∈ s.cpu.groups, g.status = .exited ∨ g.status = .running ∧ legTop s.cpu.ctx ≤ g.lc
  gids : (s.cpu.groups.map Group.gid).Nodup
  faults : ∀ g ∈ s.cpu.groups, dies s.cpu.ctx g = true → g.faults = []
  landings : s.cpu.ctx.landings = []
  watchers : s.cpu.ctx.watchers = []
  moved : s.cpu.ctx.moved = [] ∧ s.cpu.ctx.movedTags = []
  stops : s.cpu.ctx.stops = []
  suspend : s.cpu.ctx.suspendReq = false
  tmarks : s.cpu.hw.tmarks = []
  saved : NoneSaved s
  sketches : ∀ g ∈ s.cpu.groups, SketchOk g.sketch ∧ ∀ l ∈ g.sketch, LocalByte s l.1
  versions : ∀ v ∈ s.cpu.ctx.versions, rising v.cells = true ∧ v.stamp.lc < legTop s.cpu.ctx
  parcels : ∀ p ∈ s.cpu.ctx.parcel, rising p.2 = true ∧ ∀ q ∈ s.cpu.ctx.parcel, q ≠ p → ∀ va, get? p.2 va ≠ none → get? q.2 va ≠ none →
    LineConflict s (lineOf va)
  room : overlayOver s.cpu.hw s.mem (withAmax { s.cpu.ctx with versions := s.cpu.ctx.versions ++ sketchVersions s }) = false
  frames : ∀ va, Written s va → ∃ pa, physical s va pa
  moves : heldHost s.cpu.hw s.mem s.cpu.ctx = []
  next : s.cpu.ctx.hostNext = []
  mem : canonical unwritten s.mem = true

/-- A copy lands at this leg end (R233). -/
def Due (s : State) (k : Copy) : Prop := k ∈ s.cpu.ctx.copies ∧ k.toPad = false ∧ k.landAt = s.cpu.ctx.leg

/-- Nothing in the leg conflicts (R104, R106): the marks of a word are of one class and kind, and no operation has system scope. -/
structure Faultless (s : State) : Prop where
  lines : ∀ u, ¬ LineConflict s u
  classes : ∀ k ∈ s.cpu.ctx.marks, k.cls = 1 ∨ k.cls = 2 ∧ k.scope = some .device ∨ k.cls = 3
  apart : ∀ k ∈ s.cpu.ctx.marks, ∀ j ∈ s.cpu.ctx.marks, k.word = j.word → k.cls = j.cls ∧ k.kind = j.kind

/-- A deferred translation write of the leg makes the record of an object valid that had none here nor in its code image: the object is loaded
(R271; DEDUCED, log 26). -/
def Loads (s t : State) (o : Nat) : Prop :=
  let x := s.cpu.ctx
  ∃ p ∈ x.pendXlat, inTable x.objtb p.pa = true ∧ o = (p.pa - recordPa x.objtb 0) / 128 ∧
    recordOf s.cpu.hw (codeImage x o).mem (codeImage x o).objtb o = none ∧ recordOf s.cpu.hw s.mem x.objtb o = none ∧
    (recordOf s.cpu.hw t.mem x.objtb o).isSome = true

/-- What host writes and then deferred translation writes leave at a physical address, over the byte b of the fold (R285, R362). -/
def Later (s : State) (pa : Nat) (b x : Byte) : Prop :=
  (∃ p, LastOf s.cpu.ctx.pendXlat (fun p => p.pa ≤ pa ∧ pa < p.pa + 8) p ∧ x = BitVec.ofNat 8 (p.val.toNat / 256 ^ (pa - p.pa))) ∨
  ((∀ p ∈ s.cpu.ctx.pendXlat, ¬ (p.pa ≤ pa ∧ pa < p.pa + 8)) ∧
    ((∃ e, LastOf s.cpu.ctx.hostWrites.flatten (fun e => e.1 = pa) e ∧ x = e.2) ∨
      ((∀ e ∈ s.cpu.ctx.hostWrites.flatten, e.1 ≠ pa) ∧ x = b)))

/-- The lowest gid of the marks of a word that a condition admits. -/
def LowOf (s : State) (word : Nat) (P : Mark → Prop) (gid : Nat) : Prop :=
  (∃ k ∈ s.cpu.ctx.marks, k.word = word ∧ P k ∧ k.gid = gid) ∧ ∀ k ∈ s.cpu.ctx.marks, k.word = word → P k → gid ≤ k.gid

/-- A word with two classes, scopes or kinds: the class and the code of its fault, and the gids that it names (R106, R107, R295). -/
def WordConflict (s : State) (w cls code a b : Nat) : Prop :=
  let has := fun c => ∃ k ∈ s.cpu.ctx.marks, k.word = w ∧ k.cls = c
  let only := fun c => LowOf s w fun k => k.cls = c
  cls = 10 ∧ code = 6 ∧ only 1 a ∧ only 2 b ∨
  cls = 10 ∧ code = 7 ∧ ¬ has 2 ∧ only 1 a ∧ only 3 b ∨
  cls = 10 ∧ code = 11 ∧ ¬ has 1 ∧ only 2 a ∧ only 3 b ∨
  cls = 10 ∧ code = 15 ∧ (∀ k ∈ s.cpu.ctx.marks, k.word = w → k.cls = 3) ∧ (∃ k1 k2, k1 < k2 ∧
    (∀ k ∈ s.cpu.ctx.marks, k.word = w → k.kind = k1 ∨ k2 ≤ k.kind) ∧ LowOf s w (fun k => k.kind = k1) a ∧ LowOf s w (fun k => k.kind = k2) b) ∨
  cls = 11 ∧ code = 1 ∧ LowOf s w (fun k => k.cls = 2 ∧ k.scope = some .device) a ∧ LowOf s w (fun k => k.cls = 2 ∧ k.scope = some .system) b ∧
    ∃ k ∈ s.cpu.ctx.marks, ∃ j ∈ s.cpu.ctx.marks, k.word = w ∧ j.word = w ∧ k.cls = 2 ∧ j.cls = 2 ∧ k.scope = some .device ∧
      j.scope = some .system ∧ k.module ≠ j.module

/-- Two groups that conflict on a line, the lower gid first (R104). -/
def PairOn (s : State) (u p1 p2 : Nat) : Prop :=
  p1 < p2 ∧ ∃ t ∈ s.cpu.ctx.ptags, ∃ v ∈ s.cpu.ctx.ptags, t.unit = u ∧ v.unit = u ∧ t.gid = p1 ∧ v.gid = p2 ∧ (t.wrote = true ∨ v.wrote = true)

/-- The copies that land at a leg end, in the order of their stamps, each read and converted to whole bytes (R233, R234). -/
structure DueList (s : State) (l : List Copy) : Prop where
  due : ∀ k, k ∈ l ↔ Due s k
  order : l.Pairwise fun a b => Stamp.lt a.stamp b.stamp = true
  once : s.cpu.ctx.copies.Nodup
  ready : ∀ k ∈ l, k.read = true ∧ k.nibs = []

/-- The bytes that the copies land, and all reductions of the leg end with their maxima (R94, R231). -/
def landed (l : List Copy) : Cells := l.flatMap fun k => k.payload ++ k.stampCells
def allReds (s : State) (l : List Copy) : List Contrib := s.cpu.ctx.reds ++ l.filterMap Copy.amax

/-- A byte that a step of the leg end writes through an object. -/
def Touched (s : State) (l : List Copy) (va : Nat) : Prop :=
  Written s va ∨ (∃ j ∈ allReds s l, redBytes j va) ∨ ∃ z ∈ landed l, z.1 = va

/-- What the leg end writes has one place in memory each, and none of it is a record or a map entry that one of them goes through. -/
structure Steady (s : State) (l : List Copy) : Prop where
  placed : ∀ va, Touched s l va → ∃ pa, physical s va pa
  apart : ∀ va va' pa, Touched s l va → Touched s l va' → physical s va pa → physical s va' pa → va = va'
  still : ∀ m, (∀ pa, (∀ va, Touched s l va → ¬ physical s va pa) → memByte m pa = memByte s.mem pa) →
    ∀ va, Touched s l va → s.cpu.record m (vaObj va) = s.cpu.record s.mem (vaObj va) ∧
      ∀ r, s.cpu.record s.mem (vaObj va) = some r → translate m r (vaOff va) = translate s.mem r (vaOff va)

/-! ### Commands (R368, R369) -/

/-- The code of a master in OWN (R365). -/
def ownCode : Master → Nat
  | .hostA => 1
  | .hostB => 2
  | .controller => 3

/-- The commands on a context that is there. -/
inductive CtxCmd where
  | suspend | resume | kill | killLaunch | killBlock | preempt | legq | seed | nondet | quota | ovlb | scrb | mctb
  deriving DecidableEq, Repr

/-- i is the command. -/
def CtxCmd.Word (o : CtxCmd) (m : Master) (d : BitVec 4) (cmd : Dword) (i : Instr) : Prop :=
  match o with
  | .suspend => i = .contextSuspend m d cmd
  | .resume => i = .contextResume m d cmd
  | .kill => i = .killContext m d cmd
  | .killLaunch => i = .killLaunch m d cmd
  | .killBlock => i = .killBlock m d cmd
  | .preempt => i = .preEmptBlock m d cmd
  | .legq => i = .setParameterLegq m d cmd
  | .seed => i = .setParameterSeed m d cmd
  | .nondet => i = .setParameterNondet m d cmd
  | .quota => i = .setParameterQuota m d cmd
  | .ovlb => i = .setParameterOvlb m d cmd
  | .scrb => i = .setParameterScrb m d cmd
  | .mctb => i = .setParameterMctb m d cmd

/-- CTXARG names a block of the context (R368). -/
def NamesBlock (x : Ctx) (arg : Dword) (b : Block) : Prop :=
  arg.toNat % 512 = 0 ∧ b ∈ x.blocks ∧ b.lord = arg.toNat / 2 ^ 40 ∧ b.blk = arg.toNat / 512 % 2 ^ 31

/-- CTXARG names a block that waits in a queue (R261; DEDUCED, log 25). -/
def QueuedBlock (x : Ctx) (arg : Dword) : Prop :=
  arg.toNat % 512 = 0 ∧ ∃ l ∈ x.launches, l.killed = false ∧ l.ord = arg.toNat / 2 ^ 40 ∧ l.next ≤ arg.toNat / 512 % 2 ^ 31 ∧
    arg.toNat / 512 % 2 ^ 31 < (lrecOf l.rcd).grid ∧ (arg.toNat / 512 % 2 ^ 31 - l.next) % l.step = 0

/-- CTXARG names a block that stands or waits on another module of the domain, by its last report (DESIGN CHOICE, log 14). -/
def FarBlock (x : Ctx) (arg : Dword) : Prop :=
  arg.toNat % 512 = 0 ∧ ∃ p ∈ x.peers, p.lost = false ∧ ∃ first step limit, (arg.toNat / 2 ^ 40, first, step, limit) ∈ p.blocks ∧
    first ≤ arg.toNat / 512 % 2 ^ 31 ∧ arg.toNat / 512 % 2 ^ 31 < limit ∧ (arg.toNat / 512 % 2 ^ 31 - first) % step = 0

/-- The context is in the state that the command requires: 4 in CTXSTAT where it is not (R369). -/
def CtxCmd.Ready (o : CtxCmd) (x : Ctx) : Prop :=
  match o with
  | .suspend => x.status = .running
  | .resume => x.status = .suspended ∨ x.status = .running ∧ ∃ b ∈ x.blocks, b.preempted = true
  | .kill => True
  | .killLaunch => x.status ≠ .ended
  | .killBlock => x.status ≠ .ended
  | .preempt => x.status = .running
  | .mctb => x.status ≠ .ended
  | _ => x.status = .suspended

/-- Its parameter is in range: 5 in CTXSTAT where it is not (R369). -/
def CtxCmd.InRange (o : CtxCmd) (x : Ctx) (arg : Dword) : Prop :=
  match o with
  | .killLaunch => arg.toNat < x.nextOrd ∨ ∃ p ∈ x.peers, p.lost = false ∧ arg.toNat < p.nextOrd
  | .killBlock => QueuedBlock x arg ∨ FarBlock x arg ∨ ∃ b, NamesBlock x arg b
  | .preempt => QueuedBlock x arg ∨ FarBlock x arg ∨ ∃ b, NamesBlock x arg b
  | .legq => 12 ≤ arg.toNat % 32 ∧ arg.toNat % 32 ≤ 24
  | .quota => arg.toNat % 32 ≤ 29
  | .ovlb => 16 ≤ arg.toNat % 64 ∧ arg.toNat % 64 ≤ 40
  | _ => True

/-- What the context becomes by a command that is done at once or noted for the leg end; the other three are stated apart. -/
def CtxCmd.become (o : CtxCmd) (arg : Dword) (x : Ctx) : Ctx :=
  match o with
  | .suspend => { x with suspendReq := true }
  | .kill => { x with kills := x.kills ++ [.context] }
  | .killLaunch => { x with kills := x.kills ++ [.launch arg.toNat] }
  | .killBlock => { x with kills := x.kills ++ [.block (arg.toNat / 2 ^ 40) (arg.toNat / 512 % 2 ^ 31)] }
  | .legq => { x with legq := arg.toNat % 32 }
  | .seed => { x with seed := arg.setWidth 32 }
  | .nondet => { x with nondet := (arg.setWidth 1).setWidth 32 }
  | .quota => { x with dq := arg.toNat % 32 }
  | .ovlb => { x with ovlb := arg &&& 0x000FFFFFFFFF003F, ovlFull := x.ovlFull && decide (arg.toNat % 64 ≤ x.ovlb.toNat % 64) }
  | .scrb => { x with scrb := arg &&& 0x000FFFFFFFFFF000 }
  | .mctb => { x with pendMctb := some arg }
  | .resume => x
  | .preempt => x

/-- The module with CTXSTAT of a device partition set to a result and a context number. -/
def withStat (h : Module) (d : BitVec 4) (q : Part) (r n : Nat) : Module :=
  { h with parts := h.parts.setIfInBounds d.toNat { q with ctxstat := BitVec.ofNat 32 (r * 2 ^ 24 + n) } }

/-- The command answers a result and changes nothing else. -/
def Answers (i : Instr) (d : BitVec 4) (q : Part) (r n : Nat) (s : State) : Prop :=
  ∃ t, exec i s = .next t ∧ HwOnly s t ∧ t.cpu.hw = withStat s.cpu.hw d q r n

/-! ### The fabric (R333 to R346) -/

/-- The packets that carry a sequence number (R338). -/
inductive Pk where
  | read | answer | write | publication | turn | result | reduction | combined | multicast
  deriving DecidableEq, Repr

/-- i is the arrival of the packet. -/
def Pk.Word (o : Pk) (p : Packet) (i : Instr) : Prop :=
  match o with
  | .read => i = .fabricReadRequest p
  | .answer => i = .readResponse p
  | .write => i = .lineWrite p
  | .publication => i = .fabricPublication p
  | .turn => i = .fabricTurnEntry p
  | .result => i = .turnResult p
  | .reduction => i = .fabricDeferredReduction p
  | .combined => i = .combinedReduction p
  | .multicast => i = .multicastWrite p

/-- How far a packet's number is ahead of the lowest that its source's receiver lacks, modulo 65,536 (R338). -/
def ahead (h : Module) (p : Packet) : Nat := (p.seq + 65536 - (windowOf h p.src).e) % 65536

/-- A number of the window not yet received, one received before, and one outside the window (R338, R340, R348). -/
def FreshPk (h : Module) (p : Packet) : Prop := ahead h p < 4096 ∧ p.seq ∉ (windowOf h p.src).got
def RepeatedPk (h : Module) (p : Packet) : Prop := ahead h p < 4096 ∧ p.seq ∈ (windowOf h p.src).got ∨ 61440 ≤ ahead h p
def BeyondPk (h : Module) (p : Packet) : Prop := 4096 ≤ ahead h p ∧ ahead h p < 61440

/-- A receiver's record of a pair as R338 has it. -/
def WindowOk (w : Window) : Prop := w.e < 65536 ∧ ∀ n ∈ w.got, n < 65536 ∧ (n + 65536 - w.e) % 65536 < 4096

/-- The packet's number counts as received: a second copy of it is a duplicate. -/
def Noted (h k : Module) (p : Packet) : Prop := WindowOk (windowOf h p.src) → p.seq < 65536 → RepeatedPk k p

/-- The acknowledgement of a packet (R335). -/
def ackOf (h : Module) (p : Packet) : Packet := ⟨9, h.number, p.src, 0, p.leg % 65536, 0, p.ctx, .ack [p.seq]⟩

/-- The answer kept for a request, once its number is within the window (R338, R340; DEDUCED, log 32). -/
def keptAnswer (h : Module) (p : Packet) : List Packet :=
  ((h.results.find? fun r => r.1 == p.src && r.2.1 == p.seq).map fun r => r.2.2).toList.filter fun a => inSendWindow h p.src a.seq

/-- What a duplicate is answered with (R340); one of type 1 or 5 is acknowledged again as well (DEDUCED, log 32). -/
def Pk.again (o : Pk) (h : Module) (p : Packet) : List Packet :=
  match o with
  | .read => keptAnswer h p
  | .turn => keptAnswer h p
  | _ => [ackOf h p]

/-- R1 is suspended for the context in hand with a machine check, and SUSP and ANY are set in every FSTAT (R347 to R349). -/
structure R1Lost (cls code : Nat) (detail : Dword) (s t : State) : Prop where
  mem : NoneSaved s → t.mem = s.mem
  ctx : t.cpu.ctx = { s.cpu.ctx with r1off := true, groups := s.cpu.ctx.groups.map fun g => { g with fstat := g.fstat ||| 0x11 } }
  grp : s.cpu.grp.status ≠ .absent → t.cpu.grp = { s.cpu.grp with fstat := s.cpu.grp.fstat ||| 0x11 }
  events : t.cpu.hw.events = s.cpu.hw.events ++
    [⟨sourceOf s.cpu.hw 10, s.cpu.ctx.dpart.toNat, ctxId s.cpu.ctx, 10, 0, 0, BitVec.ofNat 64 (256 * cls + code)⟩]
  log : NoneSaved s → t.cpu.hw.log = s.cpu.hw.log ++ [⟨sourceOf s.cpu.hw cls, cls, code, ctxId s.cpu.ctx, detail⟩]

/-- A byte of a write-through stands: no later packet of the same group that has come before writes it too (R381). -/
def Stands (x : Ctx) (gid module seq a : Nat) : Prop :=
  ∀ u ∈ x.throughs, u.gid = gid → u.module = module → u.seq ≠ seq → (u.seq + 65536 - seq) % 65536 < 32768 → get? u.cells a = none

/-- The home of a line has taken a write-through of a group of another module (R103, R104, R381). -/
def TookWrite (gid module seq : Nat) (cells : Cells) (x y : Ctx) : Prop :=
  y = { x with parcel := y.parcel, ptags := y.ptags, marks := y.marks, ovlFull := false, throughs := x.throughs ++ [⟨gid, module, seq, cells⟩] } ∧
  (∀ k, k ∈ y.marks ↔ k ∈ x.marks ∨ ∃ e ∈ cells, k = ⟨e.1 - e.1 % 4, 1, 0, none, gid, module⟩) ∧
  (∀ q, q ∈ y.ptags ↔ q ∈ x.ptags ∨ ∃ e ∈ cells, q = ⟨lineOf e.1, gid, true⟩) ∧
  (rising cells = true → rising x.parcel = true → (∀ e ∈ x.parcel, rising e.2 = true) →
    (∀ a, Stands x gid module seq a →
      get? ((get? y.parcel gid).getD []) a = ((get? cells a).or (get? ((get? x.parcel gid).getD []) a))) ∧
    (∀ a, ¬ Stands x gid module seq a → get? ((get? y.parcel gid).getD []) a = get? ((get? x.parcel gid).getD []) a) ∧
    ∀ k, k ≠ gid → get? y.parcel k = get? x.parcel k)

/-- Memory and the log are as they were where no group is out: what happens to saved groups goes into their images, and the log notes what
of it meets a marked line (R287, R308). -/
def KeepsImages (s t : State) : Prop := NoneSaved s → t.mem = s.mem ∧ t.cpu.hw.log = s.cpu.hw.log

/-- No packet of this number to this module waits in the retry buffer any more. -/
def Settled (dst n : Nat) (h : Module) : Prop := ∀ q ∈ h.retry, ¬ (q.dst = dst ∧ q.seq = n)

/-! ### Links and rings (R320 to R339) -/

/-- Unanswered packets whose route used a link go again by the new route, those that the window admits (R338, R339); where a second link
joins the pair, over it. -/
def Resent (l : Nat × Nat) (joined : Prop) (s t : State) : Prop :=
  let h := s.cpu.hw
  ∀ k ∈ h.retry, ∀ r, routeTo h k.dst = some r → routeUses l h.number r = true →
    (joined ∨ (routeTo { h with failed := h.failed ++ [l] } k.dst).isSome = true) → inSendWindow h k.dst k.seq = true → k ∈ t.cpu.hw.outbox

/-- The link of a port is declared failed (R336): its port says so, notices are on their way to every other module, which say whether a
second link still joins the pair (R330), and the module routes around it: unanswered packets whose route used it go again (R339). -/
structure LinkFails (port : Nat) (q : Port) (s t : State) : Prop where
  mem : NoneSaved s → t.mem = s.mem
  ports : t.cpu.hw.ports = s.cpu.hw.ports.setIfInBounds port { q with st := 2, bad := 0, trained := false }
  notices : ∀ m ∈ moduleList s.cpu.hw, m ≠ s.cpu.hw.number →
    (⟨10, s.cpu.hw.number, m, 0, 0, 0, 0, .failure s.cpu.hw.number q.peer (decide (0 < portsUp t.cpu.hw.ports q.peer))⟩ : Packet) ∈ t.cpu.hw.outbox
  failed : (min s.cpu.hw.number q.peer, max s.cpu.hw.number q.peer) ∈ t.cpu.hw.failed ∨
    ∃ r ∈ t.cpu.hw.ports.toList, r.st = 1 ∧ r.peer = q.peer
  again : (min s.cpu.hw.number q.peer, max s.cpu.hw.number q.peer) ∉ s.cpu.hw.failed →
    Resent (min s.cpu.hw.number q.peer, max s.cpu.hw.number q.peer) (∃ r ∈ t.cpu.hw.ports.toList, r.st = 1 ∧ r.peer = q.peer) s t

/-- The packets on the rings and in the members of the station cycles, and those that have reached their endpoints or
have left by a port. -/
def netPackets (h : Module) : List NetPacket := h.rings.map RingPacket.packet ++ h.stations.map StationPacket.packet ++ h.ejected ++ h.departed.map Prod.snd

/-- The module once the core or slice of a stop has offered a packet (R320, R321, R328): it waits for injection there if its length is one
of its kind, its path is that of its traffic, and the ring is the one for its pair. -/
def withOffer (s : State) (ring stop : Nat) (offer : Option NetPacket) : Module :=
  let h := s.cpu.hw
  match offer with
  | some p => if offered h ring stop p = true ∧ pathOk s p = true then { h with
      rings := h.rings ++ [⟨p, ring, [⟨stop, false, 3, netFlits p, 0, 0⟩]⟩]
      promised := if isCore p.src = true ∧ p.kind ∉ [.readResponse, .acknowledgement, .padResponse] then
        h.promised.filter (fun q => q.1 != p.src) ++
          [(p.src, promisedTo h p.src + if p.kind ∈ [.readRequest, .padRequest] then 3 else 1)]
      else h.promised }
    else h
  | none => h

/-- The core at a stop of a ring of pair B takes a flit that it has reserved room for (R325). -/
def CoreTakes (h : Module) (ring stop : Nat) : Prop :=
  ring / 2 % 2 = 1 ∧ 0 < promisedTo h (.core (ringDie ring) (ringQuad ring) stop) ∧
    ∃ k y l, oldestOf (h.rings.filter (atEndpoint ring stop false)) = some k ∧ k.stays = y :: l ∧ y.left < y.arrived

/-- The module with other reservations of cores (R325). -/
def State.withPromised (s : State) (l : List (NetPlace × Nat)) : State := { s with cpu := { s.cpu with hw := { s.cpu.hw with promised := l } } }

/-- The module once its gateway has taken in a packet from another module, where it has room (R327). -/
def withArrival (s : State) (die stop : Nat) (up : Bool) (offer : Option NetPacket) : Module :=
  let h := s.cpu.hw
  match offer with
  | some p => if gateOffered h die up p = true ∧ pathOk s p = true ∧ stop % 5 = 4 then
      { h with stations := h.stations ++ [⟨p, die, 4, up, crossedAt p die 4 up⟩] }
    else h
  | none => h

/-- A port of a die by which a packet for another module may leave: one that is up to the next module of its route (R327; that ports 4d to
4d + 3 are those of die d is DESIGN CHOICE, log 19). -/
def LeavesBy (h : Module) (die : Nat) (p : NetPacket) (port : Nat) : Prop :=
  port / 4 = die ∧ ∃ d n hop rest q, p.dst = .gateway d n ∧ routeTo h n = some (hop :: rest) ∧ h.ports[port]? = some q ∧ q.st = 1 ∧ q.peer = hop

/-- A packet whose header stands at a stop of a ring where it does not leave, and finds room at the next stop (R324, R325). -/
def RingReady (h : Module) (ring stop : Nat) (p : RingPacket) : Prop :=
  p ∈ h.rings ∧ headAt ring stop p = true ∧ exitStop ring p.packet ≠ stop ∧ (hopRoom h.rings p).isSome = true

/-- The room r of R324 at a stop for a packet of some flits on a channel, with the stays there, each with the length of its packet: a stay
takes the room of its flits that have not left. -/
def RoomOk (here : List (Nat × Stay)) (flits : Nat) (vc1 : Bool) (r : Nat) : Prop :=
  let free := ((here.filter fun q => q.2.room == 0).map fun q => q.1 - q.2.left).sum + flits ≤ 16
  let spare := flits = 1 ∧ (here.filter fun q => q.2.room == 1 && q.2.vc1 == vc1).length < 2
  r = 0 ∧ free ∨ r = 1 ∧ ¬ free ∧ spare ∨ r = 2 ∧ ¬ free ∧ ¬ spare ∧ vc1 = true ∧ flits ≤ 5 ∧ ∀ q ∈ here, q.2.room ≠ 2

/-- The buffers of stations and gateways hold at most 32 flits of each direction for the packets that have crossed the dateline, and 32 for
the others (R326). -/
def MembersFit (h : Module) : Prop :=
  ∀ die member up cr, ((h.stations.filter fun q => q.die == die && q.member == member && q.up == up && q.crossed == cr).map
    fun q => netFlits q.packet).sum ≤ 32

/-! ### Bring-up and fetch -/

/-- The module after the boot ROM has checked a firmware image (R372): ERR 1 without a valid signature under a fused key that is not
revoked, ERR 2 for a version below the fused minimum, else STAGE 2. -/
def Verified (fw : FwImage) (h k : Module) : Prop :=
  let signed := fw.sigValid = true ∧ ∃ f ∈ h.fuses, f.1 = fw.keyHash ∧ f.2 = false
  (¬ signed → k = { h with stage := 1, err := 1 }) ∧ (signed → fw.version < h.minVersion → k = { h with stage := 1, err := 2 }) ∧
    (signed → h.minVersion ≤ fw.version → k = { h with stage := 2, err := 0, firmware := fw.bytes })

/-- The group in hand issues next: nothing from outside, no event, no image, no step of an agent comes first, and its stamp is the lowest of
those that may issue (R80, R92; DESIGN CHOICE, log 6). -/
structure IssuesNext (s : State) : Prop where
  inputs : s.inputs = []
  events : s.cpu.hw.events = []
  images : ∀ x ∈ s.contexts, needsImages x = false
  context : s.cpu.ctx.status = .running
  thawed : ∀ q, s.cpu.hw.parts[s.cpu.ctx.dpart.toNat]? = some q → q.frozen = false
  agents : agentStep s.mem s.cpu = none
  overlay : overlayOver s.cpu.hw s.mem s.cpu.ctx = false
  slots : s.cpu.grp.badSlots = []
  group : s.cpu.grp.status = .running ∧ s.cpu.grp.preempted = false ∧ s.cpu.grp.lc < (s.cpu.ctx.leg + 1) * 2 ^ s.cpu.ctx.legq
  first : ∀ g ∈ s.cpu.groups, g.status = .running → g.gid ≠ s.cpu.grp.gid → Stamp.lt s.cpu.grp.stamp g.stamp = true

/-- The n bytes at the PC may be fetched and are these (R34, R102, R271, R281). -/
def Fetches (s : State) (bytes : List Byte) : Prop :=
  let g := s.cpu.grp
  let off := baseOff g.pc
  g.pc.toNat % 4 = 0 ∧ ∃ r, s.cpu.record s.mem (baseObj g.pc) = some r ∧ off + bytes.length ≤ r.ext ∧ hasPerm r 4 = true ∧
    modeRefuses r g.gid .execute = false ∧ (∀ k, k < bytes.length → k % 4 = 0 → accessBlock s.mem r false (off + k) 4 = none) ∧
    ∀ k < bytes.length, homedAway s.cpu.hw r (off + k) = none ∧ bytes[k]? = some (codeByteHere s.cpu.hw s.cpu.ctx s.mem r (off + k))

end Sys2Proof.Machine
end

