-- ==== Sys2Proof/Certificates/Slice0/Obligations.lean ====
section
/-! DEFINITION. The statements for the provers. -/

section

open Sys2Proof Sys2Proof.Machine

/-- R134, R68 (tier 2). The arithmetic words of R134, VV and VK: for every legal word, element type of INT and operand, the word retires; in
every active lane each element of d is the exact result, wrapped or clamped; nothing else is changed. -/
def Obligations.VectorArithmetic : Prop :=
  ∀ (o : IntOp) (d a : BitVec 8) (b : Src) (s : State), o ∈ [.add, .sub, .mul, .mulh, .mad, .min, .max, .abs, .neg] →
    let i := o.word d a b
    let g := s.cpu.grp
    let wide := isWide g.ety
    Issues i g → VecMode isInt g [d] (if o.unary then [] else [a]) [b] →
    ∃ t, exec i s = .next t ∧ Did i (vecDst wide d) s t ∧ Shifted wide d g t.cpu.grp ∧
      ElemResults d g t.cpu.grp fun j e r =>
        o.Result (etyBits g.ety) (etySigned g.ety) g.sat (elemIn g (g.laneV wide a j) e) (elemIn g (srcLane g wide b j) e)
          (elemIn g (g.laneV wide d j) e) r

/-- R134, R135 (tier 2). The shifts, VV and VK: the count is the element of b, unsigned, at its full width, and `rot` takes it modulo n. The
bit counts and the bit reversal. -/
def Obligations.VectorShiftsAndCounts : Prop :=
  ∀ (o : IntOp) (d a : BitVec 8) (b : Src) (s : State), o ∈ [.shl, .shr, .sar, .rot, .clz, .popc, .brev] →
    let i := o.word d a b
    let g := s.cpu.grp
    let wide := isWide g.ety
    Issues i g → VecMode isInt g [d] (if o.unary then [] else [a]) [b] →
    ∃ t, exec i s = .next t ∧ Did i (vecDst wide d) s t ∧ Shifted wide d g t.cpu.grp ∧
      ElemResults d g t.cpu.grp fun j e r =>
        o.Result (etyBits g.ety) (etySigned g.ety) g.sat (elemIn g (g.laneV wide a j) e) (elemIn g (srcLane g wide b j) e)
          (elemIn g (g.laneV wide d j) e) r

/-- R134, R136 (tier 2). The bitwise words and the moves, VV and VK, under every element type: bit by bit on whole lanes, or pairs; `bfx`
and `bfi`, VV and VK, bit by bit: under W32 a lane is one element. -/
def Obligations.VectorLogicAndFields : Prop :=
  ∀ (d a : BitVec 8) (b : Src) (s : State),
    (∀ o : BitOp,
      let i := o.word d a b
      let g := s.cpu.grp
      let wide := isWide g.ety
      Issues i g → VecMode isAny g [d] (if o.unary then [] else [a]) [b] →
      ∃ t, exec i s = .next t ∧ Did i (vecDst wide d) s t ∧ Shifted wide d g t.cpu.grp ∧
        ∀ (j : Fin 32) (k : Nat), k < (if wide then 64 else 32) →
          (t.cpu.grp.laneV wide d j).getLsbD k =
            if g.active.getLsbD j then o.bit ((g.laneV wide a j).getLsbD k) ((srcLane g wide b j).getLsbD k)
            else (g.laneV wide d j).getLsbD k) ∧
    (∀ o : FieldOp,
      let i := o.word d a b
      let g := s.cpu.grp
      Issues i g → isW32 g.ety = true →
      ∃ t, exec i s = .next t ∧ Did i (vecDst false d) s t ∧ Shifted false d g t.cpu.grp ∧
        ElemResults d g t.cpu.grp fun j _ r =>
          o.Result (etySigned g.ety) (laneAt (g.readV a) j).toNat (srcLane g false b j).toNat (laneAt (g.readV d) j).toNat r)

/-- R137, R138, R139, R48 (tier 2). `cmp` writes a predicate in the active lanes and no vector register; `sel` chooses by the guard in every
lane of C; `movi` writes one register whatever the element type. -/
def Obligations.CompareSelectMovi : Prop :=
  ∀ (d a : BitVec 8) (b : Src) (imm : BitVec 16) (s : State),
    let g := s.cpu.grp
    let wide := isWide g.ety
    let n := etyBits g.ety
    (let i := (match b with | .v b => Instr.cmp d a b | .k b => Instr.cmpVk d a b)
     Issues i g → VecMode isCmpI g [] [a] [b] →
     ∃ t, exec i s = .next t ∧ Did i [.p (d.toNat % 16)] s t ∧
       ∀ j : Fin 32, (t.cpu.grp.readP (d.toNat % 16)).getLsbD j =
         if g.active.getLsbD j then
           let x := (g.laneV wide a j).toNat % 2 ^ n
           let y := (srcLane g wide b j).toNat % 2 ^ n
           let sg := etySigned g.ety
           match d.toNat / 16 with
           | 0 => decide (x = y)
           | 1 => decide (x ≠ y)
           | 2 => decide (toI n sg x < toI n sg y)
           | 3 => decide (toI n sg x ≤ toI n sg y)
           | 4 => decide (toI n sg y < toI n sg x)
           | 5 => decide (toI n sg y ≤ toI n sg x)
           | 6 => decide (x < y)
           | 7 => decide (x ≤ y)
           | 8 => decide (y < x)
           | _ => decide (y ≤ x)
         else (g.readP (d.toNat % 16)).getLsbD j) ∧
    (let i := (match b with | .v b => Instr.sel d a b | .k b => Instr.selVk d a b)
     Issues i g → VecMode isAny g [d] [a] [b] →
     ∃ t, exec i s = .next t ∧ Did i (vecDst wide d) s t ∧ Shifted wide d g t.cpu.grp ∧
       ∀ j : Fin 32, t.cpu.grp.laneV wide d j =
         if g.lanes.getLsbD j then (if (g.readP g.grd).getLsbD j then g.laneV wide a j else srcLane g wide b j) else g.laneV wide d j) ∧
    (Issues (.movi d imm) g →
     ∃ t, exec (.movi d imm) s = .next t ∧ Did (.movi d imm) (vecDst false d) s t ∧ Shifted false d g t.cpu.grp ∧
       ∀ j : Fin 32, laneAt (t.cpu.grp.readV d) j = if g.active.getLsbD j then imm.signExtend 32 else laneAt (g.readV d) j)

/-- R140, R67 (tier 2). The floating arithmetic, VV and VK: the exact result rounded once by R64, and the special values. -/
def Obligations.FloatArithmetic : Prop :=
  ∀ (o : FltOp) (d a : BitVec 8) (b : Src) (s : State),
    let i := o.word d a b
    let g := s.cpu.grp
    Issues i g → isFlt g.ety = true →
    ∃ t, exec i s = .next t ∧ Did i (.fpflags :: vecDst false d) s t ∧ Shifted false d g t.cpu.grp ∧
      FlagResults d g t.cpu.grp fun j e r fl =>
        o.Result g (floatIn g (g.laneV false a j) e) (floatIn g (srcLane g false b j) e) (floatIn g (g.laneV false d j) e) r fl

/-- R141 to R145 (tier 2). `fmin`, `fmax`, `fabs` and `fneg`, VV and VK: no rounding. `fcmp` writes a predicate; `frnd` rounds to an
integral value; `fclass` writes one class bit. None sets a flag. -/
def Obligations.FloatSelectCompareClass : Prop :=
  ∀ (d a : BitVec 8) (b : Src) (s : State),
    let g := s.cpu.grp
    let f := etyFmt g.ety
    (∀ o : PickOp,
     let i := o.word d a b
     Issues i g → isFlt g.ety = true →
     ∃ t, exec i s = .next t ∧ Did i (vecDst false d) s t ∧ Shifted false d g t.cpu.grp ∧
       ElemResults d g t.cpu.grp fun j e r => o.Result g (floatIn g (g.laneV false a j) e) (floatIn g (srcLane g false b j) e) r) ∧
    (∀ o : SignOp,
     let i := o.word d b
     Issues i g → isFlt g.ety = true →
     ∃ t, exec i s = .next t ∧ Did i (vecDst false d) s t ∧ Shifted false d g t.cpu.grp ∧
       ElemResults d g t.cpu.grp fun j e r => o.Result g (elemIn g (srcLane g false b j) e) r) ∧
    (let i := (match b with | .v b => Instr.fcmp d a b | .k b => Instr.fcmpVk d a b)
     Issues i g → isF32 g.ety = true →
     ∃ t, exec i s = .next t ∧ Did i [.p (d.toNat % 16)] s t ∧
       ∀ j : Fin 32, if g.active.getLsbD j then
         ((t.cpu.grp.readP (d.toNat % 16)).getLsbD j = true ↔
           floatCond (d.toNat / 16) (floatIn g (g.laneV false a j) 0) (floatIn g (srcLane g false b j) 0))
         else (t.cpu.grp.readP (d.toNat % 16)).getLsbD j = (g.readP (d.toNat % 16)).getLsbD j) ∧
    (let i := (match b with | .v b => Instr.frnd d b | .k b => Instr.frndVk d b)
     Issues i g → isFlt g.ety = true →
     ∃ t, exec i s = .next t ∧ Did i (vecDst false d) s t ∧ Shifted false d g t.cpu.grp ∧
       ElemResults d g t.cpu.grp fun j e r =>
         match floatIn g (srcLane g false b j) e with
         | .nan => r = nanF f
         | .inf n => r = infF f n
         | .fin n m x => ∃ q k, (FV.fin n m x).rat = some q ∧ RoundsToInt (rndNoSr g) q k ∧
             (decodeF f false r).rat = some (k : ℚ) ∧ signBit f r = n) ∧
    (let i := (match b with | .v b => Instr.fclass d b | .k b => Instr.fclassVk d b)
     Issues i g → isFlt g.ety = true →
     ∃ t, exec i s = .next t ∧ Did i (vecDst false d) s t ∧ Shifted false d g t.cpu.grp ∧
       ElemResults d g t.cpu.grp fun j e r => r = 2 ^ classBit f (elemIn g (srcLane g false b j) e))

/-- R65, R66, R70, R71, R72 (tier 2). `fcvt`, VV and VK, under every element type: the source is the lowest bits of the lane; an integer result
follows the table of R72 and is extended to the lane; a floating one is rounded once, with the random word that R66 makes of SEED, the group's number, its clock and the lane. -/
def Obligations.FloatConversion : Prop :=
  ∀ (d a : BitVec 8) (b : Src) (s : State),
    let g := s.cpu.grp
    let i := (match b with | .v b => Instr.fcvt d a b | .k b => Instr.fcvtVk d a b)
    let dst := a.toNat / 16
    let src := a.toNat % 16
    let n := fmtBits dst
    Issues i g →
    ∃ t, exec i s = .next t ∧ Did i (.fpflags :: vecDst (n == 64) d) s t ∧ Shifted (n == 64) d g t.cpu.grp ∧
      FlagLanes (n == 64) d g t.cpu.grp fun j lane fl =>
        let x := decodeCode src g.ftz (srcLane g (fmtBits src == 64) b j).toNat
        let r := lane.toNat % 2 ^ n
        let w := BitVec.ofNat 32 (mix (s.cpu.ctx.seed.toNat :: halves g.gid ++ halves g.lc ++ [j]))
        (lane.toNat = if fmtSigned dst = true ∧ n < 32 then (toI n true r % 2 ^ 32).toNat else r) ∧
          (if dst < 6 then (r, fl) = toFormat (fmtOf dst) g.rnd g.sat g.ftz w x
           else ToInt n (fmtSigned dst) (rndNoSr g) g.sat x r fl)

/-- R147, R148 (tier 2). `fdot2` and `idot4`, VV and VK: products and addend combined exactly, then rounded once, or wrapped or clamped. -/
def Obligations.DotProducts : Prop :=
  ∀ (d a : BitVec 8) (b : Src) (s : State),
    let g := s.cpu.grp
    (let i := fdot2Word d a b
     Issues i g → isPairF g.ety = true →
     ∃ t, exec i s = .next t ∧ Did i (.fpflags :: vecDst false d) s t ∧ Shifted false d g t.cpu.grp ∧
       FlagLanes false d g t.cpu.grp fun j lane fl =>
         let x := fun e => floatIn g (g.laneV false a j) e
         let y := fun e => floatIn g (srcLane g false b j) e
         let z := decodeF fp32 g.ftz (g.laneV false d j).toNat
         let ts := [((x 0).mul (y 0)).1, ((x 1).mul (y 1)).1, z]
         let r := lane.toNat
         let infZero := FltOp.infZero .mul (x 0) (y 0) ∨ FltOp.infZero .mul (x 1) (y 1)
         (infZero → r = nanF fp32 ∧ fl = flagNV) ∧
         (¬ infZero → .nan ∈ [x 0, x 1, y 0, y 1, z] → r = nanF fp32 ∧ fl = 0) ∧
         (.nan ∉ ts → .inf true ∈ ts → .inf false ∈ ts → r = nanF fp32 ∧ fl = flagNV) ∧
         (∀ n, .nan ∉ ts → .inf n ∈ ts → .inf (!n) ∉ ts → r = infF fp32 n ∧ fl = 0) ∧
         (∀ x0 x1 y0 y1 z', (x 0).rat = some x0 → (x 1).rat = some x1 → (y 0).rat = some y0 → (y 1).rat = some y1 → z.rat = some z' →
           ∃ v, v.rat = some (x0 * y0 + x1 * y1 + z') ∧ (x0 * y0 + x1 * y1 + z' = 0 → v.isNeg = zeroSign (g.rnd == 3) ts) ∧
             (r, fl) = toFormat fp32 (rndNoSr g) g.sat g.ftz 0 v)) ∧
    (let i := idot4Word d a b
     Issues i g → isI8Q g.ety = true →
     ∃ t, exec i s = .next t ∧ Did i (vecDst false d) s t ∧ Shifted false d g t.cpu.grp ∧
       ∀ j : Fin 32, if g.active.getLsbD j then
         let x := fun e => toI 8 true (elemIn g (g.laneV false a j) e)
         let y := fun e => toI 8 true (elemIn g (srcLane g false b j) e)
         Fits 32 true g.sat (toI 32 true (g.laneV false d j).toNat + x 0 * y 0 + x 1 * y 1 + x 2 * y 2 + x 3 * y 3)
           (t.cpu.grp.laneV false d j).toNat
         else t.cpu.grp.laneV false d j = g.laneV false d j)

/-- R146 (tier 2). The transcendentals, VV and VK: the special inputs of the table with their flags. Of any other input a magnitude is
rounded once to nearest even, overflow as with SAT clear: of `frcp` the exact one, of `frsq` and `fsqrt` one that no format rounds apart from
the exact one, of `fex2`, `flg2` and `ftanh` one that rounds the same or differs by less than one part in 2^64, and the exact one where
`fex2` gives a power of two and `flg2` an integer. -/
def Obligations.Transcendentals : Prop :=
  ∀ (o : FnOp) (d : BitVec 8) (b : Src) (s : State),
    let i := o.word d b
    let g := s.cpu.grp
    let f := etyFmt g.ety
    Issues i g → isFlt g.ety = true →
    ∃ t, exec i s = .next t ∧ Did i (.fpflags :: vecDst false d) s t ∧ Shifted false d g t.cpu.grp ∧
      FlagResults d g t.cpu.grp fun j e r fl =>
        let x := floatIn g (srcLane g false b j) e
        (∀ y, o.special f x = some y → (r, fl) = y) ∧
        (o.special f x = none → ∃ (neg : Bool) (m : Mag) (v : ℚ), x.rat = some v ∧ m.d ≠ 0 ∧
          o.Rounds v neg ((m.n : ℝ) / m.d * 2 ^ m.e) ∧ (r, fl) = roundMag f 0 false g.ftz 0 neg m)

/-- R63, R64, R69, R387 (tier 2). The one rounding function, of every magnitude n/d·2^e with either sign, for every floating format and the
five modes of MD (0 RNE, 1 RTZ, 2 RUP, 3 RDN, 4 SR with its random word): a result that does not overflow is the nearest value of the format in
the direction of the mode (under RNE the nearer, on a tie the one whose last bit is 0; under SR the value beyond exactly when d + r ≥ 2^32), a
zero has the sign of the value, and NX is set exactly when the result differs from the exact value. OF is set, with NX alone beside it, exactly
when the value rounds beyond the largest finite one, and the result is then that of the overflow table (under SR its RNE row); UF is set exactly
when the result is tiny and inexact. FTZ writes a result that would be subnormal as a zero of its sign. A finite value is rounded as its
magnitude is; an infinity and a NaN give what the table has for them, with its flags. -/
def Obligations.RoundingIsCorrect : Prop :=
  (∀ (c mode : Nat) (sat neg : Bool) (w : Word) (x : Mag), c < 6 → mode < 5 → x.d ≠ 0 →
    let f := fmtOf c
    let q : ℚ := (if neg then -1 else 1) * ((x.n : ℚ) / x.d * 2 ^ x.e)
    let r := (roundMag f mode sat false w neg x).1
    let fl := (roundMag f mode sat false w neg x).2
    let val := fun w : Nat => (decodeF f false w).rat
    (fl.getLsbD 2 = false →
    ∃ y, val r = some y ∧ r < 2 ^ fmtBits c ∧ (fl.getLsbD 0 = true ↔ y ≠ q) ∧ (y = 0 → r = signF f neg) ∧
      (mode = 4 → ∃ t k, Spacing f q t ∧ RoundsSr w (q / 2 ^ t) k ∧ y = k * 2 ^ t) ∧
      ∀ u z, u < 2 ^ fmtBits c → val u = some z →
        match mode with
        | 0 => |q - y| ≤ |q - z| ∧ (|q - y| = |q - z| → z ≠ y → r % 2 = 0)
        | 1 => |y| ≤ |q| ∧ 0 ≤ y * q ∧ (|z| ≤ |q| → |z| ≤ |y|)
        | 2 => q ≤ y ∧ (q ≤ z → y ≤ z)
        | 3 => y ≤ q ∧ (z ≤ q → z ≤ y)
        | _ => True) ∧
    (fl.getLsbD 2 = true ↔ Overflows f mode w q) ∧
    (fl.getLsbD 2 = true → fl = flagOF ||| flagNX ∧ r =
      if sat = true ∨ c = 5 then maxF f neg
      else match mode with
        | 1 => maxF f neg
        | 2 => if neg then maxF f true else infF f false
        | 3 => if neg then infF f true else maxF f false
        | _ => infF f neg) ∧
    (fl.getLsbD 1 = true ↔ fl.getLsbD 0 = true ∧ Tiny f mode w q) ∧ fl.getLsbD 3 = false ∧ fl.getLsbD 4 = false ∧
    (c < 3 → subnormal f r → roundMag f mode sat true w neg x = (signF f neg, flagUF ||| flagNX)) ∧
    (¬ (c < 3 ∧ subnormal f r) → roundMag f mode sat true w neg x = (r, fl))) ∧
  ∀ (c mode : Nat) (sat n : Bool), c < 6 →
    let f := fmtOf c
    (∀ (ftz : Bool) (w : Word) (m : Nat) (e : Int), toFormat f mode sat ftz w (.fin n m e) = roundMag f mode sat ftz w n ⟨m, 1, e⟩) ∧
    toFormat f mode sat false 0 .nan = (if c = 5 then (0, flagNV) else (nanF f, 0)) ∧
    toFormat f mode sat false 0 (.inf n) =
      if c = 5 then (maxF f n, flagNV) else if c = 3 then (if sat then maxF f n else nanF f, flagNV) else (infF f n, 0)

/-- R40, R150, R153 (tier 2). The lane predicate words write pd in the active lanes; `pmov` tests the low register, and raises the mode fault
where b names no pair under i64 and u64; `vote` combines a predicate over the active lanes. -/
def Obligations.PredicatesAndVotes : Prop :=
  ∀ (d a b : BitVec 8) (s : State),
    let g := s.cpu.grp
    (∀ o : PredOp,
     let i := o.word d a b
     Issues i g →
     ∃ t, exec i s = .next t ∧ Did i [.p d.toNat] s t ∧
       ∀ j < 32, (t.cpu.grp.readP d.toNat).getLsbD j =
         if g.active.getLsbD j then o.bit ((g.readP a.toNat).getLsbD j) ((g.readP b.toNat).getLsbD j)
         else (g.readP d.toNat).getLsbD j) ∧
    (Issues (.pmov d b) g → VecMode isAny g [] [b] [] →
     ∃ t, exec (.pmov d b) s = .next t ∧ Did (.pmov d b) [.p d.toNat] s t ∧
       ∀ j < 32, (t.cpu.grp.readP d.toNat).getLsbD j =
         if g.active.getLsbD j then decide (laneAt (g.readV b) j ≠ 0) else (g.readP d.toNat).getLsbD j) ∧
    (Issues (.pmov d b) g → isWide g.ety = true → pairOk false b = false →
     ∃ t, exec (.pmov d b) s = .next t ∧ TakesTrap (wordOf (.pmov d b)) none (atPc g 6 1) 0 s t) ∧
    (∀ op : BitVec 3, Issues (.vote d a op) g →
     ∃ t, exec (.vote d a op) s = .next t ∧ Did (.vote d a op) [if op.toNat < 3 then .q d.toNat else .k d.toNat] s t ∧
       match op.toNat with
       | 0 => t.cpu.grp.readQ d.toNat = true ↔ ∀ j < 32, g.active.getLsbD j = true → (g.readP a.toNat).getLsbD j = true
       | 1 => t.cpu.grp.readQ d.toNat = true ↔ trueLanes g a ≠ ∅
       | 2 => t.cpu.grp.readQ d.toNat = true ↔ trueLanes g a = ∅
       | 3 => (t.cpu.grp.readK d).toNat = (trueLanes g a).card
       | 4 => ∀ j < 32, (t.cpu.grp.readK d).getLsbD j = true ↔ j ∈ trueLanes g a
       | _ => if trueLanes g a = ∅ then t.cpu.grp.readK d = 32
              else (t.cpu.grp.readK d).toNat ∈ trueLanes g a ∧ ∀ j ∈ trueLanes g a, (t.cpu.grp.readK d).toNat ≤ j)

/-- R151, R152 (tier 2). `shfl` in both forms and `bcast`: every active lane takes the value of a at a source lane, read whatever its state;
pairs under i64 and u64. -/
def Obligations.LaneMoves : Prop :=
  ∀ (o : MoveOp) (d a : BitVec 8) (s : State),
    let i := o.word d a
    let g := s.cpu.grp
    let wide := isWide g.ety
    Issues i g → VecMode isAny g [d] [a] [] →
    ∃ t, exec i s = .next t ∧ Did i (vecDst wide d) s t ∧ Shifted wide d g t.cpu.grp ∧
      ∀ j : Fin 32, t.cpu.grp.laneV wide d j = if g.active.getLsbD j then g.laneV wide a (o.lane g j) else g.laneV wide d j

/-- R77, R78, R154 (tier 2). `lsum` and `lscan`: the integer forms add in the order of the rules, wrapping or clamping at every step, an
inactive lane as 0; the floating forms add in the same order with nearest-even rounding at every step, an inactive lane as −0. -/
def Obligations.CrossLaneSums : Prop :=
  ∀ (scan : Bool) (d : BitVec 8) (f : BitVec 1) (b : BitVec 8) (s : State),
    let i := crossWord scan d f b
    let g := s.cpu.grp
    let wide := isWide g.ety
    let n := etyBits g.ety
    let sg := etySigned g.ety
    let fmt := etyFmt g.ety
    Issues i g → VecMode (if f = 1 then isFlt else isInt) g [d] [b] [] →
    ∃ t, exec i s = .next t ∧ Did i (.fpflags :: vecDst wide d) s t ∧ Shifted wide d g t.cpu.grp ∧
      (f = 0 → t.cpu.grp.fpflags = g.fpflags) ∧
      ElemResults d g t.cpu.grp fun j e r =>
        let x := fun l => elemIn g (g.laneV wide b l) e
        if f = 1 then
          r = (toFormat fmt 0 false false 0
            (crossOf scan (fun u v => (addF g fmt u v).1) (.fin true 0 0)
              (fun l => if g.active.getLsbD l then decodeF fmt g.ftz (x l) else .fin true 0 0) j)).1
        else
          toI n sg r = crossOf scan (fun u v => toI n sg (fitI n sg g.sat (u + v))) 0 (fun l => if g.active.getLsbD l then toI n sg (x l) else 0) j

/-- R155, R48 (tier 2). The uniform words, once for the group whatever MD holds: those that write a uniform register, then those that write
a uniform predicate; `kcmp` compares signed for lt to ge, unsigned for ltu to geu. -/
def Obligations.UniformWords : Prop :=
  ∀ (d a b : BitVec 8) (imm : BitVec 16) (s : State),
    let g := s.cpu.grp
    (∀ o : UniOp, Issues (o.word d a b) g →
     ∃ t, exec (o.word d a b) s = .next t ∧ Did (o.word d a b) [.k d.toNat] s t ∧ o.Result (g.readK a) (g.readK b) (t.cpu.grp.readK d)) ∧
    (Issues (.kmov d b) g → ∃ t, exec (.kmov d b) s = .next t ∧ Did (.kmov d b) [.k d.toNat] s t ∧ t.cpu.grp.readK d = g.readK b) ∧
    (Issues (.kmovi d imm) g →
     ∃ t, exec (.kmovi d imm) s = .next t ∧ Did (.kmovi d imm) [.k d.toNat] s t ∧ (t.cpu.grp.readK d).toInt = imm.toInt) ∧
    (Issues (.ksel d a b) g →
     ∃ t, exec (.ksel d a b) s = .next t ∧ Did (.ksel d a b) [.k d.toNat] s t ∧
       t.cpu.grp.readK d = if g.readQ b.toNat then g.readK a else g.readK d) ∧
    (Issues (.kcmp d a b) g →
     ∃ t, exec (.kcmp d a b) s = .next t ∧ Did (.kcmp d a b) [.q (d.toNat % 16)] s t ∧
       t.cpu.grp.readQ (d.toNat % 16) =
         let x := g.readK a
         let y := g.readK b
         match d.toNat / 16 with
         | 0 => decide (x = y)
         | 1 => decide (x ≠ y)
         | 2 => x.slt y
         | 3 => x.sle y
         | 4 => y.slt x
         | 5 => y.sle x
         | 6 => x.ult y
         | 7 => x.ule y
         | 8 => y.ult x
         | _ => y.ule x) ∧
    (Issues (.qand d a b) g → ∃ t, exec (.qand d a b) s = .next t ∧ Did (.qand d a b) [.q d.toNat] s t ∧
       t.cpu.grp.readQ d.toNat = (g.readQ a.toNat && g.readQ b.toNat)) ∧
    (Issues (.qor d a b) g → ∃ t, exec (.qor d a b) s = .next t ∧ Did (.qor d a b) [.q d.toNat] s t ∧
       t.cpu.grp.readQ d.toNat = (g.readQ a.toNat || g.readQ b.toNat)) ∧
    (Issues (.qnot d b) g → ∃ t, exec (.qnot d b) s = .next t ∧ Did (.qnot d b) [.q d.toNat] s t ∧
       t.cpu.grp.readQ d.toNat = !g.readQ b.toNat)

/-- R156, R157, R158 (tier 2). Branches, jumps and calls write the PC, `call` also k158:k159; the lane set and the reconvergence stack stay.
`jmpk` and `ret` go where the pair says when the target is aligned, inside an object, and executable; else they raise the fault of the first
check that fails. The codes and the address of these faults rest on the model's choice (DEDUCED, log 12). That a target stays in its object,
modulo 2^40, is the model's choice too (DEDUCED, log 40). -/
def Obligations.Branches : Prop :=
  ∀ (d a : BitVec 8) (imm : BitVec 16) (off : BitVec 24) (s : State),
    let g := s.cpu.grp
    (Issues (.br d imm) g →
     ∃ t p, exec (.br d imm) s = .next t ∧ DidTo (.br d imm) [] p s t ∧
       if g.readQ d.toNat then CodeAt g.pc (4 * imm.toInt) p else p = g.pc + 4) ∧
    (∃ t p, exec (.jmp off) s = .next t ∧ DidTo (.jmp off) [] p s t ∧ CodeAt g.pc (4 * off.toInt) p) ∧
    (Issues (.call off) g →
     ∃ t p, exec (.call off) s = .next t ∧ DidTo (.call off) [.k 158, .k 159] p s t ∧ CodeAt g.pc (4 * off.toInt) p ∧
       CodeAt g.pc 4 (t.cpu.grp.readKK 158)) ∧
    ∀ i, i = .jmpk a ∨ i = .ret a → Issues i g →
      let p := g.readKK a
      let fault := fun cls code => ∃ t, exec i s = .next t ∧ TakesTrap (wordOf i) none (atAddr cls code p.toNat 0) 0 (s.withDir t.cpu.hw.dir) t
      (JumpTarget s p → ∃ t, exec i s = .next t ∧ DidTo i [] p (s.withDir t.cpu.hw.dir) t) ∧
      (p.toNat % 4 ≠ 0 → fault 2 2) ∧ (p.toNat % 4 = 0 → s.cpu.record s.mem (baseObj p) = none → fault 3 2) ∧
      ∀ r, p.toNat % 4 = 0 → s.cpu.record s.mem (baseObj p) = some r →
        (r.ext < baseOff p + 4 → fault 3 1) ∧ (baseOff p + 4 ≤ r.ext → hasPerm r 4 = false → fault 5 1)

/-- R159, R160, R161 (tier 2). Lane divergence: `mkj` pushes an entry, `brv` splits C in the five cases of its rule, `jn` takes the pending
lanes or pops. Below the limit of the stack, with the entries the rules ask for, each retires and writes C, the stack and the PC only; else
it raises the mode fault with the reconvergence cause. That a target stays in its object, modulo 2^40, is the model's choice (DEDUCED, log
40). -/
def Obligations.Divergence : Prop :=
  ∀ (d : BitVec 8) (imm : BitVec 16) (s : State),
    let g := s.cpu.grp
    (Issues (.mkj imm) g → g.joins.length < (if g.inWin then 4 else 32) →
     ∃ t j, exec (.mkj imm) s = .next t ∧ Did (.mkj imm) [.joins] s t ∧ CodeAt g.pc (4 * imm.toInt) j ∧
       t.cpu.grp.joins = ⟨j, g.lanes, 0, 0⟩ :: g.joins) ∧
    (∀ top rest j, Issues (.brv d imm) g → g.joins = top :: rest → CodeAt g.pc (4 * imm.toInt) j →
     let x := g.lanes &&& g.readP d.toNat
     let f := g.lanes &&& ~~~ x
     (x = 0 ∨ j = top.j ∨ f = 0 ∨ top.p = 0) →
     ∃ t p, exec (.brv d imm) s = .next t ∧ DidTo (.brv d imm) [.lanes, .joins] p s t ∧
       if x = 0 then p = g.pc + 4 ∧ t.cpu.grp.lanes = g.lanes ∧ t.cpu.grp.joins = g.joins
       else if j = top.j then p = (if f = 0 then j else g.pc + 4) ∧ t.cpu.grp.lanes = f ∧ t.cpu.grp.joins = g.joins
       else if f = 0 then p = j ∧ t.cpu.grp.lanes = g.lanes ∧ t.cpu.grp.joins = g.joins
       else p = g.pc + 4 ∧ t.cpu.grp.lanes = f ∧ t.cpu.grp.joins = { top with p := x, t := j } :: rest) ∧
    (∀ top rest, g.joins = top :: rest → top.j = g.pc →
     ∃ t p, exec .jn s = .next t ∧ DidTo .jn [.lanes, .joins] p s t ∧
       if top.p = 0 then p = g.pc + 4 ∧ t.cpu.grp.lanes = top.s ∧ t.cpu.grp.joins = rest
       else p = top.t ∧ t.cpu.grp.lanes = top.p ∧ t.cpu.grp.joins = { top with p := 0 } :: rest) ∧
    (let fault := fun i => ∃ t, exec i s = .next t ∧ TakesTrap (wordOf i) none (atPc g 6 2) 0 s t
     (Issues (.mkj imm) g → (if g.inWin then 4 else 32) ≤ g.joins.length → fault (.mkj imm)) ∧
     (Issues (.brv d imm) g → g.joins = [] → fault (.brv d imm)) ∧
     (∀ top rest j, Issues (.brv d imm) g → g.joins = top :: rest → CodeAt g.pc (4 * imm.toInt) j → g.lanes &&& g.readP d.toNat ≠ 0 → j ≠ top.j →
       g.lanes &&& ~~~ (g.lanes &&& g.readP d.toNat) ≠ 0 → top.p ≠ 0 → fault (.brv d imm)) ∧
     (g.joins = [] ∨ (∃ top rest, g.joins = top :: rest ∧ top.j ≠ g.pc) → fault .jn))

/-- R164 to R171 (tier 2). `nop`, `mdset`, `mdget`, `lcrd`, `lcadv`, `rqset`; `rqmove` moves quota between groups of a block; `exit` ends
the group and closes the block's syncs (R192), once every batch has completed (`settle`). `lcadv` raises the mode fault where the clock
would reach 2^63, `rqmove` where the target is beyond the block. -/
def Obligations.ModeClockQuotaExit : Prop :=
  ∀ (d a : BitVec 8) (imm : BitVec 16) (s : State),
    let g := s.cpu.grp
    (∃ t, exec .nop s = .next t ∧ Did .nop [] s t) ∧
    (Issues (.mdset imm) g → ∃ t, exec (.mdset imm) s = .next t ∧ Did (.mdset imm) [.md] s t ∧ t.cpu.grp.md = imm) ∧
    (Issues (.mdget d) g → ∃ t, exec (.mdget d) s = .next t ∧ Did (.mdget d) [.k d.toNat] s t ∧ t.cpu.grp.readK d = g.md.setWidth 32) ∧
    (Issues (.lcrd d) g → ∃ t, exec (.lcrd d) s = .next t ∧ Did (.lcrd d) [.k d.toNat, .k (d.toNat + 1)] s t ∧
       t.cpu.grp.readKK d = BitVec.ofNat 64 g.lc) ∧
    (Issues (.lcadv a) g → g.lc + 1 + (g.readK a).toNat < 2 ^ 63 →
     ∃ t, exec (.lcadv a) s = .next t ∧ GroupOnly s t ∧
       t.cpu.grp = { g.after (.lcadv a) (g.pc + 4) with lc := g.lc + 1 + (g.readK a).toNat }) ∧
    (Issues (.lcadv a) g → 2 ^ 63 ≤ g.lc + 1 + (g.readK a).toNat →
     ∃ t, exec (.lcadv a) s = .next t ∧ TakesTrap (wordOf (.lcadv a)) none (atPc g 6 3) 0 s t) ∧
    (∀ b, Issues (.rqmove d a) g → s.cpu.ctx.block g = some b → b.g ≤ (g.readK d).toNat →
     ∃ t, exec (.rqmove d a) s = .next t ∧ TakesTrap (wordOf (.rqmove d a)) none (atPc g 6 4) 0 s t) ∧
    (Issues (.rqset a) g →
     ∃ t, exec (.rqset a) s = .next t ∧ GroupOnly s t ∧ t.cpu.grp = { g.after (.rqset a) (g.pc + 4) with quota := min (g.readK a).toNat 29 }) ∧
    (∀ b, Issues (.rqmove d a) g → s.cpu.ctx.block g = some b → (g.readK d).toNat < b.g →
     let to' := (g.readK d).toNat
     let m := min (g.readK a).toNat (min 29 g.quota)
     ∃ t, exec (.rqmove d a) s = .next t ∧ t.cpu.hw = s.cpu.hw ∧ t.others = s.others ∧ t.inputs = s.inputs ∧
       (∀ x, memByte t.mem x = memByte s.mem x) ∧
       (if to' = g.gix then t.cpu.ctx = s.cpu.ctx ∧ t.cpu.grp = g.after (.rqmove d a) (g.pc + 4)
        else t.cpu.grp = { g.after (.rqmove d a) (g.pc + 4) with quota := g.quota - m } ∧
          t.cpu.ctx = { s.cpu.ctx with groups := s.cpu.ctx.groups.map fun h =>
            if h.gid = g.gid - g.gix + to' ∧ h.status ≠ .exited ∧ h.status ≠ .absent then { h with quota := min (h.quota + m) 29 } else h })) ∧
    (let u := s.cpu.settle
     ∀ b, u.ctx.block u.grp = some b →
     ∃ t, exec .exitI s = .next t ∧ t.cpu.hw = u.hw ∧ t.others = s.others ∧ t.inputs = s.inputs ∧
       (∀ x, memByte t.mem x = memByte s.mem x) ∧
       t.cpu.grp = { u.grp.after .exitI (u.grp.pc + 4) with batches := [], status := .exited } ∧
       t.cpu.ctx = u.ctx.setBlock { b with anyExit := true })

/-- R53, R54, R34, R49, R294, R296, R301 (tier 2). A word with an illegal name raises illegal instruction with code 3, one with an undefined
code the same class with code 5, whatever else holds. A first byte that no instruction has raises it with code 1; a `lit` before a word that
takes none, or with L[23:16] set before a W word, with code 2; a failed fetch raises the permission fault with code 6. WORD 0 of a failed
fetch is the model's choice (DEDUCED, log 13). -/
def Obligations.IllegalWordsAndFetchTrap : Prop :=
  ∀ (i : Instr) (l : BitVec 24) (ol : Option (BitVec 24)) (w : Word) (s : State),
    let g := s.cpu.grp
    let op := (w.extractLsb' 24 8).toNat
    (OneWord i → wellFormed i = false →
      ∃ t, exec i s = .next t ∧ TakesTrap (wordOf i) none (atPc g 1 (if namesOk i then 5 else 3)) 0 s t) ∧
    (∃ t, exec (.unassignedFirstByte w) s = .next t ∧ TakesTrap w none (atPc g 1 1) 0 s t) ∧
    (∃ t, exec (.instructionFetchFault ol) s = .next t ∧ TakesTrap 0 ol (atPc g 5 6) 0 s t) ∧
    (unassigned op = true → ∃ t, exec (.lit l w) s = .next t ∧ TakesTrap w (some l) (atPc g 1 1) 0 s t) ∧
    (unassigned op = false → (litForm op = none ∨ (litForm op = some .w ∧ l.extractLsb' 16 8 ≠ 0)) →
      ∃ t, exec (.lit l w) s = .next t ∧ TakesTrap w (some l) (atPc g 1 2) 0 s t)

/-- R47, R40, R249, R253, R270, R300, R296 (tier 2). The faults of a legal word on the group's state, in the order privilege, trap window,
mode; nothing of its effect takes place and the clock does not move. A word that needs system level, or the NONDET bit, raises the privilege
fault; in the trap window a word that names a register the window lacks raises the mode fault with the trap-window cause, a nested trap; the
arithmetic words of R134 and R140 under a type outside their class, or with an odd pair, raise it with cause 1. That `call` is such a word
is the model's choice (DEDUCED, log 10). -/
def Obligations.PrivilegeWindowAndModeFaults : Prop :=
  ∀ (i : Instr) (d a : BitVec 8) (b : Src) (s : State),
    let g := s.cpu.grp
    (wellFormed i = true → Forbidden g s.cpu.ctx i →
      ∃ t, exec i s = .next t ∧ TakesTrap (wordOf i) none (atPc g 7 1) 0 s t) ∧
    (wellFormed i = true → g.inWin = true → windowOk i = false → ¬ Forbidden g s.cpu.ctx i →
      ∃ t, exec i s = .next t ∧ TakesTrap (wordOf i) none (atPc g 6 11) 0 s t ∧ SuspendedWith 38 6 s t) ∧
    (∀ o : IntOp, Issues (o.word d a b) g → isInt g.ety = false →
      ∃ t, exec (o.word d a b) s = .next t ∧ TakesTrap (wordOf (o.word d a b)) none (atPc g 6 1) 0 s t) ∧
    (∀ o : IntOp, Issues (o.word d a b) g → isWide g.ety = true → d.toNat % 2 = 1 →
      ∃ t, exec (o.word d a b) s = .next t ∧ TakesTrap (wordOf (o.word d a b)) none (atPc g 6 1) 0 s t) ∧
    (∀ o : FltOp, Issues (o.word d a b) g → isFlt g.ety = false →
      ∃ t, exec (o.word d a b) s = .next t ∧ TakesTrap (wordOf (o.word d a b)) none (atPc g 6 1) 0 s t)

/-- R266, R269, R304 (tier 2). `trap n` retires, and then raises the software trap with code n: the frame's PC is that of the word after it.
`rfe` in the window retires and leaves it: the group goes on at the frame's PC with its own registers as the image holds them; the completed
lanes come back only where the PC is the one at entry. Outside the window it raises the mode fault. -/
def Obligations.SoftwareTrapAndReturn : Prop :=
  ∀ (n : BitVec 8) (s : State),
    let g := s.cpu.grp
    (∃ t, exec (.trap n) s = .next t ∧
      TakesTrap (wordOf (.trap n)) none ⟨8, n.toNat, g.pc, 0, 0, 0⟩ 0
        { s with cpu := { s.cpu with grp := g.after (.trap n) (g.pc + 4) } } t) ∧
    (g.inWin = true →
      ∃ t, exec .rfe s = .next t ∧ GroupOnly s t ∧
        t.cpu.grp = { g with
          pc := g.frame.pc, lc := g.lc + 1, inWin := false, fills := [], bulk := false, status := .running
          cmask := if g.frame.pc = g.frame.pcEntry then g.frame.cmask else 0
          frame := { g.frame with cls := 0, code := 0, cmask := 0 } }) ∧
    (g.inWin = false → ∃ t, exec .rfe s = .next t ∧ TakesTrap (wordOf .rfe) none (atPc g 6 11) 0 s t)

/-- R294, R301, R304, R315 (tier 2). A trap taken by an illegal word and an `rfe` right after it leave the interrupted registers and the
place as they were, and no lane counts as completed: only the clock has advanced, by the `rfe`. -/
def Obligations.TrapThenReturn : Prop :=
  ∀ (i : Instr) (s t u : State), OneWord i → wellFormed i = false → s.cpu.grp.inWin = false → s.cpu.grp.trapv.toNat / 4 ≠ 0 →
    exec i s = .next t → exec .rfe t = .next u →
    u.cpu.grp.main = s.cpu.grp.main ∧ u.cpu.grp.pc = s.cpu.grp.pc ∧ u.cpu.grp.cmask = 0 ∧ u.cpu.grp.lc = s.cpu.grp.lc + 1 ∧
      u.cpu.grp.inWin = false ∧ u.cpu.grp.fpflags = s.cpu.grp.fpflags ∧ u.cpu.grp.sketch = s.cpu.grp.sketch ∧ u.cpu.ctx = s.cpu.ctx ∧
      u.cpu.hw = s.cpu.hw ∧ ∀ a, memByte u.mem a = memByte s.mem a

/-- R253 to R256, R270 (tier 2). `csrr` writes the value in effect, 32 or 64 bits; of TSC, and `tscrd`, a reading of the counter (a free
value: DESIGN CHOICE, log 5). `csrw` writes FPFLAGS and TRAPV at once, and OBJTB and TMPLB at the end of the leg. -/
def Obligations.ControlRegisters : Prop :=
  ∀ (d a n : BitVec 8) (s : State),
    let g := s.cpu.grp
    let x := s.cpu.ctx
    (Issues (.csrr d n) g → ¬ Forbidden g x (.csrr d n) → n ≠ 12 →
      ∃ t, exec (.csrr d n) s = .next t ∧
        (if csr64 n then Did (.csrr d n) [.k d.toNat, .k (d.toNat + 1)] s t ∧ t.cpu.grp.readKK d = csrRead x g n.toNat
         else Did (.csrr d n) [.k d.toNat] s t ∧ t.cpu.grp.readK d = (csrRead x g n.toNat).setWidth 32)) ∧
    (∀ i, i = .csrr d 12 ∨ i = .tscrd d → Issues i g → x.nondet.getLsbD 0 = true →
      ∃ t, exec i s = .next t ∧ CtxOnly { s with cpu := { s.cpu with hw := { s.cpu.hw with tscCount := s.cpu.hw.tscCount + 1 } } } t ∧
        t.cpu.ctx = x ∧ SameGroup [.k d.toNat, .k (d.toNat + 1)] g t.cpu.grp ∧ Retired 1 (g.pc + 4) g t.cpu.grp ∧
        t.cpu.grp.readKK d = Config.tscReading s.cpu.hw.tscCount) ∧
    (Issues (.csrw a n) g → ¬ Forbidden g x (.csrw a n) →
      ∃ t, exec (.csrw a n) s = .next t ∧ CtxOnly s t ∧
        match n.toNat with
        | 4 => t.cpu.ctx = x ∧ t.cpu.grp = { g.after (.csrw a n) (g.pc + 4) with fpflags := (g.readK a).setWidth 5 }
        | 5 => t.cpu.ctx = x ∧ t.cpu.grp = { g.after (.csrw a n) (g.pc + 4) with trapv := BitVec.ofNat 64 ((g.readKK a).toNat / 4 * 4) }
        | 8 => t.cpu.grp = g.after (.csrw a n) (g.pc + 4) ∧
            t.cpu.ctx = { x with pendCsr := x.pendCsr ++ [(false, ⟨g.lc, g.gid⟩, g.readKK a &&& 0x000FFFFFFFFFF01F)] }
        | _ => t.cpu.grp = g.after (.csrw a n) (g.pc + 4) ∧
            t.cpu.ctx = { x with pendCsr := x.pendCsr ++ [(true, ⟨g.lc, g.gid⟩, g.readKK a &&& 0x000FFFFFFFFFFFFF)] })

/-- R267, R268, R274 (tier 2). `asrt` retires unless its predicate is false in an active lane, and then stops the group with the lowest
failing lane; `brkp` stops it only under DBG, after it has retired; `halt` always, at system level. -/
def Obligations.AssertBreakHalt : Prop :=
  ∀ (d b n a : BitVec 8) (s : State),
    let g := s.cpu.grp
    (Issues (.asrt d b) g →
      ∃ t, exec (.asrt d b) s = .next t ∧
        ((∀ j < 32, g.active.getLsbD j = true → (g.readP d.toNat).getLsbD j = true) → Did (.asrt d b) [] s t) ∧
        (∀ lane < 32, g.active.getLsbD lane = true → (g.readP d.toNat).getLsbD lane = false →
          (∀ j < lane, g.active.getLsbD j = true → (g.readP d.toNat).getLsbD j = true) →
          StopsAt ⟨.asrt, ⟨g.lc, g.gid⟩, g.pc, 0, lane, g.readKK b⟩ g s t)) ∧
    (∃ t, exec (.brkp n) s = .next t ∧
      if s.cpu.ctx.dbg then StopsAt ⟨.brkp, ⟨g.lc, g.gid⟩, g.pc, n.setWidth 32, 0, 0⟩ (g.after (.brkp n) (g.pc + 4)) s t
      else Did (.brkp n) [] s t) ∧
    (Issues (.halt a) g → g.sys = true →
      ∃ t, exec (.halt a) s = .next t ∧ StopsAt ⟨.halt, ⟨g.lc, g.gid⟩, g.pc, g.readK a, 0, 0⟩ (g.after (.halt a) (g.pc + 4)) s t)

/-- R11, R258, R259 (tier 2). A `launch` whose checks pass sends its record as a turn entry of weight 64, here to the queue of this module, and
waits; the group's registers are as they were. A record with a field out of range raises the mode fault. TURN_PERFORM of the entry: the first
of the four cases that applies gives its code to kd, else the launch is queued under the next ordinal; the group goes on at s.LC + 64. -/
def Obligations.LaunchSends : Prop :=
  (∀ (d a : BitVec 8) (s : State),
    let g := s.cpu.grp
    let r := launchWords g a
    let e := (lrecOf r).entry
    Issues (.launch d a) g → ((lrecOf r).sys = true → g.sys = true) →
    (lrecOk r = true → JumpTarget s e → launchHome s.cpu.hw s.cpu.ctx = s.cpu.hw.number →
      ∃ t, exec (.launch d a) s = .next t ∧ Sends ⟨⟨g.lc, g.gid⟩, 64, .system, .launch r, s.cpu.hw.number, s.cpu.hw.number, 0⟩
        ⟨none, some d, false, 0, 64, 4⟩ (s.withDir t.cpu.hw.dir) t) ∧
    (lrecOk r = false →
      ∃ t, exec (.launch d a) s = .next t ∧ TakesTrap (wordOf (.launch d a)) none (atPc g 6 10) 0 (s.withDir t.cpu.hw.dir) t)) ∧
  ∀ (s : State) (e : Entry) (r : List Word), e.op = .launch r → AtTurn s e → performable s.cpu.hw s.cpu.ctx s.cpu.groups e = true →
    ∃ t f kd q, exec (.turnPerform e.stamp.gid) s = .next t ∧ LaunchDecides s.cpu.ctx r kd q ∧
      t.others = s.others ∧ t.inputs = s.inputs ∧ KeepsImages s t ∧ t.cpu.hw = { s.cpu.hw with log := t.cpu.hw.log } ∧
      t.cpu.ctx = { s.cpu.park.ctx with
        groups := t.cpu.ctx.groups
        queue := s.cpu.ctx.queue.filter fun f => f != e
        nextOrd := s.cpu.ctx.nextOrd + q.toList.length
        launches := s.cpu.ctx.launches ++ q.toList } ∧
      GroupsBecome f s t ∧ (∀ h, h.gid ≠ e.stamp.gid → f h = h) ∧
      ∀ h d, h.gid = e.stamp.gid → h.status = .turn ⟨none, some d, false, 0, 64, 4⟩ →
        SameGroup [.k d.toNat] h (f h) ∧ Retired 64 (h.pc + 4) h (f h) ∧
        (d.toNat < 160 → (h.inWin = true → d.toNat < 32) → (f h).readK d = kd)

/-- R272, R273, R271, R285, R287 (tier 2). `objw` to an address of the context's translation lines: a write of the same value retires at
once and marks its line, a deferred one goes to its queue as a turn entry, a service write goes to its home and the group waits for it; a
write of a dword that the host has written in the leg is logged as a race. `objfence` retires when no change is pending, else it cedes.
`icinv` notes the object. TURN_PERFORM of a deferred write: it is recorded as pending with its stamp, and the group, which has one more change
to fence, goes on at s.LC + 64. That an unchanged write retires without a turn is the model's choice (DEDUCED, log 36). -/
def Obligations.TranslationWrites : Prop :=
  (∀ (a b : BitVec 8) (s : State),
    let g := s.cpu.grp
    let x := s.cpu.ctx
    let pa := (g.readKK a).toNat
    let val := g.readKK b
    (Issues (.objw a b) g → g.sys = true → pa % 8 = 0 → ∀ c, changeOf s.cpu.hw s.mem x pa val = some c →
      ∃ t, exec (.objw a b) s = .next t ∧
        match c with
        | .same => t.others = s.others ∧ t.inputs = s.inputs ∧ (∀ y, memByte t.mem y = memByte s.mem y) ∧
            t.cpu.grp = g.after (.objw a b) (g.pc + 4) ∧ RaceNoted pa false x t.cpu.ctx ∧ t.cpu.ctx = { x with xlatLeg := t.cpu.ctx.xlatLeg } ∧
            t.cpu.hw = { raceHw s.cpu.hw x pa false with tmarks := t.cpu.hw.tmarks } ∧
            ∀ l, l ∈ t.cpu.hw.tmarks ↔ l ∈ s.cpu.hw.tmarks ∨ l = lineOf pa
        | .deferred => Sends ⟨⟨g.lc, g.gid⟩, 64, .system, .objw pa val, s.cpu.hw.number, s.cpu.hw.number, 0⟩
            ⟨none, none, false, 0, 64, 4⟩ s t
        | _ => t.cpu.hw = raceHw s.cpu.hw x pa false ∧ t.others = s.others ∧ t.inputs = s.inputs ∧
            (∀ y, memByte t.mem y = memByte s.mem y) ∧ t.cpu.grp = { g with status := .service } ∧ RaceNoted pa false x t.cpu.ctx ∧
            t.cpu.ctx = { x with svc := x.svc ++ [⟨pa, val, some g.gid, .sent, []⟩], xlatLeg := t.cpu.ctx.xlatLeg }) ∧
    (Issues .objfence g → g.sys = true →
      ∃ t, exec .objfence s = .next t ∧
        if g.objws = 0 then Did .objfence [] s t
        else GroupOnly s t ∧ t.cpu.grp = { g with status := .ceded 16 .objfence none }) ∧
    (∀ r, Issues (.icinv a) g → s.cpu.record s.mem (baseObj (g.readKK a)) = some r → baseOff (g.readKK a) < r.ext →
      baseObj (g.readKK a) ≠ 1 → hasPerm r 4 = true → modeRefuses r g.gid .execute = false →
      ∃ t, exec (.icinv a) s = .next t ∧ CtxOnly (s.withDir t.cpu.hw.dir) t ∧ t.cpu.grp = g.after (.icinv a) (g.pc + 4) ∧
        (∀ o, o ∈ t.cpu.ctx.icinvs ↔ o ∈ x.icinvs ∨ o = baseObj (g.readKK a)) ∧ t.cpu.ctx = { x with icinvs := t.cpu.ctx.icinvs })) ∧
  ∀ (s : State) (e : Entry) (pa : Nat) (v : Dword), e.op = .objw pa v → AtTurn s e →
    performable s.cpu.hw s.cpu.ctx s.cpu.groups e = true →
    ∃ t f, exec (.turnPerform e.stamp.gid) s = .next t ∧ t.others = s.others ∧ t.inputs = s.inputs ∧
      (NoneSaved s → t.mem = s.mem ∧ t.cpu.hw = raceHw s.cpu.hw s.cpu.ctx pa false) ∧
      t.cpu.hw = { raceHw s.cpu.hw s.cpu.ctx pa false with log := t.cpu.hw.log } ∧ RaceNoted pa false s.cpu.ctx t.cpu.ctx ∧
      t.cpu.ctx = { s.cpu.park.ctx with
        groups := t.cpu.ctx.groups, xlatLeg := t.cpu.ctx.xlatLeg
        queue := s.cpu.ctx.queue.filter fun f => f != e
        pendXlat := s.cpu.ctx.pendXlat ++ [⟨pa, v, some e.stamp, some e.stamp.gid⟩] } ∧
      GroupsBecome f s t ∧ (∀ h, h.gid ≠ e.stamp.gid → f h = h) ∧
      ∀ h, h.gid = e.stamp.gid → h.status = .turn ⟨none, none, false, 0, 64, 4⟩ →
        f h = { h with pc := h.pc + 4, lc := h.lc + 64, cmask := 0, fills := [], status := .running, objws := h.objws + 1 }

/-- R353, R354, R349, R352 (tier 2). `fstat` reads FSTAT; `fclr` clears every field in which the operand has a bit, and recomputes ANY;
`fence.sys` retires when nothing of the group is outstanding, its buffered writes sent, and else waits. -/
def Obligations.FabricStatusAndFence : Prop :=
  ∀ (d a : BitVec 8) (s : State),
    let g := s.cpu.grp
    (Issues (.fstat d) g → ∃ t, exec (.fstat d) s = .next t ∧ Did (.fstat d) [.k d.toNat] s t ∧ t.cpu.grp.readK d = g.fstat) ∧
    (Issues (.fclr a) g → ∃ t, exec (.fclr a) s = .next t ∧ GroupOnly s t ∧
      t.cpu.grp = { g.after (.fclr a) (g.pc + 4) with fstat := t.cpu.grp.fstat } ∧
      let k := g.readK a
      let y := t.cpu.grp.fstat
      (∀ j < 32, 1 ≤ j → y.getLsbD j =
        (g.fstat.getLsbD j && !(if j < 5 then k.getLsbD j else if 8 ≤ j ∧ j < 16 then decide (k.extractLsb' 8 8 ≠ 0)
          else if 26 ≤ j then decide (k.extractLsb' 26 6 ≠ 0) else false))) ∧
      (y.getLsbD 0 = true ↔ y.extractLsb' 1 4 ≠ 0)) ∧
    (let n := s.cpu.ctx.key
     let c := (s.cpu.hw.wcb.filter fun e => e.ctx == n && e.gid == g.gid).foldl sendWc s.cpu
     ∃ t, exec .fenceSys s = .next t ∧ t.cpu.ctx = c.ctx ∧ t.cpu.hw = c.hw ∧ t.others = s.others ∧ t.inputs = s.inputs ∧
       (∀ x, memByte t.mem x = memByte s.mem x) ∧
       (t.cpu.hw.wcb.all fun e => !(e.ctx == n && e.gid == g.gid)) = true ∧
       t.cpu.grp = if outstanding c.hw n g.gid = [] then g.after .fenceSys (g.pc + 4) else { g with status := .fence })

/-- R174, R176, R119, R41, R303 (tier 2). `ld` of the five sizes: where every lane still to execute passes its checks, the word retires with
the bytes that R100 and R103 select in those lanes; the completed lanes keep theirs; nothing in memory changes. An answer that the fabric
lost makes every lane all ones (R347). In the trap window the group's own image is read (R303). -/
def Obligations.PlainLoads : Prop :=
  ∀ (size : Nat) (d a b : BitVec 8) (s : State), size ∈ sizes →
    let i := loadWord size d a b
    let g := s.cpu.grp
    let obj := baseObj (g.readKK a)
    let off := laneOff g (g.readKK a) b 0
    let addr := fun j => vaOf obj (off j)
    let lanes := pendingLanes g
    Issues i g →
    (obj ≠ 1 → (∀ j ∈ lanes, Reach s .load size size obj (off j)) → (∀ x, lanesBytes lanes addr size x → Present s x) →
      ∃ t, exec i s = .next t ∧ SameGroup (loadDst size d) g t.cpu.grp ∧ Retired 2 (g.pc + 4) g t.cpu.grp ∧
        MemoryOnly (fun _ => False) (tagsOf s obj false (lanesBytes lanes addr size)) s t ∧ t.cpu.ctx.parcel = s.cpu.ctx.parcel ∧
        ((∀ x, lanesBytes lanes addr size x → get? g.fills (lineOf x) ≠ some none) →
          Loaded size d lanes (fun j => leNat (seenByte s) (addr j) size) g t.cpu.grp) ∧
        ((∃ x, lanesBytes lanes addr size x ∧ get? g.fills (lineOf x) = some none) →
          Loaded size d lanes (fun _ => 2 ^ (32 * regsOf size) - 1) g t.cpu.grp)) ∧
    (obj = 1 → (∀ j ∈ lanes, (s.cpu.record s.mem 1).isSome = true ∧ off j % size = 0 ∧ ownImage g (off j) size = true) →
      ∃ t, exec i s = .next t ∧ GroupOnly s t ∧ SameGroup (loadDst size d) g t.cpu.grp ∧ Retired 2 (g.pc + 4) g t.cpu.grp ∧
        Loaded size d lanes (fun j => leNat (windowByte g) ((off j).toNat - imageOff g) size) g t.cpu.grp)

/-- R175, R88, R103, R106 (tier 2). `st` of the five sizes to this module, where its lines fit into the sketch: the group itself reads the
stored bytes, the highest lane's where lanes agree on a byte, and every other byte as before; no other group sees anything change; the
stored words are marked plain. In the trap window a store goes to the group's own image. -/
def Obligations.PlainStores : Prop :=
  ∀ (size : Nat) (d a b : BitVec 8) (s : State), size ∈ sizes →
    let i := storeWord size d a b
    let g := s.cpu.grp
    let obj := baseObj (g.readKK a)
    let off := laneOff g (g.readKK a) b 0
    let addr := fun j => vaOf obj (off j)
    let lanes := pendingLanes g
    let P := lanesBytes lanes addr size
    Issues i g →
    (∀ ls, obj ≠ 1 → (∀ j ∈ lanes, Reach s .store size size obj (off j)) → LinesOf P ls →
      (∀ r, s.cpu.record s.mem obj = some r → PlainTarget s r P ∧ (storesThrough r = false → sketchWith g ls ≤ Config.sketchLines)) →
      ∃ t, exec i s = .next t ∧ SameButSketch [] g t.cpu.grp ∧ Retired 2 (g.pc + 4) g t.cpu.grp ∧
        MemoryOnly (plainMarks s P) (tagsOf s obj true P) s t ∧ OthersSee s t ∧
        StoredBytes id lanes addr (srcData g d size) size (seenByte s.forget) (seenByte t)) ∧
    (obj = 1 → (∀ j ∈ lanes, (s.cpu.record s.mem 1).isSome = true ∧ off j % size = 0 ∧ ownImage g (off j) size = true) →
      ∃ t, exec i s = .next t ∧ GroupOnly s t ∧
        t.cpu.grp = (windowStore g (storeCells lanes (fun j => (off j).toNat - imageOff g) (srcData g d size) size)).after i (g.pc + 4))

/-- R89, R81 (tier 2). The implicit release: a store whose lines do not fit beside those of the sketch first publishes all of the sketch at
the group's stamp, and the sketch then holds the store alone; a store of more lines than the sketch has is published as well, and so is the
rest of one of which lanes were published before they waited on translation. -/
def Obligations.SketchOverflow : Prop :=
  ∀ (size : Nat) (d a b : BitVec 8) (s : State) (r : Record) (ls : List Nat), size ∈ sizes →
    let i := storeWord size d a b
    let g := s.cpu.grp
    let obj := baseObj (g.readKK a)
    let off := laneOff g (g.readKK a) b 0
    let addr := fun j => vaOf obj (off j)
    let lanes := pendingLanes g
    let P := lanesBytes lanes addr size
    Issues i g → (∀ j ∈ lanes, Reach s .store size size obj (off j)) → s.cpu.record s.mem obj = some r → storesThrough r = false →
    (∀ a, P a → homedAway s.cpu.hw r (vaOff a) = none) → LinesOf P ls → (∀ l, l ∈ ls ∨ l ∈ g.sketch.map Prod.fst → LocalByte s l) → obj ≠ 1 →
    lanes ≠ [] → Config.sketchLines < sketchWith g ls ∨ g.bulk = true →
    ∃ t, exec i s = .next t ∧ SameButSketch [] g t.cpu.grp ∧ Retired 2 (g.pc + 4) g t.cpu.grp ∧
      if ls.length ≤ Config.sketchLines ∧ g.bulk = false then
        t.cpu.ctx.flight = s.cpu.ctx.flight ++ published g.stamp g.sketch ∧
          StoredBytes some lanes addr (srcData g d size) size (fun _ => none) (sketchByte t.cpu.grp.sketch)
      else
        t.cpu.grp.sketch = [] ∧ ∃ sk, t.cpu.ctx.flight = s.cpu.ctx.flight ++ published g.stamp sk ∧
          StoredBytes some lanes addr (srcData g d size) size (sketchByte g.sketch) (sketchByte sk)

/-- R100, R103 (tier 2). What a plain load selects: a byte of the group's own sketch; else, in a FIXED object the base image, in a PARCEL or
PRIVATE one the group's own write of the leg over the base image, in any other the byte of the highest stamp among the versions it sees (its
own, and those at or below its view in the view's scope; of a release and the operation that made it, which share a stamp, the operation's),
over the base image. -/
def Obligations.LoadSelection : Prop :=
  ∀ (s : State) (r : Record) (a : Nat),
    let g := s.cpu.grp
    let base := baseByte s.mem r (vaOff a)
    let got := loadByte s.cpu s.mem r a
    let sees := fun u : Version => u.stamp.gid = g.gid ∨
      ∃ v sc, g.view = some (v, sc) ∧ (sc = .system ∨ u.module = s.cpu.hw.number) ∧ ¬ (v.lc < u.stamp.lc ∨ v.lc = u.stamp.lc ∧ v.gid < u.stamp.gid)
    let held := fun u : Version => u ∈ s.cpu.ctx.versions ∨
      ∃ st cs, .publication st cs ∈ s.cpu.ctx.flight ∧ st.gid = g.gid ∧ u = ⟨st, 0, none, cs⟩
    (∀ x, sketchByte g.sketch a = some x → got = x) ∧
    (sketchByte g.sketch a = none → get? g.fills (lineOf a) = none →
      (r.mode = 2 → got = base) ∧
      (r.mode = 1 ∨ r.mode = 3 → got = (((get? s.cpu.ctx.parcel g.gid).bind fun p => get? p a).getD base)) ∧
      (r.mode = 0 ∨ 4 ≤ r.mode →
        ((∀ u, held u → sees u → get? u.cells a = none) → got = base) ∧
        ∀ u x, held u → sees u → get? u.cells a = some x → ∃ w, held w ∧ sees w ∧ get? w.cells a = some got ∧
          ∀ u', held u' → sees u' → get? u'.cells a ≠ none → (u'.stamp.lc < w.stamp.lc ∨ u'.stamp.lc = w.stamp.lc ∧ u'.stamp.gid ≤ w.stamp.gid) ∧
            (u'.stamp = w.stamp → w.ord.isSome = true ∨ u'.ord.isSome = false)))

/-- R128, R305, R295 (tier 2). Partial completion of `ld` and `st`: an unaligned lane raises the alignment fault, whatever else fails, with
the unaligned lanes and the lowest one's address; with every lane aligned, a lane outside the object raises the extent fault the same way.
The lanes that pass have executed and are recorded as completed: they hold the loaded bytes, or have stored theirs; the others have changed
nothing, and the word has not retired. The address of an offset outside the range is the model's choice (DEDUCED, log 11). -/
def Obligations.LaneFaults : Prop :=
  ∀ (store : Bool) (size : Nat) (d a b : BitVec 8) (s : State) (lam : Nat), size ∈ sizes →
    let i := if store then storeWord size d a b else loadWord size d a b
    let g := s.cpu.grp
    let obj := baseObj (g.readKK a)
    let off := laneOff g (g.readKK a) b 0
    let addr := fun j => vaOf obj (off j)
    let lanes := pendingLanes g
    let unaligned := fun j => off j % size ≠ 0
    let outside := fun j => ∀ r, s.cpu.record s.mem obj = some r → off j < 0 ∨ r.ext < off j + size
    let kind := if store then Access.store else .load
    let code := if (s.cpu.record s.mem obj).isSome then 1 else 2
    ∀ cls bad, (cls = 2 ∧ bad = unaligned ∨ cls = 3 ∧ bad = outside ∧ ∀ j ∈ lanes, ¬ unaligned j) →
    Issues i g → obj ≠ 1 → (∀ x, lanesBytes lanes addr size x → LocalByte s x) → (∀ j ∈ lanes, ¬ bad j → Reach s kind size size obj (off j)) →
    lam ∈ lanes → bad lam → (∀ j ∈ lanes, j < lam → ¬ bad j) →
    ∃ u t mask good, exec i s = .next t ∧ (∀ j, j ∈ good ↔ j ∈ lanes ∧ ¬ bad j) ∧
      TakesTrap (wordOf i) none (atAddr cls (if cls = 2 then 1 else code) (addr lam) mask) 0 u t ∧
      (∀ j < 32, mask.getLsbD j = true ↔ j ∈ lanes ∧ bad j) ∧
      SameButSketch (if store then [] else loadRegs size d) g u.cpu.grp ∧ u.cpu.grp.pc = g.pc ∧ u.cpu.grp.lc = g.lc ∧
      (∀ j < 32, u.cpu.grp.cmask.getLsbD j = true ↔ g.cmask.getLsbD j = true ∨ j ∈ good) ∧ OthersSee s u ∧
      let Q := lanesBytes good addr size
      (store = false → u.cpu.grp.sketch = g.sketch ∧ MemoryOnly (fun _ => False) (tagsOf s obj false Q) s u ∧
        ((∀ x, Q x → get? g.fills (lineOf x) ≠ some none) →
          LanesLoaded size d good (fun j => leNat (seenByte s) (addr j) size) g u.cpu.grp)) ∧
      (store = true →
        (∀ r, s.cpu.record s.mem obj = some r →
          PlainTarget s r Q ∧ (storesThrough r = false → ∀ ls, LinesOf Q ls → sketchWith g ls ≤ Config.sketchLines)) →
        MemoryOnly (plainMarks s Q) (tagsOf s obj true Q) s u ∧
          StoredBytes id good addr (srcData g d size) size (seenByte s.forget) (seenByte u.forget))

/-- R177, R178, R128 (tier 2). `ldk` and `stk` move n words between k registers and memory, checked as one access; in the trap window also
the group's own image. Misaligned, outside or barred accesses raise the fault of the first check that fails, in the order alignment, extent,
permission, mode. `pf` has no effect on any value. FMASK 0 of these faults is the model's choice (DEDUCED, log 7). -/
def Obligations.UniformMemoryWords : Prop :=
  ∀ (d a b : BitVec 8) (n : BitVec 4) (h : BitVec 2) (s : State),
    let g := s.cpu.grp
    let obj := baseObj (g.readKK a)
    let off : Nat := baseOff (g.readKK a)
    let va := vaOf obj off
    let k := n.toNat + 1
    let addr := fun w => va + 4 * w
    let words := fun w => (g.readK (if d.toNat = 248 then d else d + BitVec.ofNat 8 w)).toNat
    let P := lanesBytes (List.range k) addr 4
    let own := obj = 1 ∧ (s.cpu.record s.mem 1).isSome = true ∧ ownImage g off (4 * k) = true
    let dst := (List.range k).map fun w => Loc.k (d.toNat + w)
    (Issues (.ldk d a n) g → Reach s .load 4 (4 * k) obj off → (∀ x, P x → Present s x ∧ get? g.fills (lineOf x) ≠ some none) →
      ∃ t, exec (.ldk d a n) s = .next t ∧ SameGroup dst g t.cpu.grp ∧ Retired 2 (g.pc + 4) g t.cpu.grp ∧
        MemoryOnly (fun _ => False) (tagsOf s obj false P) s t ∧ t.cpu.ctx.parcel = s.cpu.ctx.parcel ∧
        ∀ w < k, (t.cpu.grp.readK (d + BitVec.ofNat 8 w)).toNat = leNat (seenByte s) (addr w) 4) ∧
    (Issues (.ldk d a n) g → off % 4 = 0 → own →
      ∃ t, exec (.ldk d a n) s = .next t ∧ Did (.ldk d a n) dst s t ∧
        ∀ w < k, (t.cpu.grp.readK (d + BitVec.ofNat 8 w)).toNat = leNat (windowByte g) (off - imageOff g + 4 * w) 4) ∧
    (∀ ls, Issues (.stk d a n) g → Reach s .store 4 (4 * k) obj off → LinesOf P ls →
      (∀ r, s.cpu.record s.mem obj = some r → PlainTarget s r P ∧ (storesThrough r = false → sketchWith g ls ≤ Config.sketchLines)) →
      ∃ t, exec (.stk d a n) s = .next t ∧ SameButSketch [] g t.cpu.grp ∧ Retired 2 (g.pc + 4) g t.cpu.grp ∧
        MemoryOnly (plainMarks s P) (tagsOf s obj true P) s t ∧ OthersSee s t ∧
        StoredBytes id (List.range k) addr words 4 (seenByte s.forget) (seenByte t)) ∧
    (Issues (.stk d a n) g → off % 4 = 0 → own →
      ∃ t, exec (.stk d a n) s = .next t ∧ GroupOnly s t ∧
        t.cpu.grp = (windowStore g (storeCells (List.range k) (fun w => off - imageOff g + 4 * w) words 4)).after (.stk d a n) (g.pc + 4)) ∧
    (∀ i kind, i = .ldk d a n ∧ kind = Access.load ∨ i = .stk d a n ∧ kind = .store → Issues i g → ¬ own →
      let fault := fun cls code => ∃ t, exec i s = .next t ∧ TakesTrap (wordOf i) none (atAddr cls code va 0) 0 s t
      (off % 4 ≠ 0 → fault 2 1) ∧
      (off % 4 = 0 → s.cpu.record s.mem obj = none → fault 3 2) ∧
      ∀ r, off % 4 = 0 → s.cpu.record s.mem obj = some r →
        (r.ext < off + 4 * k → fault 3 1) ∧
        (off + 4 * k ≤ r.ext → obj = 1 ∨ permOk r kind = false → fault 5 1) ∧
        (off + 4 * k ≤ r.ext → obj ≠ 1 → permOk r kind = true → modeRefuses r g.gid kind = true → fault 5 2)) ∧
    (Issues (.pf h a b) g → ∃ t, exec (.pf h a b) s = .next t ∧ Did (.pf h a b) [] (s.withDir t.cpu.hw.dir) t)

/-- R179, R180, R108, R181 (tier 2). `lds` and `sts` of the five sizes, once the group's pending matrix members have completed: a load reads
the group's own bytes of the epoch over the scratchpad at its start, a store changes what the group itself reads and nothing that another
group does; both tag their granules. A lane outside the share raises the extent fault. Its address is taken modulo 2^32, the model's choice
(DEDUCED, log 11). -/
def Obligations.ScratchpadWords : Prop :=
  ∀ (size : Nat) (d a b : BitVec 8) (s : State) (p : Block), size ∈ sizes →
    let u := settled s
    let g := u.cpu.grp
    let addr := padLane g a b
    let at' := fun j => (addr j).toNat
    let lanes := pendingLanes g
    let tagged := fun (wrote : Bool) (k : Tag) => ∃ j ∈ lanes, k = ⟨at' j - at' j % 256, g.gid, wrote⟩
    u.cpu.ctx.block g = some p →
    (let i := padLoadWord size d a b
     Issues i s.cpu.grp → (∀ j ∈ lanes, PadOk p size (addr j)) →
     ∃ t tags, exec i s = .next t ∧ CtxOnly u t ∧ SameGroup (loadDst size d) g t.cpu.grp ∧ Retired 2 (g.pc + 4) g t.cpu.grp ∧
       t.cpu.ctx = u.cpu.ctx.setBlock (padTags p tags) ∧ (∀ k, k ∈ tags ↔ k ∈ p.tags ∨ tagged false k) ∧
       Loaded size d lanes (fun j => leNat (padByte p g.gid) (at' j) size) g t.cpu.grp) ∧
    (let i := padStoreWord size d a b
     Issues i s.cpu.grp → (∀ j ∈ lanes, PadOk p size (addr j)) →
     ∃ t own tags, exec i s = .next t ∧ CtxOnly u t ∧ SameGroup [] g t.cpu.grp ∧ Retired 2 (g.pc + 4) g t.cpu.grp ∧
       t.cpu.ctx = u.cpu.ctx.setBlock (padOwn p own tags) ∧ (∀ k, k ∈ tags ↔ k ∈ p.tags ∨ tagged true k) ∧
       StoredBytes id lanes at' (srcData g d size) size (padByte p g.gid) (padByte (padOwn p own tags) g.gid) ∧
       ∀ gid x, gid ≠ g.gid → padByte (padOwn p own tags) gid x = padByte p gid x) ∧
    (∀ i lam, i = padLoadWord size d a b ∨ i = padStoreWord size d a b → Issues i s.cpu.grp → (∀ j ∈ lanes, addr j % (size : Int) = 0) →
      (∀ j ∈ lanes, padValid p (addr j) size = false) → lanes.head? = some lam →
      ∃ v t mask, exec i s = .next t ∧ TakesTrap (wordOf i) none (atAddr 3 3 (addr lam % 2 ^ 32).toNat mask) 0 v t ∧
        v.cpu.grp = g ∧ v.cpu.hw = u.cpu.hw ∧ ∀ j < 32, mask.getLsbD j = true ↔ j ∈ lanes)

/-- R182, R183, R184, R185, R81, R84 (tier 2). The ordering operations: with no active lane each retires and does nothing; else, where the
checks pass, the operands of the lowest active lane go to the queue as a turn entry of weight 64 with the group's stamp, after the
publication of the whole sketch if the operation releases, and the group waits for its turn. The sketch itself is emptied at the turn. -/
def Obligations.OrderingSends : Prop :=
  ∀ (op : AOp) (cond : BitVec 4) (d a b : BitVec 8) (s : State),
    let i := orderWord op cond d a b
    let g := s.cpu.grp
    let wide := isWide g.ety
    Issues i g →
    (g.active = 0 → ∃ t, exec i s = .next t ∧ Did i [] s t) ∧
    (∀ lam < 32, g.active.getLsbD lam = true → (∀ j < lam, g.active.getLsbD j = false) →
      VecMode (orderTypes op cond) g (orderDst op d).toList (orderSrcs op b) [] → AimOk s a (if wide then 8 else 4) →
      (∀ l ∈ g.sketch, LocalByte s l.1) →
      ∃ t, exec i s = .next t ∧ SendOnly s t ∧ t.cpu.grp = { g with status := .turn ⟨orderDst op d, none, wide, g.active, 64, 4⟩ } ∧
        t.cpu.ctx.queue = s.cpu.ctx.queue ++
          [⟨g.stamp, 64, spaceScope a, orderEntry op cond d b g (spaceAddr g a) lam, s.cpu.hw.number, s.cpu.hw.number, 0⟩] ∧
        t.cpu.ctx.flight = s.cpu.ctx.flight ++ if orderReleases op then published g.stamp g.sketch else [])

/-- R190, R191, R169, R81 (tier 2). `bar` and `bara` send an arrival of weight 16 to the block's queue, count 0 meaning the launched group
count. `barw` retires where the group arrived at no generation; where its generation has completed it retires at the later of its own and
the completing clock; else it cedes. `cede` leaves the core until its line is written. -/
def Obligations.BarriersAndCede : Prop :=
  ∀ (n : BitVec 4) (cnt : BitVec 10) (a : BitVec 8) (s : State) (p : Block),
    let g := s.cpu.grp
    let self := s.cpu.hw.number
    let count := if cnt = 0 then p.g else cnt.toNat
    s.cpu.ctx.block g = some p →
    (Issues (.bar n cnt) g → ∃ t, exec (.bar n cnt) s = .next t ∧
      Sends ⟨g.stamp, 16, .block, .arrive n.toNat count true, self, self, 0⟩ ⟨none, none, false, 0, 16, 4⟩ s t) ∧
    (Issues (.bara n cnt) g → ∃ t, exec (.bara n cnt) s = .next t ∧
      Sends ⟨g.stamp, 16, .block, .arrive n.toNat count false, self, self, 0⟩ ⟨none, none, false, 0, 16, 4⟩ s t) ∧
    (Issues (.barw n) g → ∃ t, exec (.barw n) s = .next t ∧
      match get? g.baras n.toNat with
      | none => Did (.barw n) [] s t
      | some gen => GroupOnly s t ∧
        match (p.bars[n.toNat]?).bind fun x => get? x.done gen with
        | some f => t.cpu.grp = { g.after (.barw n) (g.pc + 4) with lc := max g.lc f.lc + weight (.barw n), baras := del g.baras n.toNat }
        | none => t.cpu.grp = { g with status := .ceded (weight (.barw n)) (.barrier n.toNat gen) none }) ∧
    (∀ r, Issues (.cede a) g →
      let va := g.readKK a
      s.cpu.record s.mem (baseObj va) = some r → Reach s .load 1 1 (baseObj va) (baseOff va) → homedAway s.cpu.hw r (baseOff va) = none →
      ∃ t, exec (.cede a) s = .next t ∧ DirOnly s t ∧
        let scope := if homedHere s.cpu.hw r (baseOff va) then Scope.device else .system
        t.cpu.grp = { g with status := .ceded 1 (.line scope va.toNat) none })

/-- R187, R188, R106 (tier 2). The deferred reductions, of memory and of the scratchpad: every active lane is checked before anything is
sent; then one contribution per element of each active lane is on its way to its home, or waits for the block's sync; no register changes
and nothing is read. A misaligned lane raises the fault, and no lane contributes. The address of an offset outside the range is the model's
choice (DEDUCED, log 11). -/
def Obligations.Reductions : Prop :=
  ∀ (op : ROp) (d a b : BitVec 8) (s : State),
    let i := reduceWord op d a b
    let g := s.cpu.grp
    let size := if isWide g.ety then 8 else 4
    let obj := baseObj (g.readKK (a &&& 63))
    let off := laneOff g (g.readKK (a &&& 63)) b 0
    let addr := fun j => vaOf obj (off j)
    let pad : Nat → Int := fun j => spaceBase g a + (laneAt (g.readV b) j).toInt
    Issues i g → VecMode (reduceTypes op) g [] [d] [] →
    (a.toNat / 64 ≠ 0 → (∀ j ∈ lanesOf g.active, Reach s .reduce size size obj (off j) ∧ ∀ x, addr j ≤ x → x < addr j + size → LocalByte s x) →
      ∃ t l, exec i s = .next t ∧ SendOnly s t ∧ SameGroup [] g t.cpu.grp ∧ Retired 4 (g.pc + 4) g t.cpu.grp ∧
        t.cpu.ctx.queue = s.cpu.ctx.queue ∧ t.cpu.ctx.flight = s.cpu.ctx.flight ++ l.map .contribution ∧ Contributes op g d addr l) ∧
    (∀ p, a.toNat / 64 = 0 → s.cpu.ctx.block g = some p → (∀ j ∈ lanesOf g.active, PadOk p size (pad j)) →
      ∃ t l, exec i s = .next t ∧ CtxOnly s t ∧ SameGroup [] g t.cpu.grp ∧ Retired 4 (g.pc + 4) g t.cpu.grp ∧
        t.cpu.ctx = s.cpu.ctx.setBlock { p with reds := p.reds ++ l } ∧ Contributes op g d (fun j => (pad j).toNat) l) ∧
    (∀ lam mask, a.toNat / 64 ≠ 0 → (∀ j < 32, mask.getLsbD j = true ↔ j ∈ lanesOf g.active ∧ off j % size ≠ 0) → mask.getLsbD lam = true →
      (∀ j < lam, mask.getLsbD j = false) →
      ∃ t, exec i s = .next t ∧ TakesTrap (wordOf i) none (atAddr 2 1 (addr lam) mask) 0 s t)

/-- R198, R201, R208 to R219, R295 (tier 2). The matrix words, on granted tiles: products and drains join the open batch, `mfence` closes
and numbers it, `mwait` retires only when the batch is no longer pending; `acczero`, `accrd` and `accwr` work on the group's view of the
tile once every pending member has completed. A tile outside the grant raises the permission fault with code 4. -/
def Obligations.MatrixUnit : Prop :=
  ∀ (t n : BitVec 4) (d a b : BitVec 8) (z : BitVec 1) (way : BitVec 2) (s : State) (p : Block),
    let tag := fun (g : Group) (wrote : Bool) (tags old : List Tag) => ∀ k, k ∈ tags ↔ k ∈ old ∨ k = ⟨16 * g.role + t.toNat, g.gid, wrote⟩
    (∀ clear,
     let i := if clear then Instr.mmaz t a else .mma t a
     let u := afterDrains s
     let g := u.cpu.grp
     let ws := descWords g a
     let byp := (descOf ws).byp
     Issues i s.cpu.grp → u.cpu.ctx.block g = some p → Granted p g t.toNat → productTrap p g ws = none →
     ∃ v tags tiles, exec i s = .next v ∧ CtxOnly u v ∧
       v.cpu.grp = { g.after i (g.pc + 4) with bypass := if byp then none else g.bypass, batches := v.cpu.grp.batches } ∧
       Joined (.product clear t.toNat ws (if byp then g.bypass else none)) g v.cpu.grp ∧
       v.cpu.ctx = u.cpu.ctx.setBlock { p with tags := tags, tileTags := tiles } ∧ tag g true tiles p.tileTags ∧
       ∀ k, k ∈ tags ↔ k ∈ p.tags ∨ ∃ x ∈ productReads (descOf ws) (padByte p g.gid), k = ⟨x - x % 256, g.gid, false⟩) ∧
    (let u : State := if batchPending s.cpu.grp s.cpu.grp.nb then settled s else s
     let g := u.cpu.grp
     Issues (.mfence d) s.cpu.grp → BatchesOk g →
     ∃ v, exec (.mfence d) s = .next v ∧ CtxOnly u v ∧ v.cpu.ctx = u.cpu.ctx ∧ Retired 1 (g.pc + 4) g v.cpu.grp ∧
       SameGroup [.k d.toNat] { g with nb := (g.nb + 1) % 16, batches := v.cpu.grp.batches } v.cpu.grp ∧
       (d.toNat ≠ 248 → v.cpu.grp.readK d = BitVec.ofNat 32 g.nb) ∧ membersOf v.cpu.grp = membersOf g ∧ ∀ b ∈ v.cpu.grp.batches, b.num ≠ none) ∧
    (let g := s.cpu.grp
     Issues (.mwait n) g →
     ∃ v, exec (.mwait n) s = .next v ∧
       if ∃ b ∈ g.batches, b.num = some n.toNat then GroupOnly s v ∧ v.cpu.grp = { g with status := .ceded 1 (.mwait n.toNat) none }
       else Did (.mwait n) [] s v) ∧
    (let u := settled s
     let g := u.cpu.grp
     let row := (g.readK b).toNat % 128
     let tile := tileNow p g.gid (16 * g.role + t.toNat)
     u.cpu.ctx.block g = some p →
     (Issues (.acczero t) s.cpu.grp → Granted p g t.toNat →
       ∃ v own tags, exec (.acczero t) s = .next v ∧ CtxOnly u v ∧ v.cpu.grp = g.after (.acczero t) (g.pc + 4) ∧
         v.cpu.ctx = u.cpu.ctx.setBlock (tilesNow p own tags) ∧ tag g true tags p.tileTags ∧ OtherTiles p (tilesNow p own tags) g t.toNat ∧
         ∀ r c, tileAt (tilesNow p own tags) g t.toNat r c = 0) ∧
     (Issues (.accrd d t b) s.cpu.grp → Granted p g t.toNat →
       ∃ v tags, exec (.accrd d t b) s = .next v ∧ CtxOnly u v ∧ SameGroup (loadDst 16 d) g v.cpu.grp ∧ Retired 8 (g.pc + 4) g v.cpu.grp ∧
         v.cpu.ctx = u.cpu.ctx.setBlock (tilesNow p p.ownTiles tags) ∧ tag g false tags p.tileTags ∧
         Loaded 16 d (lanesOf g.active) (fun j => ∑ q ∈ Finset.range 4, (tileAt p g t.toNat row (32 * q + j)).toNat * 2 ^ (32 * q)) g v.cpu.grp) ∧
     (Issues (.accwr t b d) s.cpu.grp → Granted p g t.toNat → rising tile = true →
       ∃ v own tags, exec (.accwr t b d) s = .next v ∧ CtxOnly u v ∧ v.cpu.grp = g.after (.accwr t b d) (g.pc + 4) ∧
         v.cpu.ctx = u.cpu.ctx.setBlock (tilesNow p own tags) ∧ tag g true tags p.tileTags ∧ OtherTiles p (tilesNow p own tags) g t.toNat ∧
         ∀ r < 128, ∀ q < 4, ∀ j < 32, tileAt (tilesNow p own tags) g t.toNat r (32 * q + j) =
           if r = row ∧ g.active.getLsbD j = true then BitVec.ofNat 32 (srcWord g d j q) else tileAt p g t.toNat r (32 * q + j)) ∧
     (let ctl := g.readK a
      let base : Nat := 128 * (ctl.toNat / 2 ^ 16)
      Issues (.accdrain t a z way) s.cpu.grp → Granted p g t.toNat →
      (drainOk ctl way.toNat = true → (way.toNat ≠ 2 → padValid p base (drainSize ctl way.toNat) = true) →
        ∃ v tags, exec (.accdrain t a z way) s = .next v ∧ CtxOnly u v ∧
          v.cpu.grp = { g.after (.accdrain t a z way) (g.pc + 4) with batches := v.cpu.grp.batches } ∧
          Joined (.drain t.toNat ctl (z = 1) way.toNat) g v.cpu.grp ∧
          v.cpu.ctx = u.cpu.ctx.setBlock (tilesNow p p.ownTiles tags) ∧ tag g (z = 1) tags p.tileTags) ∧
      (drainOk ctl way.toNat = false → ∃ v, exec (.accdrain t a z way) s = .next v ∧
        TakesTrap (wordOf (.accdrain t a z way)) none (atPc g 6 5) 0 u v)) ∧
     ∀ i ∈ [.acczero t, .accrd d t b, .accwr t b d, .accdrain t a z way], Issues i s.cpu.grp → ¬ Granted p g t.toNat →
       ∃ v, exec i s = .next v ∧ TakesTrap (wordOf i) none (atPc g 5 4) 0 u v)

/-- R122, R222 to R226, R233, R238 to R240, R288, R295 (tier 2). `xfr` checks its template, its parameters, both sides and the scale
entries, the amax word and the stamp in the order of R238, and raises the fault of the first check that fails; an item whose offset passes
the end of its object is outside it. Else it leaves a pending copy that lands at a later sync or leg end; a DIR 2 copy starts a system copy,
at system level. `xfrw` retires when the group has no copy left, else it cedes; `xfrq` counts them. Which templates are well formed and how
the extras are checked rests in part on the model's choice (DEDUCED, log 8); so does which address a system copy's refused parameters
report (DEDUCED, log 35), and that a rounding seed is that of the issue (DEDUCED, log 49). -/
def Obligations.Copies : Prop :=
  ∀ (ch : BitVec 2) (d a kp : BitVec 8) (s : State),
    let i := Instr.xfr ch a kp
    let u := xferState s
    let g := u.cpu.grp
    let x := u.cpu.ctx
    let n := (g.readK a).toNat
    let t := templateAt s.mem x.tmplb n
    let len := 2 * t.rank + (if t.stm = 2 then 2 else 1)
    let ws := paramWords g kp len
    let origin := (ws.take t.rank).map BitVec.toInt
    let counts := ((ws.drop t.rank).take t.rank).map BitVec.toNat
    let dist := (ws.getD (2 * t.rank) 0).toNat
    let trap := fun e => ∃ v, exec i s = .next v ∧ TakesTrap (wordOf i) none e 0 u v
    let fault := fun cls code => trap (atPc g cls code)
    let va := if t.dir = 1 then t.dst else t.src
    let listed := n < x.tmplb.toNat % 4096
    let formed := templateRaw s.mem x.tmplb n = true ∧ templateOk t = true
    let params := kp.toNat + len ≤ 160 ∧ paramsOk t ws = true
    (Issues i s.cpu.grp →
      (¬ listed → fault 6 8) ∧
      (listed → t.dir = 2 → g.sys = false → ∃ v, exec i s = .next v ∧ TakesTrap (wordOf i) none (atPc s.cpu.grp 7 1) 0 s v) ∧
      (listed → (t.dir = 2 → g.sys = true) → ¬ formed → fault 6 8) ∧
      (listed → (t.dir = 2 → g.sys = true) → formed → ¬ params → fault 6 9) ∧
      (listed → formed → params → t.dir ≠ 2 → u.cpu.record u.mem (vaObj va) = none → trap (atAddr 3 2 va 0)) ∧
      (∀ r p, listed → formed → params → t.dir ≠ 2 → u.cpu.record u.mem (vaObj va) = some r → x.block g = some p →
        let els := elemsOf t r origin counts
        let items := padItems t els
        let extras := extraItems t g.gid (if memBlk t = 0 then [] else entriesOf t r els)
        let sound := fun k (e : Elem) => elemTrap t r g.gid k e = none
        (recordFits t r = false → fault 6 8) ∧
        (recordFits t r = true → wholeBlocks t r origin counts = false → fault 6 9) ∧
        (recordFits t r = true → wholeBlocks t r origin counts = true →
          (∀ y, FirstOf items (fun y => y.1 % y.2.2 ≠ 0) y → trap (atAddr 2 1 y.1 0)) ∧
          ((∀ y ∈ items, y.1 % y.2.2 = 0) →
            (∀ y, FirstOf items (fun y => padValid p y.1 y.2.1 = false) y → trap (atAddr 3 3 y.1 0)) ∧
            ((∀ y ∈ items, padValid p y.1 y.2.1 = true) →
              (∀ k e, els[k]? = some e → (∀ j < k, ∀ f, els[j]? = some f → sound j f) →
                let fa := BitVec.ofNat 64 (vaOf r.obj e.off)
                (e.off % (elemSize r : Int) ≠ 0 → trap ⟨2, 1, fa, 0, 0, 0⟩) ∧
                (e.off % (elemSize r : Int) = 0 → ∀ d, e.bad = some d → ¬ (r.pmt = true ∧ t.pmt = true) →
                  trap ⟨4, 1, fa, 0, BitVec.ofNat 64 k,
                    if d = 7 then 7 else BitVec.ofInt 32 (e.c.getD d 0) ++ BitVec.ofNat 32 d⟩) ∧
                ∀ code, e.off % (elemSize r : Int) = 0 → e.bad = none → CopyBarred g.gid (t.dir = 1) r code → trap ⟨5, code, fa, 0, 0, 0⟩) ∧
              ((∀ k e, els[k]? = some e → sound k e) →
                ∀ y cls code, FirstOf extras (fun y => ∃ a b, y.Fails u a b) y → y.Fails u cls code →
                  trap (atAddr cls code (vaOf y.obj y.off) 0)))))) ∧
      (∀ r, listed → formed → params → t.dir ≠ 2 → CopyOk u t r origin counts →
        let els := elemsOf t r origin counts
        (t.dir = 0 → (∀ e ∈ els, e.bad = none → Readable u (vaOf r.obj e.off) (elemSize r)) ∧
          (t.sblk ≠ 0 → ∀ n ∈ entriesOf t r els,
            vaOff t.scl + entrySize t * (n + 1) ≤ 2 ^ 40 ∧ Readable u (t.scl + entrySize t * n) (entrySize t))) →
        ∀ p, x.block g = some p →
        ∃ v k tags, exec i s = .next v ∧ v.cpu.hw = { u.cpu.hw with dir := v.cpu.hw.dir } ∧ v.others = s.others ∧ v.inputs = s.inputs ∧
          (∀ y, memByte v.mem y = memByte s.mem y) ∧ v.cpu.grp = g.after i (g.pc + 4) ∧
          v.cpu.ctx = { (if t.dir = 1 then x.setBlock (padTags p tags) else x) with copies := x.copies ++ [k], nextCopy := x.nextCopy + 1 } ∧
          k.id = x.nextCopy ∧ k.stamp = g.stamp ∧ k.lord = g.lord ∧ k.blk = g.blk ∧ k.t = t ∧ k.rcd = r ∧ k.origin = origin ∧
          k.counts = counts ∧ k.seed = x.seed ∧ k.value = ws.getD (2 * t.rank + 1) 0 ∧ k.read = false ∧ (k.toPad = true ↔ t.dir = 0) ∧
          k.landAt = (if t.dir = 0 then p.syncs + dist else x.leg + dist - 1) ∧
          k.src = els.map (if t.dir = 1 then fun e => leNat (padByte p g.gid) (padElem t e.t (padSize t)) (padSize t) else elemBits u r) ∧
          (t.dir = 0 → t.sblk ≠ 0 → k.scales = (entriesOf t r els).map fun n =>
            let y := t.scl + entrySize t * n
            (n, BitVec.ofNat 32 (leNat (seenByte u) y 4), if t.slay = 0 then leNat (seenByte u) (y + 4) 1 % 4 else t.tpol))) ∧
      (listed → formed → params → t.dir = 2 → g.sys = true → (origin ≠ [0] ∨ counts ≠ t.shape.take 1 → trap (atAddr 5 5 t.src 0)) ∧
        ∀ e, origin = [0] → counts = t.shape.take 1 → sysCopyTrap t (counts.headD 0) = some e →
          e.cls = 5 ∧ e.code = 5 ∧ (e.faddr = BitVec.ofNat 64 t.src ∨ e.faddr = BitVec.ofNat 64 t.dst) ∧ trap e) ∧
      (listed → formed → params → t.dir = 2 → g.sys = true → origin = [0] → counts = t.shape.take 1 → sysCopyTrap t (counts.headD 0) = none →
        ∃ v, exec i s = .next v ∧ CtxOnly u v ∧ v.cpu.grp = { g.after i (g.pc + 4) with sysCopies := g.sysCopies ++ [x.nextCopy] } ∧
          v.cpu.ctx = { x with nextCopy := x.nextCopy + 1, sysCopies := x.sysCopies ++
            [{ id := x.nextCopy, gid := g.gid, src := t.src, dst := t.dst, bytes := counts.headD 0, done := false }] })) ∧
    (let g := s.cpu.grp
     let mine := s.cpu.ctx.copies.filter fun k => k.stamp.gid == g.gid
     (∃ v, exec .xfrw s = .next v ∧ GroupOnly s v ∧
       if mine = [] ∧ (∀ k ∈ s.cpu.ctx.sysCopies, k.id ∈ g.sysCopies → k.done = true) then
         v.cpu.grp = { g.after .xfrw (g.pc + 4) with sysCopies := [] }
       else v.cpu.grp = { g with status := .ceded 1 .xfrw none }) ∧
     (Issues (.xfrq d) g → ∃ v, exec (.xfrq d) s = .next v ∧ Did (.xfrq d) [.k d.toNat] s v ∧
       v.cpu.grp.readK d = BitVec.ofNat 32 (mine.length + g.sysCopies.length)))

/-- R350, R351 (tier 2). `stmc` of a line of a PARCEL object homed by HOME 0 sends the active lanes' words to every other member of its
multicast group, with the extent, mode and permissions of its record (DESIGN CHOICE, log 17), and changes nothing here; with no active lane
it sends nothing; another mode or home raises the permission fault. FMASK 0 of these faults is the model's choice (DEDUCED, log 7). -/
def Obligations.MulticastStore : Prop :=
  ∀ (d a b : BitVec 8) (s : State),
    let i := Instr.stmc d a b
    let g := s.cpu.grp
    let h := s.cpu.hw
    let obj := baseObj (g.readKK a)
    let off := baseOff (g.readKK a)
    let va := vaOf obj off
    Issues i g →
    (g.active = 0 → ∃ t, exec i s = .next t ∧ Did i [] s t) ∧
    (∀ r, g.active ≠ 0 → off % 128 = 0 → s.cpu.record s.mem obj = some r → off + 128 ≤ r.ext → obj ≠ 1 → hasPerm r 1 = true →
      (r.mode = 1 → r.home = 0 →
        ∃ t new, exec i s = .next t ∧ t.cpu.ctx = s.cpu.ctx ∧ t.others = s.others ∧ t.inputs = s.inputs ∧
          (∀ x, memByte t.mem x = memByte s.mem x) ∧ t.cpu.grp = g.after i (g.pc + 4) ∧
          t.cpu.hw = { h with
            dir := t.cpu.hw.dir, seqs := t.cpu.hw.seqs, outbox := t.cpu.hw.outbox, retry := h.retry ++ new, sentLog := t.cpu.hw.sentLog } ∧
          (∀ m, m ∈ new.map Packet.dst ↔ m ∈ moduleList h ∧ m ≠ h.number ∧
            (memNat s.mem (s.cpu.ctx.mctb.toNat + 8 * ((g.readK b).toNat % 256)) 8).testBit m = true) ∧
          ∀ p ∈ new, p.typ = 8 ∧ p.src = h.number ∧ p.ctx = s.cpu.ctx.key ∧ ∃ cells, p.body = .multicast g.gid cells r.ext r.mode r.perm ∧
            StoredBytes some (lanesOf g.active) (fun j => va + 4 * j) (srcData g d 4) 4 (fun _ => none) (get? cells)) ∧
      (r.mode ≠ 1 → ∃ t, exec i s = .next t ∧ TakesTrap (wordOf i) none (atAddr 5 2 va 0) 0 s t) ∧
      (r.mode = 1 → r.home ≠ 0 → ∃ t, exec i s = .next t ∧ TakesTrap (wordOf i) none (atAddr 5 3 va 0) 0 s t))

/-- R49, R50, R52 (tier 2). A `lit` and the word after it are one instruction of 8 bytes and the word's weight: the literal gives the high
half of the immediate of `movi`, `kmovi` and `br`, and the displacement of a memory word. A trap on the pair reports the `lit`, with the
word after it and the literal in the frame. That a branch target stays in its object is the model's choice (DEDUCED, log 40). -/
def Obligations.LitPairs : Prop :=
  ∀ (l : BitVec 24) (size : Nat) (d a b : BitVec 8) (imm : BitVec 16) (s : State), size ∈ sizes →
    let g := s.cpu.grp
    let x : Word := l.extractLsb' 0 16 ++ imm
    (l.extractLsb' 16 8 = 0 →
      (Issues (.kmovi d imm) g → ∃ t, exec (.lit l (wordOf (.kmovi d imm))) s = .next t ∧
        DidTo (.kmovi d imm) [.k d.toNat] (g.pc + 8) s t ∧ t.cpu.grp.readK d = x) ∧
      (Issues (.movi d imm) g → ∃ t, exec (.lit l (wordOf (.movi d imm))) s = .next t ∧
        DidTo (.movi d imm) (vecDst false d) (g.pc + 8) s t ∧ Shifted false d g t.cpu.grp ∧
        ∀ j : Fin 32, laneAt (t.cpu.grp.readV d) j = if g.active.getLsbD j then x else laneAt (g.readV d) j) ∧
      (Issues (.br d imm) g → ∃ t p, exec (.lit l (wordOf (.br d imm))) s = .next t ∧ DidTo (.br d imm) [] p s t ∧
        if g.readQ d.toNat then CodeAt g.pc (4 + 4 * x.toInt) p else p = g.pc + 8) ∧
      (Issues (.mkj imm) g → (if g.inWin then 4 else 32) ≤ g.joins.length →
        ∃ t, exec (.lit l (wordOf (.mkj imm))) s = .next t ∧ TakesTrap (wordOf (.mkj imm)) (some l) (atPc g 6 2) 0 s t)) ∧
    (let i := loadWord size d a b
     let obj := baseObj (g.readKK a)
     let off := laneOff g (g.readKK a) b l.toInt
     let addr := fun j => vaOf obj (off j)
     let lanes := pendingLanes g
     Issues i g → obj ≠ 1 → (∀ j ∈ lanes, Reach s .load size size obj (off j)) →
     (∀ y, lanesBytes lanes addr size y → Present s y ∧ get? g.fills (lineOf y) ≠ some none) →
     ∃ t, exec (.lit l (wordOf i)) s = .next t ∧ SameGroup (loadDst size d) g t.cpu.grp ∧ Retired 2 (g.pc + 8) g t.cpu.grp ∧
       Loaded size d lanes (fun j => leNat (seenByte s) (addr j) size) g t.cpu.grp)

/-- R82, R83, R84, R87, R106, R108, R183, R185 (tier 2). TURN_PERFORM of an ordering operation of memory: while an entry of lower stamp is in its
queue, or a running group's clock stands below it, nothing happens; once it performs it reads, writes its version, marks its word, empties
the sketch if it releases, sets the view if it acquires, and its group goes on with the value, or cedes after a failed check; groups that
watch a line that it or its release writes are woken with its stamp. One of block scope reads and writes the scratchpad word of its block in
the same way, tags its granule, wakes the `waita` of the block's groups on the line, and sets no view. CEDE_REENTRY: a woken group goes on at max(x, f) + W. That `waita` then
runs again as a whole is the model's choice (DEDUCED, log 37). -/
def Obligations.OrderingTurns : Prop :=
  (∀ (s : State) (e : Entry) (op : AOp) (cond : BitVec 4) (addr : Nat) (wide sgn : Bool) (src cmp : Dword),
    e.op = .atomic op cond addr wide sgn src cmp → e.scope ≠ .block → AtTurn s e →
    let n := if wide then 64 else 32
    let x := src.toNat % 2 ^ n
    let k := cmp.toNat % 2 ^ n
    ((∃ f ∈ s.cpu.ctx.queue, f.home = s.cpu.hw.number ∧ Stamp.lt f.stamp e.stamp = true ∧ f.scope ≠ .block ∧
        ∃ op' c' a' w' g' s' k', f.op = .atomic op' c' a' w' g' s' k' ∧ lineOf a' = lineOf addr) ∨
      (∃ h ∈ s.cpu.groups, h.status = .running ∧ h.gid ≠ e.stamp.gid ∧ h.lc < (s.cpu.ctx.leg + 1) * 2 ^ s.cpu.ctx.legq ∧
        Stamp.lt h.stamp e.stamp = true) → exec (.turnPerform e.stamp.gid) s = .next s) ∧
    (performable s.cpu.hw s.cpu.ctx s.cpu.groups e = true →
      (overlayFull s.cpu.hw s.mem s.cpu.ctx (lineOf addr) = false ∨ op = .ldacq ∨ op = .waita) →
      ∃ t old new f, exec (.turnPerform e.stamp.gid) s = .next t ∧ old < 2 ^ n ∧
        (∀ b < n / 8, ReadsByte s e (addr + b) (BitVec.ofNat 8 (old / 256 ^ b))) ∧ Operates op n sgn old x k new ∧
        t.others = s.others ∧ t.inputs = s.inputs ∧ KeepsImages s t ∧ t.cpu.hw = sentHw s.cpu.hw t.cpu.hw ∧
        t.cpu.ctx = { s.cpu.park.ctx with
          groups := t.cpu.ctx.groups, marks := t.cpu.ctx.marks, watchers := t.cpu.ctx.watchers
          queue := s.cpu.ctx.queue.filter fun f => f != e
          versions := s.cpu.ctx.versions ++ match new with
            | some v => [⟨e.stamp, e.module, some e.scope, bytesAt addr v (n / 8)⟩]
            | none => [] } ∧
        (∀ m, m ∈ t.cpu.ctx.marks ↔ m ∈ s.cpu.ctx.marks ∨
          ∃ a, addr ≤ a ∧ a < addr + n / 8 ∧ m = ⟨a - a % 4, 2, 0, some e.scope, e.stamp.gid, e.module⟩) ∧
        GroupsBecome f s t ∧ Others e.stamp.gid e.stamp f ∧
        (∀ h w sc a, h.gid ≠ e.stamp.gid → h.status = .ceded w (.line sc a) none → sc ≠ .block → new ≠ none → lineOf a = lineOf addr →
          f h = { h with status := .ceded w (.line sc a) (some e.stamp) }) ∧
        (∀ h w sc a k l, h.gid ≠ e.stamp.gid → h.status = .ceded w (.line sc a) none → sc ≠ .block → orderReleases op = true →
          s.cpu.find e.stamp.gid = some k → l ∈ k.sketch → l.1 = lineOf a → LocalByte s l.1 →
          f h = { h with status := .ceded w (.line sc a) (some e.stamp) }) ∧
        ∀ h w, h.gid = e.stamp.gid → h.status = .turn w → Takes h w →
          (f h).sketch = (if orderReleases op then [] else h.sketch) ∧
          (op = .waita → ¬ waitHolds cond.toNat n sgn old k → f h = { h with status := .ceded w.weight (.line e.scope addr) none }) ∧
          ((op = .waita → waitHolds cond.toNat n sgn old k) →
            GoesOn w old h (f h) ∧ (f h).view = if op = .strel then h.view else some (e.stamp, e.scope)))) ∧
  (∀ (s : State) (e : Entry) (op : AOp) (cond : BitVec 4) (addr : Nat) (wide sgn : Bool) (src cmp : Dword) (p : Block),
    e.op = .atomic op cond addr wide sgn src cmp → e.scope = .block → AtTurn s e → BlockOf s e p →
    let gid := e.stamp.gid
    let n := if wide then 64 else 32
    let x := src.toNat % 2 ^ n
    let k := cmp.toNat % 2 ^ n
    ((∃ f ∈ s.cpu.ctx.queue, f.home = s.cpu.hw.number ∧ Stamp.lt f.stamp e.stamp = true ∧ f.scope = .block ∧ f.stamp.gid / 512 = gid / 512 ∧
        ∃ op' c' a' w' g' s' k' u, f.op = .atomic op' c' a' w' g' s' k' ∧ opWord a' w' u ∧ opWord addr wide u) ∨
      (∃ h ∈ s.cpu.groups, h.status = .running ∧ h.gid ≠ gid ∧ h.gid / 512 = gid / 512 ∧
        h.lc < (s.cpu.ctx.leg + 1) * 2 ^ s.cpu.ctx.legq ∧ Stamp.lt h.stamp e.stamp = true) → exec (.turnPerform gid) s = .next s) ∧
    (performable s.cpu.hw s.cpu.ctx s.cpu.groups e = true →
      ∃ t old new f q, exec (.turnPerform gid) s = .next t ∧ old < 2 ^ n ∧
        (∀ b < n / 8, PadReads p e.stamp (addr + b) (BitVec.ofNat 8 (old / 256 ^ b))) ∧ Operates op n sgn old x k new ∧
        t.others = s.others ∧ t.inputs = s.inputs ∧ KeepsImages s t ∧ t.cpu.hw = sentHw s.cpu.hw t.cpu.hw ∧
        t.cpu.ctx = { (s.cpu.park.ctx.setBlock q) with
          groups := t.cpu.ctx.groups, watchers := t.cpu.ctx.watchers, queue := s.cpu.ctx.queue.filter fun f => f != e } ∧
        q = { p with
          ordTags := q.ordTags
          ords := p.ords ++ match new with
            | some v => [⟨e.stamp, bytesAt addr v (n / 8)⟩]
            | none => [] } ∧
        (∀ u, u ∈ q.ordTags ↔ u ∈ p.ordTags ∨ u = ⟨addr - addr % 256, gid, new.isSome⟩) ∧
        GroupsBecome f s t ∧ Others gid e.stamp f ∧
        (∀ h w a, h.gid ≠ gid → h.gid / 512 = gid / 512 → h.status = .ceded w (.line .block a) none → new ≠ none → lineOf a = lineOf addr →
          f h = { h with status := .ceded w (.line .block a) (some e.stamp) }) ∧
        (∀ h w sc a k l, h.gid ≠ gid → h.status = .ceded w (.line sc a) none → sc ≠ .block → orderReleases op = true →
          s.cpu.find gid = some k → l ∈ k.sketch → l.1 = lineOf a → LocalByte s l.1 →
          f h = { h with status := .ceded w (.line sc a) (some e.stamp) }) ∧
        ∀ h w, h.gid = gid → h.status = .turn w → Takes h w →
          (f h).sketch = (if orderReleases op then [] else h.sketch) ∧
          (op = .waita → ¬ waitHolds cond.toNat n sgn old k → f h = { h with status := .ceded w.weight (.line .block addr) none }) ∧
          ((op = .waita → waitHolds cond.toNat n sgn old k) → GoesOn w old h (f h) ∧ (f h).view = h.view))) ∧
  ∀ (s : State) (w : Nat) (wait : Wait) (f : Stamp),
    let g := s.cpu.grp
    g.status = .ceded w wait (some f) → (∀ h ∈ s.cpu.ctx.groups, h.gid ≠ g.gid) → rising g.baras = true →
    ∃ t, exec (.cedeReentry g.gid) s = .next t ∧ t.cpu.hw = { s.cpu.hw with log := t.cpu.hw.log } ∧ t.cpu.ctx = s.cpu.ctx ∧
      t.others = s.others ∧ t.inputs = s.inputs ∧ KeepsImages s t ∧
      let lc := max g.lc f.lc + w
      let issues := w = 64 ∧ ∃ sc a, wait = .line sc a
      let waited := fun b => ∃ gen, wait = .barrier b gen ∧ w = 16 ∧ get? g.baras b = some gen
      (issues → t.cpu.grp = { g with lc := lc, status := .running }) ∧
      (¬ issues → t.cpu.grp = { g with
          pc := g.pc + 4, lc := lc, cmask := 0, status := .running, baras := t.cpu.grp.baras
          sysCopies := if wait = .xfrw then [] else g.sysCopies, landed := if wait = .xfrw then none else g.landed } ∧
        ∀ b, (waited b → get? t.cpu.grp.baras b = none) ∧ (¬ waited b → get? t.cpu.grp.baras b = get? g.baras b))

/-- R95, R108, R109, R110, R111, R190, R191, R201, R295 (tier 2). TURN_PERFORM of a barrier arrival: an incomplete generation counts the arrival, and
`bar` cedes; the arrival that completes it opens the next one and wakes its waiters with its stamp; a generation of the whole block is a
sync, which none is once a group of the block has exited (R192, R237): in every granule without a conflict the scratchpad takes what ordering operations and the groups stored, then the combination of the
reductions, a conflicting one keeps what it held at the start of the epoch, and so do tiles; the lowest pair of the four cases of a conflict,
then the lowest granule, before the tiles, is a fault, which the lower group holds; then a copy that lands at this sync is written, and a new epoch begins. Which sync that is follows the order of
stamps (DEDUCED, log 48). A count above the group count, a second arrival and a differing count raise the barrier-count fault. -/
def Obligations.BarrierTurns : Prop :=
  ∀ (s : State) (e : Entry) (bar count : Nat) (waits : Bool) (p : Block) (x : Barrier),
    e.op = .arrive bar count waits → AtTurn s e → performable s.cpu.hw s.cpu.ctx s.cpu.groups e = true → ArrivesAt s e bar p x →
    let gid := e.stamp.gid
    let i := Instr.turnPerform gid
    let arr := x.arrivals ++ [gid]
    let goes := fun (h : Group) (w : TurnWait) => { h with
      pc := h.pc + BitVec.ofNat 64 w.len, lc := h.lc + w.weight, cmask := 0, fills := [], status := .running
      baras := if waits then h.baras else put h.baras bar x.gen }
    let rest := fun t : State => t.others = s.others ∧ t.inputs = s.inputs ∧ KeepsImages s t
    let hwKept := fun t : State => t.cpu.hw = { s.cpu.hw with log := t.cpu.hw.log }
    let others := fun (y : Ctx) (q : Block) => { (s.cpu.park.ctx.setBlock q) with groups := y.groups, queue := s.cpu.ctx.queue.filter fun f => f != e }
    (count ≤ p.g → gid ∉ x.arrivals → (x.count = 0 ∨ x.count = count) →
      (arr.length < count ∨ arr.length = count ∧ count = p.g ∧ p.anyExit = true →
        ∃ t f, exec i s = .next t ∧ rest t ∧ hwKept t ∧ GroupsBecome f s t ∧
          t.cpu.ctx = others t.cpu.ctx (barNow p bar { x with count := count, arrivals := arr }) ∧ (∀ h, h.gid ≠ gid → f h = h) ∧
          ∀ h w, h.gid = gid → h.status = .turn w → w.vdst = none → w.kdst = none →
            f h = if waits then { h with status := .ceded w.weight (.barrier bar x.gen) none } else goes h w) ∧
      (arr.length = count → count < p.g →
        ∃ t f, exec i s = .next t ∧ rest t ∧ hwKept t ∧ GroupsBecome f s t ∧
          t.cpu.ctx = others t.cpu.ctx (barNow p bar ⟨x.gen + 1, 0, [], x.done ++ [(x.gen, e.stamp)]⟩) ∧ Others gid e.stamp f ∧
          (∀ h w, h.gid = gid → h.status = .turn w → w.vdst = none → w.kdst = none → f h = goes h w) ∧
          ∀ h w, h.gid ≠ gid → h.gid / 512 = gid / 512 → h.status = .ceded w (.barrier bar x.gen) none →
            f h = { h with status := .ceded w (.barrier bar x.gen) (some e.stamp) }) ∧
      (arr.length = count → count = p.g → p.anyExit = false → EpochOk p → (s.cpu.groups.map Group.gid).Nodup →
        (∃ h ∈ s.cpu.groups, h.live = true) → (∀ h ∈ s.cpu.groups, h.lord = p.lord → h.blk = p.blk → ∀ b ∈ h.batches, b.members = []) →
        ∀ due : Option Copy, (∀ k ∈ s.cpu.ctx.copies, LandsAt p e.stamp k ↔ due = some k) →
        (∀ k, due = some k → k ∈ s.cpu.ctx.copies ∧ k.read = true) →
        let cells := (due.map fun k => k.payload ++ k.stampCells).getD []
        ∃ t q f c, exec i s = .next t ∧ rest t ∧ GroupsBecome f s t ∧ Synced p c ∧ t.cpu.ctx.copies = laterCopies p e.stamp s.cpu.ctx.copies ∧ q ∈ t.cpu.ctx.blocks ∧ q = { p with
            bars := p.bars.setIfInBounds bar ⟨x.gen + 1, 0, [], x.done ++ [(x.gen, e.stamp)]⟩
            syncs := p.syncs + 1, pad := q.pad, tiles := q.tiles, own := [], tags := [], ords := [], ordTags := [], reds := []
            ownTiles := [], tileTags := [] } ∧
          (∀ u, (TileConflicts p u → get? q.tiles u = get? p.tiles u) ∧
            (¬ TileConflicts p u → ∀ y, (get? q.tiles u = y ↔ (∃ o ∈ p.ownTiles, o.2.1 = u ∧ some o.2.2 = y) ∨
              (∀ o ∈ p.ownTiles, o.2.1 ≠ u) ∧ get? p.tiles u = y))) ∧
          (∀ a, (∀ z, LastOf cells (fun z => z.1 = a) z → rd 0 q.pad a = z.2) ∧ ((∀ z ∈ cells, z.1 ≠ a) → rd 0 q.pad a = c a)) ∧
          ((∀ u a b, ¬ SyncPair p u a b) → ∀ h, (f h).faults = h.faults) ∧
          (∀ u a b, SyncFault p u a b → ∀ h ∈ s.cpu.groups, h.gid = a → h.live = true →
            (s.cpu.ctx.leg, (⟨12, if u < 2 ^ 32 then 1 else 2, BitVec.ofNat 64 (if u < 2 ^ 32 then u else u % 16), 0, BitVec.ofNat 64 a,
              BitVec.ofNat 64 b⟩ : Trap)) ∈ (f h).faults) ∧
          (∀ h ∈ s.cpu.groups, ∀ w, h.gid = gid → h.status = .turn w → w.vdst = none → w.kdst = none →
            f h = { goes h w with faults := (f h).faults }) ∧
          ∀ h ∈ s.cpu.groups, ∀ w, h.gid ≠ gid → h.gid / 512 = gid / 512 → h.status = .ceded w (.barrier bar x.gen) none →
            f h = { h with status := .ceded w (.barrier bar x.gen) (some e.stamp), faults := (f h).faults })) ∧
    (∀ w code, s.cpu.grp.gid = gid → s.cpu.grp.status = .turn w → s.cpu.grp.inWin = false → s.cpu.grp.trapv.toNat / 4 ≠ 0 →
      (∀ h ∈ s.cpu.ctx.groups, h.gid ≠ gid) →
      (p.g < count ∧ code = 3 ∨ count ≤ p.g ∧ gid ∈ x.arrivals ∧ code = 2 ∨
        count ≤ p.g ∧ gid ∉ x.arrivals ∧ x.count ≠ 0 ∧ x.count ≠ count ∧ code = 1) →
      ∃ t, exec i s = .next t ∧ rest t ∧ t.cpu.ctx.blocks = s.cpu.ctx.blocks ∧ ∃ h ∈ t.cpu.ctx.groups, h.gid = gid ∧ h.inWin = true ∧
        h.pc.toNat = s.cpu.grp.trapv.toNat / 4 * 4 ∧ h.lc = s.cpu.grp.lc ∧
        h.frame = frameOf { s.cpu.grp with fills := [], bulk := false, status := .running } 0 none
          ⟨13, code, BitVec.ofNat 64 bar, 0, BitVec.ofNat 64 x.count, BitVec.ofNat 64 count⟩ 0)

/-- R90, R95, R98, R106, R295 (tier 2). PUBLICATION_APPLY makes a version of what is on its way, REDUCTION_CONTRIBUTION_ARRIVE adds a
contribution to its target and marks its words; where the overlay has no room for the entry that this needs, the context is suspended and
the event happens later, whatever else comes meanwhile; if there is still none after it has been resumed, the context ends with the fault of
class 15. Whose frame that fault writes is the model's choice (DEDUCED, log 31). -/
def Obligations.OverlayArrivals : Prop :=
  ∀ (n : Nat) (s : State),
    let x := s.cpu.ctx
    (∀ st cells, x.flight[n]? = some (.publication st cells) →
      let run := x.status = .running
      let full := overlayFull s.cpu.hw s.mem x (lineOf ((cells.head?.map Prod.fst).getD 0))
      ∃ t, exec (.publicationApply n) s = .next t ∧
        (full = false → StepOf s t ∧ t.cpu.ctx = { x with
          flight := x.flight.eraseIdx n, versions := x.versions ++ [⟨st, s.cpu.hw.number, none, cells⟩], ovlFull := false }) ∧
        (full = true → run → x.ovlFull = false → Exhausts s t) ∧ (full = true → run → x.ovlFull = true → EndsFull s t) ∧
        (full = true → ¬ run → t = s)) ∧
    (∀ k, x.flight[n]? = some (.contribution k) →
      let run := x.status = .running
      let full := (∀ c ∈ x.reds, ¬ (c.addr = k.addr ∧ contribKind c = contribKind k)) ∧ overlayFull s.cpu.hw s.mem x (lineOf k.addr) = true
      ∃ t, exec (.reductionContributionArrive n) s = .next t ∧
        (¬ full → StepOf s t ∧ t.cpu.ctx = { x with
            flight := x.flight.eraseIdx n, reds := x.reds ++ [k], marks := t.cpu.ctx.marks, ovlFull := false } ∧
          ∀ m, m ∈ t.cpu.ctx.marks ↔ m ∈ x.marks ∨ ∃ a, (a = k.addr - k.addr % 4 ∨ k.bits = 64 ∧ a = k.addr - k.addr % 4 + 4) ∧
            m = ⟨a, 3, contribKind k, none, k.gid, s.cpu.hw.number⟩) ∧
        (full → run → x.ovlFull = false → Exhausts s t) ∧ (full → run → x.ovlFull = true → EndsFull s t) ∧ (full → ¬ run → t = s))

/-- R61, R64 to R66, R73 to R76, R104, R203 to R205, R208, R209, R218, R219, R228 to R232, R240, R287, R288 (tier 2). The matrix unit completes
a group's oldest member: a product adds to each element the scaled sum of the products along k, each partial sum rounded to 48 bits and the
result once; a drain writes FP32, BF16 or a canonical tile. The copy engine reads a copy and converts each element: outbound plain, or by
blocks with a tag and a scale, and with the greatest magnitude of AMX; inbound row by row with the scales, or into a canonical tile with its
header and scale vector; integers are written unchanged between equal formats. What the highest exponent means beside the two significands of
R75, and a tie at one plane, are the model's choice (DESIGN CHOICE, logs 51 and 66). A system copy moves its bytes, except onto lines with a
translation mark, and the marks and tags of its lines with them. That a marked destination keeps its line is the model's choice (DEDUCED, log
35). -/
def Obligations.EngineSteps : Prop :=
  (∀ (s : State) (p : Block) (num : Option Nat) (mb : Member) (rest : List Member) (l : List Batch),
    let g := s.cpu.grp
    NoneSaved s → g.status ≠ .absent → (∀ h ∈ s.cpu.ctx.groups, h.gid ≠ g.gid) → s.cpu.ctx.block g = some p → g.batches = ⟨num, mb :: rest⟩ :: l →
    ∃ t h q, exec (.matrixProductComplete g.gid) s = .next t ∧ t.cpu.hw = s.cpu.hw ∧ t.others = s.others ∧ t.inputs = s.inputs ∧
      t.mem = s.mem ∧ t.cpu.grp = h ∧ t.cpu.ctx = s.cpu.ctx.setBlock q ∧ membersOf h = rest ++ l.flatMap Batch.members ∧
      h = { g with batches := h.batches, bypass := h.bypass, status := h.status } ∧
      (∀ w n, g.status = .ceded w (.mwait n) none → h.status = .ceded w (.mwait n) (if batchPending h n then none else some g.stamp)) ∧
      ((∀ w n, g.status ≠ .ceded w (.mwait n) none) → h.status = g.status) ∧
      match mb with
      | .product clear tile desc slot =>
        h.bypass = g.bypass ∧ q = { p with ownTiles := q.ownTiles } ∧ OtherTiles p q g tile ∧
          tileNow q g.gid (16 * g.role + tile) = applyProduct (descOf desc) (padByte p g.gid) slot
            (if clear then [] else tileNow p g.gid (16 * g.role + tile)) ∧
          (rising (tileNow p g.gid (16 * g.role + tile)) = true →
            ProductTile (descOf desc)
              (fun o => match slot with
                | some b => rd 0 b o
                | none => padByte p g.gid (128 * (descOf desc).aline + o))
              (fun o => padByte p g.gid (128 * (descOf desc).bline + o)) (padByte p g.gid)
              (if clear then [] else tileNow p g.gid (16 * g.role + tile)) (tileNow q g.gid (16 * g.role + tile)))
      | .drain tile ctl z way =>
        let out := drainBytes (tileNow p g.gid (16 * g.role + tile)) ctl way
        let base := 128 * (ctl.toNat / 2 ^ 16)
        OtherTiles p q g tile ∧ tileNow q g.gid (16 * g.role + tile) = (if z then [] else tileNow p g.gid (16 * g.role + tile)) ∧
          (way = 2 → h.bypass = some (wrAll 0 [] out)) ∧
          (way ≠ 2 → h.bypass = g.bypass ∧ ∀ a, padByte q g.gid a =
            if base ≤ a ∧ a < base + out.length then (out.getD (a - base) (0, 0)).2 else padByte p g.gid a) ∧
          let tl := tileNow p g.gid (16 * g.role + tile)
          let get := fun o => padByte q g.gid (base + o)
          let size := if way = 1 then (if ctl.toNat / 16 % 16 = 0 then 65536 else 32768) else 128 + 2048 * (10 + ctl.toNat % 16)
          (way ≠ 2 → ∀ a, a < base ∨ base + size ≤ a → padByte q g.gid a = padByte p g.gid a) ∧
          (way = 1 → DrainsRows tl (ctl.toNat / 16 % 16 != 0) get) ∧
          (way ≠ 1 → 1 ≤ ctl.toNat % 16 → ctl.toNat % 16 ≤ 11 →
            (way = 2 → DrainsTile tl (ctl.toNat % 16) fun o => rd 0 (h.bypass.getD []) o) ∧
            (way ≠ 2 → DrainsTile tl (ctl.toNat % 16) get))) ∧
  (∀ (s : State) (id : Nat),
    ∃ t, exec (.copyEngineRead id) s = .next t ∧ StepOf s t ∧ t.cpu.ctx = { s.cpu.ctx with copies := t.cpu.ctx.copies } ∧
      ∃ f, t.cpu.ctx.copies = s.cpu.ctx.copies.map f ∧ (∀ k, k.id ≠ id ∨ k.read = true → f k = k) ∧
        ∀ k, k.id = id → k.read = false →
          f k = { k with read := true, payload := (f k).payload, nibs := (f k).nibs, amax := (f k).amax, stampCells := (f k).stampCells } ∧
          (k.t.stm = 0 → (f k).stampCells = []) ∧ (k.t.dir = 1 → k.t.stm = 1 → (f k).stampCells = bytesAt k.t.sta k.stamp.lc 8) ∧
          (k.t.dir = 0 → k.t.stm = 2 → (f k).stampCells = bytesAt k.t.sta k.value.toNat 4) ∧ CopyWrites k (f k) ∧
          let els := elemsOf k.t k.rcd k.origin k.counts
          (k.t.dir = 1 → k.t.dblk = 0 → k.t.sfmt = k.t.dfmt → 6 ≤ k.t.sfmt → k.t.sfmt ≤ 13 → k.rcd.lay = 0 →
            (∀ b ∈ k.src, b < 2 ^ fmtBits k.t.sfmt) → k.src.length = els.length →
            (f k).payload = (els.zip k.src).flatMap fun x =>
              if x.1.bad.isSome then [] else bytesAt (vaOf k.rcd.obj x.1.off) x.2 (elemSize k.rcd))) ∧
  ∀ (s : State) (id : Nat) (k : SysCopy),
    s.cpu.ctx.sysCopies.find? (fun k => k.id == id && !k.done) = some k → k.dst % 128 = 0 → k.bytes % 128 = 0 → canonical unwritten s.mem = true →
    ∃ t, exec (.systemCopyComplete id) s = .next t ∧ t.others = s.others ∧ t.inputs = s.inputs ∧
      (∀ i < k.bytes, lineOf (k.dst + i) ∉ s.cpu.hw.tmarks → memByte t.mem (k.dst + i) = memByte s.mem (k.src + i)) ∧
      (∀ a, ¬ (k.dst ≤ a ∧ a < k.dst + k.bytes) ∨ lineOf a ∈ s.cpu.hw.tmarks → memByte t.mem a = memByte s.mem a) ∧
      (∀ l, l ∈ t.cpu.hw.tmarks ↔ l ∈ s.cpu.hw.tmarks ∨
        ∃ i < k.bytes / 128, l = k.dst + 128 * i ∧ l ∉ s.cpu.hw.tmarks ∧ k.src + 128 * i ∈ s.cpu.hw.tmarks) ∧
      (let lost := fun l => ∃ i < k.bytes / 128, l = k.dst + 128 * i ∧ l ∈ s.cpu.hw.tmarks
       t.cpu.hw = { s.cpu.hw with tmarks := t.cpu.hw.tmarks, log := t.cpu.hw.log } ∧
       ∀ l, lost l → ⟨sourceOf s.cpu.hw 40, 40, 7, ctxId s.cpu.ctx, BitVec.ofNat 64 l⟩ ∈ t.cpu.hw.log) ∧
      (∀ i < k.bytes / 128, k.dst + 128 * i ∉ s.cpu.hw.tmarks → ∀ gid w,
        (⟨k.dst + 128 * i, gid, w⟩ : Tag) ∈ t.cpu.ctx.movedTags ↔ TagAt s (k.src + 128 * i) ⟨k.src + 128 * i, gid, w⟩) ∧
      (∀ u : Tag, (∀ i < k.bytes / 128, u.unit = k.dst + 128 * i → u.unit ∈ s.cpu.hw.tmarks) →
        (u ∈ t.cpu.ctx.movedTags ↔ u ∈ s.cpu.ctx.movedTags)) ∧
      t.cpu.ctx = { s.cpu.ctx with
        groups := t.cpu.ctx.groups, movedTags := t.cpu.ctx.movedTags
        sysCopies := s.cpu.ctx.sysCopies.map fun q => if q.id = id then { q with done := true } else q }

/-- R271, R281, R284 to R287, R290, R292, R362 (tier 2). Translation changes: SERVICE_WRITE_APPLY writes and marks the entry, its sharers
drop it, and a resident entry drains first: MOVING_DRAIN_COMPLETE waits while an operation that translated it is queued, but for those behind
the `objw` itself, which read their word of the frame as the drain ends (DEDUCED, log 47); host writes still to land follow a sub-tile to its
new frame (DEDUCED, log 20); TRANSLATION_CHANGE_COMPLETE resumes the `objw` and every access that waited; a code image takes a sub-tile that
was absent in it (DEDUCED, log 26). A directory entry is dropped only while one cache holds the line, and an error in it makes
every cache a sharer; a host's write through the aperture is deferred, served or done as its kind says, and is a race after an `objw` of the
leg to the same dword. An aperture write that is not aligned to its dword stops the run, which is the model's choice (DESIGN CHOICE, log
67). -/
def Obligations.TranslationSteps : Prop :=
  ∀ (n ln pa : Nat) (val : Dword) (v : Svc) (s : State),
    let x := s.cpu.ctx
    let h := s.cpu.hw
    (x.svc[n]? = some v → v.stage = .sent → canonical unwritten s.mem = true →
      (svcRefused h s.mem x v = false →
        let host := fun (f : Cells → Cells) (y : Ctx) => { y with hostWrites := y.hostWrites.map f, hostNext := y.hostNext.map f }
        ∃ t f, exec (.serviceWriteApply n) s = .next t ∧ t.cpu.grp = s.cpu.grp ∧ t.others = s.others.map (host f) ∧ t.inputs = s.inputs ∧
          ((∀ old new size, ¬ Relocates s v old new size) → f = id) ∧
          (∀ old new size, Relocates s v old new size →
            let to' := fun a => if old ≤ a ∧ a < old + size then new + (a - old) else a
            ∀ c : Cells, (∀ e ∈ c, ∀ k ∈ c, to' e.1 = to' k.1 → e = k) → ∀ e, e ∈ f c ↔ ∃ k ∈ c, e = (to' k.1, k.2)) ∧
          Stored8 v.pa v.val s t ∧ t.cpu.hw = { h with
            hostLate := h.hostLate.map fun l => { l with cells := f l.cells }
            tmarks := t.cpu.hw.tmarks, dir := { h.dir with entries := h.dir.entries.filter fun d => d.line != lineOf v.pa } } ∧
          (∀ l, l ∈ t.cpu.hw.tmarks ↔ l ∈ h.tmarks ∨ l = lineOf v.pa) ∧
          (memNat s.mem v.pa 8 / 2 ^ 62 = 1 → t.cpu.ctx.images = x.images ∧ t.cpu.ctx.loaded = x.loaded) ∧
          (memNat s.mem v.pa 8 / 2 ^ 62 ≠ 1 → ∀ r, mapRecord t.cpu.hw t.mem x.objtb v.pa = some r →
            (∀ i ∈ x.loaded :: x.images, canonical unwritten i.mem = true) →
            List.Forall₂ (ImageTakes t.mem r v.pa) (x.loaded :: x.images) (t.cpu.ctx.loaded :: t.cpu.ctx.images)) ∧
          t.cpu.ctx = { host f x with
            images := t.cpu.ctx.images, loaded := t.cpu.ctx.loaded
            svc := x.svc.map fun y => if y = v then { v with
              stage := if memNat s.mem v.pa 8 / 2 ^ 62 = 1 then .draining else .invalidating
              acks := sharersOf h.dir.entries (lineOf v.pa) } else y }) ∧
      (svcRefused h s.mem x v = true → v.gid = none →
        ∃ t, exec (.serviceWriteApply n) s = .next t ∧ t.mem = s.mem ∧ t.cpu.ctx = { x with svc := x.svc.filter fun y => y != v } ∧
          t.cpu.hw = { h with
            events := h.events ++ [⟨sourceOf h 4, x.dpart.toNat, ctxId x, 4, 0, 0, BitVec.ofNat 64 v.pa⟩]
            log := h.log ++ [⟨sourceOf h 40, 40, 4, ctxId x, BitVec.ofNat 64 v.pa⟩] })) ∧
    (x.svc[n]? = some v → v.stage = .draining →
      let waits := ∃ e, QueuedOn s v.pa e ∧ ∀ i g, v.gid = some i → s.cpu.find i = some g → Stamp.lt e.stamp ⟨g.lc, g.gid⟩ = true
      (waits → exec (.movingDrainComplete n) s = .next s) ∧ (¬ waits → ∃ t, exec (.movingDrainComplete n) s = .next t ∧ StepOf s t ∧
        (∀ d, d ∈ t.cpu.ctx.drained ↔ d ∈ x.drained ∨ ∃ e, QueuedOn s v.pa e ∧ DrainedWord s e d) ∧
        t.cpu.ctx = { x with
          svc := x.svc.map (fun y => if y = v then { v with stage := .invalidating } else y), drained := t.cpu.ctx.drained })) ∧
    (x.svc[n]? = some v → v.stage = .invalidating → h.held = [] → NoneSaved s → (∀ y ∈ x.groups, y.gid ≠ s.cpu.grp.gid) → s.cpu.grp.status ≠ .absent →
      let g := s.cpu.grp
      ∃ t, exec (.translationChangeComplete n) s = .next t ∧ t.cpu.hw = h ∧ t.mem = s.mem ∧
        t.cpu.ctx.svc = x.svc.filter (fun y => y != v) ∧ t.cpu.ctx.xlatEvents = x.xlatEvents.filter (fun q => q != v.pa) ∧
        (v.gid = some g.gid → t.cpu.grp = { g with pc := g.pc + 4, lc := g.lc + 64, cmask := 0, status := .running }) ∧
        (v.gid ≠ some g.gid → (∀ q, g.status = .xlat q → v.pa ∈ q → t.cpu.grp = { g with status := .running }) ∧
          ((∀ q, g.status = .xlat q → v.pa ∉ q) → t.cpu.grp = g))) ∧
    (∃ t, exec (.directoryEntryDrop ln) s = .next t ∧ HwOnly s t ∧ t.cpu.hw = { h with dir := { h.dir with
      entries := h.dir.entries.map fun d =>
        if d.line = ln ∧ d.every = false ∧ d.sharers.length = 1 then { d with dropped := true } else d } }) ∧
    (x.status ≠ .absent → inTable x.objtb ln = true →
      ∃ t, exec (.directoryError ln) s = .next t ∧ t.cpu.ctx = x ∧ t.cpu.grp = s.cpu.grp ∧ t.mem = s.mem ∧ t.others = s.others ∧
        sharersOf t.cpu.hw.dir.entries ln = allCaches ∧ (∀ d : DirEntry, d.line ≠ ln → (d ∈ t.cpu.hw.dir.entries ↔ d ∈ h.dir.entries)) ∧
        t.cpu.hw = { h with
          dir := { h.dir with entries := t.cpu.hw.dir.entries }
          events := h.events ++ [⟨sourceOf h 6, x.dpart.toNat, ctxId x, 6, 0, 0, BitVec.ofNat 64 ln⟩]
          log := h.log ++ [⟨sourceOf h 40, 40, 6, ctxId x, BitVec.ofNat 64 ln⟩] }) ∧
    (devicePa pa = false ∨ pa % 8 ≠ 0 → exec (.translationApertureWrite pa val) s = .fault (.hostAddress pa)) ∧
    (∀ c, devicePa pa = true → pa % 8 = 0 → x.status ≠ .absent → changeOf h s.mem x pa val = some c →
      ∃ t, exec (.translationApertureWrite pa val) s = .next t ∧
        match c with
        | .same => RaceNoted pa true x t.cpu.ctx ∧ t.cpu.ctx = { x with xlatLeg := t.cpu.ctx.xlatLeg } ∧
            StepOf { s with cpu := { s.cpu with hw := { raceHw h x pa true with tmarks := t.cpu.hw.tmarks } } } t ∧
            ∀ l, l ∈ t.cpu.hw.tmarks ↔ l ∈ h.tmarks ∨ l = lineOf pa
        | .deferred => StepOf { s with cpu := { s.cpu with hw := raceHw h x pa true } } t ∧ RaceNoted pa true x t.cpu.ctx ∧
            t.cpu.ctx = { x with pendXlat := x.pendXlat ++ [⟨pa, val, none, none⟩], xlatLeg := t.cpu.ctx.xlatLeg }
        | _ => StepOf { s with cpu := { s.cpu with hw := raceHw h x pa true } } t ∧ RaceNoted pa true x t.cpu.ctx ∧
            t.cpu.ctx = { x with svc := x.svc ++ [⟨pa, val, none, .sent, []⟩], xlatLeg := t.cpu.ctx.xlatLeg })

/-- R92 to R97, R103 to R107, R188, R231, R233, R234, R252, R255, R261, R271, R273, R285, R313, R362, R363 (tier 2). LEG_END of a context that is on this
module alone. Memory takes, for each byte, a PARCEL store whose line does not conflict, else the sketch of the highest gid that is not killed,
else the version of the highest stamp; over that the combination of the reductions (integer, bitwise and floating, each rounded once; none on a
word of two kinds), over that the copies that land in the order of their stamps, over that host writes in their order and deferred translation
writes; every other byte is kept. With live groups the next leg begins: sketches, views and what the leg kept are cleared, exited and killed groups leave,
OBJTB and TMPLB take the write of the highest stamp, code images are renewed, and a block that has room is placed. With nothing live, pending
or landing the context completes. Lines that conflict and words of two classes, scopes or kinds raise one fault each, held by the lower of
its two groups. Lines that the host holds and the fold changes are recalled, and snoops that wait for no other leg are answered. Of versions
of one stamp the ordering operation's is the later. -/
def Obligations.LegEndFolds : Prop :=
  ∀ s : State, LegEnds s →
    let x := s.cpu.ctx
    let h := s.cpu.hw
    let ends := fun t : State => exec .legEnd s = .next t ∧ t.others = s.others ∧ t.inputs = s.inputs
    let noLaunch := ∀ l ∈ x.launches, l.pending = false
    let plain := x.reds = [] ∧ ∀ k, ¬ Due s k
    let quiet := (∀ va, ¬ Written s va) ∧ x.hostWrites = [] ∧ x.pendXlat = []
    let framed := ∀ j ∈ x.reds, ∀ va, redBytes j va → ∃ pa, physical s va pa
    let alive := (survivors s).map fun g => { g with sketch := [], view := none, objws := 0 }
    let held := fun (t : State) (gid : Nat) (e : Trap) => ∃ g ∈ t.cpu.ctx.groups, g.gid = gid ∧ (x.leg, e) ∈ g.faults
    (plain → ∃ t, ends t ∧
      (∀ va pa, physical s va pa → Written s va → (∀ va', Written s va' → physical s va' pa → va' = va) →
        ∃ y, Folds s va y ∧ Later s pa y (memByte t.mem pa)) ∧
      (∀ pa, (∀ va, Written s va → ¬ physical s va pa) → Later s pa (memByte s.mem pa) (memByte t.mem pa)) ∧
      (∀ q ∈ h.snoops,
        let waits := ∃ n ∈ q.2, n ≠ (x.dpart.toNat, x.number.toNat) ∧ ∃ y ∈ s.others, legOpen y = true ∧ n = (y.dpart.toNat, y.number.toNat)
        (waits → q.1 ∈ t.cpu.hw.snoops.map Prod.fst) ∧ (¬ waits → q.1 ∈ t.cpu.hw.snooped)) ∧
      (∀ l ∈ h.hostLines,
        ((∀ va pa, Written s va → physical s va pa → ¬ (l ≤ pa ∧ pa < l + 128)) → l ∈ t.cpu.hw.hostLines) ∧
        ((∃ va pa, Written s va ∧ physical s va pa ∧ (l ≤ pa ∧ pa < l + 128) ∧ (∀ va', Written s va' → physical s va' pa → va' = va) ∧
          ∀ y, Folds s va y → y ≠ memByte s.mem pa) → l ∉ t.cpu.hw.hostLines ∧ l ∈ t.cpu.hw.recalls)) ∧
      (Faultless s → noLaunch → survivors s ≠ [] →
        let y := t.cpu.ctx
        t.cpu.grp = Group.none ∧ y.status = .running ∧ y.leg = x.leg + 1 ∧ y.phase = 0 ∧ y.groups = alive ∧ y.versions = [] ∧ y.flight = [] ∧
          y.parcel = [] ∧ y.ptags = [] ∧ y.marks = [] ∧ y.reds = [] ∧ y.pendXlat = [] ∧ y.pendCsr = [] ∧ y.icinvs = [] ∧ y.kills = [] ∧
          y.xlatLeg = [] ∧ y.hostWrites = x.hostNext ∧ y.hostNext = [] ∧ y.mctb = x.pendMctb.getD x.mctb ∧ y.pendMctb = none ∧
          (∀ l, l ∈ t.cpu.hw.tmarks ↔ ∃ p ∈ x.pendXlat, l = lineOf p.pa) ∧
          (∀ tmpl, (∀ e ∈ x.pendCsr, e.1 ≠ tmpl) → (if tmpl then y.tmplb = x.tmplb else y.objtb = x.objtb)) ∧
          (∀ e ∈ x.pendCsr, (∀ f ∈ x.pendCsr, f.1 = e.1 → f ≠ e → Stamp.lt f.2.1 e.2.1 = true) →
            (if e.1 then y.tmplb else y.objtb) = e.2.2) ∧
          (∀ o ∈ x.icinvs, (⟨o, y.objtb, t.mem⟩ : Image) ∈ y.images) ∧
          (∀ i ∈ y.images, i.objtb = y.objtb ∧ i.mem = t.mem ∨ i ∈ x.images ∧ i.obj ∉ x.icinvs) ∧
          (x.pendXlat = [] ∨ (∀ va, ¬ Written s va) ∧ x.hostWrites = [] → ∀ i, i ∈ y.images ↔
            ((i.obj ∈ x.icinvs ∨ Loads s t i.obj) ∧ i.objtb = y.objtb ∧ i.mem = t.mem) ∨
              i ∈ x.images ∧ i.obj ∉ x.icinvs ∧ ¬ Loads s t i.obj) ∧
          ∀ b ∈ x.blocks, (∃ g ∈ survivors s, g.lord = b.lord ∧ g.blk = b.blk) → ∃ c ∈ y.blocks, c = { b with anyExit := c.anyExit }) ∧
      (Faultless s → noLaunch → survivors s = [] → (∀ k ∈ x.copies, k.toPad = true) → (∀ k ∈ x.sysCopies, k.done = true) →
        t.cpu.ctx = Ctx.none ∧ t.cpu.grp = Group.none ∧
          t.cpu.hw.events = h.events ++ [⟨sourceOf h 7, x.dpart.toNat, ctxId x, 7, 0, 0, 0⟩])) ∧
    (∀ l, DueList s l → Steady s l → ∃ (t : State) (b c d : Nat → Byte), ends t ∧ (∀ k ∈ l, k ∉ t.cpu.ctx.copies) ∧
      (∀ va, Written s va → Folds s va (b va)) ∧ (∀ va pa, ¬ Written s va → physical s va pa → b va = memByte s.mem pa) ∧
      Reduced (allReds s l) b c ∧
      (∀ va z, LastOf (landed l) (fun e => e.1 = va) z → d va = z.2) ∧ (∀ va, (∀ z ∈ landed l, z.1 ≠ va) → d va = c va) ∧
      (∀ va pa, Touched s l va → physical s va pa → Later s pa (d va) (memByte t.mem pa)) ∧
      ∀ pa, (∀ va, Touched s l va → ¬ physical s va pa) → Later s pa (memByte s.mem pa) (memByte t.mem pa)) ∧
    (quiet → (∀ k, ¬ Due s k) → framed → ∀ k, RedOk x.reds k → ∀ pa : Nat → Nat, (∀ i < k.bits / 8, physical s (k.addr + i) (pa i)) →
      (∀ j ∈ x.reds, ∀ va, redBytes j va → ∀ i < k.bits / 8, physical s va (pa i) → va = k.addr + i) →
      let old := ((List.range (k.bits / 8)).map fun i => (memByte s.mem (pa i)).toNat * 256 ^ i).sum
      ∃ t r, ends t ∧ r < 2 ^ k.bits ∧ RedValue k old (x.reds.filter fun j => j.addr == k.addr && contribKind j == contribKind k) r ∧
        ∀ i < k.bits / 8, memByte t.mem (pa i) = BitVec.ofNat 8 (r / 256 ^ i)) ∧
    (∀ k, quiet → x.reds = [] → Due s k → (∀ k', Due s k' → k' = k) → k.read = true → k.nibs = [] → k.amax = none →
      let cells := k.payload ++ k.stampCells
      (∀ e ∈ cells, ∃ pa, physical s e.1 pa) →
      ∃ t, ends t ∧ k ∉ t.cpu.ctx.copies ∧
        (∀ z pa, physical s z.1 pa → LastOf cells (fun e => e.1 = z.1) z → (∀ e ∈ cells, physical s e.1 pa → e.1 = z.1) →
          memByte t.mem pa = z.2) ∧
        ∀ pa, (∀ e ∈ cells, ¬ physical s e.1 pa) → memByte t.mem pa = memByte s.mem pa) ∧
    (noLaunch → (∀ k, ¬ Due s k) → framed → ∀ w cls code a b, WordConflict s w cls code a b → (∃ g ∈ survivors s, g.gid = min a b) →
      ∃ t, ends t ∧ held t (min a b) ⟨cls, code, BitVec.ofNat 64 w, 0, BitVec.ofNat 64 a, BitVec.ofNat 64 b⟩) ∧
    (noLaunch → (∀ k, ¬ Due s k) → framed → ∀ u p1 p2, PairOn s u p1 p2 →
      (∀ v q1 q2, PairOn s v q1 q2 → p1 < q1 ∨ p1 = q1 ∧ (p2 < q2 ∨ p2 = q2 ∧ u ≤ v)) → (∃ g ∈ survivors s, g.gid = p1) →
      ∃ t, ends t ∧ held t p1 ⟨9, 1, BitVec.ofNat 64 u, 0, BitVec.ofNat 64 p1, BitVec.ofNat 64 p2⟩) ∧
    (∀ l, plain → Faultless s → x.kills = [] → x.launches = [l] → l.pending = true → (lrecOf l.rcd).aft = false →
      (lrecOf l.rcd).grid ≤ l.next + l.step →
      let r := lrecOf l.rcd
      let room := findCore { x with
        groups := survivors s
        blocks := x.blocks.filter fun b => (survivors s).any fun g => g.lord == b.lord && g.blk == b.blk } r l.n
      ∃ t, ends t ∧ t.cpu.ctx.status = .running ∧ t.cpu.ctx.leg = x.leg + 1 ∧ (room = none → t.cpu.ctx.launches = [l] ∧ t.cpu.ctx.groups = alive) ∧
        ∀ c, room = some c → t.cpu.ctx.launches = [{ l with next := l.next + l.step }] ∧
          (∃ b ∈ t.cpu.ctx.blocks, b.lord = l.ord ∧ b.blk = l.next ∧ b.g = r.g ∧ b.n = l.n ∧ b.core = c ∧ b.share = r.share l.n ∧ b.pad = [] ∧
            b.tiles = [] ∧ b.syncs = 0 ∧ b.acc = r.acc) ∧
          ∀ gix < r.g, ∃ g ∈ t.cpu.ctx.groups, g.gid = 2 ^ 40 * l.ord + 512 * l.next + gix ∧ g.status = .running ∧ g.lc = legTop x ∧
            g.pc = r.entry ∧ g.sys = r.sys ∧ g.core = c + gix % l.n ∧ g.part = gix / l.n % 8 ∧ g.role = gix % l.n ∧ g.quota = r.quota x.dq ∧
            g.trapv = x.trapv0 ∧ g.sketch = [])

/-- R3, R4, R23, R105, R295, R362, R363, R371 (tier 2). The host's accesses: a read answers with the line of the base image, which the host
then holds; a write is held for the leg end of its context, and for the next one once the domain has agreed on this one; an address that names
no memory stops the run; a snoop is held while a leg is open that holds the line. A progress timeout freezes a device partition where work
remains, a thermal trip always; uncorrectable data suspends R1 for its context. That a write whose context is not here lands with the next leg
end, or at once while no leg is open, and that a snoop is then answered at once, is the model's choice (DEDUCED, log 20); so are the numbers of
the sources that report (DESIGN CHOICE, log 42). -/
def Obligations.HostAccess : Prop :=
  ∀ (pa cno part : Nat) (cells : Cells) (s : State),
    let x := s.cpu.ctx
    let h := s.cpu.hw
    let src := fun y : Ctx => (y.dpart.toNat, y.number.toNat)
    (devicePa pa = false → exec (.hostMemRead pa) s = .fault (.hostAddress pa)) ∧
    (devicePa pa = true → ∃ t row, exec (.hostMemRead pa) s = .next t ∧ HwOnly s t ∧
      t.cpu.hw = { h with hostReads := h.hostReads ++ [(lineOf pa, row)], hostLines := t.cpu.hw.hostLines } ∧
      (∀ l, l ∈ t.cpu.hw.hostLines ↔ l ∈ h.hostLines ∨ l = lineOf pa) ∧ row.length = 128 ∧
      ∀ i < 128, row[i]? = some (lineOf pa + i, memByte s.mem (lineOf pa + i))) ∧
    (∀ e ∈ cells, namesMemory e.1 = false → ∃ a, exec (.hostMemWrite cno cells) s = .fault (.hostAddress a) ∧ namesMemory a = false) ∧
    ((∀ e ∈ cells, namesMemory e.1 = true) →
      (x.status ≠ .absent → x.key = cno →
        ∃ t, exec (.hostMemWrite cno cells) s = .next t ∧ StepOf s t ∧ t.cpu.ctx =
          if x.phase = 2 then { x with hostNext := x.hostNext ++ [cells] } else { x with hostWrites := x.hostWrites ++ [cells] }) ∧
      ((∀ y ∈ s.contexts, y.key ≠ cno) → (∃ y ∈ s.contexts, legOpen y = true) →
        ∃ t, exec (.hostMemWrite cno cells) s = .next t ∧ HwOnly s t ∧ t.cpu.hw = { h with
          hostLate := h.hostLate ++ [⟨s.contexts.map fun y => (y.key, (if y.phase = 2 then y.hostNext else y.hostWrites).length), cells⟩] }) ∧
      ((∀ y ∈ s.contexts, y.key ≠ cno ∧ legOpen y = false) → canonical unwritten s.mem = true → rising cells = true →
        ∃ t, exec (.hostMemWrite cno cells) s = .next t ∧ t.cpu.ctx = x ∧ t.cpu.grp = s.cpu.grp ∧ t.others = s.others ∧
          (∀ a, memByte t.mem a = if lineOf a ∈ h.tmarks then memByte s.mem a else (get? cells a).getD (memByte s.mem a)) ∧
          (∀ e ∈ cells, lineOf e.1 ∈ h.tmarks → ⟨sourceOf h 40, 40, 7, 0, BitVec.ofNat 64 (lineOf e.1)⟩ ∈ t.cpu.hw.log) ∧
          t.cpu.hw = { h with log := t.cpu.hw.log })) ∧
    (∃ t, exec (.hostSnoop pa) s = .next t ∧ HwOnly s t ∧
      let live := fun n => ∃ y ∈ s.contexts, legOpen y = true ∧ n = src y
      let holds := fun n : Nat × Nat => live n ∧ (n.1, n.2, lineOf pa) ∈ h.dir.shared
      ((∀ n, ¬ live n) → t.cpu.hw = { h with snooped := h.snooped ++ [pa] }) ∧
      ((∃ n, live n) → ∃ ns, t.cpu.hw = { h with snoops := h.snoops ++ [(pa, ns)] } ∧
        ((∃ n, holds n) → ∀ n, n ∈ ns ↔ holds n) ∧ ((∀ n, ¬ holds n) → ∀ n, n ∈ ns ↔ live n))) ∧
    (∀ i code, (i = .progressMonitorTimeout part ∧ code = 1 ∧ workRemains part s = true ∨ i = .thermalTrip part ∧ code = 4) → part < 16 →
      s.others = [] → x.status ≠ .absent →
      ∃ t, exec i s = .next t ∧ t.mem = s.mem ∧ t.cpu.grp = s.cpu.grp ∧ t.cpu.ctx = { x with r1off := x.r1off || x.dpart.toNat == part } ∧
        (∀ q, h.parts[part]? = some q → t.cpu.hw.parts[part]? = some { q with frozen := true }) ∧
        (∀ p, p ≠ part → t.cpu.hw.parts[p]? = h.parts[p]?) ∧
        t.cpu.hw.log = h.log ++ if x.dpart.toNat = part then [⟨sourceOf h 36, 36, code, ctxId x, 0⟩] else []) ∧
    (workRemains part s = false → exec (.progressMonitorTimeout part) s = .next s) ∧
    (x.status ≠ .absent → x.key = cno →
      ∃ t, exec (.uncorrectableData cno) s = .next t ∧ t.mem = s.mem ∧ t.cpu.grp = s.cpu.grp ∧ t.cpu.ctx = { x with r1off := true } ∧
        t.cpu.hw = { h with
          events := h.events ++ [⟨sourceOf h 10, x.dpart.toNat, ctxId x, 10, 0, 0, BitVec.ofNat 64 (256 * 36 + 3)⟩]
          log := h.log ++ [⟨sourceOf h 36, 36, 3, ctxId x, 0⟩] })

/-- R330, R337, R363 to R365, R368, R373 (tier 2). The management window: OWNER changes hands only by a claim while there is none, or by its
owner, with EXP equal to OWN; HBEAT changes no value (its period is time, log 24), and a lapse frees it; every other write is the owner's
alone. DPCFG changes only while no context is started, and is measured again; PSTAT clears counter bits and restores a failed link that has
trained; the spare ports are ports 14 and 15, and a write of an offset that no register has changes nothing (DESIGN CHOICE, log 21); a
partition's page keeps its limits. A read returns the registers with reserved fields and fields that are written only as zero. That a claim
with OWN above 3 is discarded, and that a claim is a write of one of the three codes while OWN is 0, is the model's choice (DEDUCED, log 34);
so are the four bytes over which DPCFG is measured (DESIGN CHOICE, log 9). -/
def Obligations.ManagementWindow : Prop :=
  ∀ (m : Master) (w : Word) (val : Dword) (off : Nat) (port : BitVec 4) (i : BitVec 1) (s : State),
    let h := s.cpu.hw
    let code := match m with
      | .hostA => 1
      | .hostB => 2
      | .controller => 3
    let owner := h.own = code ∧ h.err = 0
    (∃ t, exec (.owner m w) s = .next t ∧ HwOnly s t ∧ t.cpu.hw =
      if h.err = 0 ∧ w.toNat / 16 % 16 = h.own ∧ w.toNat % 16 ≤ 3 ∧ (h.own = 0 ∨ h.own = code) then
        { h with own := w.toNat % 16, hbp := w.toNat / 256 % 256 }
      else h) ∧
    exec (.hbeat m) s = .next s ∧
    (∃ t, exec .heartbeatLapse s = .next t ∧ HwOnly s t ∧ t.cpu.hw = { h with own := 0 }) ∧
    (∀ j, j = .dpcfg m w ∨ j = .pstat m port w ∨ j = .sparePortBind m i w ∨ j = .mgmtRegisterWrite m off val → ¬ owner → exec j s = .next s) ∧
    (owner →
      (∃ t, exec (.dpcfg m w) s = .next t ∧ HwOnly s t ∧ t.cpu.hw =
        if s.contexts = [] ∧ w.toNat % 8 ≤ 4 then
          { h with dpcfg := w.toNat % 8, measures := h.measures.set 3 (Config.sha512 (dpcfgBytes (w.toNat % 8))) }
        else h) ∧
      (∀ q, h.ports[port.toNat]? = some q →
        ∃ t q', exec (.pstat m port w) s = .next t ∧ HwOnly s t ∧ t.cpu.hw.ports[port.toNat]? = some q' ∧ q'.peer = q.peer ∧
          (∀ p, p ≠ port.toNat → t.cpu.hw.ports[p]? = h.ports[p]?) ∧
          (∀ k < 8, q'.nrep.testBit k = (q.nrep.testBit k && !w.getLsbD (16 + k))) ∧
          q'.st = (if w.toNat % 4 = 1 ∧ q.st = 2 ∧ q.trained = true then 1 else q.st) ∧
          (q.st ≠ 2 → t.cpu.hw.failed = h.failed)) ∧
      (∃ t, exec (.sparePortBind m i w) s = .next t ∧ HwOnly s t ∧ t.cpu.hw.spares[i.toNat]? = some (w &&& 0x7F) ∧
        ∀ q, h.ports[14 + i.toNat]? = some q → ∃ q', t.cpu.hw.ports[14 + i.toNat]? = some q' ∧
          if w.getLsbD 6 then q'.peer = w.toNat % 64 ∧ q'.st ≠ 3 else q'.st = 3) ∧
      (∀ d q, d < 2 ^ h.dpcfg → h.parts[d]? = some q →
        ∀ o q', (o = 0x08 ∧ q' = { q with ctxarg := val } ∨
            o = 0x18 ∧ q' = { q with pmon := if 16 ≤ val.toNat % 64 ∧ val.toNat % 64 ≤ 32 then val.toNat % 64 else q.pmon } ∨
            o = 0x1C ∧ q' = { q with wctmr := if 1 ≤ val.toNat % 128 ∧ val.toNat % 128 ≤ 64 then val.toNat % 128 else q.wctmr } ∨
            o = 0x20 ∧ q' = { q with evqb := val &&& 0x000FFFFFFFFFF01F } ∨ o = 0x28 ∧ q' = { q with evqh := val.setWidth 32 } ∨
            o = 0x30 ∧ q' = { q with evqovf := q.evqovf &&& ~~~ (val.setWidth 32) } ∨ o = 0x10 ∧ q' = q ∨ o = 0x2C ∧ q' = q) →
          ∃ t, exec (.mgmtRegisterWrite m (0x8000 * (d + 1) + o) val) s = .next t ∧ HwOnly s t ∧
            t.cpu.hw = { h with parts := h.parts.setIfInBounds d q' }) ∧
      ((off < 0x8000 ∨ 2 ^ h.dpcfg < off / 0x8000 ∨ off % 0x8000 ∉ [0x08, 0x18, 0x1C, 0x20, 0x28, 0x30]) →
        exec (.mgmtRegisterWrite m off val) s = .next s)) ∧
    windowRead 0 h = h.own % 16 + 2 ^ 8 * (h.hbp % 256) ∧ windowRead 0x0C h = h.stage % 16 + 2 ^ 8 * (h.err % 256) + 2 ^ 16 * (h.nq % 256) ∧
    (∀ q, h.ports[port.toNat]? = some q →
      windowRead (0x100 + 4 * port.toNat) h = q.st % 4 + 16 * (q.peer % 64) + 2 ^ 16 * (q.nrep % 256)) ∧
    ∀ d q, d < 2 ^ h.dpcfg → h.parts[d]? = some q →
      let page := fun o => windowRead (0x8000 * (d + 1) + o) h
      page 0x08 = q.ctxarg.toNat ∧ page 0x10 = q.ctxstat.toNat ∧ page 0x18 = q.pmon ∧ page 0x1C = q.wctmr ∧ page 0x20 = q.evqb.toNat ∧
        page 0x28 = q.evqh.toNat ∧ page 0x2C = q.evqt.toNat ∧ page 0x30 = q.evqovf.toNat ∧
        ∀ o, o < 0x8000 → o ∉ [0x08, 0x10, 0x18, 0x1C, 0x20, 0x28, 0x2C, 0x30] → page o = 0

/-- R307, R309, R310, R313, R363, R368, R369 (tier 2). Commands on a context: only the owner's count; CTXSTAT answers 6 before the module is
ready, 4 where the context is not there or in the wrong state, 3 where its quadrants are not free, 5 for a parameter out of range, and then
nothing else changes; else 0, and the command is done or noted for the leg end. A resume lets its groups go on, a pre-emption takes those of
a block, and a resume after it brings its registers back from the image. Every other context and register is as it was, and every byte of
memory but those of the images and of the scratchpad shares that pre-emption saves. That a kill or a pre-emption of a block that waits in a
queue is a command on a block of the context, and finds no group, is the model's choice (DEDUCED, log 25). -/
def Obligations.ContextCommands : Prop :=
  ∀ (o : CtxCmd) (m : Master) (d : BitVec 4) (cmd : Dword) (i : Instr) (q : Part) (s : State),
    let h := s.cpu.hw
    let x := s.cpu.ctx
    let n := cmd.toNat % 2 ^ 24
    let mine := h.own = ownCode m ∧ h.err = 0 ∧ d.toNat < 2 ^ h.dpcfg
    o.Word m d cmd i → h.parts[d.toNat]? = some q →
    (¬ mine → exec i s = .next s) ∧ (mine → h.stage ≠ 5 → Answers i d q 6 n s) ∧
    (mine → h.stage = 5 → (∀ y ∈ s.contexts, ¬ (y.number.toNat = n ∧ y.dpart = d)) → Answers i d q 4 n s) ∧
    (mine → h.stage = 5 → x.status ≠ .absent → x.number.toNat = n → x.dpart = d →
      (¬ o.Ready x → Answers i d q 4 n s) ∧
      (o = .resume → o.Ready x → quadsOk s d.toNat n x.ncore8 (cmdQuads cmd) = false → Answers i d q 3 n s) ∧
      (o.Ready x → ¬ o.InRange x q.ctxarg → Answers i d q 5 n s) ∧
      ((o = .killBlock ∨ o = .preempt) → o.Ready x → QueuedBlock x q.ctxarg ∨ o = .preempt ∧ FarBlock x q.ctxarg →
        (∀ b, ¬ NamesBlock x q.ctxarg b) → Answers i d q 0 n s) ∧
      (o ≠ .resume → o ≠ .preempt → (o = .kill → x.status = .running) →
        (o = .killBlock → (∃ b, NamesBlock x q.ctxarg b) ∨ ¬ QueuedBlock x q.ctxarg) → o.Ready x →
        o.InRange x q.ctxarg →
        ∃ t, exec i s = .next t ∧ t.mem = s.mem ∧ t.cpu.grp = s.cpu.grp ∧ t.others = s.others ∧ t.inputs = s.inputs ∧
          t.cpu.hw = withStat h d q 0 n ∧ t.cpu.ctx = o.become q.ctxarg x) ∧
      (o = .resume → x.status = .suspended → quadsOk s d.toNat n x.ncore8 (cmdQuads cmd) = true → NoneSaved s → x.placeDue = false → h.held = [] →
        ∃ t, exec i s = .next t ∧ t.mem = s.mem ∧ t.cpu.grp = Group.none ∧ t.others = s.others ∧ t.inputs = s.inputs ∧
          t.cpu.hw = withStat h d q 0 n ∧ t.cpu.ctx = { x with
            status := .running, quads := cmdQuads cmd, xlatEvents := []
            groups := s.cpu.groups.map fun g => { g with
              frame := if g.inWin then g.frame else { g.frame with cls := 0 }
              status := match g.status with
                | .xlat _ => .running
                | w => w } }) ∧
      (∀ (r : Record) (at' : Nat → Nat), o = .resume → x.status = .running → o.Ready x → quadsOk s d.toNat n x.ncore8 (cmdQuads cmd) = true → h.held = [] →
        (s.cpu.groups.map Group.gid).Nodup → s.cpu.record s.mem 1 = some r → (∀ off, translate s.mem r off = .at (at' off)) →
        ∃ t, exec i s = .next t ∧ t.mem = s.mem ∧ t.others = s.others ∧ t.inputs = s.inputs ∧ t.cpu.hw = withStat h d q 0 n ∧
          t.cpu.ctx.status = .running ∧ t.cpu.ctx.leg = x.leg ∧ t.cpu.ctx.stops = x.stops ∧ t.cpu.ctx.quads = cmdQuads cmd ∧
          (∀ b ∈ t.cpu.ctx.blocks, b.preempted = false) ∧
          ∀ g ∈ s.cpu.groups, g.live = true → g.preempted = true → g.inWin = false → ∃ k ∈ t.cpu.ctx.groups, k.gid = g.gid ∧ k.preempted = false ∧
            let f := fun a c => memNat s.mem (at' (imageOff g + a)) c
            k.lc = g.lc ∧ k.lanes = g.lanes ∧
            ((∀ a, at' (imageOff g + a) = at' (imageOff g) + a) → k.pc.toNat = f 0 8 / 4 * 4 ∧ k.cmask.toNat = f 0x3C 4 ∧
              (∀ m < 160, (k.main.readK m).toNat = f (0x300 + 4 * m) 4) ∧ (∀ m < 7, (k.main.readP m).toNat = f (0x580 + 4 * m) 4) ∧
              k.main.c.toNat = f 0x5A0 4 ∧ k.fpflags.toNat = f 0x5A8 1 % 32 ∧ k.trapv.toNat = f 0x5B0 8 / 4 * 4 ∧
              (f 0x5BC 1 % 4 ≠ 1 → k.bypass = none))) ∧
      (∀ b, o = .preempt → o.Ready x → NamesBlock x q.ctxarg b → (x.blocks.map fun b => (b.lord, b.blk)).Nodup → (s.cpu.groups.map Group.gid).Nodup →
        (∀ g ∈ s.cpu.groups, g.batches = []) →
        ∃ t, exec i s = .next t ∧ t.cpu.grp = Group.none ∧ t.others = s.others ∧ t.inputs = s.inputs ∧
          t.cpu.hw = { withStat h d q 0 n with log := t.cpu.hw.log } ∧ (h.tmarks = [] → t.cpu.hw.log = h.log) ∧
          (∀ r, s.cpu.record s.mem 1 = some r → r.mapped = false → canonical unwritten s.mem = true → ∀ a,
            (∀ g ∈ s.cpu.groups, g.lord = b.lord → g.blk = b.blk → ∀ k < 2 ^ 18, translate s.mem r (imageOff g + k) ≠ .at a) →
            (∀ role < b.n, ∀ k < b.share, a ≠ shareBase x b role + k) → memByte t.mem a = memByte s.mem a) ∧
          t.cpu.ctx = { x with
            xlatEvents := t.cpu.ctx.xlatEvents
            blocks := x.blocks.map fun c => if c.lord = b.lord ∧ c.blk = b.blk then { c with preempted := true } else c
            groups := s.cpu.groups.map fun g =>
              if g.gid / 2 ^ 40 = b.lord ∧ g.gid / 512 % 2 ^ 31 = b.blk ∧ g.status ≠ .exited ∧ g.status ≠ .absent then { g with preempted := true }
              else g }))

/-- R43, R250, R254, R260, R355, R369 (tier 2). CONTEXT_START: 4 for a number in use on the device partition, 6 for a domain that is no rectangle, 1 for a
descriptor that R250 refuses; the start that passes every check sets the context's registers from the descriptor and its groups at the first
program's entry with LC 0 and the registers of R43 and R260. The order in which the refusals are looked for is the model's choice (DESIGN
CHOICE, log 22). -/
def Obligations.ContextStart : Prop :=
  ∀ (m : Master) (d : BitVec 4) (cmd : Dword) (span : Bool) (q : Part) (w : List Word) (k : Nat) (s : State),
    let h := s.cpu.hw
    let n := cmd.toNat % 2 ^ 24
    let i := Instr.contextStart m d cmd span
    let pa := q.ctxarg.toNat
    let f := fun a c => memNat s.mem (pa + a) c
    let free := ∀ y ∈ s.contexts, ¬ (y.number.toNat = n ∧ y.dpart = d)
    let shape := span = true → domainOk h = true
    let x := describedCtx s d.toNat n pa span (cmdQuads cmd)
    h.parts[d.toNat]? = some q → h.own = ownCode m → h.err = 0 → d.toNat < 2 ^ h.dpcfg → h.stage = 5 → h.held = [] →
    (¬ free → Answers i d q 4 n s) ∧ (free → ¬ shape → Answers i d q 6 n s) ∧
    (free → shape → (namesMemory pa = false ∨ f 0 8 / 2 ^ 52 ≠ 0 ∨ f 0 8 / 32 % 128 ≠ 0 ∨ f 24 8 % 4096 ≠ 0 ∨ f 53 1 / 8 ≠ 0 ∨ f 56 8 ≠ 0 ∨
        f 52 1 ≠ 0 ∧ (f 52 1 < 12 ∨ 24 < f 52 1) ∨ f 0 8 % 32 = 0 ∨ 29 < f 54 1 ∨ f 16 8 % 64 < 16 ∨ 40 < f 16 8 % 64 ∨ f 55 1 = 0 ∨
        (partQuads h d.toNat).length < f 55 1) → Answers i d q 1 n s) ∧
    (free → shape → descriptorOk s d.toNat pa = true → firstRecord s x pa = none → Answers i d q 2 n s) ∧
    (free → shape → descriptorOk s d.toNat pa = true → firstRecord s x pa = some w → coresFor (lrecOf w) (f 54 1) = some k →
      (quadsOk s d.toNat n (f 55 1) (cmdQuads cmd) = false → Answers i d q 3 n s) ∧
      (quadsOk s d.toNat n (f 55 1) (cmdQuads cmd) = true →
        ∃ t, exec i s = .next t ∧ t.mem = s.mem ∧ t.inputs = s.inputs ∧ t.cpu.grp = Group.none ∧
          t.cpu.hw = { withStat h d q 0 n with farewells := h.farewells.filter fun e => e.ctx != x.key } ∧
          (∀ y, y ∈ t.others ↔ y ∈ s.contexts) ∧
          let y := t.cpu.ctx
          y.number.toNat = n ∧ y.dpart = d ∧ y.status = .running ∧ y.leg = 0 ∧ y.legq = (if f 52 1 = 0 then 16 else f 52 1) ∧
          y.seed.toNat = f 48 4 ∧ y.nondet.toNat = f 53 1 % 2 ∧ y.dq = f 54 1 ∧ y.objtb.toNat = f 0 8 ∧ y.tmplb.toNat = f 8 8 ∧
          y.ovlb.toNat = f 16 8 ∧ y.scrb.toNat = f 24 8 ∧ y.trapv0.toNat = f 32 8 ∧ y.dbg = (f 53 1).testBit 2 ∧ y.ncore8 = f 55 1 ∧
          y.quads = cmdQuads cmd ∧ y.span = span ∧ y.nextOrd = 1 ∧
          ∀ g ∈ y.groups, g.status = .running ∧ g.lc = 0 ∧ g.pc = (lrecOf w).entry ∧ g.trapv = y.trapv0 ∧ g.sketch = [] ∧ g.view = none ∧
            g.inWin = false ∧ g.fpflags = 0 ∧ g.md = 7 ∧ g.lanes = 0xFFFFFFFF ∧ g.joins = [] ∧ g.readK 0 = BitVec.ofNat 32 (lrecOf w).param.toNat ∧
            g.readK 1 = BitVec.ofNat 32 ((lrecOf w).param.toNat / 2 ^ 32) ∧ g.readK 9 = 0 ∧ g.readK 10 = BitVec.ofNat 32 (lrecOf w).g ∧
            (∀ r : BitVec 8, 11 ≤ r.toNat → r.toNat < 160 → g.readK r = 0) ∧ (∀ r < 7, g.readP r = 0 ∧ g.readQ r = false) ∧
            ∀ r : BitVec 8, r.toNat < 244 → g.readV r = Vector.replicate 32 0))

/-- R333, R335, R338, R340, R343, R345, R351 (tier 2). A packet with a sequence number: one for another module passes on, a hop further; a
duplicate is not applied again and is answered as R340 says; a number outside the window suspends R1 for its context; a fresh one is applied
once, and counts as received. A read request is answered with the line, a turn entry joins its queue, a write-through, a publication, a
reduction and a multicast line reach their home and are acknowledged; what a full overlay turns away is held and not acknowledged. A packet
of another leg than its context's, or of a context that has not started here, is held, so that no order of delivery moves it into another leg
or loses it (R2, R381). Of two write-throughs of a group the bytes of the one sent later stand (R381). How watching groups are noted,
what a multicast line that a record refuses reports, and how combined packets are listed is the model's choice (DESIGN CHOICE, logs 15, 17
and 18); so is the count of packets by leg (DESIGN CHOICE, log 14). -/
def Obligations.FabricReceipt : Prop :=
  ∀ (o : Pk) (p : Packet) (i : Instr) (s : State), o.Word p i → (o = .result → s.cpu.hw.held = [] ∧ p.typ = 5) →
    let h := s.cpu.hw
    let x := s.cpu.ctx
    let acked := fun t : State => t.cpu.hw = { h with
      outbox := h.outbox ++ [ackOf h p], windows := t.cpu.hw.windows, gotLog := h.gotLog ++ [⟨p.ctx, p.leg, p.src, p.seq⟩] } ∧ Noted h t.cpu.hw p
    let full := fun t : State => if x.status ≠ .running then t.cpu.ctx = x ∧ t.cpu.hw = { h with held := t.cpu.hw.held } ∧ p ∈ t.cpu.hw.held
      else t.cpu.ctx = { x with status := .suspended, imaged := false, ovlFull := true } ∧ t.cpu.hw = { h with log := h.log ++ [⟨sourceOf h 37, 37, 0, ctxId x, BitVec.ofNat 64 x.leg⟩], held := t.cpu.hw.held } ∧ p ∈ t.cpu.hw.held
    let kept := fun t : State => t.mem = s.mem ∧ t.cpu.grp = s.cpu.grp ∧ t.others = s.others ∧ t.inputs = s.inputs
    (p.dst ≠ h.number → ∃ t, exec i s = .next t ∧ HwOnly s t ∧ t.cpu.hw = { h with outbox := h.outbox ++ [{ p with hop := p.hop + 1 }] }) ∧
    (p.dst = h.number → RepeatedPk h p → ∃ t, exec i s = .next t ∧ HwOnly s t ∧ t.cpu.hw = { h with outbox := h.outbox ++ o.again h p }) ∧
    (p.dst = h.number → FreshPk h p → (∀ y ∈ s.contexts, y.key = p.ctx → y.leg % 65536 ≠ p.leg) →
      ∃ t, exec i s = .next t ∧ HwOnly s t ∧ t.cpu.hw = { h with held := t.cpu.hw.held } ∧ ∀ y, y ∈ t.cpu.hw.held ↔ y ∈ h.held ∨ y = p) ∧
    (p.dst = h.number → x.status ≠ .absent → x.key = p.ctx →
      (BeyondPk h p → ∃ t, exec i s = .next t ∧ R1Lost 35 4 (BitVec.ofNat 64 p.seq) s t) ∧
      (FreshPk h p → NoneSaved s → (∀ y ∈ s.contexts, y.key = p.ctx → y.leg % 65536 = p.leg) →
        (∀ line gid view use r, o = .read → p.body = .readReq line gid view use → s.cpu.record s.mem (vaObj line) = some r →
          ∃ t cells, exec i s = .next t ∧ kept t ∧ t.cpu.ctx = { x with ptags := t.cpu.ctx.ptags } ∧ Noted h t.cpu.hw p ∧
            (∀ q, q ∈ t.cpu.ctx.ptags ↔ q ∈ x.ptags ∨ use = .load ∧ (r.mode = 1 ∨ r.mode = 3) ∧ q = ⟨lineOf line, gid, false⟩) ∧
            cells.length = 128 ∧ (∀ k < 128, cells[k]? = some (line + k, match use with
              | .fetch => codeByteHere h x s.mem r (vaOff (line + k))
              | _ => homeByteFor p.src s.cpu s.mem r gid view (line + k))) ∧
            let a : Packet := ⟨1, h.number, p.src, nextSeq h p.src, p.leg % 65536, 0, p.ctx, .readResp p.seq line cells false⟩
            t.cpu.hw.dir.entries = h.dir.entries ∧
            (∀ y, y ∈ t.cpu.hw.dir.shared ↔ y ∈ h.dir.shared ∨ r.home = 3 ∧ r.host = none ∧ ∃ pa, framePa s.mem r (vaOff line) = some pa ∧
              y = (x.dpart.toNat, x.number.toNat, lineOf pa)) ∧
            t.cpu.hw = { h with
              seqs := t.cpu.hw.seqs, outbox := t.cpu.hw.outbox, windows := t.cpu.hw.windows, retry := h.retry ++ [a], dir := t.cpu.hw.dir
              results := h.results ++ [(p.src, p.seq, a)], sentLog := t.cpu.hw.sentLog, gotLog := t.cpu.hw.gotLog } ∧
            (inSendWindow h p.src (nextSeq h p.src) = true → t.cpu.hw.outbox = h.outbox ++ [a])) ∧
        (∀ line gid since, o = .read → p.body = .watch line gid since →
          ∃ t, exec i s = .next t ∧ kept t ∧ t.cpu.ctx = { x with watchers := x.watchers ++ [⟨p.src, gid, line, since⟩] } ∧ Noted h t.cpu.hw p) ∧
        (∀ st op, o = .turn → p.body = .turn st op →
          ∃ t, exec i s = .next t ∧ kept t ∧ Noted h t.cpu.hw p ∧
            t.cpu.hw = { h with windows := t.cpu.hw.windows, gotLog := h.gotLog ++ [⟨p.ctx, p.leg, p.src, p.seq⟩] } ∧
            t.cpu.ctx = { x with queue := x.queue ++ [⟨st, 64, .system, op, p.src, h.number, p.seq⟩] }) ∧
        (∀ gid cells nibs st, o = .write → p.body = .lineWrite gid (some st) cells nibs →
          ∃ t, exec i s = .next t ∧ kept t ∧ acked t ∧ t.cpu.ctx = { x with landings := x.landings ++ [⟨st, cells, nibs⟩] }) ∧
        (∀ gid cells nibs e r, o = .write → p.body = .lineWrite gid none cells nibs → cells.head? = some e →
          s.cpu.record s.mem (vaObj e.1) = some r → (r.mode = 1 ∨ r.mode = 3) → writeFull h s.mem x gid cells = false →
          ∃ t, exec i s = .next t ∧ kept t ∧ acked t ∧ TookWrite gid p.src p.seq cells x t.cpu.ctx) ∧
        (∀ gid cells e r ext mode perm, o = .multicast → p.body = .multicast gid cells ext mode perm → cells.head? = some e →
          s.cpu.record s.mem (vaObj e.1) = some r → (mode = 1 ∨ mode = 3) → r.ext = ext → r.mode = mode → r.perm = perm → r.home = 0 →
          writeFull h s.mem x gid cells = false → accessBlock s.mem r true (vaOff (lineOf e.1)) 128 = none →
          ∃ t, exec i s = .next t ∧ kept t ∧ acked t ∧ TookWrite gid p.src p.seq cells x t.cpu.ctx) ∧
        (∀ gid cells e ext mode perm, o = .multicast → p.body = .multicast gid cells ext mode perm → cells.head? = some e →
          (∀ r, s.cpu.record s.mem (vaObj e.1) = some r → ¬ (r.ext = ext ∧ r.mode = mode ∧ r.perm = perm ∧ r.home = 0)) →
          let code := Config.multicastCode.toNat
          ∃ t, exec i s = .next t ∧ kept t ∧ t.cpu.ctx = { x with r1off := true } ∧ Noted h t.cpu.hw p ∧ t.cpu.hw = { h with
            outbox := h.outbox ++ [ackOf h p], windows := t.cpu.hw.windows, gotLog := t.cpu.hw.gotLog
            events := h.events ++ [⟨sourceOf h 10, x.dpart.toNat, ctxId x, 10, 0, 0, BitVec.ofNat 64 (256 * 36 + code)⟩]
            log := h.log ++ [⟨sourceOf h 36, 36, code, ctxId x, BitVec.ofNat 64 (lineOf e.1)⟩] }) ∧
        (∀ st line cells, o = .publication → p.body = .publication st line cells false → overlayFull h s.mem x line = false →
          ∃ t, exec i s = .next t ∧ kept t ∧ acked t ∧ t.cpu.ctx = { x with
            versions := x.versions ++ [⟨st, p.src, none, cells⟩], marks := t.cpu.ctx.marks, ovlFull := false }) ∧
        (∀ st line cells, o = .publication → p.body = .publication st line cells true →
          ∃ t, exec i s = .next t ∧ kept t ∧ acked t ∧ t.cpu.ctx = { x with marks := t.cpu.ctx.marks } ∧
            ∀ k, k ∈ t.cpu.ctx.marks ↔ k ∈ x.marks ∨ ∃ e ∈ cells, k = ⟨e.1 - e.1 % 4, 1, 0, none, st.gid, p.src⟩) ∧
        (∀ k, o = .reduction → p.body = .reduction k → noAccumulator h s.mem x k = false →
          ∃ t, exec i s = .next t ∧ kept t ∧ acked t ∧ t.cpu.ctx = { x with reds := x.reds ++ [k], marks := t.cpu.ctx.marks, ovlFull := false }) ∧
        (∀ parts via cs, o = .combined → p.body = .combined parts via cs → parts.length = cs.length → parts.Nodup → parts ≠ [] →
          (∀ a ∈ parts, a.2 < 65536 ∧ WindowOk (windowOf h a.1) ∧ FreshPk h { p with src := a.1, seq := a.2 }) →
          (∀ a k b, cs = a ++ k :: b → noAccumulator h s.mem { x with reds := x.reds ++ a } k = false) →
          ∃ t, exec i s = .next t ∧ kept t ∧
            t.cpu.hw = { h with outbox := h.outbox ++ [ackOf h p], windows := t.cpu.hw.windows, gotLog := t.cpu.hw.gotLog } ∧
            t.cpu.ctx = { x with reds := x.reds ++ cs, marks := t.cpu.ctx.marks, ovlFull := false }) ∧
        (x.ovlFull = false →
          (∃ st line cells, o = .publication ∧ p.body = .publication st line cells false ∧ overlayFull h s.mem x line = true) ∨
          (∃ k, o = .reduction ∧ p.body = .reduction k ∧ noAccumulator h s.mem x k = true) ∨
          (∃ gid cells nibs, o = .write ∧ p.body = .lineWrite gid none cells nibs ∧ writeFull h s.mem x gid cells = true) →
          ∃ t, exec i s = .next t ∧ kept t ∧ full t)))

/-- R259, R333, R335, R338, R340, R344 to R346, R348, R352 (tier 2). Answers and control packets: a read response ends the wait of its load,
a turn result lets its group go on with the value, an acknowledgement frees the retry buffer and lets a `fence.sys` retire, an agreement
replaces what its module said before, and one that is heard for the first time is answered with what this module last said; a reserved type
suspends R1. The router combines passing reductions, at most 16, and passes one on when its table is full; an aged entry of a
write-combining buffer is sent to its home for its own context and leg. Wake packets, what agreements carry and how combined packets list
theirs are the model's form of R87, R346 and R345 (DESIGN CHOICE, logs 14, 15 and 18). -/
def Obligations.FabricAnswers : Prop :=
  ∀ (p : Packet) (s : State),
    let h := s.cpu.hw
    let x := s.cpu.ctx
    let g := s.cpu.grp
    (∀ i, i = .acknowledgement p ∨ i = .failureNotice p ∨ i = .legEndAgreement p → p.dst ≠ h.number →
      ∃ t, exec i s = .next t ∧ HwOnly s t ∧ t.cpu.hw = { h with outbox := h.outbox ++ [{ p with hop := p.hop + 1 }] }) ∧
    (x.status ≠ .absent → x.key = p.ctx → ∃ t, exec (.reservedPacketType p) s = .next t ∧ R1Lost 35 4 (BitVec.ofNat 64 p.seq) s t) ∧
    (p.dst = h.number → x.status ≠ .absent → x.key = p.ctx → NoneSaved s →
      (FreshPk h p → (∀ y ∈ s.contexts, y.key = p.ctx → y.leg % 65536 = p.leg) →
        (∀ n line cells lost line' view use q, p.body = .readResp n line cells lost → g.status = .remote [(n, p.src)] →
          h.retry.find? (fun q => q.dst == p.src && q.seq == n) = some q → q.body = .readReq line' g.gid view use →
          ∃ t, exec (.readResponse p) s = .next t ∧ t.mem = s.mem ∧ Settled p.src n t.cpu.hw ∧ ackOf h p ∈ t.cpu.hw.outbox ∧
            t.cpu.grp = { g with status := .running, fills := put g.fills line (if lost then none else some cells) }) ∧
        (h.held = [] →
        (∀ n val ok e w op c a wd sg sr k, p.body = .result n g.gid val ok → x.queue.find? (fun e => e.home == p.src && e.stamp.gid == g.gid) = some e →
          e.op = .atomic op c a wd sg sr k → (op = .waita → ok = true) → g.status = .turn w → Takes g w →
          ∃ t, exec (.turnResult p) s = .next t ∧ t.mem = s.mem ∧ Settled p.src n t.cpu.hw ∧ ackOf h p ∈ t.cpu.hw.outbox ∧
            t.cpu.ctx.queue = x.queue.filter (fun f => f != e) ∧ GoesOn w val.toNat g t.cpu.grp) ∧
        (∀ n val ok e r k, p.body = .result n g.gid val ok → x.queue.find? (fun e => e.home == p.src && e.stamp.gid == g.gid) = some e →
          e.op = .launch r → coresFor (lrecOf r) x.dq = some k → val.toNat < 2 ^ 24 →
          ∃ t, exec (.turnResult p) s = .next t ∧ t.mem = s.mem ∧ Settled p.src n t.cpu.hw ∧
            t.cpu.ctx.launches = x.launches ++ [⟨val.toNat, r, x.leg, 0, 1, k, false⟩] ∧ t.cpu.ctx.nextOrd = max x.nextOrd (val.toNat + 1)) ∧
        (∀ st w sc a, p.body = .wake g.gid (lineOf a) g.lc st → g.status = .ceded w (.line sc a) none → sc ≠ .block →
          ∃ t, exec (.turnResult p) s = .next t ∧ t.mem = s.mem ∧ t.cpu.grp = { g with status := .ceded w (.line sc a) (some st) } ∧
            ackOf h p ∈ t.cpu.hw.outbox) ∧
        (∀ st w line since, p.body = .wake g.gid line since st → g.status = .ceded w (.line .system line) none → line % 128 = 0 → since ≠ g.lc →
          ∃ t, exec (.turnResult p) s = .next t ∧ t.mem = s.mem ∧ t.cpu.grp = g ∧ ackOf h p ∈ t.cpu.hw.outbox) ∧
        (∀ st w line, p.body = .wake g.gid line g.lc st → g.status = .turn w → p.typ = 5 →
          ∃ t, exec (.turnResult p) s = .next t ∧ StepOf { s with cpu := { s.cpu with hw := { h with held := [p] } } } t ∧ t.cpu.ctx = x) ∧
        (∀ st lines w sc a, p.body = .performed st lines → g.status = .ceded w (.line sc a) none → sc ≠ .block → lineOf a ∈ lines →
          ∃ t, exec (.turnResult p) s = .next t ∧ t.mem = s.mem ∧ t.cpu.grp = { g with status := .ceded w (.line sc a) (some st) } ∧
            ackOf h p ∈ t.cpu.hw.outbox))) ∧
      (∀ n, p.body = .ack [n] →
        ∃ t, exec (.acknowledgement p) s = .next t ∧ t.mem = s.mem ∧ Settled p.src n t.cpu.hw ∧ t.cpu.hw.windows = h.windows ∧
          (g.status = .fence → (∀ q ∈ h.retry, q.ctx = x.key → g.gid ∈ packetGids q.body → q.dst = p.src ∧ q.seq = n) →
            t.cpu.grp = { g with pc := g.pc + 4, lc := g.lc + 16, cmask := 0, status := .running })) ∧
      (∀ w, p.body = .agree w →
        ∃ t, exec (.legEndAgreement p) s = .next t ∧ StepOf { s with cpu := { s.cpu with hw := { h with outbox := t.cpu.hw.outbox } } } t ∧
          t.cpu.ctx = { x with peers := t.cpu.ctx.peers } ∧
          (x.said = none ∨ (∀ y ∈ x.peers, y.module = p.src → y.serial ≠ 0) → t.cpu.hw.outbox = h.outbox) ∧
          (∀ r y, x.said = some r → x.peers.find? (fun y => y.module == p.src) = some y → y.serial = 0 → y.lost = false →
            (⟨11, h.number, p.src, 0, r.leg % 65536, 0, x.key, .agree r⟩ : Packet) ∈ t.cpu.hw.outbox) ∧
          let q : Peer := ⟨w, p.src, false⟩
          let older := fun a b : Report => a.leg < b.leg ∨ a.leg = b.leg ∧ (a.phase < b.phase ∨ a.phase = b.phase ∧ a.serial < b.serial)
          ((∀ y ∈ x.peers, y.module ≠ p.src) → t.cpu.ctx.peers = x.peers ++ [q]) ∧
          ∀ r, x.peers.find? (fun y => y.module == p.src) = some r →
            (older w r.toReport → t.cpu.ctx.peers = x.peers) ∧
            (¬ older w r.toReport →
              ∀ y, y ∈ t.cpu.ctx.peers ↔ y ∈ x.peers ∧ y.module ≠ p.src ∨ y = { q with found := w.found.or r.found, lost := r.lost }))) ∧
    (∀ k, p.dst ≠ h.number → p.body = .reduction k →
      let agrees := fun e : Combine => e.dst == p.dst && e.line == lineOf k.addr && e.leg == p.leg && e.op == k.op && e.ety == k.ety && e.ctx == p.ctx
      ∃ t, exec (.routerCombine p) s = .next t ∧ HwOnly s t ∧
        (∀ e, h.combining.find? agrees = some e →
          let e' := { e with parts := e.parts ++ [(p.src, p.seq)], cs := e.cs ++ [k] }
          (e.parts.length < 15 → t.cpu.hw = { h with combining := h.combining.map fun y => if y = e then e' else y }) ∧
          (e.parts.length = 15 → e' ∉ t.cpu.hw.combining ∧
            t.cpu.hw.retry = h.retry ++ [⟨7, h.number, e.dst, nextSeq h e.dst, e.leg % 65536, 0, e.ctx, .combined e'.parts e'.via e'.cs⟩])) ∧
        (h.combining.find? agrees = none →
          (h.combining.length < 1024 → t.cpu.hw = { h with
            combining := h.combining ++ [⟨p.dst, lineOf k.addr, p.leg, k.op, k.ety, p.ctx, [(p.src, p.seq)], [], [k]⟩] }) ∧
          (1024 ≤ h.combining.length → t.cpu.hw = { h with outbox := h.outbox ++ [{ p with hop := p.hop + 1 }] }))) ∧
    (∀ parts via k cs, p.dst ≠ h.number → p.body = .combined parts via (k :: cs) → parts.length < 16 →
      (∀ e ∈ h.combining, ¬ (e.dst = p.dst ∧ e.line = lineOf k.addr ∧ e.leg = p.leg ∧ e.op = k.op ∧ e.ety = k.ety ∧ e.ctx = p.ctx)) →
      h.combining.length < 1024 → ∃ t, exec (.routerCombine p) s = .next t ∧ HwOnly s t ∧ t.cpu.hw = { h with
        combining := h.combining ++ [⟨p.dst, lineOf k.addr, p.leg, k.op, k.ety, p.ctx, parts, via ++ [(p.src, p.seq)], k :: cs⟩] }) ∧
    (∀ n e, h.wcb[n]? = some e → x.status ≠ .absent → x.key = e.ctx →
      ∃ t, exec (.writeCombiningTimer n) s = .next t ∧ HwOnly s t ∧
        let a : Packet := ⟨2, h.number, e.module, nextSeq h e.module, e.leg % 65536, 0, e.ctx, .lineWrite e.gid none e.cells []⟩
        t.cpu.hw = { h with
          wcb := h.wcb.filter (fun y => y != e), retry := h.retry ++ [a], seqs := t.cpu.hw.seqs, outbox := t.cpu.hw.outbox
          sentLog := t.cpu.hw.sentLog } ∧
        (inSendWindow h e.module (nextSeq h e.module) = true → a ∈ t.cpu.hw.outbox))

/-- R320 to R330, R336, R337, R339 (tier 2). Links, rings and stations. A flit with a bad CRC is counted and sent again, 16 failures in a row
or silence fail the link; a router that fails declares all its links failed; a notice makes the source send again by the new route, or over a
second link. A source takes the ring with the shorter way, clockwise at four hops. On a ring a packet that is partly past a stop has its
link; else the header of one that finds room goes on, one already on the ring before an injection and the oldest first; at its stop an
endpoint takes the flits of the oldest. Stations and gateways forward in FIFO order within their room, and no packet is lost or doubled.
Rings are stepped by clocks of one link, and packets pass between rings and stations whole (DESIGN CHOICE, log 19). -/
def Obligations.LinksAndRings : Prop :=
  ∀ (port : BitVec 4) (q : Port) (ring stop : Nat) (slice : Bool) (offer : Option NetPacket) (p : Packet) (s : State),
    let h := s.cpu.hw
    let h0 := withOffer s ring stop offer
    let up := ring % 2 == 0
    (h.ports[port.toNat]? = some q →
      (∀ ok, q.st ≠ 1 → exec (.flitReceive port ok) s = .next s) ∧
      (q.st = 1 → ∃ t, exec (.flitReceive port true) s = .next t ∧ HwOnly s t ∧
        t.cpu.hw = { h with ports := h.ports.setIfInBounds port.toNat { q with bad := 0 } }) ∧
      (q.st = 1 → q.bad ≠ 16 → ∃ t, exec (.flitReceive port false) s = .next t ∧ HwOnly s t ∧
        t.cpu.hw = { h with ports := h.ports.setIfInBounds port.toNat { q with bad := q.bad + 1, nrep := min 255 (q.nrep + 1) } }) ∧
      (q.st = 1 → q.bad = 16 → ∃ t, exec (.flitReceive port false) s = .next t ∧ LinkFails port.toNat q s t) ∧
      (q.st = 1 → ∃ t, exec (.linkSilenceTimeout port) s = .next t ∧ LinkFails port.toNat q s t) ∧
      (∃ t, exec (.linkTrained port) s = .next t ∧ HwOnly s t ∧
        t.cpu.hw = { h with
          failed := t.cpu.hw.failed
          ports := h.ports.setIfInBounds port.toNat { q with trained := true, st := if q.st = 0 then 1 else q.st } } ∧
        (q.st ≠ 0 → t.cpu.hw.failed = h.failed) ∧
        (q.st = 0 → ∀ l, l ∈ t.cpu.hw.failed ↔ l ∈ h.failed ∧ l ≠ (min h.number q.peer, max h.number q.peer))) ∧
      (∃ t, exec .routerFailure s = .next t ∧ (NoneSaved s → t.mem = s.mem) ∧ ∃ q', t.cpu.hw.ports[port.toNat]? = some q' ∧ q'.peer = q.peer ∧
        q'.st = if q.st = 1 then 2 else q.st)) ∧
    (∀ a b joined, p.dst = h.number → p.body = .failure a b joined → (min a b, max a b) ∉ h.failed →
      let two := joined = true ∨ h.number = a ∧ 2 ≤ portsUp h.ports b ∨ h.number = b ∧ 2 ≤ portsUp h.ports a
      ∃ t, exec (.failureNotice p) s = .next t ∧ (NoneSaved s → t.mem = s.mem) ∧ Resent (min a b, max a b) two s t ∧
        (two → t.cpu.hw.failed = h.failed) ∧ (¬ two → (min a b, max a b) ∈ t.cpu.hw.failed)) ∧
    (∀ die quad pair src dst, src < 8 → dst < 8 → pair < 2 →
      let r := ringFor [] die quad pair src dst
      let hops := if r % 2 = 0 then (dst + 8 - src) % 8 else (src + 8 - dst) % 8
      r / 2 = 2 * (4 * die + quad) + pair ∧ hops ≤ 4 ∧ (hops = 4 → r % 2 = 0)) ∧
    (ring < 64 → CoreTakes h0 ring stop → ∃ t u v, exec (.packetEject ring ⟨stop, false⟩) { s with cpu := { s.cpu with hw := { h0 with promised := [] } } } = .next t ∧
      exec (.ringHop ring ⟨stop, none⟩) t = .next u ∧ exec (.ringHop ring ⟨stop, offer⟩) s = .next v ∧ v = u.withPromised v.cpu.hw.promised ∧
      ∀ c, promisedTo v.cpu.hw c = promisedTo h0 c - if c = .core (ringDie ring) (ringQuad ring) stop then 1 else 0) ∧
    (ring < 64 → ¬ CoreTakes h0 ring stop → ∃ t, exec (.ringHop ring ⟨stop, offer⟩) s = .next t ∧ HwOnly s t ∧ (netPackets t.cpu.hw).Perm (netPackets h0) ∧
      let past := fun k : RingPacket => k ∈ h0.rings ∧ k.ring = ring ∧ ∃ y ∈ k.stays.drop 1, y.stop = stop
      ((∃ k, past k) → ∃ k pre a y post, past k ∧ k.stays = pre ++ a :: y :: post ∧ y.stop = stop ∧
        (∀ z ∈ (pre ++ [a]).drop 1, z.stop ≠ stop) ∧
        let flits := netFlits k.packet
        t.cpu.hw = { h0 with rings := h0.rings.map fun r => if r = k then { k with
          stays := if y.left < y.arrived then
              pre ++ { a with arrived := a.arrived + 1 } :: (if y.left + 1 = flits then post else { y with left := y.left + 1 } :: post)
            else k.stays } else r }) ∧
      ((∀ k, ¬ past k) → (∀ k, ¬ RingReady h0 ring stop k) → t.cpu.hw = h0) ∧
      ((∀ k, ¬ past k) → (∃ k, RingReady h0 ring stop k) → ∃ k y l r, RingReady h0 ring stop k ∧ k.stays = y :: l ∧
        (∀ z, RingReady h0 ring stop z → (waitsEntry k = true → waitsEntry z = true) ∧ (waitsEntry k = waitsEntry z → headAge z ≤ headAge k)) ∧
        let n := if ring % 2 = 0 then (stop + 1) % 8 else (stop + 7) % 8
        let vc1 := y.vc1 || n == 0
        RoomOk (staysAt h0.rings ring n) (netFlits k.packet) vc1 r ∧
        t.cpu.hw = { h0 with
          rings := (h0.rings.erase k).map (fun z => if z.ring = ring then { z with
              stays := z.stays.map fun u => if u.stop = n then { u with age := u.age + 1 } else u } else z) ++
            [{ k with stays := ⟨n, vc1, r, 1, 0, 0⟩ :: if netFlits k.packet = 1 then l else { y with left := 1 } :: l }] })) ∧
    (∃ t, exec (.packetEject ring ⟨stop, slice⟩) s = .next t ∧ HwOnly s t ∧ (netPackets t.cpu.hw).Perm (netPackets h) ∧
      let here := fun y : RingPacket => y ∈ h.rings ∧ atEndpoint ring stop slice y = true
      ((∀ y, ¬ here y) → t.cpu.hw = h) ∧
      ((∃ y, here y) → ∃ k y l, here k ∧ (∀ z, here z → headAge z ≤ headAge k) ∧ k.stays = y :: l ∧
        (y.arrived ≤ y.left → t.cpu.hw = h) ∧
        (y.left < y.arrived → y.left + 1 = netFlits k.packet → t.cpu.hw = { h with rings := h.rings.erase k, ejected := h.ejected ++ [k.packet] }) ∧
        (y.left < y.arrived → y.left + 1 ≠ netFlits k.packet → t.cpu.hw = { h with
          rings := h.rings.map fun r => if r = k then { k with stays := { y with left := y.left + 1 } :: l } else r }))) ∧
    (let die := (ring - 64) / 2 % 4
     let h1 := withArrival s die stop up offer
     64 ≤ ring → ∃ t, exec (.ringHop ring ⟨stop, offer⟩) s = .next t ∧ HwOnly s t ∧ (netPackets t.cpu.hw).Perm (netPackets h1) ∧
      (MembersFit h → MembersFit t.cpu.hw) ∧
      (t.cpu.hw.departed = h1.departed ∨ ∃ i p, LeavesBy h1 die p i ∧ stop % 5 = 4 ∧ t.cpu.hw.departed = h1.departed ++ [(i, p)]) ∧
      ∀ k, h1.stations.find? (fun y => y.die == die && y.member == stop % 5 && y.up == up) = some k →
        (t.cpu.hw.stations = h1.stations.erase k ∨ ∃ z, t.cpu.hw.stations = h1.stations.erase k ++ [z] ∧ z.packet = k.packet) ∨
        t.cpu.hw.stations = h1.stations ∨
        ∃ z, t.cpu.hw.stations = h1.stations ++ [z] ∧ z.die = die ∧ z.member = stop % 5 ∧ z.up = up) ∧
    ∀ a b, a < 4 → b < 4 → a ≠ b → nextDie a b = b ∨ nextDie a b / 2 = a / 2 ∧ nextDie (nextDie a b) b = b

/-- R372, R373 (tier 2). Bring-up: power-on leaves nothing but what is built in and checks the firmware; a new image is taken only after a
failure; when the DRAM is trained the binding is built, each stop of a working quadrant with its own core where that passed; a failure stops
at its stage with ERR set. SHA-512, the measured bytes and SPDM answers are uninterpreted (DESIGN CHOICE, log 9), and so is which requests
open a session and what key one sets (DESIGN CHOICE, log 43); an IDE key is set only within a session. Memory after power-on reads 0 where
nothing has written it (DESIGN CHOICE, log 1), and DPCFG and the ports hold the values of DESIGN CHOICE, log 2: the model's choices. -/
def Obligations.BringUp : Prop :=
  ∀ (fw : FwImage) (r : TestResults) (req : List Byte) (s : State),
    let h := s.cpu.hw
    (∃ t, exec (.powerOn fw) s = .next t ∧ t.mem = [] ∧ t.contexts = [] ∧ t.inputs = s.inputs ∧
      ∃ k, Verified fw k t.cpu.hw ∧ k.number = h.number ∧ k.rows = h.rows ∧ k.cols = h.cols ∧ k.fuses = h.fuses ∧ k.minVersion = h.minVersion ∧
        k.own = 0 ∧ k.dpcfg = 0 ∧ k.session = false ∧ k.ideKeys = [] ∧ k.outbox = [] ∧ k.retry = [] ∧ k.working = [] ∧ k.measures = [] ∧
        ∀ (i : Nat) (q : Port), h.ports[i]? = some q → k.ports[i]? = some { q with nrep := 0, st := 0, bad := 0, trained := false }) ∧
    (∃ t, exec (.firmwareImageLoad fw) s = .next t ∧ HwOnly s t ∧ (h.err = 0 → t.cpu.hw = h) ∧ (h.err ≠ 0 → Verified fw h t.cpu.hw)) ∧
    (∃ t, exec (.dramTrainingComplete r) s = .next t ∧ HwOnly s t ∧
      let k := t.cpu.hw
      (h.stage ≠ 2 ∨ h.err ≠ 0 → k = h) ∧
      (h.stage = 2 → h.err = 0 → r.layers ≠ 0xFFFFFF → k = { h with err := 3 }) ∧
      (h.stage = 2 → h.err = 0 → r.layers = 0xFFFFFF →
        k.nq = k.working.length ∧ (k.working = [] → k.stage = 3 ∧ k.err = 4) ∧
        (k.working ≠ [] → k.stage = 5 ∧ k.err = 0 ∧ k.measures =
          [Config.romHash, Config.sha512 h.firmware, Config.sha512 (bindingBytes k), Config.sha512 (dpcfgBytes h.dpcfg)]) ∧
        (∀ d ∈ k.working, d < 16 ∧ ∀ i < 8, r.slices.getLsbD (8 * d + i) = true ∧ ∃ c, (⟨d, i, some c⟩ : StopBinding) ∈ k.binding) ∧
        (∀ b ∈ k.binding, b.quad ∈ k.working ∧ b.stop < 8 ∧
          if r.stopCores.getLsbD (8 * b.quad + b.stop) then b.core = some (8 * (b.quad % 4) + b.stop)
          else b.core = some (if b.quad % 4 < 2 then 32 else 33) ∧
            r.spares.getLsbD (2 * (b.quad / 4) + if b.quad % 4 < 2 then 0 else 1) = true) ∧
        (∀ b ∈ k.binding, ∀ c ∈ k.binding, b.core = c.core → b.quad / 4 = c.quad / 4 → b = c) ∧
        ∀ d < 16, (∀ i < 8, r.stopCores.getLsbD (8 * d + i) = true ∧ r.slices.getLsbD (8 * d + i) = true) →
          (∀ i < 4, r.rings.getLsbD (4 * d + i) = true) → d ∈ k.working)) ∧
    (∃ t, exec (.spdmRequest req) s = .next t ∧ HwOnly s t ∧ t.cpu.hw = { h with
      answers := h.answers ++ [Config.spdmAnswer req h.measures]
      session := Config.spdmOpens req h.session
      ideKeys := t.cpu.hw.ideKeys } ∧
      (h.session = false → t.cpu.hw.ideKeys = h.ideKeys) ∧ (h.session = true → t.cpu.hw.ideKeys = h.ideKeys ++ (Config.spdmKey req).toList))

/-- R34, R49, R54, R80 (tier 1). A step runs the decoded instruction: where the group in hand issues next and the bytes at its PC decode to
an instruction, the step is that instruction, after the fetch has left its translations in the directory of R284; where they hold a word
with a reserved bit set, it is the illegal-instruction trap; and an outside event that waits is run first (DESIGN CHOICE, logs 4 and 6). -/
def Obligations.StepRunsDecoded : Prop :=
  ∀ s : State,
    (IssuesNext s → s.cpu.grp.faults = [] → ∀ bytes, bytes.length = 4 ∨ bytes.length = 8 → Fetches s bytes →
      (∀ i rest, decode bytes = .ok (i, rest) →
        ∃ d, step s = exec i { s with cpu := { s.cpu with hw := { s.cpu.hw with dir := d } } }) ∧
      (∀ code w, decode bytes = .error (.reservedBit code w) →
        ∃ d, step s = .next { s with cpu := ({ s.cpu with hw := { s.cpu.hw with dir := d } } : Cpu).trapWith w none ⟨1, code, s.cpu.grp.pc, 0, 0, 0⟩ 0 })) ∧
    ∀ i rest, s.inputs = i :: rest → step s = exec i { s with inputs := rest }

/-- R6, R35, R51, R52 (tier 1). Words written out from the encodings of the spec decode to the instructions they stand for: one or more of
every family. -/
def Obligations.DecodeWords : Prop :=
  ∀ l ∈ ([
      (0x00030201#32, .add 3 2 1), (0x35000000#32, .unassignedFirstByte 0x35000000), (0x54050204#32, .fcvt 5 2 4),
      (0x78010100#32, .vote 1 1 0), (0x81_0D0D0B#32, .ksub 13 13 11), (0x8D0D0008#32, .kmovi 13 8), (0x8E120DF8#32, .kcmp 0x12 13 0xF8),
      (0xA5000004#32, .mkj 4), (0xA60A0003#32, .brv 10 3), (0xC203F8E8#32, .stsH 3 0xF8 0xE8), (0xE2050000#32, .mfence 5),
      (0xEC041406#32, .stmc 4 20 6), (0xF0000007#32, .trap 7), (0xF2000000#32, .rfe), (0xF3040004#32, .csrr 4 4), (0xF4001405#32, .csrw 20 5),
      (0xF51E2800#32, .launch 30 40), (0xF6001416#32, .objw 20 22), (0xF7000000#32, .objfence), (0xF80C0000#32, .tscrd 12),
      (0xF9000800#32, .icinv 8), (0xFA000001#32, .brkp 1), (0xFB000300#32, .halt 3),
      (0x54032006#32, .fcvt 3 0x20 6), (0x640C000C#32, .fex2 12 12), (0xB2050AFC#32, .ldW 5 0x0A 0xFC), (0xB7050AFC#32, .stW 5 0x0A 0xFC),
      (0xBA100803#32, .ldk 16 8 3), (0xC80648FC#32, .rfadd 6 0x48 0xFC), (0xD0014803#32, .axchg 1 0x48 3), (0xD2048E03#32, .aadd 4 0x8E 3),
      (0xD9008E07#32, .strel 0x8E 7), (0xDA008E07#32, .waita 0 0x8E 7), (0xDB000002#32, .bar 0 2), (0xDC03012C#32, .bara 3 300),
      (0xDD030000#32, .barw 3), (0xE1011400#32, .mmaz 1 20), (0xE3000003#32, .mwait 3), (0xE5080006#32, .accrd 8 0 6),
      (0xE601060C#32, .accwr 1 6 12), (0xE7000702#32, .accdrain 0 7 0 2), (0xE7020905#32, .accdrain 2 9 1 1), (0xE8000E10#32, .xfr 0 14 16),
      (0xE9000000#32, .xfrw), (0xEA050000#32, .xfrq 5), (0xEE050000#32, .fstat 5), (0xEF000500#32, .fclr 5),
      (0xF10A0032#32, .asrt 10 50)] : List (Word × Instr)),
    ∀ rest, decode (bytesOfWord l.1 ++ rest) = .ok (l.2, rest)

/-- R35, R49, R51, R53 (tier 3). Decode and encode agree: the words of every well-formed instruction decode to it with every operand, and
bytes that decode are those words; an instruction is one word, or two with a `lit`. -/
def Obligations.DecodeEncode : Prop :=
  (∀ (i : Instr) (rest : List Byte), wellFormed i = true → encode i ≠ [] → decode (encodeBytes i ++ rest) = .ok (i, rest)) ∧
  (∀ (bytes rest : List Byte) (i : Instr), decode bytes = .ok (i, rest) → bytes = encodeBytes i ++ rest ∧ encode i ≠ []) ∧
  ∀ i : Instr, (encode i).length = 2 ↔ ∃ l w, i = .lit l w

/-- R363, R365, R372 (tier 1). Reset: no context, no group, nothing waiting, memory with nothing listed in its canonical form, OWN 0 and no
device partition but one; PMON and WCTMR at their defaults of R368. The other registers hold the values of DESIGN CHOICE, log 2, the model's
choice. -/
def Obligations.ResetState : Prop :=
  let s := State.reset
  let h := s.cpu.hw
  canonical unwritten s.mem = true ∧ s.mem = [] ∧ s.contexts = [] ∧ s.inputs = [] ∧ s.cpu.grp.status = .absent ∧ s.cpu.ctx.status = .absent ∧
    h.own = 0 ∧ h.stage = 0 ∧ h.err = 0 ∧ h.nq = 0 ∧ h.dpcfg = 0 ∧ h.session = false ∧ netPackets h = [] ∧ h.outbox = [] ∧ h.retry = [] ∧ h.working = [] ∧ h.measures = [] ∧
    (∀ i < 16, ∃ q, h.parts[i]? = some q ∧ q.pmon = 24 ∧ q.wctmr = 8 ∧ q.frozen = false ∧ q.ctxstat = 0) ∧ ∀ i < 16, ∃ q, h.ports[i]? = some q ∧ q.st = 0

/-- R275, R281 (tier 3). Every step keeps memory in its canonical form: rising addresses, and no entry equal to what an unlisted byte reads
as, so that equal memories are equal data. -/
def Obligations.StepKeepsMemory : Prop :=
  ∀ s t : State, canonical unwritten s.mem = true → step s = .next t → canonical unwritten t.mem = true

/-- R275, R362 (tier 2). The machine never refuses, and it stops only for a host access to an address that names no memory and for a host
write to the translation aperture that is not aligned to its dword, of which the spec says nothing (DESIGN CHOICE, log 67): no instruction word
and no step of an agent of the module ends a run. -/
def Obligations.NeverStops : Prop :=
  ∀ (i : Instr) (s : State),
    (∀ r, exec i s ≠ .refused r) ∧
    (∀ f, exec i s = .fault f → ∃ pa, f = .hostAddress pa ∧
      ((i = .hostMemRead pa ∧ devicePa pa = false) ∨ (∃ cno cells, i = .hostMemWrite cno cells ∧ namesMemory pa = false) ∨
        ∃ val, i = .translationApertureWrite pa val ∧ (devicePa pa = false ∨ pa % 8 ≠ 0))) ∧
    (∀ r, step s ≠ .refused r) ∧ (s.inputs = [] → ∃ t, step s = .next t)

end
end

