-- ==== Sys2Proof/Laws/Memory.lean ====
section
/-! SUPPORT. The maps of `Machine/Store.lean`: what a write does to a read, and that every memory operation keeps the canonical form. -/

namespace Sys2Proof.Machine

variable {α : Type}

/-- Every key of a map is above a bound. -/
def above (b : Nat) (m : List (Nat × α)) : Prop := ∀ e ∈ m, b < e.1

theorem rising_cons_iff (a : Nat) (x : α) (m : List (Nat × α)) : rising ((a, x) :: m) = true ↔ above a m ∧ rising m = true := by
  induction m generalizing a x with
  | nil => simp [rising, above]
  | cons e m ih =>
    obtain ⟨b, y⟩ := e
    simp only [rising, Bool.and_eq_true, decide_eq_true_eq, above, List.mem_cons, forall_eq_or_imp]
    constructor
    · rintro ⟨h1, h2⟩
      refine ⟨⟨h1, fun e he => ?_⟩, h2⟩
      have := (ih b y).1 h2
      exact Nat.lt_trans h1 (this.1 e he)
    · rintro ⟨⟨h1, -⟩, h3⟩
      exact ⟨h1, h3⟩

theorem get?_of_above {m : List (Nat × α)} {a b : Nat} (h : above b m) (hab : a ≤ b) : get? m a = none := by
  induction m with
  | nil => rfl
  | cons e m ih =>
    obtain ⟨k, x⟩ := e
    have hk := h (k, x) (by simp)
    simp only [get?]
    rw [if_neg (by omega), if_pos (by omega)]

theorem mem_put {m : List (Nat × α)} {a : Nat} {y : α} {e : Nat × α} (h : e ∈ put m a y) : e = (a, y) ∨ e ∈ m := by
  induction m with
  | nil => simpa [put] using h
  | cons f m ih =>
    obtain ⟨k, x⟩ := f
    simp only [put] at h
    split at h
    · simpa using h
    · split at h
      · rcases List.mem_cons.1 h with h | h
        · exact .inl h
        · exact .inr (List.mem_cons_of_mem _ h)
      · rcases List.mem_cons.1 h with h | h
        · exact .inr (h ▸ List.mem_cons_self)
        · rcases ih h with h | h
          · exact .inl h
          · exact .inr (List.mem_cons_of_mem _ h)

theorem mem_of_mem_del {m : List (Nat × α)} {a : Nat} {e : Nat × α} (h : e ∈ del m a) : e ∈ m := by
  induction m with
  | nil => simp [del] at h
  | cons f m ih =>
    obtain ⟨k, x⟩ := f
    simp only [del] at h
    split at h
    · exact h
    · split at h
      · exact List.mem_cons_of_mem _ h
      · rcases List.mem_cons.1 h with h | h
        · exact h ▸ List.mem_cons_self
        · exact List.mem_cons_of_mem _ (ih h)

theorem rising_put {m : List (Nat × α)} (a : Nat) (y : α) (h : rising m = true) : rising (put m a y) = true := by
  induction m with
  | nil => rfl
  | cons f m ih =>
    obtain ⟨k, x⟩ := f
    have hk := (rising_cons_iff k x m).1 h
    simp only [put]
    split
    · rw [rising_cons_iff]
      refine ⟨fun e he => ?_, h⟩
      rcases List.mem_cons.1 he with rfl | he
      · assumption
      · have := hk.1 e he; omega
    · split
      · rename_i h2; subst h2
        exact (rising_cons_iff _ y m).2 hk
      · rw [rising_cons_iff]
        refine ⟨fun e he => ?_, ih hk.2⟩
        rcases mem_put he with rfl | he
        · show k < a; omega
        · exact hk.1 e he

theorem rising_del {m : List (Nat × α)} (a : Nat) (h : rising m = true) : rising (del m a) = true := by
  induction m with
  | nil => rfl
  | cons f m ih =>
    obtain ⟨k, x⟩ := f
    have hk := (rising_cons_iff k x m).1 h
    simp only [del]
    split
    · exact h
    · split
      · exact hk.2
      · rw [rising_cons_iff]
        exact ⟨fun e he => hk.1 e (mem_of_mem_del he), ih hk.2⟩

theorem get?_put_self (m : List (Nat × α)) (a : Nat) (y : α) : get? (put m a y) a = some y := by
  induction m with
  | nil => simp [put, get?]
  | cons f m ih =>
    obtain ⟨k, x⟩ := f
    simp only [put]
    split
    · simp [get?]
    · split
      · simp [get?]
      · simp only [get?]
        rw [if_neg (by omega), if_neg (by omega), ih]

theorem get?_put_ne {m : List (Nat × α)} {a b : Nat} (y : α) (h : b ≠ a) : get? (put m a y) b = get? m b := by
  induction m with
  | nil => simp only [put, get?]; rw [if_neg (by omega)]; split <;> rfl
  | cons f m ih =>
    obtain ⟨k, x⟩ := f
    simp only [put]
    split
    · simp only [get?]
      rw [if_neg (by omega)]
      split
      · rw [if_neg (by omega), if_pos (by omega)]
      · rfl
    · split
      · rename_i h2; subst h2
        have hk : ¬k = b := fun e => h e.symm
        simp only [get?, if_neg hk]
      · simp only [get?, ih]

theorem get?_del_self {m : List (Nat × α)} (a : Nat) (h : rising m = true) : get? (del m a) a = none := by
  induction m with
  | nil => rfl
  | cons f m ih =>
    obtain ⟨k, x⟩ := f
    have hk := (rising_cons_iff k x m).1 h
    simp only [del]
    split
    · simp only [get?]; rw [if_neg (by omega), if_pos (by omega)]
    · split
      · rename_i h2; subst h2
        exact get?_of_above hk.1 (Nat.le_refl _)
      · simp only [get?]
        rw [if_neg (by omega), if_neg (by omega), ih hk.2]

theorem get?_del_ne {m : List (Nat × α)} {a b : Nat} (h : rising m = true) (hb : b ≠ a) : get? (del m a) b = get? m b := by
  induction m with
  | nil => rfl
  | cons f m ih =>
    obtain ⟨k, x⟩ := f
    have hk := (rising_cons_iff k x m).1 h
    simp only [del]
    split
    · rfl
    · split
      · rename_i h2; subst h2
        simp only [get?]
        rw [if_neg (by omega)]
        split
        · exact get?_of_above hk.1 (by omega)
        · rfl
      · simp only [get?, ih hk.2]

variable [DecidableEq α]

theorem canonical_iff (d : α) (m : List (Nat × α)) : canonical d m = true ↔ rising m = true ∧ ∀ e ∈ m, e.2 ≠ d := by
  simp [canonical]

theorem canonical_wr (d : α) {m : List (Nat × α)} (a : Nat) (x : α) (h : canonical d m = true) : canonical d (wr d m a x) = true := by
  rw [canonical_iff] at h ⊢
  unfold wr
  split
  · exact ⟨rising_del a h.1, fun e he => h.2 e (mem_of_mem_del he)⟩
  · refine ⟨rising_put a x h.1, fun e he => ?_⟩
    rcases mem_put he with rfl | he
    · assumption
    · exact h.2 e he

theorem canonical_wrAll (d : α) (n : List (Nat × α)) {m : List (Nat × α)} (h : canonical d m = true) :
    canonical d (wrAll d m n) = true := by
  induction n generalizing m with
  | nil => exact h
  | cons e n ih => exact ih (canonical_wr d e.1 e.2 h)

theorem rd_wr_self (d : α) {m : List (Nat × α)} (a : Nat) (x : α) (h : canonical d m = true) : rd d (wr d m a x) a = x := by
  rw [canonical_iff] at h
  unfold rd wr
  split
  · rw [get?_del_self a h.1]; simp_all
  · rw [get?_put_self]; rfl

theorem rd_wr_ne (d : α) {m : List (Nat × α)} {a b : Nat} (x : α) (h : canonical d m = true) (hb : b ≠ a) :
    rd d (wr d m a x) b = rd d m b := by
  rw [canonical_iff] at h
  unfold rd wr
  split
  · rw [get?_del_ne h.1 hb]
  · rw [get?_put_ne x hb]

/-! ### Memory -/

theorem Memory.wf_put {m : Cells} (a : Nat) (x : Byte) (h : Memory.wf m = true) : Memory.wf (memPut m a x) = true :=
  canonical_wr unwritten a x h

theorem Memory.wf_wrAll (n : Cells) {m : Cells} (h : Memory.wf m = true) : Memory.wf (wrAll unwritten m n) = true :=
  canonical_wrAll unwritten n h

theorem Memory.wf_foldl {β : Type} (f : Cells → β → Cells) (hf : ∀ m b, Memory.wf m = true → Memory.wf (f m b) = true) (l : List β)
    {m : Cells} (h : Memory.wf m = true) : Memory.wf (l.foldl f m) = true := by
  induction l generalizing m with
  | nil => exact h
  | cons b l ih => exact ih (hf m b h)

theorem memByte_memPut_self {m : Cells} (a : Nat) (x : Byte) (h : Memory.wf m = true) : memByte (memPut m a x) a = x :=
  rd_wr_self unwritten a x h

theorem memByte_memPut_ne {m : Cells} {a b : Nat} (x : Byte) (h : Memory.wf m = true) (hb : b ≠ a) :
    memByte (memPut m a x) b = memByte m b :=
  rd_wr_ne unwritten x h hb

end Sys2Proof.Machine
end

