-- ==== Sys2Proof/Laws/Maps.lean ====
section
/-! SUPPORT. Maps put over maps, byte strings in them, and cells split by line (`Machine/Store.lean`). -/

namespace Sys2Proof.Machine

theorem mem_insertNew {α} [DecidableEq α] (l : List α) (x y : α) : y ∈ insertNew l x ↔ y ∈ l ∨ y = x := by
  unfold insertNew
  split
  · rename_i h; constructor
    · exact Or.inl
    · rintro (h | rfl) <;> assumption
  · simp

theorem mem_span (a n x : Nat) : x ∈ span a n ↔ a ≤ x ∧ x < a + n := by
  induction n generalizing a with
  | zero => simp [span]
  | succ n ih => simp only [span, List.mem_cons, ih]; omega

theorem lineOf_lineOf (a : Nat) : lineOf (lineOf a) = lineOf a := by unfold lineOf; omega

section
variable {α : Type}

theorem get?_putAll_of_not_key {n : List (Nat × α)} {b : Nat} (m : List (Nat × α)) (h : ∀ e ∈ n,
    e.1 ≠ b) : get? (putAll m n) b = get? m b := by
  induction n generalizing m with
  | nil => rfl
  | cons e n ih =>
    obtain ⟨k, x⟩ := e
    show get? (putAll (put m k x) n) b = _
    rw [ih _ fun e he => h e (List.mem_cons_of_mem _ he), get?_put_ne _ (fun h' => h (k, x) (by simp) h'.symm)]

theorem get?_putAll {n : List (Nat × α)} (m : List (Nat × α)) (b : Nat) (h : rising n = true) :
    get? (putAll m n) b = (get? n b).or (get? m b) := by
  induction n generalizing m with
  | nil => rfl
  | cons e n ih =>
    obtain ⟨k, x⟩ := e
    obtain ⟨h1, h2⟩ := (rising_cons_iff k x n).1 h
    show get? (putAll (put m k x) n) b = _
    by_cases hk : b = k
    · subst hk
      rw [get?_putAll_of_not_key _ (fun e he => by have := h1 e he; omega), get?_put_self]
      simp [get?]
    · rw [ih _ h2, get?_put_ne _ hk]
      simp only [get?]
      rw [if_neg (fun h' => hk h'.symm)]
      split
      · rename_i hb
        rw [get?_of_above h1 (by omega)]
      · rfl

theorem putAll_append (m n p : List (Nat × α)) : putAll m (n ++ p) = putAll (putAll m n) p := by
  induction n generalizing m with
  | nil => rfl
  | cons e n ih => exact ih _

theorem rising_putAll {m : List (Nat × α)} (n : List (Nat × α)) (h : rising m = true) : rising (putAll m n) = true := by
  induction n generalizing m with
  | nil => exact h
  | cons e n ih => exact ih (rising_put _ _ h)

theorem key_mem_put {m : List (Nat × α)} {a b : Nat} {y : α} (h : b ∈ m.map Prod.fst) : b ∈ (put m a y).map Prod.fst := by
  induction m with
  | nil => simp at h
  | cons f m ih =>
    obtain ⟨k, x⟩ := f
    simp only [put]
    simp only [List.map_cons, List.mem_cons] at h
    split
    · simp only [List.map_cons, List.mem_cons]; tauto
    · split
      · rename_i h2; subst h2; simp only [List.map_cons, List.mem_cons]; tauto
      · simp only [List.map_cons, List.mem_cons]
        rcases h with h | h
        · exact .inl h
        · exact .inr (ih h)

theorem get?_isSome_mem {m : List (Nat × α)} {a : Nat} {y : α} (h : get? m a = some y) : (a, y) ∈ m := by
  induction m with
  | nil => simp [get?] at h
  | cons f m ih =>
    obtain ⟨k, x⟩ := f
    simp only [get?] at h
    split at h
    · rename_i hk; subst hk; simp at h; simp [h]
    · split at h
      · simp at h
      · exact List.mem_cons_of_mem _ (ih h)

theorem get?_of_mem {m : List (Nat × α)} {a : Nat} {y : α} (hr : rising m = true) (h : (a, y) ∈ m) : get? m a = some y := by
  induction m with
  | nil => simp at h
  | cons f m ih =>
    obtain ⟨k, x⟩ := f
    obtain ⟨h1, h2⟩ := (rising_cons_iff k x m).1 hr
    simp only [get?]
    rcases List.mem_cons.1 h with h | h
    · simp only [Prod.mk.injEq] at h; simp [h]
    · have := h1 _ h
      rw [if_neg (by simp at this; omega), if_neg (by simp at this; omega), ih h2 h]

end

theorem get?_putAll_bytesAt (m : Cells) (a x n b : Nat) :
    get? (putAll m (bytesAt a x n)) b = if a ≤ b ∧ b < a + n then some (BitVec.ofNat 8 (x / 256 ^ (b - a))) else get? m b := by
  induction n generalizing m a x with
  | zero => simp [bytesAt, putAll]
  | succ n ih =>
    show get? (putAll (put m a _) (bytesAt (a+1) (x/256) n)) b = _
    rw [ih]
    by_cases h : b = a
    · subst h
      rw [if_neg (by omega), get?_put_self, if_pos (by omega)]; simp
    · rw [get?_put_ne _ h]
      by_cases h2 : a ≤ b ∧ b < a + (n + 1)
      · rw [if_pos h2, if_pos (by omega)]
        rw [show b - a = (b - (a + 1)) + 1 by omega, pow_succ', Nat.div_div_eq_div_mul]
      · rw [if_neg h2, if_neg (by omega)]

/-- A number read little-endian depends on its bytes alone. -/
theorem leNat_congr {f h : Nat → Byte} {a n : Nat} (hh : ∀ k < n, f (a + k) = h (a + k)) : leNat f a n = leNat h a n := by
  induction n generalizing a with
  | zero => rfl
  | succ n ih =>
    unfold leNat
    rw [show f a = h a from hh 0 (by omega), ih fun k hk => by rw [show a + 1 + k = a + (k + 1) by omega]; exact hh (k + 1) (by omega)]

/-! ### Cells split by line -/

theorem byLine_get (s : Cells) (hs : rising s = true) (a : Nat) :
    ((get? (byLine s) (lineOf a)).getD []) |> fun c => get? c a = get? s a := by
  induction s with
  | nil => rfl
  | cons e s ih =>
    obtain ⟨k, x⟩ := e
    obtain ⟨h1, h2⟩ := (rising_cons_iff k x s).1 hs
    have ih := ih h2
    simp only at ih
    simp only [byLine]
    by_cases hl : lineOf a = lineOf k
    · rw [hl, get?_put_self]
      simp only [Option.getD_some]
      by_cases hk : a = k
      · subst hk; rw [get?_put_self]; simp [get?]
      · rw [get?_put_ne _ hk, ← hl, ih]
        simp only [get?]; rw [if_neg (fun h => hk h.symm)]
        split
        · exact get?_of_above h1 (by omega)
        · rfl
    · rw [get?_put_ne _ hl, ih]
      have hk : a ≠ k := fun h => hl (by rw [h])
      simp only [get?]; rw [if_neg (fun h => hk h.symm)]
      split
      · exact get?_of_above h1 (by omega)
      · rfl

theorem rising_byLine (s : Cells) : rising (byLine s) = true := by
  induction s with
  | nil => rfl
  | cons e s ih => obtain ⟨k, x⟩ := e; exact rising_put _ _ ih

theorem get?_byLine_isSome (s : Cells) (l : Nat) : (get? (byLine s) l).isSome = true ↔ ∃ e ∈ s, lineOf e.1 = l := by
  induction s with
  | nil => simp [byLine, get?]
  | cons e s ih =>
    obtain ⟨k, x⟩ := e
    simp only [byLine, List.mem_cons, exists_eq_or_imp]
    by_cases h : l = lineOf k
    · subst h; simp [get?_put_self]
    · rw [get?_put_ne _ h, ih]; constructor
      · exact .inr
      · rintro (h' | h')
        · exact absurd h'.symm h
        · exact h'

/-- The entries of a split stand in their own lines, rising. -/
theorem byLine_lines (s : Cells) : ∀ l ∈ byLine s, rising l.2 = true ∧ ∀ e ∈ l.2, lineOf e.1 = l.1 := by
  induction s with
  | nil => simp [byLine]
  | cons e s ih =>
    obtain ⟨k, x⟩ := e
    intro l hl
    simp only [byLine] at hl
    rcases mem_put hl with h | h
    · subst h
      have h3 : rising ((get? (byLine s) (lineOf k)).getD []) = true ∧ ∀ e ∈ ((get? (byLine s) (lineOf k)).getD []),
          lineOf e.1 = lineOf k := by
        cases hg : get? (byLine s) (lineOf k) with
        | none => simp [rising]
        | some c => exact ih _ (get?_isSome_mem hg)
      refine ⟨rising_put _ _ h3.1, ?_⟩
      intro e he
      rcases mem_put he with h | h
      · rw [h]
      · exact h3.2 e h
    · exact ih l h

theorem byLine_mem_iff (s : Cells) (l : Nat) : l ∈ (byLine s).map Prod.fst ↔ ∃ e ∈ s, lineOf e.1 = l := by
  rw [← get?_byLine_isSome]
  constructor
  · intro h
    obtain ⟨⟨a, c⟩, h1, rfl⟩ := List.mem_map.1 h
    rw [get?_of_mem (rising_byLine s) h1]; rfl
  · intro h
    obtain ⟨c, hc⟩ := Option.isSome_iff_exists.1 h
    exact List.mem_map.2 ⟨_, get?_isSome_mem hc, rfl⟩

theorem rising_nodup {α : Type} {m : List (Nat × α)} (h : rising m = true) : (m.map Prod.fst).Nodup := by
  induction m with
  | nil => simp
  | cons e m ih =>
    obtain ⟨k, x⟩ := e
    obtain ⟨h1, h2⟩ := (rising_cons_iff k x m).1 h
    rw [List.map_cons, List.nodup_cons]
    refine ⟨fun hm => ?_, ih h2⟩
    obtain ⟨e, he, hk⟩ := List.mem_map.1 hm
    have := h1 e he
    simp at hk; omega

end Sys2Proof.Machine
end

