-- ==== Sys2Proof/Laws/Sketch.lean ====
section
/-! SUPPORT. The sketch after a store (R88), and the cells that the lanes of a store leave (R175). -/

namespace Sys2Proof.Machine

/-- Folding merges into a sketch, over lines of distinct names. -/
theorem sketchMerge_aux (l : List (Nat × Cells)) (sk : List (Nat × Cells)) (hn : (l.map Prod.fst).Nodup) (n : Nat) :
    get? (l.foldl (fun k e => put k e.1 (putAll ((get? k e.1).getD []) e.2)) sk) n =
      match l.find? fun e => e.1 == n with
      | some e => some (putAll ((get? sk n).getD []) e.2)
      | none => get? sk n := by
  induction l generalizing sk with
  | nil => rfl
  | cons e l ih =>
    rw [List.map_cons, List.nodup_cons] at hn
    rw [List.foldl_cons, ih _ hn.2]
    by_cases h : e.1 = n
    · subst h
      have : l.find? (fun f => f.1 == e.1) = none := by
        rw [List.find?_eq_none]; intro f hf; simp; intro h'
        exact hn.1 (h' ▸ List.mem_map_of_mem hf)
      rw [this, List.find?_cons_of_pos (by simp)]
      simp [get?_put_self]
    · rw [List.find?_cons_of_neg (by simpa using h)]
      rw [get?_put_ne _ (fun h' => h h'.symm)]

theorem find?_rising {α : Type} {m : List (Nat × α)} (h : rising m = true) (n : Nat) : (m.find? fun e => e.1 == n).map Prod.snd =
    get? m n := by
  cases hf : m.find? (fun e => e.1 == n) with
  | none =>
    cases hg : get? m n with
    | none => rfl
    | some y =>
      have := List.find?_eq_none.1 hf _ (get?_isSome_mem hg)
      simp at this
  | some e =>
    have h1 := List.mem_of_find?_eq_some hf
    have h2 := List.find?_some hf
    simp at h2
    obtain ⟨k, x⟩ := e
    simp at h2; subst h2
    rw [get?_of_mem h h1]; rfl

theorem sketchMerge_get (sk : List (Nat × Cells)) (s : Cells) (n : Nat) :
    get? (sketchMerge sk s) n = match get? (byLine s) n with
      | some c => some (putAll ((get? sk n).getD []) c)
      | none => get? sk n := by
  unfold sketchMerge
  rw [sketchMerge_aux _ _ (rising_nodup (rising_byLine s)), ← find?_rising (rising_byLine s)]
  cases (byLine s).find? fun e => e.1 == n <;> rfl

/-- What the sketch holds after a store: the stored bytes over what it held (R88). -/
theorem sketchByte_sketchMerge (sk : List (Nat × Cells)) (s : Cells) (hs : rising s = true) (a : Nat) :
    sketchByte (sketchMerge sk s) a = (get? s a).or (sketchByte sk a) := by
  unfold sketchByte
  rw [sketchMerge_get]
  have h := byLine_get s hs a
  simp only at h
  cases hb : get? (byLine s) (lineOf a) with
  | none =>
    rw [hb] at h
    simp only [Option.getD_none] at h
    rw [← h]; rfl
  | some c =>
    rw [hb] at h
    simp only [Option.getD_some] at h
    have hr := (byLine_lines s _ (get?_isSome_mem hb)).1
    show get? (putAll _ c) a = _
    rw [get?_putAll _ _ hr, h]
    cases get? sk (lineOf a) <;> rfl

/-- A split of cells, read as a sketch. -/
theorem sketchByte_byLine (s : Cells) (hs : rising s = true) (a : Nat) : sketchByte (byLine s) a = get? s a := by
  have h := byLine_get s hs a
  unfold sketchByte
  simp only at h
  rw [← h]
  cases get? (byLine s) (lineOf a) <;> rfl

/-! ### What the lanes of a store leave (R175) -/

theorem rising_storeCells (lanes : List Nat) (addr val : Nat → Nat) (size : Nat) : rising (storeCells lanes addr val size) = true := by
  unfold storeCells
  have : ∀ m : Cells, rising m = true → rising (lanes.foldl (fun s j => putAll s (bytesAt (addr j) (val j) size)) m) = true := by
    induction lanes with
    | nil => exact fun m h => h
    | cons j l ih => exact fun m h => ih _ (rising_putAll _ h)
  exact this [] rfl

theorem storeCells_aux (lanes : List Nat) (addr val : Nat → Nat) (size : Nat) (m : Cells) (hs : lanes.Pairwise (· < ·)) :
    (∀ j ∈ lanes, ∀ k < size, (∀ l ∈ lanes, j < l → ¬ (addr l ≤ addr j + k ∧ addr j + k < addr l + size)) →
      get? (lanes.foldl (fun s j => putAll s (bytesAt (addr j) (val j) size)) m) (addr j + k) = some (BitVec.ofNat 8 (val j / 256 ^ k))) ∧
    ∀ a, ¬ lanesBytes lanes addr size a → get? (lanes.foldl (fun s j => putAll s (bytesAt (addr j) (val j) size)) m) a = get? m a := by
  induction lanes generalizing m with
  | nil => simp
  | cons i l ih =>
    rw [List.pairwise_cons] at hs
    obtain ⟨h1, h2⟩ := ih (putAll m (bytesAt (addr i) (val i) size)) hs.2
    refine ⟨?_, ?_⟩
    · intro j hj k hk hno
      rw [List.foldl_cons]
      rcases List.mem_cons.1 hj with rfl | hj
      · rw [h2, get?_putAll_bytesAt, if_pos (by omega)]
        · simp
        · rintro ⟨q, hq, hqa⟩
          exact hno q (List.mem_cons_of_mem _ hq) (hs.1 q hq) hqa
      · exact h1 j hj k hk fun q hq hl => hno q (List.mem_cons_of_mem _ hq) hl
    · intro a ha
      rw [List.foldl_cons, h2 a (fun ⟨q, hq, hqa⟩ => ha ⟨q, List.mem_cons_of_mem _ hq, hqa⟩), get?_putAll_bytesAt, if_neg]
      exact fun h => ha ⟨i, by simp, h⟩

/-- The cells of a store, lanes rising: a byte holds what the highest lane that names it stores. -/
theorem storeCells_spec {lanes : List Nat} (addr val : Nat → Nat) (size : Nat) (hs : lanes.Pairwise (· < ·)) :
    StoredBytes some lanes addr val size (fun _ => none) (get? (storeCells lanes addr val size)) := by
  have h := storeCells_aux lanes addr val size [] hs
  exact ⟨h.1, fun a ha => (h.2 a ha).trans rfl⟩

/-- The addresses of a store's cells. -/
theorem storeCells_isSome {lanes : List Nat} (addr val : Nat → Nat) (size : Nat) (a : Nat) :
    (get? (storeCells lanes addr val size) a).isSome = true ↔ lanesBytes lanes addr size a := by
  unfold storeCells
  have : ∀ m : Cells, (get? (lanes.foldl (fun s j => putAll s (bytesAt (addr j) (val j) size)) m) a).isSome = true ↔
      lanesBytes lanes addr size a ∨ (get? m a).isSome = true := by
    induction lanes with
    | nil => simp [lanesBytes]
    | cons j l ih =>
      intro m
      rw [List.foldl_cons, ih, get?_putAll_bytesAt]
      unfold lanesBytes
      by_cases h : addr j ≤ a ∧ a < addr j + size
      · simp [h]
      · simp only [h, if_false, List.mem_cons, exists_eq_or_imp, false_or]
  rw [this []]; simp [get?]

theorem mem_storeCells {lanes : List Nat} (addr val : Nat → Nat) (size : Nat) (a : Nat) :
    (∃ e ∈ storeCells lanes addr val size, e.1 = a) ↔ lanesBytes lanes addr size a := by
  rw [← storeCells_isSome addr val size a]
  constructor
  · rintro ⟨⟨k, x⟩, he, rfl⟩; rw [get?_of_mem (rising_storeCells _ _ _ _) he]; rfl
  · intro h
    obtain ⟨y, hy⟩ := Option.isSome_iff_exists.1 h
    exact ⟨_, get?_isSome_mem hy, rfl⟩

/-- Reading through a store: what `or` makes of it. -/
theorem StoredBytes.over {lanes : List Nat} {addr val : Nat → Nat} {size : Nat} {α : Type} {f : Nat → Option α} {w : Byte →
    α} {old : Nat → α}
    (h : StoredBytes (fun b => some (w b)) lanes addr val size (fun _ => none) f) :
    StoredBytes w lanes addr val size old (fun a => (f a).getD (old a)) := by
  refine ⟨fun j hj k hk hno => ?_, fun a ha => ?_⟩
  · dsimp only; rw [h.1 j hj k hk hno]; rfl
  · dsimp only; rw [h.2 a ha]; rfl

end Sys2Proof.Machine
end

