-- ==== Sys2Proof/Laws/Access.lean ====
section
/-! SUPPORT. Accesses that pass the checks of R128 and that no sub-tile holds up (R281): their addresses, tags, marks,
    and the byte that is read
(R84, R100, R103). -/

namespace Sys2Proof.Machine

theorem mem_lanesOf (x : Word) (j : Nat) : j ∈ lanesOf x ↔ j < 32 ∧ x.getLsbD j = true := by simp [lanesOf]
theorem lanesOf_rising (x : Word) : (lanesOf x).Pairwise (· < ·) := List.Pairwise.filter _ (List.pairwise_lt_range)
theorem maskOf_bit (f : Nat → Bool) {j : Nat} (h : j < 32) : (maskOf f).getLsbD j = f j := by
  have key : ∀ n, ∀ x : Word, ((List.range n).foldl (fun (m : Word) (i : Nat) => if f i then m ||| ((1 : Word) <<< i) else m) x).getLsbD j =
      (x.getLsbD j || (decide (j < n) && f j)) := by
    intro n
    induction n with
    | zero => simp
    | succ n ih =>
      intro x
      rw [List.range_succ, List.foldl_append, List.foldl_cons, List.foldl_nil]
      have e : ∀ m : Word, (m ||| (1 : Word) <<< n).getLsbD j = (m.getLsbD j || decide (j = n)) := by
        intro m
        rw [BitVec.getLsbD_or, BitVec.getLsbD_shiftLeft]
        by_cases hj : j = n
        · subst hj; simp [h]
        · by_cases hl : j < n
          · simp [hl, hj]
          · have h1 : (1 : Word).getLsbD (j - n) = false := by
              rw [BitVec.getLsbD]; exact Nat.testBit_lt_two_pow (lt_of_lt_of_le (by norm_num : 1 < 2 ^ 1) (Nat.pow_le_pow_right
                  (by norm_num) (by omega)))
            rw [h1]; simp [hj]
      by_cases hf : f n = true
      · rw [if_pos hf, e, ih]
        by_cases hj : j = n
        · subst hj; simp [hf]
        · have : decide (j < n + 1) = decide (j < n) := by congr 1; exact propext (by omega)
          rw [this]; simp [hj]
      · rw [if_neg hf, ih]
        by_cases hj : j = n
        · subst hj; simp [hf]
        · have : decide (j < n + 1) = decide (j < n) := by congr 1; exact propext (by omega)
          rw [this]
  have := key 32 0
  unfold maskOf
  have e : (fun (m : Word) (j : Nat) => if f j = true then m ||| ((1 <<< j : Nat) : Word) else m) =
      fun (m : Word) (i : Nat) => if f i then m ||| ((1 : Word) <<< i) else m := by
    funext m i
    congr 2
  refine (congrArg (fun x : Word => x.getLsbD j) (congrArg (fun g => (List.range 32).foldl g 0) e)).trans ?_
  rw [this]; simp [h]

/-- An access that passes every check (R128). -/
theorem Reach.check {s : State} {kind : Access} {align size obj : Nat} {off : Int} (h : Reach s kind align size obj off) :
    checkAccess (s.cpu.record s.mem obj) s.cpu.grp.gid obj off align size kind = none := by
  obtain ⟨h1, r, h2, h3, h4, h5, h6, h7, h8⟩ := h
  unfold checkAccess
  rw [if_neg (by simpa using h1), h2]
  simp only [h5, h6, h7, if_false, Bool.not_true, Bool.false_eq_true]
  rw [if_neg]
  simp only [Bool.or_eq_true, decide_eq_true_eq]; omega

theorem Reach.record {s : State} {kind : Access} {align size obj : Nat} {off : Int} (h : Reach s kind align size obj off) :
    ∃ r, s.cpu.record s.mem obj = some r ∧ 0 ≤ off ∧ off + size ≤ r.ext ∧
        accessBlock s.mem r (waitsOnZero r kind) off.toNat size = none := by
  obtain ⟨h1, r, h2, h3, h4, h5, h6, h7, h8⟩ := h
  exact ⟨r, h2, h3, h4, h8⟩

theorem firstFailure_none {l : List (Nat × Nat × Option (Nat × Nat))} (h : ∀ x ∈ l, x.2.2 = none) : firstFailure l = none := by
  unfold firstFailure
  have : (l.filterMap fun x => x.2.2.map fun p : Nat × Nat => if p.1 = 3 then 64 else 16 * p.1 + p.2) = [] := by
    rw [List.filterMap_eq_nil_iff]; intro x hx; simp [h x hx]
  dsimp only
  rw [this]

/-- Every lane passes and none waits. -/
theorem sortLanes_pass {s : State} {obj size : Nat} {kind : Access} {lanes : List Nat} {offs : Nat → Int} (ho : obj ≠ 1)
    (hk : ∀ r, waitsOnZero r kind = (kind == Access.store && storesThrough r)) (h : ∀ j ∈ lanes, Reach s kind size size obj (offs j)) :
    sortLanes s.cpu s.mem (s.cpu.record s.mem obj) obj size kind lanes offs = ⟨none, lanes, []⟩ := by
  rcases lanes with _ | ⟨i, l⟩
  · simp [sortLanes, firstFailure]
  · obtain ⟨r, hr, -, -, -⟩ := (h i (by simp)).record
    generalize i :: l = lanes at h
    have hc : ∀ j ∈ lanes, checkAccess (some r) s.cpu.grp.gid obj (offs j) size size kind = none := by
      intro j hj; rw [← hr]; exact (h j hj).check
    have hb : ∀ j ∈ lanes, accessBlock s.mem r (kind == Access.store && storesThrough r) (offs j).toNat size = none := by
      intro j hj
      obtain ⟨r', h2, -, -, h8⟩ := (h j hj).record
      rw [hr] at h2; simp only [Option.some.injEq] at h2; subst h2
      rw [← hk r]; exact h8
    rw [hr]
    unfold sortLanes
    simp only [ho, decide_false, Bool.false_and, Bool.false_eq_true, if_false]
    have hpass : (lanes.filter fun j => (checkAccess (some r) s.cpu.grp.gid obj (offs j) size size kind).isNone) = lanes := by
      rw [List.filter_eq_self]; intro j hj; rw [hc j hj]; rfl
    rw [hpass]
    congr 1
    · apply firstFailure_none
      intro x hx
      obtain ⟨j, hj, rfl⟩ := List.mem_map.1 hx
      exact hc j hj
    · rw [List.filter_eq_self]; intro j hj; rw [hb j hj]; rfl
    · have : (lanes.filterMap fun j => (accessBlock s.mem r (kind ==
        Access.store && storesThrough r) (offs j).toNat size).map fun b => (vaOf obj (offs j), b)) = [] := by
        rw [List.filterMap_eq_nil_iff]; intro j hj; rw [hb j hj]; rfl
      rw [this]

/-- Every lane lies in the group's own image. -/
theorem sortLanes_own {s : State} {size : Nat} {kind : Access} {lanes : List Nat} {offs : Nat → Int}
    (h : ∀ j ∈ lanes, (s.cpu.record s.mem 1).isSome = true ∧ offs j % size = 0 ∧ ownImage s.cpu.grp (offs j) size = true) :
    sortLanes s.cpu s.mem (s.cpu.record s.mem 1) 1 size kind lanes offs = ⟨none, lanes, []⟩ := by
  unfold sortLanes
  dsimp only
  have hc : ∀ j ∈ lanes,
      (if (decide ((1 : Nat) = 1) && (s.cpu.record s.mem 1).isSome && decide (offs j % (size : Int) =
      0) && ownImage s.cpu.grp (offs j) size) = true then none
    else checkAccess (s.cpu.record s.mem 1) s.cpu.grp.gid 1 (offs j) size size kind) = none := by
    intro j hj
    obtain ⟨h1, h2, h3⟩ := h j hj
    rw [if_pos]; simp [h1, h2, h3]
  have hpass : (lanes.filter fun j => (if (decide ((1 : Nat) = 1) && (s.cpu.record s.mem 1).isSome && decide (offs j % (size : Int) =
      0) && ownImage s.cpu.grp (offs j) size) = true then none
    else checkAccess (s.cpu.record s.mem 1) s.cpu.grp.gid 1 (offs j) size size kind).isNone) = lanes := by
    rw [List.filter_eq_self]; intro j hj; rw [hc j hj]; rfl
  rw [hpass]
  congr 1
  · apply firstFailure_none
    intro x hx
    obtain ⟨j, hj, rfl⟩ := List.mem_map.1 hx
    exact hc j hj
  · cases s.cpu.record s.mem 1 <;> simp
  · cases s.cpu.record s.mem 1 <;> simp

/-- Addresses of an access that lies in its object. -/
theorem vaOf_toNat {obj : Nat} {off : Int} {size ext k : Nat} (ho : obj < 2 ^ 24) (h0 : 0 ≤ off) (h1 : off + size ≤ ext)
    (he : ext ≤ 2 ^ 40) (hk : k < size) :
    vaOf obj off + k = obj * 2 ^ 40 + (off.toNat + k) ∧ off.toNat + k < 2 ^ 40 := by
  obtain ⟨n, rfl⟩ := Int.eq_ofNat_of_zero_le h0
  have hn : n + size ≤ ext := by omega
  unfold vaOf wrapI
  constructor
  · have : (((n : Int) % 2 ^ 40).toNat) = n := by
      have : ((n : Int) % 2 ^ 40) = (n : Int) := Int.emod_eq_of_lt (by omega) (by omega)
      rw [this]; simp
    rw [Nat.mod_eq_of_lt ho]
    have h3 : ((n : Int) % ((2 ^ 40 : Nat) : Int)).toNat = n := by push_cast; exact this
    first | rw [this] | rw [h3]
    simp; omega
  · simp; omega

theorem vaObj_add {obj n : Nat} (h : n < 2 ^ 40) : vaObj (obj * 2 ^ 40 + n) = obj := by unfold vaObj; omega
theorem vaOff_add {obj n : Nat} (h : n < 2 ^ 40) : vaOff (obj * 2 ^ 40 + n) = n := by unfold vaOff; omega

/-- The common home of a host-homed object does not bear on its other fields. -/
theorem hostHome_ext (h : Module) (p : Bool) (r : Record) : (hostHome h p r).ext = r.ext := by unfold hostHome; split <;> rfl
theorem hostHome_obj (h : Module) (p : Bool) (r : Record) : (hostHome h p r).obj = r.obj := by unfold hostHome; split <;> rfl

/-- A valid record's extent. -/
theorem record_ext {c : Cpu} {m : Cells} {obj : Nat} {r : Record} (h : c.record m obj = some r) : r.ext ≤ 2 ^ 40 ∧ r.obj = obj := by
  obtain ⟨q, hq, rfl⟩ := Option.map_eq_some_iff.1 h
  rw [hostHome_ext, hostHome_obj]
  unfold recordOf at hq
  split at hq
  · simp at hq
  · dsimp only at hq
    split at hq
    · rename_i hv
      simp only [Option.some.injEq] at hq
      subst hq
      refine ⟨?_, rfl⟩
      unfold recordValid at hv
      simp only [Bool.and_eq_true, decide_eq_true_eq] at hv
      exact hv.1.1.1.1.1.1.1.1.1.1.2
    · simp at hq

theorem Reach.va {s : State} {kind : Access} {align size obj : Nat} {off : Int} (h : Reach s kind align size obj off)
    (ho : obj < 2 ^ 24) {k : Nat} (hk : k < size) :
    vaObj (vaOf obj off + k) = obj ∧ vaOff (vaOf obj off + k) = off.toNat + k := by
  obtain ⟨r, h2, h0, h1, -⟩ := h.record
  obtain ⟨h3, h4⟩ := vaOf_toNat ho h0 h1 (record_ext h2).1 hk
  rw [h3]; exact ⟨vaObj_add h4, vaOff_add h4⟩

theorem baseObj_lt (x : Dword) : baseObj x < 2 ^ 24 := by unfold baseObj; have := x.isLt; omega

/-! ### What an access does beside its bytes -/

/-- Record use is noted in the directory alone (R284). -/
theorem touchLines_eq (m : Cells) (c : Cpu) (r : Record) (offs : List Nat) :
    (touchLines m c r offs).grp = c.grp ∧ (touchLines m c r offs).ctx = c.ctx ∧ (touchLines m c r offs).hw = { c.hw with dir :=
        (touchLines m c r offs).hw.dir } :=
  ⟨rfl, rfl, rfl⟩

/-- A directory entry does not bear on the records, nor on where a byte is homed. -/
theorem recordOf_dir (h k : Module) (m : Cells) (t : Dword) (obj : Nat) (hr : k.rows = h.rows) (hc : k.cols = h.cols) :
    recordOf k m t obj = recordOf h m t obj := by
  unfold recordOf recordValid moduleCount; simp only [hr, hc]

/-- A number of memory depends on its bytes alone. -/
theorem memNat_congr {m k : Cells} : ∀ (n a : Nat), (∀ i < n, memByte m (a + i) = memByte k (a + i)) → memNat m a n = memNat k a n
  | 0, _, _ => rfl
  | n + 1, a, h => by
    have h0 : memByte m a = memByte k a := h 0 (by omega)
    have hs : memNat m (a + 1) n = memNat k (a + 1) n := memNat_congr n (a + 1) fun i hi => by
      rw [Nat.add_assoc, Nat.add_comm 1 i]
      exact h _ (Nat.succ_lt_succ hi)
    unfold memNat at hs ⊢
    unfold leNat
    rw [h0, hs]

/-- The fields of a record depend on its 128 bytes alone, and so does what makes it valid. -/
theorem recordFields_bytes (h : Module) {m k : Cells} {obj pa : Nat} (he : ∀ i < 128, memByte m (pa + i) = memByte k (pa + i)) :
    recordFields m obj pa = recordFields k obj pa ∧ ∀ r, recordValid h m pa r = recordValid h k pa r := by
  have hn : ∀ o n, o + n ≤ 128 → memNat m (pa + o) n = memNat k (pa + o) n := fun o n ho =>
    memNat_congr n _ fun i hi => by rw [Nat.add_assoc]; exact he _ (by omega)
  have h0 : memNat m pa 8 = memNat k pa 8 := hn 0 8 (by omega)
  have h1 := hn 100 8 (by omega)
  have hd : ((List.range 5).map fun i => memNat m (pa + 24 + 4 * i) 4) = (List.range 5).map fun i => memNat k (pa + 24 + 4 * i) 4 :=
    List.map_congr_left fun i hi => by
      have := List.mem_range.1 hi
      rw [Nat.add_assoc]
      exact hn _ _ (by omega)
  have hs : ((List.range 5).map fun i => signedOf 64 (memNat m (pa + 44 + 8 * i) 8)) =
      (List.range 5).map fun i => signedOf 64 (memNat k (pa + 44 + 8 * i) 8) :=
    List.map_congr_left fun i hi => by
      have := List.mem_range.1 hi
      rw [Nat.add_assoc, hn _ _ (by omega)]
  refine ⟨?_, fun r => ?_⟩
  · unfold recordFields
    rw [h0, h1, hn 8 8 (by omega), hn 16 8 (by omega), hn 84 8 (by omega), hn 92 8 (by omega)]
    simp only [hd, hs]
  · unfold recordValid
    rw [h0, h1, hn 108 20 (by omega)]

theorem recordOf_bytes (h : Module) {m k : Cells} {t : Dword} {obj : Nat}
    (he : ∀ i < 128, memByte m (recordPa t obj + i) = memByte k (recordPa t obj + i)) : recordOf h m t obj = recordOf h k t obj := by
  obtain ⟨hf, hv⟩ := recordFields_bytes h he (obj := obj)
  unfold recordOf
  simp only [hf, hv]

theorem homedAway_congr (h k : Module) (r : Record) (off : Nat) (hr : k.rows = h.rows) (hc : k.cols = h.cols) (hn : k.number = h.number) :
    homedAway k r off = homedAway h r off := by
  unfold homedAway homeModule moduleList; simp only [hr, hc, hn]

/-- Tags of a list of bytes (R104). -/
theorem tagLine_foldl (r : Record) (gid : Nat) (wrote : Bool) (l : List Nat) (x : Ctx) :
    let y := l.foldl (fun x a => tagLine x r gid wrote a) x
    y = { x with ptags := y.ptags } ∧ ∀ k, k ∈ y.ptags ↔ k ∈ x.ptags ∨ ((r.mode = 1 ∨ r.mode = 3) ∧ ∃ a ∈ l, k = ⟨lineOf a, gid,
        wrote⟩) := by
  induction l generalizing x with
  | nil => simp
  | cons a l ih =>
    obtain ⟨h1, h2⟩ := ih (tagLine x r gid wrote a)
    have hx : tagLine x r gid wrote a = { x with ptags := (tagLine x r gid wrote a).ptags } := by unfold tagLine; split <;> rfl
    have ht : ∀ k, k ∈ (tagLine x r gid wrote a).ptags ↔ k ∈ x.ptags ∨ ((r.mode = 1 ∨ r.mode = 3) ∧ k = ⟨lineOf a, gid, wrote⟩) := by
      intro k
      unfold tagLine
      split
      · rename_i hm; simp at hm; simp only [mem_insertNew, hm, true_and]
      · rename_i hm; simp at hm; simp [hm]
    refine ⟨?_, fun k => ?_⟩
    · rw [List.foldl_cons]; rw [hx] at h1 ⊢; exact h1
    · rw [List.foldl_cons, h2 k, ht]
      simp only [List.mem_cons, exists_eq_or_imp]; tauto

/-- Plain marks of a list of cells (R106). -/
theorem markPlain_spec (gid module : Nat) (l : Cells) (x : Ctx) :
    let y := markPlain x gid module l
    y = { x with marks := y.marks } ∧ ∀ k, k ∈ y.marks ↔ k ∈ x.marks ∨ ∃ e ∈ l, k = ⟨e.1 - e.1 % 4, 1, 0, none, gid, module⟩ := by
  unfold markPlain
  induction l generalizing x with
  | nil => simp
  | cons a l ih =>
    obtain ⟨h1, h2⟩ := ih (markWord x 1 0 none gid module a.1)
    refine ⟨h1, fun k => ?_⟩
    rw [List.foldl_cons, h2 k]
    simp only [markWord, mem_insertNew, List.mem_cons, exists_eq_or_imp]; tauto

theorem seenByte_eq {s : State} {r : Record} {x : Nat} (h : s.cpu.record s.mem (vaObj x) = some r) : seenByte s x =
    loadByte s.cpu s.mem r x := by
  unfold seenByte; rw [h]

/-- Nothing is asked of another module where every byte is present (R343). -/
theorem missingLines_nil {c : Cpu} {r : Record} {l : List Nat} (h : ∀ a ∈ l, homedAway c.hw r (vaOff a) = none ∨
    (get? c.grp.fills (lineOf a)).isSome = true ∨ (sketchByte c.grp.sketch a).isSome = true) : missingLines c r l = [] := by
  unfold missingLines
  have : ∀ acc : List Nat, l.foldl (fun l a =>
    if (homedAway c.hw r (vaOff a)).isSome && (get? c.grp.fills (lineOf a)).isNone && (sketchByte c.grp.sketch a).isNone
    then insertNew l (lineOf a) else l) acc = acc := by
    induction l with
    | nil => exact fun _ => rfl
    | cons a l ih =>
      intro acc
      rw [List.foldl_cons, if_neg, ih fun b hb => h b (List.mem_cons_of_mem _ hb)]
      rcases h a (by simp) with h | h | h
      · simp [h]
      · rw [Option.isSome_iff_ne_none] at h; simp [h]
      · rw [Option.isSome_iff_ne_none] at h; simp [h]
  exact this []

/-! ### Versions (R100) -/

/-- The newest version of a byte among those that a test admits; of two with one stamp the one that an operation wrote (R84, R375). -/
theorem newestByte_spec (ok : Version → Bool) (us : List Version) (a : Nat) :
    match newestByte ok us a with
    | none => ∀ u ∈ us, ok u = true → get? u.cells a = none
    | some (st, x) => ∃ w ∈ us, ok w = true ∧ w.stamp = st ∧ get? w.cells a = some x ∧
        ∀ u ∈ us, ok u = true → get? u.cells a ≠ none → Stamp.lt st u.stamp = false ∧ (u.stamp = st → w.ord.isSome = true ∨ u.ord.isSome = false) := by
  unfold newestByte
  suffices h : ∀ (us pre : List Version) (best : Option (Stamp × Byte)),
      (match best with
      | none => ∀ u ∈ pre, ok u = true → get? u.cells a = none
      | some (st, x) => ∃ w ∈ pre, ok w = true ∧ w.stamp = st ∧ get? w.cells a = some x ∧
          ∀ u ∈ pre, ok u = true → get? u.cells a ≠ none →
            Stamp.lt st u.stamp = false ∧ (u.stamp = st → w.ord.isSome = true ∨ u.ord.isSome = false)) →
      match us.foldl (fun best u =>
        match if ok u then get? u.cells a else none with
        | none => best
        | some x =>
          match best with
          | none => some (u.stamp, x)
          | some (s, y) => if Stamp.lt s u.stamp || (s == u.stamp && u.ord.isSome) then some (u.stamp, x) else some (s, y)) best with
      | none => ∀ u ∈ pre ++ us, ok u = true → get? u.cells a = none
      | some (st, x) => ∃ w ∈ pre ++ us, ok w = true ∧ w.stamp = st ∧ get? w.cells a = some x ∧
          ∀ u ∈ pre ++ us, ok u = true → get? u.cells a ≠ none →
            Stamp.lt st u.stamp = false ∧ (u.stamp = st → w.ord.isSome = true ∨ u.ord.isSome = false) by
    exact h us [] none (by simp)
  intro us
  induction us with
  | nil => intro pre best h; simpa using h
  | cons u us ih =>
    intro pre best h
    rw [List.foldl_cons]
    have e : pre ++ u :: us = (pre ++ [u]) ++ us := by simp
    rw [e]
    apply ih
    by_cases hu : ok u = true
    · simp only [hu, if_true]
      cases hg : get? u.cells a with
      | none =>
        simp only
        cases best with
        | none => intro v hv; simp at hv; rcases hv with hv | rfl; exact h v hv; exact fun _ => hg
        | some p =>
          obtain ⟨w, h1, h2, h3, h4, h5⟩ := h
          refine ⟨w, by simp [h1], h2, h3, h4, ?_⟩
          intro v hv; simp at hv; rcases hv with hv | rfl; exact h5 v hv; exact fun _ hx => absurd hg hx
      | some x =>
        simp only
        cases best with
        | none =>
          refine ⟨u, by simp, hu, rfl, hg, ?_⟩
          intro v hv; simp at hv
          rcases hv with hv | rfl
          · intro h1 h2; exact absurd (h v hv h1) h2
          · intro _ _; exact ⟨by simp [Stamp.lt], fun _ => by cases v.ord.isSome <;> simp⟩
        | some p =>
          obtain ⟨st, y⟩ := p
          obtain ⟨w, h1, h2, h3, h4, h5⟩ := h
          simp only
          by_cases hlt : (Stamp.lt st u.stamp || (st == u.stamp && u.ord.isSome)) = true
          · rw [if_pos hlt]
            refine ⟨u, by simp, hu, rfl, hg, ?_⟩
            intro v hv; simp at hv
            rcases hv with hv | rfl
            · intro k1 k2
              have k := h5 v hv k1 k2
              simp only [Bool.or_eq_true, Bool.and_eq_true, beq_iff_eq] at hlt
              rcases hlt with hlt | ⟨rfl, ho⟩
              · have k := k.1
                refine ⟨?_, fun e => ?_⟩
                · simp only [Stamp.lt, Bool.or_eq_true, Bool.and_eq_true, decide_eq_true_eq, beq_iff_eq, Bool.or_eq_false_iff,
                    decide_eq_false_iff_not, Bool.and_eq_false_iff, beq_eq_false_iff_ne, ne_eq] at k hlt ⊢
                  omega
                · rw [e, hlt] at k; cases k
              · exact ⟨k.1, fun _ => .inl ho⟩
            · intro _ _; exact ⟨by simp [Stamp.lt], fun _ => by cases v.ord.isSome <;> simp⟩
          · rw [if_neg hlt]
            refine ⟨w, by simp [h1], h2, h3, h4, ?_⟩
            intro v hv; simp at hv
            rcases hv with hv | rfl
            · exact h5 v hv
            · intro _ _
              simp only [Bool.or_eq_true, Bool.and_eq_true, beq_iff_eq, not_or, not_and, Bool.not_eq_true] at hlt
              exact ⟨hlt.1, fun e => .inr (hlt.2 e.symm)⟩
    · simp only [hu]
      cases best with
      | none => intro v hv; simp at hv; rcases hv with hv | rfl; exact h v hv; exact fun hx => absurd hx hu
      | some p =>
        obtain ⟨w, h1, h2, h3, h4, h5⟩ := h
        refine ⟨w, by simp [h1], h2, h3, h4, ?_⟩
        intro v hv; simp at hv; rcases hv with hv | rfl; exact h5 v hv; exact fun hx => absurd hx hu

/-- The versions that the group's own publications on their way stand for. -/
theorem mem_ownFlight (gid : Nat) (l : List Flying) (u : Version) : u ∈ ownFlight gid l ↔ ∃ st cs, .publication st cs ∈ l ∧ st.gid = gid ∧
    u = ⟨st, 0, none, cs⟩ := by
  induction l with
  | nil => simp [ownFlight]
  | cons f l ih =>
    cases f with
    | publication st cs =>
      simp only [ownFlight]
      split
      · rename_i h
        simp only [List.mem_cons, ih, Flying.publication.injEq]
        constructor
        · rintro (rfl | ⟨st', cs', h1, h2⟩)
          · exact ⟨st, cs, .inl ⟨rfl, rfl⟩, h, rfl⟩
          · exact ⟨st', cs', .inr h1, h2⟩
        · rintro ⟨st', cs', ⟨rfl, rfl⟩ | h1, h2, h3⟩
          · exact .inl h3
          · exact .inr ⟨st', cs', h1, h2, h3⟩
      · rename_i h
        simp only [List.mem_cons, ih, Flying.publication.injEq]
        constructor
        · rintro ⟨st', cs', h1, h2⟩; exact ⟨st', cs', .inr h1, h2⟩
        · rintro ⟨st', cs', ⟨rfl, rfl⟩ | h1, h2, h3⟩
          · exact absurd h2 h
          · exact ⟨st', cs', h1, h2, h3⟩
    | contribution c => simp only [ownFlight, ih, List.mem_cons, reduceCtorEq, false_or]

end Sys2Proof.Machine
end

