-- ==== Sys2Proof/Laws/State.lean ====
section
/-! SUPPORT. One lemma per field for the updates that the meanings are made of, so that no proof unfolds a record update. -/

namespace Sys2Proof.Machine

@[simp] theorem Group.retire_gid (g : Group) (w : Iss) : (g.retire w).gid = g.gid := rfl
@[simp] theorem Group.retire_core (g : Group) (w : Iss) : (g.retire w).core = g.core := rfl
@[simp] theorem Group.retire_part (g : Group) (w : Iss) : (g.retire w).part = g.part := rfl
@[simp] theorem Group.retire_slot (g : Group) (w : Iss) : (g.retire w).slot = g.slot := rfl
@[simp] theorem Group.retire_role (g : Group) (w : Iss) : (g.retire w).role = g.role := rfl
@[simp] theorem Group.retire_sys (g : Group) (w : Iss) : (g.retire w).sys = g.sys := rfl
@[simp] theorem Group.retire_pc (g : Group) (w : Iss) : (g.retire w).pc = g.pc + BitVec.ofNat 64 (issLen w) := rfl
@[simp] theorem Group.retire_lc (g : Group) (w : Iss) : (g.retire w).lc = g.lc + weight w.i := rfl
@[simp] theorem Group.retire_main (g : Group) (w : Iss) : (g.retire w).main = g.main := rfl
@[simp] theorem Group.retire_win (g : Group) (w : Iss) : (g.retire w).win = g.win := rfl
@[simp] theorem Group.retire_inWin (g : Group) (w : Iss) : (g.retire w).inWin = g.inWin := rfl
@[simp] theorem Group.retire_frame (g : Group) (w : Iss) : (g.retire w).frame = g.frame := rfl
@[simp] theorem Group.retire_cmask (g : Group) (w : Iss) : (g.retire w).cmask = 0 := rfl
@[simp] theorem Group.retire_view (g : Group) (w : Iss) : (g.retire w).view = g.view := rfl
@[simp] theorem Group.retire_sketch (g : Group) (w : Iss) : (g.retire w).sketch = g.sketch := rfl
@[simp] theorem Group.retire_fpflags (g : Group) (w : Iss) : (g.retire w).fpflags = g.fpflags := rfl
@[simp] theorem Group.retire_trapv (g : Group) (w : Iss) : (g.retire w).trapv = g.trapv := rfl
@[simp] theorem Group.retire_fstat (g : Group) (w : Iss) : (g.retire w).fstat = g.fstat := rfl
@[simp] theorem Group.retire_quota (g : Group) (w : Iss) : (g.retire w).quota = g.quota := rfl
@[simp] theorem Group.retire_bypass (g : Group) (w : Iss) : (g.retire w).bypass = g.bypass := rfl
@[simp] theorem Group.retire_nb (g : Group) (w : Iss) : (g.retire w).nb = g.nb := rfl
@[simp] theorem Group.retire_batches (g : Group) (w : Iss) : (g.retire w).batches = g.batches := rfl
@[simp] theorem Group.retire_baras (g : Group) (w : Iss) : (g.retire w).baras = g.baras := rfl
@[simp] theorem Group.retire_status (g : Group) (w : Iss) : (g.retire w).status = .running := rfl
@[simp] theorem Group.retire_faults (g : Group) (w : Iss) : (g.retire w).faults = g.faults := rfl
@[simp] theorem Group.retire_objws (g : Group) (w : Iss) : (g.retire w).objws = g.objws := rfl
@[simp] theorem Group.retire_sysCopies (g : Group) (w : Iss) : (g.retire w).sysCopies = g.sysCopies := rfl
@[simp] theorem Group.retire_landed (g : Group) (w : Iss) : (g.retire w).landed = g.landed := rfl
@[simp] theorem Group.retire_badSlots (g : Group) (w : Iss) : (g.retire w).badSlots = g.badSlots := rfl
@[simp] theorem Group.retire_fills (g : Group) (w : Iss) : (g.retire w).fills = [] := rfl
@[simp] theorem Group.retire_bulk (g : Group) (w : Iss) : (g.retire w).bulk = false := rfl
@[simp] theorem Group.retire_preempted (g : Group) (w : Iss) : (g.retire w).preempted = g.preempted := rfl
@[simp] theorem Group.retireTo_gid (g : Group) (w : Iss) (pc : Dword) : (g.retireTo w pc).gid = g.gid := rfl
@[simp] theorem Group.retireTo_core (g : Group) (w : Iss) (pc : Dword) : (g.retireTo w pc).core = g.core := rfl
@[simp] theorem Group.retireTo_part (g : Group) (w : Iss) (pc : Dword) : (g.retireTo w pc).part = g.part := rfl
@[simp] theorem Group.retireTo_slot (g : Group) (w : Iss) (pc : Dword) : (g.retireTo w pc).slot = g.slot := rfl
@[simp] theorem Group.retireTo_role (g : Group) (w : Iss) (pc : Dword) : (g.retireTo w pc).role = g.role := rfl
@[simp] theorem Group.retireTo_sys (g : Group) (w : Iss) (pc : Dword) : (g.retireTo w pc).sys = g.sys := rfl
@[simp] theorem Group.retireTo_pc (g : Group) (w : Iss) (pc : Dword) : (g.retireTo w pc).pc = pc := rfl
@[simp] theorem Group.retireTo_lc (g : Group) (w : Iss) (pc : Dword) : (g.retireTo w pc).lc = g.lc + weight w.i := rfl
@[simp] theorem Group.retireTo_main (g : Group) (w : Iss) (pc : Dword) : (g.retireTo w pc).main = g.main := rfl
@[simp] theorem Group.retireTo_win (g : Group) (w : Iss) (pc : Dword) : (g.retireTo w pc).win = g.win := rfl
@[simp] theorem Group.retireTo_inWin (g : Group) (w : Iss) (pc : Dword) : (g.retireTo w pc).inWin = g.inWin := rfl
@[simp] theorem Group.retireTo_frame (g : Group) (w : Iss) (pc : Dword) : (g.retireTo w pc).frame = g.frame := rfl
@[simp] theorem Group.retireTo_cmask (g : Group) (w : Iss) (pc : Dword) : (g.retireTo w pc).cmask = 0 := rfl
@[simp] theorem Group.retireTo_view (g : Group) (w : Iss) (pc : Dword) : (g.retireTo w pc).view = g.view := rfl
@[simp] theorem Group.retireTo_sketch (g : Group) (w : Iss) (pc : Dword) : (g.retireTo w pc).sketch = g.sketch := rfl
@[simp] theorem Group.retireTo_fpflags (g : Group) (w : Iss) (pc : Dword) : (g.retireTo w pc).fpflags = g.fpflags := rfl
@[simp] theorem Group.retireTo_trapv (g : Group) (w : Iss) (pc : Dword) : (g.retireTo w pc).trapv = g.trapv := rfl
@[simp] theorem Group.retireTo_fstat (g : Group) (w : Iss) (pc : Dword) : (g.retireTo w pc).fstat = g.fstat := rfl
@[simp] theorem Group.retireTo_quota (g : Group) (w : Iss) (pc : Dword) : (g.retireTo w pc).quota = g.quota := rfl
@[simp] theorem Group.retireTo_bypass (g : Group) (w : Iss) (pc : Dword) : (g.retireTo w pc).bypass = g.bypass := rfl
@[simp] theorem Group.retireTo_nb (g : Group) (w : Iss) (pc : Dword) : (g.retireTo w pc).nb = g.nb := rfl
@[simp] theorem Group.retireTo_batches (g : Group) (w : Iss) (pc : Dword) : (g.retireTo w pc).batches = g.batches := rfl
@[simp] theorem Group.retireTo_baras (g : Group) (w : Iss) (pc : Dword) : (g.retireTo w pc).baras = g.baras := rfl
@[simp] theorem Group.retireTo_status (g : Group) (w : Iss) (pc : Dword) : (g.retireTo w pc).status = .running := rfl
@[simp] theorem Group.retireTo_faults (g : Group) (w : Iss) (pc : Dword) : (g.retireTo w pc).faults = g.faults := rfl
@[simp] theorem Group.retireTo_objws (g : Group) (w : Iss) (pc : Dword) : (g.retireTo w pc).objws = g.objws := rfl
@[simp] theorem Group.retireTo_sysCopies (g : Group) (w : Iss) (pc : Dword) : (g.retireTo w pc).sysCopies = g.sysCopies := rfl
@[simp] theorem Group.retireTo_landed (g : Group) (w : Iss) (pc : Dword) : (g.retireTo w pc).landed = g.landed := rfl
@[simp] theorem Group.retireTo_badSlots (g : Group) (w : Iss) (pc : Dword) : (g.retireTo w pc).badSlots = g.badSlots := rfl
@[simp] theorem Group.retireTo_fills (g : Group) (w : Iss) (pc : Dword) : (g.retireTo w pc).fills = [] := rfl
@[simp] theorem Group.retireTo_bulk (g : Group) (w : Iss) (pc : Dword) : (g.retireTo w pc).bulk = false := rfl
@[simp] theorem Group.retireTo_preempted (g : Group) (w : Iss) (pc : Dword) : (g.retireTo w pc).preempted = g.preempted := rfl
@[simp] theorem Cpu.retire_grp (c : Cpu) (w : Iss) (g : Group) : (c.retire w g).grp = g.retire w := rfl
@[simp] theorem Cpu.retire_ctx (c : Cpu) (w : Iss) (g : Group) : (c.retire w g).ctx = c.ctx := rfl
@[simp] theorem Cpu.retire_hw (c : Cpu) (w : Iss) (g : Group) : (c.retire w g).hw = c.hw := rfl
@[simp] theorem Group.onBank_gid (g : Group) (f : {nv nk : Nat} → Bank nv nk → Bank nv nk) : (g.onBank f).gid = g.gid := by unfold Group.onBank; split <;> rfl
@[simp] theorem Group.onBank_core (g : Group) (f : {nv nk : Nat} → Bank nv nk → Bank nv nk) : (g.onBank f).core = g.core := by unfold Group.onBank; split <;> rfl
@[simp] theorem Group.onBank_part (g : Group) (f : {nv nk : Nat} → Bank nv nk → Bank nv nk) : (g.onBank f).part = g.part := by unfold Group.onBank; split <;> rfl
@[simp] theorem Group.onBank_slot (g : Group) (f : {nv nk : Nat} → Bank nv nk → Bank nv nk) : (g.onBank f).slot = g.slot := by unfold Group.onBank; split <;> rfl
@[simp] theorem Group.onBank_role (g : Group) (f : {nv nk : Nat} → Bank nv nk → Bank nv nk) : (g.onBank f).role = g.role := by unfold Group.onBank; split <;> rfl
@[simp] theorem Group.onBank_sys (g : Group) (f : {nv nk : Nat} → Bank nv nk → Bank nv nk) : (g.onBank f).sys = g.sys := by unfold Group.onBank; split <;> rfl
@[simp] theorem Group.onBank_pc (g : Group) (f : {nv nk : Nat} → Bank nv nk → Bank nv nk) : (g.onBank f).pc = g.pc := by unfold Group.onBank; split <;> rfl
@[simp] theorem Group.onBank_lc (g : Group) (f : {nv nk : Nat} → Bank nv nk → Bank nv nk) : (g.onBank f).lc = g.lc := by unfold Group.onBank; split <;> rfl
@[simp] theorem Group.onBank_inWin (g : Group) (f : {nv nk : Nat} → Bank nv nk → Bank nv nk) : (g.onBank f).inWin = g.inWin := by unfold Group.onBank; split <;> rfl
@[simp] theorem Group.onBank_frame (g : Group) (f : {nv nk : Nat} → Bank nv nk → Bank nv nk) : (g.onBank f).frame = g.frame := by unfold Group.onBank; split <;> rfl
@[simp] theorem Group.onBank_cmask (g : Group) (f : {nv nk : Nat} → Bank nv nk → Bank nv nk) : (g.onBank f).cmask = g.cmask := by unfold Group.onBank; split <;> rfl
@[simp] theorem Group.onBank_view (g : Group) (f : {nv nk : Nat} → Bank nv nk → Bank nv nk) : (g.onBank f).view = g.view := by unfold Group.onBank; split <;> rfl
@[simp] theorem Group.onBank_sketch (g : Group) (f : {nv nk : Nat} → Bank nv nk → Bank nv nk) : (g.onBank f).sketch = g.sketch := by unfold Group.onBank; split <;> rfl
@[simp] theorem Group.onBank_fpflags (g : Group) (f : {nv nk : Nat} → Bank nv nk → Bank nv nk) : (g.onBank f).fpflags = g.fpflags := by unfold Group.onBank; split <;> rfl
@[simp] theorem Group.onBank_trapv (g : Group) (f : {nv nk : Nat} → Bank nv nk → Bank nv nk) : (g.onBank f).trapv = g.trapv := by unfold Group.onBank; split <;> rfl
@[simp] theorem Group.onBank_fstat (g : Group) (f : {nv nk : Nat} → Bank nv nk → Bank nv nk) : (g.onBank f).fstat = g.fstat := by unfold Group.onBank; split <;> rfl
@[simp] theorem Group.onBank_quota (g : Group) (f : {nv nk : Nat} → Bank nv nk → Bank nv nk) : (g.onBank f).quota = g.quota := by unfold Group.onBank; split <;> rfl
@[simp] theorem Group.onBank_bypass (g : Group) (f : {nv nk : Nat} → Bank nv nk → Bank nv nk) : (g.onBank f).bypass = g.bypass := by unfold Group.onBank; split <;> rfl
@[simp] theorem Group.onBank_nb (g : Group) (f : {nv nk : Nat} → Bank nv nk → Bank nv nk) : (g.onBank f).nb = g.nb := by unfold Group.onBank; split <;> rfl
@[simp] theorem Group.onBank_batches (g : Group) (f : {nv nk : Nat} → Bank nv nk → Bank nv nk) : (g.onBank f).batches = g.batches := by unfold Group.onBank; split <;> rfl
@[simp] theorem Group.onBank_baras (g : Group) (f : {nv nk : Nat} → Bank nv nk → Bank nv nk) : (g.onBank f).baras = g.baras := by unfold Group.onBank; split <;> rfl
@[simp] theorem Group.onBank_status (g : Group) (f : {nv nk : Nat} → Bank nv nk → Bank nv nk) : (g.onBank f).status = g.status := by unfold Group.onBank; split <;> rfl
@[simp] theorem Group.onBank_faults (g : Group) (f : {nv nk : Nat} → Bank nv nk → Bank nv nk) : (g.onBank f).faults = g.faults := by unfold Group.onBank; split <;> rfl
@[simp] theorem Group.onBank_objws (g : Group) (f : {nv nk : Nat} → Bank nv nk → Bank nv nk) : (g.onBank f).objws = g.objws := by unfold Group.onBank; split <;> rfl
@[simp] theorem Group.onBank_sysCopies (g : Group) (f : {nv nk : Nat} → Bank nv nk → Bank nv nk) : (g.onBank f).sysCopies = g.sysCopies := by unfold Group.onBank; split <;> rfl
@[simp] theorem Group.onBank_landed (g : Group) (f : {nv nk : Nat} → Bank nv nk → Bank nv nk) : (g.onBank f).landed = g.landed := by unfold Group.onBank; split <;> rfl
@[simp] theorem Group.onBank_badSlots (g : Group) (f : {nv nk : Nat} → Bank nv nk → Bank nv nk) : (g.onBank f).badSlots = g.badSlots := by unfold Group.onBank; split <;> rfl
@[simp] theorem Group.onBank_fills (g : Group) (f : {nv nk : Nat} → Bank nv nk → Bank nv nk) : (g.onBank f).fills = g.fills := by unfold Group.onBank; split <;> rfl
@[simp] theorem Group.onBank_bulk (g : Group) (f : {nv nk : Nat} → Bank nv nk → Bank nv nk) : (g.onBank f).bulk = g.bulk := by unfold Group.onBank; split <;> rfl
@[simp] theorem Group.onBank_preempted (g : Group) (f : {nv nk : Nat} → Bank nv nk → Bank nv nk) : (g.onBank f).preempted = g.preempted := by unfold Group.onBank; split <;> rfl
@[simp] theorem Group.orFlags_gid (g : Group) (x : FFlags) : (g.orFlags x).gid = g.gid := rfl
@[simp] theorem Group.orFlags_core (g : Group) (x : FFlags) : (g.orFlags x).core = g.core := rfl
@[simp] theorem Group.orFlags_part (g : Group) (x : FFlags) : (g.orFlags x).part = g.part := rfl
@[simp] theorem Group.orFlags_slot (g : Group) (x : FFlags) : (g.orFlags x).slot = g.slot := rfl
@[simp] theorem Group.orFlags_role (g : Group) (x : FFlags) : (g.orFlags x).role = g.role := rfl
@[simp] theorem Group.orFlags_sys (g : Group) (x : FFlags) : (g.orFlags x).sys = g.sys := rfl
@[simp] theorem Group.orFlags_pc (g : Group) (x : FFlags) : (g.orFlags x).pc = g.pc := rfl
@[simp] theorem Group.orFlags_lc (g : Group) (x : FFlags) : (g.orFlags x).lc = g.lc := rfl
@[simp] theorem Group.orFlags_main (g : Group) (x : FFlags) : (g.orFlags x).main = g.main := rfl
@[simp] theorem Group.orFlags_win (g : Group) (x : FFlags) : (g.orFlags x).win = g.win := rfl
@[simp] theorem Group.orFlags_inWin (g : Group) (x : FFlags) : (g.orFlags x).inWin = g.inWin := rfl
@[simp] theorem Group.orFlags_frame (g : Group) (x : FFlags) : (g.orFlags x).frame = g.frame := rfl
@[simp] theorem Group.orFlags_cmask (g : Group) (x : FFlags) : (g.orFlags x).cmask = g.cmask := rfl
@[simp] theorem Group.orFlags_view (g : Group) (x : FFlags) : (g.orFlags x).view = g.view := rfl
@[simp] theorem Group.orFlags_sketch (g : Group) (x : FFlags) : (g.orFlags x).sketch = g.sketch := rfl
@[simp] theorem Group.orFlags_trapv (g : Group) (x : FFlags) : (g.orFlags x).trapv = g.trapv := rfl
@[simp] theorem Group.orFlags_fstat (g : Group) (x : FFlags) : (g.orFlags x).fstat = g.fstat := rfl
@[simp] theorem Group.orFlags_quota (g : Group) (x : FFlags) : (g.orFlags x).quota = g.quota := rfl
@[simp] theorem Group.orFlags_bypass (g : Group) (x : FFlags) : (g.orFlags x).bypass = g.bypass := rfl
@[simp] theorem Group.orFlags_nb (g : Group) (x : FFlags) : (g.orFlags x).nb = g.nb := rfl
@[simp] theorem Group.orFlags_batches (g : Group) (x : FFlags) : (g.orFlags x).batches = g.batches := rfl
@[simp] theorem Group.orFlags_baras (g : Group) (x : FFlags) : (g.orFlags x).baras = g.baras := rfl
@[simp] theorem Group.orFlags_status (g : Group) (x : FFlags) : (g.orFlags x).status = g.status := rfl
@[simp] theorem Group.orFlags_faults (g : Group) (x : FFlags) : (g.orFlags x).faults = g.faults := rfl
@[simp] theorem Group.orFlags_objws (g : Group) (x : FFlags) : (g.orFlags x).objws = g.objws := rfl
@[simp] theorem Group.orFlags_sysCopies (g : Group) (x : FFlags) : (g.orFlags x).sysCopies = g.sysCopies := rfl
@[simp] theorem Group.orFlags_landed (g : Group) (x : FFlags) : (g.orFlags x).landed = g.landed := rfl
@[simp] theorem Group.orFlags_badSlots (g : Group) (x : FFlags) : (g.orFlags x).badSlots = g.badSlots := rfl
@[simp] theorem Group.orFlags_fills (g : Group) (x : FFlags) : (g.orFlags x).fills = g.fills := rfl
@[simp] theorem Group.orFlags_bulk (g : Group) (x : FFlags) : (g.orFlags x).bulk = g.bulk := rfl
@[simp] theorem Group.orFlags_preempted (g : Group) (x : FFlags) : (g.orFlags x).preempted = g.preempted := rfl
@[simp] theorem Group.orFlags_fpflags (g : Group) (x : FFlags) : (g.orFlags x).fpflags = g.fpflags ||| x := rfl
@[simp] theorem Bank.writeReg_l {nv nk : Nat} (b : Bank nv nk) (n : Nat) (x : Line) : (b.writeReg n x).l = b.l := by unfold Bank.writeReg; split <;> rfl
@[simp] theorem Bank.writeReg_k {nv nk : Nat} (b : Bank nv nk) (n : Nat) (x : Line) : (b.writeReg n x).k = b.k := by unfold Bank.writeReg; split <;> rfl
@[simp] theorem Bank.writeReg_p {nv nk : Nat} (b : Bank nv nk) (n : Nat) (x : Line) : (b.writeReg n x).p = b.p := by unfold Bank.writeReg; split <;> rfl
@[simp] theorem Bank.writeReg_q {nv nk : Nat} (b : Bank nv nk) (n : Nat) (x : Line) : (b.writeReg n x).q = b.q := by unfold Bank.writeReg; split <;> rfl
@[simp] theorem Bank.writeReg_md {nv nk : Nat} (b : Bank nv nk) (n : Nat) (x : Line) : (b.writeReg n x).md = b.md := by unfold Bank.writeReg; split <;> rfl
@[simp] theorem Bank.writeReg_c {nv nk : Nat} (b : Bank nv nk) (n : Nat) (x : Line) : (b.writeReg n x).c = b.c := by unfold Bank.writeReg; split <;> rfl
@[simp] theorem Bank.writeReg_stack {nv nk : Nat} (b : Bank nv nk) (n : Nat) (x : Line) : (b.writeReg n x).stack = b.stack := by unfold Bank.writeReg; split <;> rfl
@[simp] theorem Bank.shiftLast_v {nv nk : Nat} (b : Bank nv nk) (x : Line) : (b.shiftLast x).v = b.v := rfl
@[simp] theorem Bank.shiftLast_o {nv nk : Nat} (b : Bank nv nk) (x : Line) : (b.shiftLast x).o = b.o := rfl
@[simp] theorem Bank.shiftLast_k {nv nk : Nat} (b : Bank nv nk) (x : Line) : (b.shiftLast x).k = b.k := rfl
@[simp] theorem Bank.shiftLast_p {nv nk : Nat} (b : Bank nv nk) (x : Line) : (b.shiftLast x).p = b.p := rfl
@[simp] theorem Bank.shiftLast_q {nv nk : Nat} (b : Bank nv nk) (x : Line) : (b.shiftLast x).q = b.q := rfl
@[simp] theorem Bank.shiftLast_md {nv nk : Nat} (b : Bank nv nk) (x : Line) : (b.shiftLast x).md = b.md := rfl
@[simp] theorem Bank.shiftLast_c {nv nk : Nat} (b : Bank nv nk) (x : Line) : (b.shiftLast x).c = b.c := rfl
@[simp] theorem Bank.shiftLast_stack {nv nk : Nat} (b : Bank nv nk) (x : Line) : (b.shiftLast x).stack = b.stack := rfl
@[simp] theorem Bank.writeK_v {nv nk : Nat} (b : Bank nv nk) (n : Nat) (x : Word) : (b.writeK n x).v = b.v := rfl
@[simp] theorem Bank.writeK_o {nv nk : Nat} (b : Bank nv nk) (n : Nat) (x : Word) : (b.writeK n x).o = b.o := rfl
@[simp] theorem Bank.writeK_l {nv nk : Nat} (b : Bank nv nk) (n : Nat) (x : Word) : (b.writeK n x).l = b.l := rfl
@[simp] theorem Bank.writeK_p {nv nk : Nat} (b : Bank nv nk) (n : Nat) (x : Word) : (b.writeK n x).p = b.p := rfl
@[simp] theorem Bank.writeK_q {nv nk : Nat} (b : Bank nv nk) (n : Nat) (x : Word) : (b.writeK n x).q = b.q := rfl
@[simp] theorem Bank.writeK_md {nv nk : Nat} (b : Bank nv nk) (n : Nat) (x : Word) : (b.writeK n x).md = b.md := rfl
@[simp] theorem Bank.writeK_c {nv nk : Nat} (b : Bank nv nk) (n : Nat) (x : Word) : (b.writeK n x).c = b.c := rfl
@[simp] theorem Bank.writeK_stack {nv nk : Nat} (b : Bank nv nk) (n : Nat) (x : Word) : (b.writeK n x).stack = b.stack := rfl
@[simp] theorem Bank.writeP_v {nv nk : Nat} (b : Bank nv nk) (n : Nat) (x : Word) : (b.writeP n x).v = b.v := rfl
@[simp] theorem Bank.writeP_o {nv nk : Nat} (b : Bank nv nk) (n : Nat) (x : Word) : (b.writeP n x).o = b.o := rfl
@[simp] theorem Bank.writeP_l {nv nk : Nat} (b : Bank nv nk) (n : Nat) (x : Word) : (b.writeP n x).l = b.l := rfl
@[simp] theorem Bank.writeP_k {nv nk : Nat} (b : Bank nv nk) (n : Nat) (x : Word) : (b.writeP n x).k = b.k := rfl
@[simp] theorem Bank.writeP_q {nv nk : Nat} (b : Bank nv nk) (n : Nat) (x : Word) : (b.writeP n x).q = b.q := rfl
@[simp] theorem Bank.writeP_md {nv nk : Nat} (b : Bank nv nk) (n : Nat) (x : Word) : (b.writeP n x).md = b.md := rfl
@[simp] theorem Bank.writeP_c {nv nk : Nat} (b : Bank nv nk) (n : Nat) (x : Word) : (b.writeP n x).c = b.c := rfl
@[simp] theorem Bank.writeP_stack {nv nk : Nat} (b : Bank nv nk) (n : Nat) (x : Word) : (b.writeP n x).stack = b.stack := rfl
@[simp] theorem Bank.writeQ_v {nv nk : Nat} (b : Bank nv nk) (n : Nat) (x : Bool) : (b.writeQ n x).v = b.v := rfl
@[simp] theorem Bank.writeQ_o {nv nk : Nat} (b : Bank nv nk) (n : Nat) (x : Bool) : (b.writeQ n x).o = b.o := rfl
@[simp] theorem Bank.writeQ_l {nv nk : Nat} (b : Bank nv nk) (n : Nat) (x : Bool) : (b.writeQ n x).l = b.l := rfl
@[simp] theorem Bank.writeQ_k {nv nk : Nat} (b : Bank nv nk) (n : Nat) (x : Bool) : (b.writeQ n x).k = b.k := rfl
@[simp] theorem Bank.writeQ_p {nv nk : Nat} (b : Bank nv nk) (n : Nat) (x : Bool) : (b.writeQ n x).p = b.p := rfl
@[simp] theorem Bank.writeQ_md {nv nk : Nat} (b : Bank nv nk) (n : Nat) (x : Bool) : (b.writeQ n x).md = b.md := rfl
@[simp] theorem Bank.writeQ_c {nv nk : Nat} (b : Bank nv nk) (n : Nat) (x : Bool) : (b.writeQ n x).c = b.c := rfl
@[simp] theorem Bank.writeQ_stack {nv nk : Nat} (b : Bank nv nk) (n : Nat) (x : Bool) : (b.writeQ n x).stack = b.stack := rfl
@[simp] theorem Group.enterWindow_gid (g : Group) (f : Frame) : (g.enterWindow f).gid = g.gid := rfl
@[simp] theorem Group.enterWindow_core (g : Group) (f : Frame) : (g.enterWindow f).core = g.core := rfl
@[simp] theorem Group.enterWindow_part (g : Group) (f : Frame) : (g.enterWindow f).part = g.part := rfl
@[simp] theorem Group.enterWindow_slot (g : Group) (f : Frame) : (g.enterWindow f).slot = g.slot := rfl
@[simp] theorem Group.enterWindow_role (g : Group) (f : Frame) : (g.enterWindow f).role = g.role := rfl
@[simp] theorem Group.enterWindow_sys (g : Group) (f : Frame) : (g.enterWindow f).sys = g.sys := rfl
@[simp] theorem Group.enterWindow_pc (g : Group) (f : Frame) : (g.enterWindow f).pc = g.trapv &&& ~~~(3 : Dword) := rfl
@[simp] theorem Group.enterWindow_lc (g : Group) (f : Frame) : (g.enterWindow f).lc = g.lc := rfl
@[simp] theorem Group.enterWindow_main (g : Group) (f : Frame) : (g.enterWindow f).main = g.main := rfl
@[simp] theorem Group.enterWindow_inWin (g : Group) (f : Frame) : (g.enterWindow f).inWin = true := rfl
@[simp] theorem Group.enterWindow_frame (g : Group) (f : Frame) : (g.enterWindow f).frame = f := rfl
@[simp] theorem Group.enterWindow_cmask (g : Group) (f : Frame) : (g.enterWindow f).cmask = 0 := rfl
@[simp] theorem Group.enterWindow_view (g : Group) (f : Frame) : (g.enterWindow f).view = g.view := rfl
@[simp] theorem Group.enterWindow_sketch (g : Group) (f : Frame) : (g.enterWindow f).sketch = g.sketch := rfl
@[simp] theorem Group.enterWindow_fpflags (g : Group) (f : Frame) : (g.enterWindow f).fpflags = g.fpflags := rfl
@[simp] theorem Group.enterWindow_trapv (g : Group) (f : Frame) : (g.enterWindow f).trapv = g.trapv := rfl
@[simp] theorem Group.enterWindow_fstat (g : Group) (f : Frame) : (g.enterWindow f).fstat = g.fstat := rfl
@[simp] theorem Group.enterWindow_quota (g : Group) (f : Frame) : (g.enterWindow f).quota = g.quota := rfl
@[simp] theorem Group.enterWindow_bypass (g : Group) (f : Frame) : (g.enterWindow f).bypass = g.bypass := rfl
@[simp] theorem Group.enterWindow_nb (g : Group) (f : Frame) : (g.enterWindow f).nb = g.nb := rfl
@[simp] theorem Group.enterWindow_batches (g : Group) (f : Frame) : (g.enterWindow f).batches = g.batches := rfl
@[simp] theorem Group.enterWindow_baras (g : Group) (f : Frame) : (g.enterWindow f).baras = g.baras := rfl
@[simp] theorem Group.enterWindow_status (g : Group) (f : Frame) : (g.enterWindow f).status = g.status := rfl
@[simp] theorem Group.enterWindow_faults (g : Group) (f : Frame) : (g.enterWindow f).faults = g.faults := rfl
@[simp] theorem Group.enterWindow_objws (g : Group) (f : Frame) : (g.enterWindow f).objws = g.objws := rfl
@[simp] theorem Group.enterWindow_sysCopies (g : Group) (f : Frame) : (g.enterWindow f).sysCopies = g.sysCopies := rfl
@[simp] theorem Group.enterWindow_landed (g : Group) (f : Frame) : (g.enterWindow f).landed = g.landed := rfl
@[simp] theorem Group.enterWindow_badSlots (g : Group) (f : Frame) : (g.enterWindow f).badSlots = g.badSlots := rfl
@[simp] theorem Group.enterWindow_fills (g : Group) (f : Frame) : (g.enterWindow f).fills = g.fills := rfl
@[simp] theorem Group.enterWindow_bulk (g : Group) (f : Frame) : (g.enterWindow f).bulk = g.bulk := rfl
@[simp] theorem Group.enterWindow_preempted (g : Group) (f : Frame) : (g.enterWindow f).preempted = g.preempted := rfl
@[simp] theorem Group.leaveWindow_gid (g : Group) : (g.leaveWindow).gid = g.gid := rfl
@[simp] theorem Group.leaveWindow_core (g : Group) : (g.leaveWindow).core = g.core := rfl
@[simp] theorem Group.leaveWindow_part (g : Group) : (g.leaveWindow).part = g.part := rfl
@[simp] theorem Group.leaveWindow_slot (g : Group) : (g.leaveWindow).slot = g.slot := rfl
@[simp] theorem Group.leaveWindow_role (g : Group) : (g.leaveWindow).role = g.role := rfl
@[simp] theorem Group.leaveWindow_sys (g : Group) : (g.leaveWindow).sys = g.sys := rfl
@[simp] theorem Group.leaveWindow_lc (g : Group) : (g.leaveWindow).lc = g.lc := rfl
@[simp] theorem Group.leaveWindow_main (g : Group) : (g.leaveWindow).main = g.main := rfl
@[simp] theorem Group.leaveWindow_win (g : Group) : (g.leaveWindow).win = g.win := rfl
@[simp] theorem Group.leaveWindow_view (g : Group) : (g.leaveWindow).view = g.view := rfl
@[simp] theorem Group.leaveWindow_sketch (g : Group) : (g.leaveWindow).sketch = g.sketch := rfl
@[simp] theorem Group.leaveWindow_fpflags (g : Group) : (g.leaveWindow).fpflags = g.fpflags := rfl
@[simp] theorem Group.leaveWindow_trapv (g : Group) : (g.leaveWindow).trapv = g.trapv := rfl
@[simp] theorem Group.leaveWindow_fstat (g : Group) : (g.leaveWindow).fstat = g.fstat := rfl
@[simp] theorem Group.leaveWindow_quota (g : Group) : (g.leaveWindow).quota = g.quota := rfl
@[simp] theorem Group.leaveWindow_bypass (g : Group) : (g.leaveWindow).bypass = g.bypass := rfl
@[simp] theorem Group.leaveWindow_nb (g : Group) : (g.leaveWindow).nb = g.nb := rfl
@[simp] theorem Group.leaveWindow_batches (g : Group) : (g.leaveWindow).batches = g.batches := rfl
@[simp] theorem Group.leaveWindow_baras (g : Group) : (g.leaveWindow).baras = g.baras := rfl
@[simp] theorem Group.leaveWindow_status (g : Group) : (g.leaveWindow).status = g.status := rfl
@[simp] theorem Group.leaveWindow_faults (g : Group) : (g.leaveWindow).faults = g.faults := rfl
@[simp] theorem Group.leaveWindow_objws (g : Group) : (g.leaveWindow).objws = g.objws := rfl
@[simp] theorem Group.leaveWindow_sysCopies (g : Group) : (g.leaveWindow).sysCopies = g.sysCopies := rfl
@[simp] theorem Group.leaveWindow_landed (g : Group) : (g.leaveWindow).landed = g.landed := rfl
@[simp] theorem Group.leaveWindow_badSlots (g : Group) : (g.leaveWindow).badSlots = g.badSlots := rfl
@[simp] theorem Group.leaveWindow_fills (g : Group) : (g.leaveWindow).fills = g.fills := rfl
@[simp] theorem Group.leaveWindow_bulk (g : Group) : (g.leaveWindow).bulk = g.bulk := rfl
@[simp] theorem Group.leaveWindow_preempted (g : Group) : (g.leaveWindow).preempted = g.preempted := rfl
@[simp] theorem Group.leaveWindow_pc (g : Group) : g.leaveWindow.pc = g.frame.pc := rfl
@[simp] theorem Group.leaveWindow_inWin (g : Group) : g.leaveWindow.inWin = false := rfl
@[simp] theorem State.onCtx_others (s : State) (f : Ctx → Ctx) : (s.onCtx f).others = s.others := rfl
@[simp] theorem State.onCtx_mem (s : State) (f : Ctx → Ctx) : (s.onCtx f).mem = s.mem := rfl
@[simp] theorem State.onCtx_inputs (s : State) (f : Ctx → Ctx) : (s.onCtx f).inputs = s.inputs := rfl
@[simp] theorem State.onHw_others (s : State) (f : Module → Module) : (s.onHw f).others = s.others := rfl
@[simp] theorem State.onHw_mem (s : State) (f : Module → Module) : (s.onHw f).mem = s.mem := rfl
@[simp] theorem State.onHw_inputs (s : State) (f : Module → Module) : (s.onHw f).inputs = s.inputs := rfl
@[simp] theorem State.onCpu_others (s : State) (f : Cpu → Cpu) : (s.onCpu f).others = s.others := rfl
@[simp] theorem State.onCpu_mem (s : State) (f : Cpu → Cpu) : (s.onCpu f).mem = s.mem := rfl
@[simp] theorem State.onCpu_inputs (s : State) (f : Cpu → Cpu) : (s.onCpu f).inputs = s.inputs := rfl
@[simp] theorem State.onCtx_ctx (s : State) (f : Ctx → Ctx) : (s.onCtx f).cpu.ctx = f s.cpu.ctx := rfl
@[simp] theorem State.onCtx_grp (s : State) (f : Ctx → Ctx) : (s.onCtx f).cpu.grp = s.cpu.grp := rfl
@[simp] theorem State.onCtx_hw (s : State) (f : Ctx → Ctx) : (s.onCtx f).cpu.hw = s.cpu.hw := rfl
@[simp] theorem State.onHw_ctx (s : State) (f : Module → Module) : (s.onHw f).cpu.ctx = s.cpu.ctx := rfl
@[simp] theorem State.onHw_grp (s : State) (f : Module → Module) : (s.onHw f).cpu.grp = s.cpu.grp := rfl
@[simp] theorem State.onHw_hw (s : State) (f : Module → Module) : (s.onHw f).cpu.hw = f s.cpu.hw := rfl
@[simp] theorem State.onCpu_cpu (s : State) (f : Cpu → Cpu) : (s.onCpu f).cpu = f s.cpu := rfl
@[simp] theorem Cpu.logs_grp (c : Cpu) (cls code : Nat) (d : Dword) : (c.logs cls code d).grp = c.grp := rfl
@[simp] theorem Cpu.logs_ctx (c : Cpu) (cls code : Nat) (d : Dword) : (c.logs cls code d).ctx = c.ctx := rfl
@[simp] theorem Cpu.event_grp (c : Cpu) (kind gid va pa : Nat) : (c.event kind gid va pa).grp = c.grp := rfl
@[simp] theorem Cpu.event_ctx (c : Cpu) (kind gid va pa : Nat) : (c.event kind gid va pa).ctx = c.ctx := rfl
@[simp] theorem Cpu.suspend_grp (c : Cpu) : c.suspend.grp = c.grp := rfl
@[simp] theorem Cpu.suspend_hw (c : Cpu) : c.suspend.hw = c.hw := rfl

end Sys2Proof.Machine
end

