-- ==== Sys2Proof/Laws/Registers.lean ====
section
/-! SUPPORT. What every name reads after each kind of register write (R36 to R38, R41, R300). -/

namespace Sys2Proof.Machine

/-! ### One bank -/

namespace Bank
variable {nv nk : Nat} (b : Bank nv nk)

theorem readReg_writeReg_ne {n m : Nat} (x : Line) (h : m ≠ n) (hn : n < 240) : (b.writeReg n x).readReg m = b.readReg m := by
  unfold writeReg readReg
  by_cases h1 : n < 232 <;> by_cases h2 : m < 232
  · simp only [h1, h2, if_true]; rw [Vector.getElem?_setIfInBounds, if_neg (by omega)]
  · simp only [h1, h2, if_true, if_false]
  · simp only [h1, h2, if_true, if_false]
  · by_cases h3 : m < 240
    · simp only [h1, h2, h3, if_true, if_false]; rw [Vector.getElem?_setIfInBounds, if_neg (by omega)]
    · simp only [h1, h2, h3, if_false]

theorem readReg_writeReg_self {n : Nat} (x : Line) (h : n < nv ∨ 232 ≤ n) (hn : n < 240) :
    (b.writeReg n x).readReg n = x := by
  unfold writeReg readReg
  split_ifs
  · simp [show n < nv by omega]
  · simp [show n - 232 < 8 by omega]

theorem readReg_shiftLast (x : Line) {n : Nat} (h : n < 240) : (b.shiftLast x).readReg n = b.readReg n := by
  simp only [shiftLast, readReg, h, if_true]

theorem readReg_shiftLast_last (x : Line) : (b.shiftLast x).readReg 240 = x ∧ (b.shiftLast x).readReg 241 = b.readReg 240 ∧
    (b.shiftLast x).readReg 242 = b.readReg 241 ∧ (b.shiftLast x).readReg 243 = b.readReg 242 := by
  simp [shiftLast, readReg]

end Bank

/-! ### A change of the bank that names reach -/

namespace Group
variable (g : Group) (f : {nv nk : Nat} → Bank nv nk → Bank nv nk)

/-- Everything but the two banks is as before. -/
theorem onBank_rest : g.onBank f = { g with main := (g.onBank f).main, win := (g.onBank f).win } := by
  unfold onBank; split <;> rfl

@[simp] theorem onBank_gix : (g.onBank f).gix = g.gix := by unfold gix; rw [onBank_gid]

theorem onBank_hidden : if g.inWin then (g.onBank f).main = g.main else (g.onBank f).win = g.win := by
  unfold onBank; split <;> simp_all

/-- A read after a change of the bank reads the changed bank. -/
theorem fromBank_onBank {α : Type} (r : {nv nk : Nat} → Bank nv nk → α) : (g.onBank f).fromBank r = g.fromBank fun b => r (f b) := by
  unfold fromBank; rw [onBank_inWin]; unfold onBank; split <;> rfl

theorem fromBank_congr {α : Type} {r r' : {nv nk : Nat} → Bank nv nk → α} (h : ∀ {nv nk : Nat} (b : Bank nv nk), r b = r' b) :
    g.fromBank r = g.fromBank r' := by unfold fromBank; split <;> apply h

/-- A read that the change does not touch. -/
theorem fromBank_onBank_same {α : Type} (r : {nv nk : Nat} → Bank nv nk → α)
    (h : ∀ {nv nk : Nat} (b : Bank nv nk), r (f b) = r b) : (g.onBank f).fromBank r = g.fromBank r :=
  (g.fromBank_onBank f r).trans (g.fromBank_congr h)

end Group

/-! ### What the names read after each write -/

namespace Group
variable (g : Group)

/-- The names that do not stand for a register of a bank read the same in groups alike but for their banks (R36). -/
theorem readV_special {h : Group} (hgid : h.gid = g.gid) {n : BitVec 8} (hn : 244 ≤ n.toNat) : h.readV n = g.readV n := by
  unfold readV gix
  simp only [show ¬ n.toNat < 244 by omega, if_false, hgid]

theorem readV_bank {n : BitVec 8} (hn : n.toNat < 244) : g.readV n = g.fromBank fun b => b.readReg n.toNat := by
  unfold readV; simp only [hn, if_true]

/-- A vector name after a write of the bank that leaves its register alone. -/
theorem readV_onBank_same (f : {nv nk : Nat} → Bank nv nk → Bank nv nk) {n : BitVec 8}
    (h : ∀ {nv nk : Nat} (b : Bank nv nk), (f b).readReg n.toNat = b.readReg n.toNat) : (g.onBank f).readV n = g.readV n := by
  by_cases hn : n.toNat < 244
  · rw [readV_bank _ hn, readV_bank _ hn]; exact g.fromBank_onBank_same f _ h
  · exact readV_special g (by simp) (by omega)

/-- The line that a masked write leaves in register n. -/
def merged (n : BitVec 8) (mask : Word) (x : Line) : Line :=
  Vector.ofFn fun (j : Fin 32) => if mask.getLsbD j.val then x[j.val] else (g.readV n)[j.val]

theorem writeV_eq (n : BitVec 8) (mask : Word) (x : Line) :
    g.writeV n mask x = g.onBank fun b => (b.writeReg n.toNat (g.merged n mask x)).shiftLast (g.merged n mask x) := rfl

/-- The register written (one that names reach, R300). -/
theorem readV_writeV_self {n : BitVec 8} (mask : Word) (x : Line) (hn : n.toNat < 240)
    (hw : g.inWin = true → n.toNat < 32 ∨ 232 ≤ n.toNat) : (g.writeV n mask x).readV n = g.merged n mask x := by
  rw [writeV_eq, readV_bank _ (by omega), fromBank_onBank]
  unfold fromBank
  split
  · exact (Bank.readReg_shiftLast _ _ hn).trans (Bank.readReg_writeReg_self _ _ (hw (by assumption)) hn)
  · exact (Bank.readReg_shiftLast _ _ hn).trans (Bank.readReg_writeReg_self _ _ (by omega) hn)

/-- Any other register. -/
theorem readV_writeV_ne {n m : BitVec 8} (mask : Word) (x : Line) (hn : n.toNat < 240) (h : m ≠ n)
    (hm : m.toNat < 240 ∨ 244 ≤ m.toNat) : (g.writeV n mask x).readV m = g.readV m := by
  rcases hm with hm | hm
  · rw [writeV_eq]
    refine readV_onBank_same g _ fun b => ?_
    rw [Bank.readReg_shiftLast _ _ hm, Bank.readReg_writeReg_ne _ _ (fun e => h (BitVec.eq_of_toNat_eq e)) hn]
  · exact readV_special g (by rw [writeV_eq]; simp) hm

/-- The last-result file (R41). -/
theorem readV_writeV_last (n : BitVec 8) (mask : Word) (x : Line) (hn : n.toNat < 240) :
    (g.writeV n mask x).readV 240 = g.merged n mask x ∧ (g.writeV n mask x).readV 241 = g.readV 240 ∧
    (g.writeV n mask x).readV 242 = g.readV 241 ∧ (g.writeV n mask x).readV 243 = g.readV 242 := by
  have key : ∀ {nv nk : Nat} (b : Bank nv nk) (y : Line),
      ((b.writeReg n.toNat y).shiftLast y).readReg 240 = y ∧ ((b.writeReg n.toNat y).shiftLast y).readReg 241 = b.readReg 240 ∧
      ((b.writeReg n.toNat y).shiftLast y).readReg 242 = b.readReg 241 ∧ ((b.writeReg n.toNat y).shiftLast y).readReg 243 = b.readReg 242 := by
    intro nv nk b y
    have h := (b.writeReg n.toNat y).readReg_shiftLast_last y
    rw [b.readReg_writeReg_ne y (by omega) hn, b.readReg_writeReg_ne y (by omega) hn, b.readReg_writeReg_ne y (by omega) hn] at h
    exact h
  rw [writeV_eq]
  refine ⟨?_, ?_, ?_, ?_⟩
  · rw [readV_bank _ (by decide), fromBank_onBank]; unfold fromBank; split <;> exact (key _ _).1
  all_goals rw [readV_bank _ (by decide), fromBank_onBank, readV_bank _ (by decide)]; unfold fromBank
  · split <;> exact (key _ _).2.1
  · split <;> exact (key _ _).2.2.1
  · split <;> exact (key _ _).2.2.2

/-- A change of the bank that leaves every register of these kinds alone. -/
structure Leaves (dst : List Loc) (f : {nv nk : Nat} → Bank nv nk → Bank nv nk) : Prop where
  v : ∀ {nv nk : Nat} (b : Bank nv nk) (n : Nat), .v n ∉ dst → n < 240 → (f b).readReg n = b.readReg n
  last : .last ∉ dst → ∀ {nv nk : Nat} (b : Bank nv nk) (n : Nat), 240 ≤ n → (f b).readReg n = b.readReg n
  k : ∀ {nv nk : Nat} (b : Bank nv nk) (n : Nat), .k n ∉ dst → (f b).readK n = b.readK n
  p : ∀ {nv nk : Nat} (b : Bank nv nk) (n : Nat), .p n ∉ dst → (f b).readP n = b.readP n
  q : ∀ {nv nk : Nat} (b : Bank nv nk) (n : Nat), .q n ∉ dst → (f b).readQ n = b.readQ n
  md : .md ∉ dst → ∀ {nv nk : Nat} (b : Bank nv nk), (f b).md = b.md
  lanes : .lanes ∉ dst → ∀ {nv nk : Nat} (b : Bank nv nk), (f b).c = b.c
  joins : .joins ∉ dst → ∀ {nv nk : Nat} (b : Bank nv nk), (f b).stack = b.stack

/-- Such a change is all that happens to the group's registers. -/
theorem sameGroup_onBank {dst : List Loc} {f : {nv nk : Nat} → Bank nv nk → Bank nv nk} (hf : Leaves dst f) :
    SameGroup dst g (g.onBank f) where
  regs :=
    { v := fun n hn hr => by
        rcases hr with hr | hr
        · exact readV_onBank_same g f fun b => hf.v b _ hn hr
        · exact readV_special g (by simp) hr
      last := fun hl n h1 h2 => readV_onBank_same g f fun b => hf.last hl b _ h1
      k := fun n hn => by
        unfold readK; split
        · exact g.fromBank_onBank_same f _ fun b => hf.k b _ hn
        · rfl
      p := fun n hn => by
        unfold readP; rw [g.fromBank_onBank_same f (fun b => b.readP (n % 8)) fun b => hf.p b _ hn]
      q := fun n hn => by
        unfold readQ; rw [g.fromBank_onBank_same f (fun b => b.readQ (n % 8)) fun b => hf.q b _ hn]
      md := fun h => g.fromBank_onBank_same f (fun b => b.md) fun b => hf.md h b
      lanes := fun h => g.fromBank_onBank_same f (fun b => b.c) fun b => hf.lanes h b
      joins := fun h => g.fromBank_onBank_same f (fun b => b.stack) fun b => hf.joins h b
      fpflags := fun _ => by simp }
  hidden := g.onBank_hidden f
  rest := by
    have h := g.onBank_rest f
    generalize g.onBank f = h' at h ⊢
    rw [h]

end Group

/-! ### Frames put together -/

/-- Two changes one after the other. -/
theorem SameGroup.trans {d1 d2 : List Loc} {g h k : Group} (a : SameGroup d1 g h) (b : SameGroup d2 h k) : SameGroup (d1 ++ d2) g k where
  regs :=
    { v := fun n hn hr => by
        simp only [List.mem_append, not_or] at hn
        exact (b.regs.v n hn.2 hr).trans (a.regs.v n hn.1 hr)
      last := fun hl n h1 h2 => by
        simp only [List.mem_append, not_or] at hl
        exact (b.regs.last hl.2 n h1 h2).trans (a.regs.last hl.1 n h1 h2)
      k := fun n hn => by
        simp only [List.mem_append, not_or] at hn
        exact (b.regs.k n hn.2).trans (a.regs.k n hn.1)
      p := fun n hn => by
        simp only [List.mem_append, not_or] at hn
        exact (b.regs.p n hn.2).trans (a.regs.p n hn.1)
      q := fun n hn => by
        simp only [List.mem_append, not_or] at hn
        exact (b.regs.q n hn.2).trans (a.regs.q n hn.1)
      md := fun h => by
        simp only [List.mem_append, not_or] at h
        exact (b.regs.md h.2).trans (a.regs.md h.1)
      lanes := fun h => by
        simp only [List.mem_append, not_or] at h
        exact (b.regs.lanes h.2).trans (a.regs.lanes h.1)
      joins := fun h => by
        simp only [List.mem_append, not_or] at h
        exact (b.regs.joins h.2).trans (a.regs.joins h.1)
      fpflags := fun h => by
        simp only [List.mem_append, not_or] at h
        exact (b.regs.fpflags h.2).trans (a.regs.fpflags h.1) }
  hidden := by
    have hw : h.inWin = g.inWin := by rw [a.rest]
    have ha := a.hidden
    have hb := b.hidden
    rw [hw] at hb
    split <;> simp_all
  rest := by
    have ha := a.rest
    have hb := b.rest
    generalize hm : k.main = m1 at hb ⊢
    generalize hw : k.win = w1 at hb ⊢
    generalize hp : k.pc = p1 at hb ⊢
    generalize hl : k.lc = l1 at hb ⊢
    generalize hc : k.cmask = c1 at hb ⊢
    generalize hf : k.fills = f1 at hb ⊢
    generalize hs : k.status = s1 at hb ⊢
    generalize hq : k.fpflags = q1 at hb ⊢
    rw [hb, ha]

/-- A longer list claims less. -/
theorem SameGroup.mono {d1 d2 : List Loc} {g h : Group} (a : SameGroup d1 g h) (hd : ∀ x ∈ d1, x ∈ d2) : SameGroup d2 g h where
  regs :=
    { v := fun n hn => a.regs.v n fun m => hn (hd _ m)
      last := fun hn => a.regs.last fun m => hn (hd _ m)
      k := fun n hn => a.regs.k n fun m => hn (hd _ m)
      p := fun n hn => a.regs.p n fun m => hn (hd _ m)
      q := fun n hn => a.regs.q n fun m => hn (hd _ m)
      md := fun hn => a.regs.md fun m => hn (hd _ m)
      lanes := fun hn => a.regs.lanes fun m => hn (hd _ m)
      joins := fun hn => a.regs.joins fun m => hn (hd _ m)
      fpflags := fun hn => a.regs.fpflags fun m => hn (hd _ m) }
  hidden := a.hidden
  rest := a.rest

theorem SameGroup.refl (g : Group) : SameGroup [] g g where
  regs := ⟨fun _ _ _ => rfl, fun _ _ _ _ => rfl, fun _ _ => rfl, fun _ _ => rfl, fun _ _ => rfl, fun _ => rfl, fun _ => rfl, fun _ => rfl, fun _ => rfl⟩
  hidden := by split <;> rfl
  rest := rfl

/-- Retirement changes no register. -/
theorem Group.sameGroup_retire (g : Group) (w : Iss) : SameGroup [] g (g.retire w) where
  regs := ⟨fun _ _ _ => rfl, fun _ _ _ _ => rfl, fun _ _ => rfl, fun _ _ => rfl, fun _ _ => rfl, fun _ => rfl, fun _ => rfl, fun _ => rfl, fun _ => rfl⟩
  hidden := by split <;> rfl
  rest := rfl

/-- FPFLAGS alone. -/
theorem Group.sameGroup_orFlags (g : Group) (f : FFlags) : SameGroup [.fpflags] g (g.orFlags f) where
  regs := ⟨fun _ _ _ => rfl, fun _ _ _ _ => rfl, fun _ _ => rfl, fun _ _ => rfl, fun _ _ => rfl, fun _ => rfl, fun _ => rfl, fun _ => rfl,
    fun h => absurd (List.mem_singleton.mpr rfl) h⟩
  hidden := by split <;> rfl
  rest := rfl

end Sys2Proof.Machine
end

