-- ==== Sys2Proof/Laws/Writes.lean ====
section
/-! SUPPORT. What each write of a result does, said once: vector results and pairs, uniform registers, predicates, MD, C and the
reconvergence stack. -/

namespace Sys2Proof.Machine

namespace Group
variable (g : Group)

theorem sameGroup_writeV {n : BitVec 8} (mask : Word) (x : Line) (hn : n.toNat < 240) :
    SameGroup [.v n.toNat, .last] g (g.writeV n mask x) := by
  rw [writeV_eq]
  refine sameGroup_onBank g ⟨?_, ?_, fun _ _ _ => ?_, fun _ _ _ => ?_, fun _ _ _ => ?_, fun _ => fun _ => ?_,
    fun _ => fun _ => ?_, fun _ => fun _ => ?_⟩
  · intro nv nk b m hm h240
    rw [Bank.readReg_shiftLast _ _ h240, Bank.readReg_writeReg_ne _ _ (fun e => hm (by simp [e])) hn]
  · exact fun h => absurd (by simp) h
  all_goals (unfold Bank.shiftLast Bank.writeReg; split <;> rfl)

theorem sameGroup_writeK (n : BitVec 8) (x : Word) : SameGroup [.k n.toNat] g (g.writeK n x) := by
  unfold writeK
  split
  · refine sameGroup_onBank g ⟨fun _ _ _ _ => rfl, fun _ => fun _ _ _ => rfl, fun b m hm => ?_, fun _ _ _ => rfl, fun _ _ _ => rfl,
      fun _ => fun _ => rfl, fun _ => fun _ => rfl, fun _ => fun _ => rfl⟩
    have h : n.toNat ≠ m := fun e => hm (by simp [e])
    simp only [Bank.readK, Bank.writeK]
    rw [Vector.getElem?_setIfInBounds, if_neg h]
  · exact (SameGroup.refl g).mono (by simp)

theorem sameGroup_writeP (n : Nat) (mask x : Word) : SameGroup [.p (n % 8)] g (g.writeP n mask x) := by
  unfold writeP
  refine sameGroup_onBank g ⟨fun _ _ _ _ => rfl, fun _ => fun _ _ _ => rfl, fun _ _ _ => rfl, fun b m hm => ?_, fun _ _ _ => rfl,
    fun _ => fun _ => rfl, fun _ => fun _ => rfl, fun _ => fun _ => rfl⟩
  have h : n % 8 ≠ m := fun e => hm (by simp [e])
  simp only [Bank.readP, Bank.writeP]
  rw [Vector.getElem?_setIfInBounds, if_neg h]

theorem sameGroup_writeQ (n : Nat) (x : Bool) : SameGroup [.q (n % 8)] g (g.writeQ n x) := by
  unfold writeQ
  refine sameGroup_onBank g ⟨fun _ _ _ _ => rfl, fun _ => fun _ _ _ => rfl, fun _ _ _ => rfl, fun _ _ _ => rfl, fun b m hm => ?_,
    fun _ => fun _ => rfl, fun _ => fun _ => rfl, fun _ => fun _ => rfl⟩
  have h : n % 8 ≠ m := fun e => hm (by simp [e])
  simp only [Bank.readQ, Bank.writeQ]
  rw [Vector.getElem?_setIfInBounds, if_neg h]

/-- A uniform register that names reach reads what was written. -/
theorem readK_writeK_self {n : BitVec 8} (x : Word) (hn : n.toNat < 160) (hw : g.inWin = true → n.toNat < 32) :
    (g.writeK n x).readK n = x := by
  unfold writeK readK
  simp only [hn, if_true]
  rw [fromBank_onBank]
  unfold fromBank Bank.readK Bank.writeK
  split
  · have := hw (by assumption); simp [this]
  · simp [hn]

theorem readK_writeK_ne {n m : BitVec 8} (x : Word) (h : m ≠ n) : (g.writeK n x).readK m = g.readK m :=
  (sameGroup_writeK g n x).regs.k m (by simp only [List.mem_singleton, Loc.k.injEq]; exact fun e => h (BitVec.eq_of_toNat_eq e))

/-- A lane predicate below p7 takes the written value in the lanes of the mask. -/
theorem readP_writeP_self {n : Nat} (mask x : Word) (hn : n % 8 < 7) :
    (g.writeP n mask x).readP (n % 8) = (g.readP (n % 8) &&& ~~~mask) ||| (x &&& mask) := by
  have h8 : n % 8 / 8 % 2 = 0 := by omega
  unfold writeP readP
  rw [fromBank_onBank]
  simp only [h8, Nat.mod_mod, show (0 : Nat) ≠ 1 by decide, if_false]
  unfold fromBank Bank.writeP Bank.readP
  by_cases hw : g.inWin = true <;> simp [hn, hw]

theorem readQ_writeQ_self {n : Nat} (x : Bool) (hn : n % 8 < 7) : (g.writeQ n x).readQ (n % 8) = x := by
  have h8 : n % 8 / 8 % 2 = 0 := by omega
  unfold writeQ readQ
  rw [fromBank_onBank]
  simp only [h8, Nat.mod_mod, show (0 : Nat) ≠ 1 by decide, if_false]
  unfold fromBank Bank.writeQ Bank.readQ
  by_cases hw : g.inWin = true <;> simp [hn, hw]

/-! ### Results of vector instructions -/

theorem laneAt_merged (n : BitVec 8) (mask : Word) (x : Line) (j : Fin 32) :
    laneAt (g.merged n mask x) j = if mask.getLsbD j then x[j] else laneAt (g.readV n) j := by
  simp [laneAt, merged]

@[simp] theorem writeV_inWin (n : BitVec 8) (mask : Word) (x : Line) : (g.writeV n mask x).inWin = g.inWin := by
  rw [writeV_eq]; simp

/-- A result of one register. -/
theorem laneV_writeLanes_narrow {n : BitVec 8} (mask : Word) (x : Vector Dword 32) (hn : g.Writable n) (j : Fin 32) :
    (g.writeLanes false n mask x).laneV false n j =
      if mask.getLsbD j then ((x[j]).setWidth 32).setWidth 64 else g.laneV false n j := by
  simp only [writeLanes, laneV, Bool.false_and, Bool.false_eq_true, if_false]
  rw [readV_writeV_self g mask _ hn.1 hn.2, laneAt_merged]
  split
  · simp only [Fin.getElem_fin, Vector.getElem_map]; congr 1
  · rfl

theorem shifted_writeLanes_narrow {n : BitVec 8} (mask : Word) (x : Vector Dword 32) (hn : g.Writable n) :
    Shifted false n g (g.writeLanes false n mask x) := by
  simp only [writeLanes, Shifted, Bool.false_eq_true, if_false]
  have h := readV_writeV_last g n mask (x.map fun y => y.extractLsb' 0 32) hn.1
  rw [readV_writeV_self g mask _ hn.1 hn.2]
  exact ⟨h.1, h.2.1, h.2.2.1, h.2.2.2⟩

/-- The register after an even one. -/
theorem next_toNat {n : BitVec 8} (h : n.toNat < 255) : (n + 1).toNat = n.toNat + 1 := by
  rw [BitVec.toNat_add]; simp; omega

theorem next_ne (n : BitVec 8) : n + 1 ≠ n := by
  intro h
  have := congrArg (fun x => x - n) h
  simp only [BitVec.sub_self] at this
  have h1 : n + 1 - n = 1 := by rw [BitVec.add_comm, BitVec.add_sub_cancel]
  rw [h1] at this
  exact absurd this (by decide)

theorem pairOk_bounds {n : BitVec 8} (h : pairOk true n = true) : n.toNat < 239 ∧ n.toNat % 2 = 0 := by
  simp only [pairOk, Bool.or_eq_true, Bool.and_eq_true, decide_eq_true_eq, beq_iff_eq, Bool.not_true, Bool.false_and,
    Bool.false_eq_true, or_false] at h
  omega

/-- A pair that names reach. -/
theorem writable_pair {n : BitVec 8} (h : g.Writable n) (hp : pairOk true n = true) : g.Writable (n + 1) := by
  have hb := pairOk_bounds hp
  have hs := next_toNat (n := n) (by omega)
  refine ⟨by omega, fun hw => ?_⟩
  have := h.2 hw
  omega

/-- A result of a pair of registers. -/
theorem laneV_writeLanes_wide {n : BitVec 8} (mask : Word) (x : Vector Dword 32) (hn : g.Writable n) (hp : pairOk true n = true)
    (j : Fin 32) : (g.writeLanes true n mask x).laneV true n j = if mask.getLsbD j then x[j] else g.laneV true n j := by
  have hb := pairOk_bounds hp
  have hs := next_toNat (n := n) (by omega)
  have hn1 := g.writable_pair hn hp
  have hlt : n.toNat < 244 := by omega
  simp only [writeLanes, laneV, Bool.true_and, hlt, decide_true, if_true]
  have hlo := readV_writeV_self (g.writeV (n + 1) mask (x.map fun y => y.extractLsb' 32 32)) mask (x.map fun y => y.extractLsb' 0 32)
    hn.1 (by simpa using hn.2)
  rw [hlo, readV_writeV_ne _ mask _ hn.1 (next_ne n) (Or.inl hn1.1), readV_writeV_self g mask _ hn1.1 hn1.2, laneAt_merged, laneAt_merged,
    readV_writeV_ne g mask _ hn1.1 (next_ne n).symm (Or.inl hn.1)]
  split
  · simp only [Fin.getElem_fin, Vector.getElem_map]
    ext i hi
    simp only [BitVec.getElem_append, BitVec.getElem_extractLsb']
    split
    · simp only [Nat.zero_add]; exact BitVec.getLsbD_eq_getElem _
    · rw [show 32 + (i - 32) = i by omega]; exact BitVec.getLsbD_eq_getElem _
  · rfl

theorem shifted_writeLanes_wide {n : BitVec 8} (mask : Word) (x : Vector Dword 32) (hn : g.Writable n) (hp : pairOk true n = true) :
    Shifted true n g (g.writeLanes true n mask x) := by
  have hb := pairOk_bounds hp
  have hn1 := g.writable_pair hn hp
  simp only [writeLanes, Shifted, if_true]
  generalize hg1 : g.writeV (n + 1) mask (x.map fun y => y.extractLsb' 32 32) = g1
  have h1 := readV_writeV_last g (n + 1) mask (x.map fun y => y.extractLsb' 32 32) hn1.1
  have hself := readV_writeV_self g mask (x.map fun y => y.extractLsb' 32 32) hn1.1 hn1.2
  rw [hg1] at h1 hself
  have h2 := readV_writeV_last g1 n mask (x.map fun y => y.extractLsb' 0 32) hn.1
  have hw1 : g1.inWin = true → n.toNat < 32 ∨ 232 ≤ n.toNat := by rw [← hg1]; simpa using hn.2
  rw [readV_writeV_self g1 mask _ hn.1 hw1, readV_writeV_ne g1 mask _ hn.1 (next_ne n) (Or.inl hn1.1), hself]
  exact ⟨h2.1, h2.2.1.trans h1.1, h2.2.2.1.trans h1.2.1, h2.2.2.2.trans h1.2.2.1⟩

/-- A vector result writes its registers and the last-result file, nothing else. -/
theorem sameGroup_writeLanes {n : BitVec 8} (wide : Bool) (mask : Word) (x : Vector Dword 32) (hn : g.Writable n)
    (hp : wide = true → pairOk true n = true) : SameGroup (vecDst wide n) g (g.writeLanes wide n mask x) := by
  cases wide
  · simp only [writeLanes, vecDst, Bool.false_eq_true, if_false]
    exact sameGroup_writeV g mask _ hn.1
  · have hb := pairOk_bounds (hp rfl)
    have hs := next_toNat (n := n) (by omega)
    simp only [writeLanes, vecDst, if_true]
    refine ((sameGroup_writeV g mask _ (by omega)).trans (sameGroup_writeV _ mask _ hn.1)).mono ?_
    rw [hs]
    simp

/-- The lanes of a result. -/
theorem laneResults_writeLanes {n : BitVec 8} (wide : Bool) (mask : Word) (f : Nat → Dword) (hn : g.Writable n)
    (hp : wide = true → pairOk true n = true) :
    LaneResults wide mask n g (g.writeLanes wide n mask (Vector.ofFn fun (j : Fin 32) => f j)) f := by
  intro j
  cases wide
  · rw [laneV_writeLanes_narrow g mask _ hn j]; simp
  · rw [laneV_writeLanes_wide g mask _ hn (hp rfl) j]; simp

theorem shifted_writeLanes {n : BitVec 8} (wide : Bool) (mask : Word) (x : Vector Dword 32) (hn : g.Writable n)
    (hp : wide = true → pairOk true n = true) : Shifted wide n g (g.writeLanes wide n mask x) := by
  cases wide
  · exact shifted_writeLanes_narrow g mask x hn
  · exact shifted_writeLanes_wide g mask x hn (hp rfl)

end Group

end Sys2Proof.Machine
end

