-- ==== Sys2Proof/Laws/Issue.lean ====
section
/-! SUPPORT. What issue does (R54, R55, R300): the meaning of a word that passes the checks, the trap of one that does not; and what a
retired word leaves. -/

namespace Sys2Proof.Machine

theorem illegalCode_eq_none {i : Instr} : illegalCode i = none ↔ wellFormed i = true := by
  unfold illegalCode wellFormed
  cases namesOk i <;> cases codesOk i <;> simp

/-- A word that passes every check has its meaning. -/
theorem issueCpu_of_issues {pre : Group → Option Trap} {k : Meaning} {m : Cells} {w : Iss} {c : Cpu} (h : Issues w.i c.grp)
    (hp : pre c.grp = none) : issueCpu pre k m w c = k m w c := by
  unfold issueCpu
  rw [illegalCode_eq_none.mpr h.1]
  simp only [hp]
  by_cases hw : c.grp.inWin = true
  · simp [h.2 hw]
  · simp [Bool.eq_false_iff.mpr hw]

/-- Issue answers a next state in which only the processor is changed. -/
theorem issue_of_issues {pre : Group → Option Trap} {k : Meaning} {i : Instr} {s : State} (h : Issues i s.cpu.grp)
    (hp : pre s.cpu.grp = none) : issue pre k i s = .next { s with cpu := k s.mem ⟨i, none⟩ s.cpu } := by
  unfold issue
  rw [issueCpu_of_issues h hp]

/-- An illegal word takes class 1 (R54). -/
theorem issueCpu_illegal {pre : Group → Option Trap} {k : Meaning} {m : Cells} {w : Iss} {c : Cpu} {code : Nat}
    (h : illegalCode w.i = some code) : issueCpu pre k m w c = c.trap w (illegalTrap c.grp code) := by
  unfold issueCpu; rw [h]

/-- A privileged word at user level takes its trap (R249). -/
theorem issueCpu_pre {pre : Group → Option Trap} {k : Meaning} {m : Cells} {w : Iss} {c : Cpu} {t : Trap}
    (h : illegalCode w.i = none) (hp : pre c.grp = some t) : issueCpu pre k m w c = c.trap w t := by
  unfold issueCpu; rw [h]; simp only [hp]

/-- A word that names a register the window lacks takes class 6 code 11 (R300). -/
theorem issueCpu_window {pre : Group → Option Trap} {k : Meaning} {m : Cells} {w : Iss} {c : Cpu} (h : illegalCode w.i = none)
    (hp : pre c.grp = none) (hw : c.grp.inWin = true) (hn : windowOk w.i = false) :
    issueCpu pre k m w c = c.trap w (modeTrap c.grp 11) := by
  unfold issueCpu; rw [h]; simp [hp, hw, hn]

/-- A word that leaves the group as `g'` and retires has done what `g'` says. -/
theorem did_retire {i : Instr} {s : State} {dst : List Loc} {g' : Group} (h : SameGroup dst s.cpu.grp g') (hpc : g'.pc = s.cpu.grp.pc)
    (hlc : g'.lc = s.cpu.grp.lc) : Did i dst s { s with cpu := s.cpu.retire ⟨i, none⟩ g' } where
  only := ⟨rfl, rfl, rfl, rfl, fun _ => rfl⟩
  same := (h.trans (g'.sameGroup_retire ⟨i, none⟩)).mono (by simp)
  retired := by
    refine ⟨?_, ?_, rfl, rfl⟩
    · show g'.pc + BitVec.ofNat 64 (issLen ⟨i, none⟩) = _
      rw [hpc]; rfl
    · show g'.lc + weight i = _
      rw [hlc]

/-! ### What the names read after retirement -/

section
variable (g : Group) (w : Iss)
@[simp] theorem readV_retire (n : BitVec 8) : (g.retire w).readV n = g.readV n := rfl
@[simp] theorem laneV_retire (wide : Bool) (n : BitVec 8) (j : Nat) : (g.retire w).laneV wide n j = g.laneV wide n j := rfl
@[simp] theorem readK_retire (n : BitVec 8) : (g.retire w).readK n = g.readK n := rfl
@[simp] theorem readP_retire (n : Nat) : (g.retire w).readP n = g.readP n := rfl
@[simp] theorem readQ_retire (n : Nat) : (g.retire w).readQ n = g.readQ n := rfl
@[simp] theorem readV_orFlags (f : FFlags) (n : BitVec 8) : (g.orFlags f).readV n = g.readV n := rfl
@[simp] theorem laneV_orFlags (f : FFlags) (wide : Bool) (n : BitVec 8) (j : Nat) : (g.orFlags f).laneV wide n j = g.laneV wide n j := rfl
end

/-- The PC and the clock through the writes of registers. -/
@[simp] theorem Group.writeV_pc (g : Group) (n : BitVec 8) (mask : Word) (x : Line) : (g.writeV n mask x).pc = g.pc := by
  rw [Group.writeV_eq]; simp
@[simp] theorem Group.writeV_lc (g : Group) (n : BitVec 8) (mask : Word) (x : Line) : (g.writeV n mask x).lc = g.lc := by
  rw [Group.writeV_eq]; simp
@[simp] theorem Group.writeLanes_pc (g : Group) (wide : Bool) (n : BitVec 8) (mask : Word) (x : Vector Dword 32) :
    (g.writeLanes wide n mask x).pc = g.pc := by unfold Group.writeLanes; split <;> simp
@[simp] theorem Group.writeLanes_lc (g : Group) (wide : Bool) (n : BitVec 8) (mask : Word) (x : Vector Dword 32) :
    (g.writeLanes wide n mask x).lc = g.lc := by unfold Group.writeLanes; split <;> simp
@[simp] theorem Group.writeK_pc (g : Group) (n : BitVec 8) (x : Word) : (g.writeK n x).pc = g.pc := by
  unfold Group.writeK; split <;> simp
@[simp] theorem Group.writeK_lc (g : Group) (n : BitVec 8) (x : Word) : (g.writeK n x).lc = g.lc := by
  unfold Group.writeK; split <;> simp
@[simp] theorem Group.writeP_pc (g : Group) (n : Nat) (mask x : Word) : (g.writeP n mask x).pc = g.pc := by
  unfold Group.writeP; simp
@[simp] theorem Group.writeP_lc (g : Group) (n : Nat) (mask x : Word) : (g.writeP n mask x).lc = g.lc := by
  unfold Group.writeP; simp
@[simp] theorem Group.writeQ_pc (g : Group) (n : Nat) (x : Bool) : (g.writeQ n x).pc = g.pc := by
  unfold Group.writeQ; simp
@[simp] theorem Group.writeQ_lc (g : Group) (n : Nat) (x : Bool) : (g.writeQ n x).lc = g.lc := by
  unfold Group.writeQ; simp

end Sys2Proof.Machine
end

