-- ==== Sys2Proof/Laws/Control.lean ====
section
/-! SUPPORT. The program counter, C and the reconvergence stack (R35, R156, R159). -/

namespace Sys2Proof.Machine

/-- `pcMove` moves within the object (R35, R156). -/
theorem pcMove_codeAt (pc : Dword) (n : Int) : CodeAt pc n (pcMove pc n) := by
  unfold CodeAt pcMove
  have h1 : ((pc.extractLsb' 40 24 : BitVec 24) ++ (pc.extractLsb' 0 40 + BitVec.ofInt 40 n)).extractLsb' 40 24 = pc.extractLsb' 40 24 := by
    generalize pc.extractLsb' 0 40 + BitVec.ofInt 40 n = y
    generalize pc.extractLsb' 40 24 = z
    ext i hi
    simp only [BitVec.getElem_extractLsb']
    exact (BitVec.getLsbD_append (x := z) (y := y)).trans (by simp [hi])
  have h2 : ((pc.extractLsb' 40 24 : BitVec 24) ++ (pc.extractLsb' 0 40 + BitVec.ofInt 40 n)).extractLsb' 0 40 = pc.extractLsb' 0 40 + BitVec.ofInt 40 n := by
    generalize pc.extractLsb' 0 40 + BitVec.ofInt 40 n = y
    generalize pc.extractLsb' 40 24 = z
    ext i hi
    simp only [BitVec.getElem_extractLsb']
    exact (BitVec.getLsbD_append (x := z) (y := y)).trans (by simp [hi])
  refine ⟨h1, ?_⟩
  rw [h2]
  rw [BitVec.toNat_add, BitVec.toNat_ofInt]
  push_cast
  rw [Int.toNat_of_nonneg (Int.emod_nonneg _ (by norm_num))]
  norm_num

/-- A code address n bytes further on is one address. -/
theorem codeAt_unique {pc p q : Dword} {n : Int} (h1 : CodeAt pc n p) (h2 : CodeAt pc n q) : p = q := by
  obtain ⟨a, b⟩ := h1
  obtain ⟨c, d⟩ := h2
  have e1 : p.extractLsb' 40 24 = q.extractLsb' 40 24 := a.trans c.symm
  have e2 : p.extractLsb' 0 40 = q.extractLsb' 0 40 := by
    apply BitVec.eq_of_toNat_eq
    have := b.trans d.symm
    exact_mod_cast this
  ext i hi
  by_cases h : i < 40
  · have := congrArg (fun x => x.getLsbD i) e2
    simpa [BitVec.getLsbD_extractLsb', h, ← BitVec.getLsbD_eq_getElem] using this
  · have := congrArg (fun x => x.getLsbD (i-40)) e1
    have h3 : i - 40 < 24 := by omega
    have h4 : 40 + (i - 40) = i := by omega
    simpa [BitVec.getLsbD_extractLsb', h3, h4, ← BitVec.getLsbD_eq_getElem] using this

/-- A word retires to the address after it. -/
theorem after_eq_retire (g : Group) (i : Instr) : g.after i (g.pc + 4) = g.retire ⟨i, none⟩ := rfl

/-- A word that changed the registers listed and retires to an address has done what `DidTo` says. -/
theorem didTo_of {i : Instr} {s : State} {dst : List Loc} {g' : Group} {pc : Dword} (h : SameGroup dst s.cpu.grp g')
    (hlc : g'.lc = s.cpu.grp.lc) : DidTo i dst pc s { s with cpu := { s.cpu with grp := g'.retireTo ⟨i, none⟩ pc } } where
  only := ⟨rfl, rfl, rfl, rfl, fun _ => rfl⟩
  same := by
    have h2 : SameGroup [] g' (g'.retireTo ⟨i, none⟩ pc) :=
      { regs := ⟨fun _ _ _ => rfl, fun _ _ _ _ => rfl, fun _ _ => rfl, fun _ _ => rfl, fun _ _ => rfl, fun _ => rfl, fun _ => rfl, fun _ => rfl, fun _ => rfl⟩
        hidden := by split <;> rfl
        rest := rfl }
    exact (h.trans h2).mono (by simp)
  retired := ⟨rfl, by show g'.lc + weight i = _; rw [hlc], rfl, rfl⟩

/-- The reconvergence stack alone changes. -/
theorem sameGroup_setJoins (g : Group) (l : List SEntry) : SameGroup [.joins] g (g.setJoins l) := by
  unfold Group.setJoins
  refine Group.sameGroup_onBank g ⟨fun _ _ _ _ => rfl, fun _ => fun _ _ _ => rfl, fun _ _ _ => rfl, fun _ _ _ => rfl, fun _ _ _ => rfl,
    fun _ => fun _ => rfl, fun _ => fun _ => rfl, fun h => absurd (by simp) h⟩

/-- C alone changes. -/
theorem sameGroup_setLanes (g : Group) (l : Word) : SameGroup [.lanes] g (g.setLanes l) := by
  unfold Group.setLanes
  refine Group.sameGroup_onBank g ⟨fun _ _ _ _ => rfl, fun _ => fun _ _ _ => rfl, fun _ _ _ => rfl, fun _ _ _ => rfl, fun _ _ _ => rfl,
    fun _ => fun _ => rfl, fun h => absurd (by simp) h, fun _ => fun _ => rfl⟩
/-- The stack reads as it was written. -/
theorem joins_setJoins (g : Group) (l : List SEntry) : (g.setJoins l).joins = l := by
  unfold Group.setJoins Group.joins; rw [Group.fromBank_onBank]; unfold Group.fromBank; split <;> rfl
/-- C reads as it was written. -/
theorem lanes_setLanes (g : Group) (l : Word) : (g.setLanes l).lanes = l := by
  unfold Group.setLanes Group.lanes; rw [Group.fromBank_onBank]; unfold Group.fromBank; split <;> rfl

end Sys2Proof.Machine
end

