-- ==== Sys2Proof/Laws/Elements.lean ====
section
/-! SUPPORT. Elements of lanes (R45): what `perElem` packs is what `elemOf` takes out; the integer helpers of R68 and R133. -/

namespace Sys2Proof.Machine

/-- A width of elements. -/
def ElemWidth (n : Nat) : Prop := n = 8 ∨ n = 16 ∨ n = 32 ∨ n = 64

theorem etyBits_width (t : Nat) : ElemWidth (etyBits t) := by
  unfold etyBits ElemWidth; split <;> simp

theorem elemOf_lt (n : Nat) (x : Dword) (e : Nat) : elemOf n x e < 2 ^ n := Nat.mod_lt _ (by positivity)

/-- Bit i of element e. -/
theorem elemOf_testBit (n : Nat) (x : Dword) (e i : Nat) : (elemOf n x e).testBit i = (decide (i < n) && x.getLsbD (n * e + i)) := by
  unfold elemOf
  rw [Nat.testBit_mod_two_pow, Nat.testBit_div_two_pow, Nat.add_comm]
  rfl

/-- A packed element, in place. -/
def placed (n : Nat) (x e : Nat) : Dword := BitVec.ofNat 64 (x % 2 ^ n * 2 ^ (n * e))

theorem placed_getLsbD (n x e i : Nat) :
    (placed n x e).getLsbD i = (decide (i < 64) && (decide (n * e ≤ i) && (decide (i - n * e < n) && x.testBit (i - n * e)))) := by
  unfold placed
  rw [BitVec.getLsbD_ofNat, Nat.testBit_mul_two_pow, Nat.testBit_mod_two_pow]

/-- The elements put together, as an OR over a list. -/
theorem perElem_value (n : Nat) (f : Nat → Nat × FFlags) :
    (perElem n f).1 = ((List.range (if n = 64 then 1 else 32 / n)).map fun e => placed n (f e).1 e).foldl (· ||| ·) 0 := by
  unfold perElem
  generalize List.range (if n = 64 then 1 else 32 / n) = l
  have key : ∀ (l : List Nat) (a : Dword) (b : FFlags),
      (l.foldl (fun acc e => let r := f e; (acc.1 ||| BitVec.ofNat 64 (r.1 % 2 ^ n * 2 ^ (n * e)), acc.2 ||| r.2)) (a, b)).1 =
        (l.map fun e => placed n (f e).1 e).foldl (· ||| ·) a := by
    intro l
    induction l with
    | nil => intro a b; rfl
    | cons e l ih => intro a b; exact ih _ _
  exact key l 0 0

theorem foldl_or_getLsbD {l : List Dword} {a : Dword} {i : Nat} :
    (l.foldl (· ||| ·) a).getLsbD i = (a.getLsbD i || l.any fun x => x.getLsbD i) := by
  induction l generalizing a with
  | nil => simp
  | cons x l ih => simp [ih, Bool.or_assoc]

/-- Bit i of the packed elements is bit i mod n of element i / n. -/
theorem perElem_getLsbD {n : Nat} (hn : ElemWidth n) (f : Nat → Nat × FFlags) (i : Nat) :
    (perElem n f).1.getLsbD i = (decide (i < (if n = 64 then 64 else 32)) && (f (i / n)).1.testBit (i % n)) := by
  rw [perElem_value, foldl_or_getLsbD, List.any_map]
  rw [show (0 : Dword).getLsbD i = false from BitVec.getLsbD_zero, Bool.false_or]
  have hpos : 0 < n := by rcases hn with h | h | h | h <;> omega
  have hcount : (if n = 64 then 1 else 32 / n) * n = if n = 64 then 64 else 32 := by
    rcases hn with h | h | h | h <;> subst h <;> rfl
  have hle : (if n = 64 then 64 else 32) ≤ 64 := by split <;> omega
  by_cases hi : i < (if n = 64 then 64 else 32)
  · have hq : i / n < (if n = 64 then 1 else 32 / n) := by
      apply (Nat.div_lt_iff_lt_mul hpos).mpr; rw [hcount]; exact hi
    have hd : n * (i / n) + i % n = i := Nat.div_add_mod i n
    have hm : i % n < n := Nat.mod_lt _ hpos
    have hself : i - n * (i / n) = i % n := by omega
    rw [Bool.eq_iff_iff, List.any_eq_true]
    simp only [List.mem_range, Function.comp_apply, placed_getLsbD, Bool.and_eq_true, decide_eq_true_eq, hi, decide_true, Bool.true_and]
    constructor
    · rintro ⟨e, he, -, h1, h2, h3⟩
      have : e = i / n := by
        have h4 : i / n = e := by
          apply Nat.div_eq_of_lt_le
          · rw [Nat.mul_comm]; exact h1
          · rw [Nat.succ_mul, Nat.mul_comm e n]; omega
        exact h4.symm
      subst this
      rwa [hself] at h3
    · intro h
      exact ⟨i / n, hq, by omega, by omega, by omega, by rwa [hself]⟩
  · simp only [hi, decide_false, Bool.false_and, List.any_eq_false, List.mem_range, Function.comp_apply, placed_getLsbD]
    intro e he h
    simp only [Bool.and_eq_true, decide_eq_true_eq] at h
    have : n * (e + 1) ≤ n * (if n = 64 then 1 else 32 / n) := Nat.mul_le_mul_left n he
    rw [Nat.mul_comm n (if n = 64 then 1 else 32 / n), hcount, Nat.mul_succ] at this
    omega

/-- Taking a packed element out. -/
theorem elemOf_perElem {n : Nat} (hn : ElemWidth n) (f : Nat → Nat × FFlags) {e : Nat} (he : e < if n = 64 then 1 else 32 / n) :
    elemOf n (perElem n f).1 e = (f e).1 % 2 ^ n := by
  have hpos : 0 < n := by rcases hn with h | h | h | h <;> omega
  have hcount : n * (if n = 64 then 1 else 32 / n) = if n = 64 then 64 else 32 := by
    rcases hn with h | h | h | h <;> subst h <;> rfl
  apply Nat.eq_of_testBit_eq
  intro i
  rw [elemOf_testBit, Nat.testBit_mod_two_pow]
  by_cases hi : i < n
  · have hlt : n * e + i < (if n = 64 then 64 else 32) := by
      have : n * (e + 1) ≤ n * (if n = 64 then 1 else 32 / n) := Nat.mul_le_mul_left n he
      rw [hcount, Nat.mul_succ] at this
      omega
    rw [perElem_getLsbD hn, Nat.mul_add_mod, Nat.mod_eq_of_lt hi, Nat.mul_add_div hpos, Nat.div_eq_of_lt hi, Nat.add_zero]
    simp [hlt]
  · simp [hi]

/-- Packed narrow elements fill 32 bits. -/
theorem perElem_narrow {n : Nat} (hn : ElemWidth n) (h64 : n ≠ 64) (f : Nat → Nat × FFlags) :
    ((perElem n f).1.setWidth 32).setWidth 64 = (perElem n f).1 := by
  ext i hi
  have hb := perElem_getLsbD hn f i
  simp only [h64, if_false] at hb
  simp only [BitVec.getElem_setWidth, BitVec.getLsbD_setWidth]
  by_cases h : i < 32
  · simp only [h, decide_true, Bool.true_and]; rfl
  · simp only [h, decide_false, Bool.false_and] at hb ⊢
    exact hb.symm

/-- Sixty-four bits are wide. -/
theorem isWide_iff (t : Nat) : isWide t = true ↔ etyBits t = 64 := by
  unfold isWide etyBits
  split <;> simp_all

end Sys2Proof.Machine
end

