-- ==== Sys2Proof/Laws/Integers.lean ====
section
/-! SUPPORT. Integers in n bits (R60, R68): wrapping, clamping, and what the element operations of R134 and R135 make of them. -/

namespace Sys2Proof.Machine

/-- A number in the range of the type is what its wrapped form reads as. -/
theorem toI_wrapI_fit {n : Nat} (hn : 0 < n) (sg : Bool) (x : Int) (h1 : minI n sg ≤ x) (h2 : x ≤ maxI n sg) : toI n sg (wrapI n x) = x := by
  have hp : (2:Int)^n = 2 * 2^(n-1) := by rw [← pow_succ']; congr 1; omega
  have hpos : (0:Int) < 2^(n-1) := by positivity
  unfold minI at h1; unfold maxI at h2
  unfold toI wrapI
  have hw : ((x % (2^n:Nat)).toNat : Int) = x % 2^n := by
    rw [Int.toNat_of_nonneg (Int.emod_nonneg _ (by positivity))]; push_cast; rfl
  have hlt : (x % (2^n:Nat)).toNat < 2^n := by
    have : x % (2^n : Int) < 2^n := Int.emod_lt_of_pos _ (by positivity)
    have h3 : ((x % (2^n:Nat)).toNat : Int) < ((2^n : Nat) : Int) := by rw [hw]; push_cast; exact this
    exact_mod_cast h3
  simp only [Nat.mod_eq_of_lt hlt]
  cases sg
  · simp only [Bool.false_and, Bool.false_eq_true, if_false] at *
    rw [hw]; exact Int.emod_eq_of_lt h1 (by omega)
  · simp only [Bool.true_and, if_true, decide_eq_true_eq] at *
    have hc : (2 ^ (n - 1) ≤ (x % (2^n:Nat)).toNat) ↔ (2:Int)^(n-1) ≤ x % 2^n := by
      rw [← hw]; exact_mod_cast Iff.rfl
    by_cases hx : 0 ≤ x
    · have : x % 2^n = x := Int.emod_eq_of_lt hx (by omega)
      rw [if_neg (by rw [hc, this]; omega), hw, this]
    · have : x % 2^n = x + 2^n := by
        rw [← Int.add_emod_right]; exact Int.emod_eq_of_lt (by omega) (by omega)
      rw [if_pos (by rw [hc, this]; omega), hw, this]; omega

/-- Wrapping is the remainder modulo 2^n. -/
theorem wrapI_cast (n : Nat) (x : Int) : (wrapI n x : Int) = x % 2^n := by
  unfold wrapI
  rw [Int.toNat_of_nonneg (Int.emod_nonneg _ (by positivity))]; push_cast; rfl

/-- A wrapped number has n bits. -/
theorem wrapI_lt (n : Nat) (x : Int) : wrapI n x < 2^n := by
  have : (wrapI n x : Int) < 2^n := by rw [wrapI_cast]; exact Int.emod_lt_of_pos _ (by positivity)
  exact_mod_cast this

/-- `fitI` is what R68 says of SAT and of wrapping. -/
theorem fits_fitI {n : Nat} (hn : 0 < n) (sg sat : Bool) (x : Int) : Fits n sg sat x (fitI n sg sat x) := by
  have hpos : (0:Int) < 2^(n-1) := by positivity
  have hpos : (0:Int) < 2^n := by positivity
  have hmm : minI n sg ≤ maxI n sg := by unfold minI maxI; cases sg <;> simp ; all_goals omega
  unfold Fits fitI
  cases sat
  · simp [wrapI_cast]
  · simp only [if_true]
    exact toI_wrapI_fit hn sg _ (le_max_left _ _) (max_le hmm (min_le_left _ _))

/-- Its result has n bits. -/
theorem fitI_lt (n : Nat) (sg sat : Bool) (x : Int) : fitI n sg sat x < 2^n := wrapI_lt _ _

/-- An arithmetic shift to the right stays in the type. -/
theorem toI_div (n : Nat) (hn : 0 < n) (x : Nat) (hx : x < 2^n) (k : Nat) : toI n true (wrapI n (toI n true x / 2^k)) = toI n true x / 2^k := by
  apply toI_wrapI_fit hn
  all_goals
    have hp : (2:Int)^n = 2 * 2^(n-1) := by rw [← pow_succ']; congr 1; omega
    have h1 : -(2:Int)^(n-1) ≤ toI n true x ∧ toI n true x ≤ 2^(n-1) - 1 := by
      have hx' : (x:Int) < 2^n := by exact_mod_cast hx
      have hc : (2 ^ (n - 1) ≤ x) ↔ (2:Int)^(n-1) ≤ x := by exact_mod_cast Iff.rfl
      unfold toI
      simp only [Nat.mod_eq_of_lt hx, Bool.true_and, decide_eq_true_eq]
      split
      · rename_i h; rw [hc] at h; omega
      · rename_i h; rw [hc] at h; omega
    have hk : (0:Int) < 2^k := by positivity
    have hpos : (0:Int) < 2^(n-1) := by positivity
  · simp only [minI, if_true]
    rw [Int.le_ediv_iff_mul_le hk]
    nlinarith [h1.1]
  · simp only [maxI, if_true]
    have : toI n true x / 2^k < 2^(n-1) := by
      rw [Int.ediv_lt_iff_lt_mul hk]
      nlinarith [h1.2]
    omega

/-- Counting ones bit by bit is the number of places that hold one. -/
theorem popc_eq (n y : Nat) : ((List.range n).filter fun i => y.testBit i).length = ((Finset.range n).filter fun i => y.testBit i = true).card := by
  rw [← List.toFinset_card_of_nodup]
  · congr 1; ext i; simp
  · exact (List.nodup_range).filter _

end Sys2Proof.Machine
end

