-- ==== Sys2Proof/Laws/Loads.lean ====
section
/-! SUPPORT. The registers that a load fills (R174, R176) and the shifts of the last-result file (R41). -/

namespace Sys2Proof.Machine

/-- The registers of a run: each one is a name that may be written (R36, R176, R300). -/
def RunOk (g : Group) (d : BitVec 8) (n : Nat) : Prop := ∀ i < n, d.toNat + i < 240 ∧ (g.inWin = true → d.toNat + i < 32 ∨
    232 ≤ d.toNat + i)

theorem run_toNat {d : BitVec 8} {i : Nat} (h : d.toNat + i < 240) : (d + BitVec.ofNat 8 i).toNat = d.toNat + i := by
  rw [BitVec.toNat_add, BitVec.toNat_ofNat]; omega

theorem RunOk.mono {g : Group} {d : BitVec 8} {n m : Nat} (h : RunOk g d n) (hm : m ≤ n) : RunOk g d m := fun i hi => h i (by omega)

/-- The line that a load leaves in one register. -/
def loadLine (lanes : List Nat) (val : Nat → Nat) (i : Nat) (old : Line) : Line :=
  Vector.ofFn fun (j : Fin 32) => if j.val ∈ lanes then BitVec.ofNat 32 (val j.val / 2 ^ (32 * i)) else old[j.val]

/-- One register of the bank that names reach. -/
theorem sameGroup_writeReg (g : Group) {n : Nat} (x : Line) (hn : n < 240) :
    SameGroup [.v n] g (g.onBank fun b => b.writeReg n x) := by
  refine Group.sameGroup_onBank g ⟨?_, fun _ => ?_, fun _ _ _ => ?_, fun _ _ _ => ?_, fun _ _ _ => ?_, fun _ => fun _ => ?_,
    fun _ => fun _ => ?_, fun _ => fun _ => ?_⟩
  · intro nv nk b m hm h240
    exact Bank.readReg_writeReg_ne _ _ (fun e => hm (by simp [e])) hn
  · intro nv nk b m h
    exact Bank.readReg_writeReg_ne _ _ (by omega) hn
  all_goals (unfold Bank.writeReg; split <;> rfl)

theorem readV_writeReg_self (g : Group) {n : BitVec 8} (x : Line) (hn : n.toNat < 240) (hw : g.inWin = true → n.toNat < 32 ∨
    232 ≤ n.toNat) :
    (g.onBank fun b => b.writeReg n.toNat x).readV n = x := by
  rw [Group.readV_bank _ (by omega), Group.fromBank_onBank]
  unfold Group.fromBank
  split
  · exact Bank.readReg_writeReg_self _ _ (hw (by assumption)) hn
  · exact Bank.readReg_writeReg_self _ _ (by omega) hn

theorem readV_writeReg_ne (g : Group) {n : Nat} {m : BitVec 8} (x : Line) (hn : n < 240) (h : m.toNat ≠ n) :
    (g.onBank fun b => b.writeReg n x).readV m = g.readV m := by
  refine Group.readV_onBank_same g _ fun b => ?_
  exact Bank.readReg_writeReg_ne _ _ h hn

/-- The last-result file shifts. -/
theorem sameGroup_shiftLast (g : Group) (x : Line) : SameGroup [.last] g (g.onBank fun b => b.shiftLast x) := by
  refine Group.sameGroup_onBank g ⟨?_, fun h => absurd (by simp) h, fun _ _ _ => rfl, fun _ _ _ => rfl, fun _ _ _ => rfl,
      fun _ => fun _ => rfl,
    fun _ => fun _ => rfl, fun _ => fun _ => rfl⟩
  intro nv nk b m hm h240
  exact Bank.readReg_shiftLast _ _ h240

theorem readV_shiftLast (g : Group) (x : Line) {n : BitVec 8} (hn : n.toNat < 240) : (g.onBank fun b => b.shiftLast x).readV n =
    g.readV n := by
  refine Group.readV_onBank_same g _ fun b => ?_
  exact Bank.readReg_shiftLast _ _ hn

theorem readV_shiftLast_last (g : Group) (x : Line) :
    (g.onBank fun b => b.shiftLast x).readV 240 = x ∧ (g.onBank fun b => b.shiftLast x).readV 241 = g.readV 240 ∧
    (g.onBank fun b => b.shiftLast x).readV 242 = g.readV 241 ∧ (g.onBank fun b => b.shiftLast x).readV 243 = g.readV 242 := by
  refine ⟨?_, ?_, ?_, ?_⟩
  · rw [Group.readV_bank _ (by decide), Group.fromBank_onBank]; unfold Group.fromBank; split <;> exact (Bank.readReg_shiftLast_last _ _).1
  all_goals rw [Group.readV_bank _ (by decide), Group.fromBank_onBank, Group.readV_bank _ (by decide)]; unfold Group.fromBank
  · split <;> exact (Bank.readReg_shiftLast_last _ _).2.1
  · split <;> exact (Bank.readReg_shiftLast_last _ _).2.2.1
  · split <;> exact (Bank.readReg_shiftLast_last _ _).2.2.2

/-- The fold of `placeLoaded`. -/
theorem place_aux (g : Group) (d : BitVec 8) (lanes : List Nat) (val : Nat → Nat) (n : Nat) (h : RunOk g d n) :
    let k := (List.range n).foldl (fun g i =>
      g.onBank fun b => b.writeReg (d + BitVec.ofNat 8 i).toNat (loadLine lanes val i (g.readV (d + BitVec.ofNat 8 i)))) g
    SameGroup ((List.range n).map fun i => .v (d + BitVec.ofNat 8 i).toNat) g k ∧ k.pc = g.pc ∧ k.lc = g.lc ∧ k.cmask = g.cmask ∧
      k.fills = g.fills ∧ k.status = g.status ∧
      (∀ i < n, k.readV (d + BitVec.ofNat 8 i) = loadLine lanes val i (g.readV (d + BitVec.ofNat 8 i))) ∧
      ∀ m : BitVec 8, (∀ i < n, m.toNat ≠ d.toNat + i) → k.readV m = g.readV m := by
  induction n with
  | zero => exact ⟨SameGroup.refl g, rfl, rfl, rfl, rfl, rfl, fun _ h => by omega, fun _ _ => rfl⟩
  | succ n ih =>
    obtain ⟨h1, h2, h3, h4, h5, h6, h7, h8⟩ := ih (h.mono (by omega))
    rw [List.range_succ, List.foldl_append, List.foldl_cons, List.foldl_nil]
    generalize hk : (List.range n).foldl (fun g i => g.onBank fun b => b.writeReg (d + BitVec.ofNat 8 i).toNat
      (loadLine lanes val i (g.readV (d + BitVec.ofNat 8 i)))) g = k at *
    have hn := (h n (by omega)).1
    have ht := run_toNat hn
    have hw : k.inWin = true → (d + BitVec.ofNat 8 n).toNat < 32 ∨ 232 ≤ (d + BitVec.ofNat 8 n).toNat := by
      rw [ht, h1.rest]; exact (h n (by omega)).2
    refine ⟨?_, by simpa using h2, by simpa using h3, by simpa using h4, by simpa using h5, by simpa using h6, ?_, ?_⟩
    · rw [List.map_append]
      exact h1.trans (sameGroup_writeReg k _ (by omega))
    · intro i hi
      by_cases hin : i = n
      · subst hin
        rw [readV_writeReg_self k _ (by omega) hw, h8]
        intro q hq; rw [ht]; omega
      · rw [readV_writeReg_ne k _ (by omega) (by rw [ht, run_toNat (h i hi).1]; omega), h7 i (by omega)]
    · intro m hm
      rw [readV_writeReg_ne k _ (by omega) (by rw [ht]; exact hm n (by omega)), h8 m fun i hi => hm i (by omega)]

theorem shift_aux (g : Group) (d : BitVec 8) (n : Nat) (h : RunOk g d n) :
    let k := (List.range n).foldl (fun g i => let x := g.readV (d + BitVec.ofNat 8 i); g.onBank fun b => b.shiftLast x) g
    SameGroup [.last] g k ∧ k.pc = g.pc ∧ k.lc = g.lc ∧ k.cmask = g.cmask ∧ k.fills = g.fills ∧ k.status = g.status ∧
      (∀ m : BitVec 8, m.toNat < 240 → k.readV m = g.readV m) ∧
      ∀ q < 4, k.readV (BitVec.ofNat 8 (240 + q)) =
        if q < n then g.readV (d + BitVec.ofNat 8 (n - 1 - q)) else g.readV (BitVec.ofNat 8 (240 + q - n)) := by
  induction n with
  | zero => exact ⟨(SameGroup.refl g).mono (by simp), rfl, rfl, rfl, rfl, rfl, fun _ _ => rfl, fun _ _ => rfl⟩
  | succ n ih =>
    obtain ⟨h1, h2, h3, h4, h5, h6, h7, h8⟩ := ih (h.mono (by omega))
    rw [List.range_succ, List.foldl_append, List.foldl_cons, List.foldl_nil]
    generalize hk : (List.range n).foldl (fun g i => let x := g.readV (d + BitVec.ofNat 8 i); g.onBank fun b => b.shiftLast x) g = k at *
    have hn := (h n (by omega)).1
    have ht := run_toNat hn
    have hl := readV_shiftLast_last k (k.readV (d + BitVec.ofNat 8 n))
    refine ⟨(h1.trans (sameGroup_shiftLast k _)).mono (by simp), by simpa using h2, by simpa using h3, by simpa using h4,
        by simpa using h5, by simpa using h6, ?_, ?_⟩
    · intro m hm
      exact (readV_shiftLast k _ hm).trans (h7 m hm)
    · intro q hq
      have e0 : k.readV (d + BitVec.ofNat 8 n) = g.readV (d + BitVec.ofNat 8 n) := h7 _ (by omega)
      rcases Nat.eq_zero_or_pos q with hq0 | hq0
      · subst hq0
        simp only [Nat.add_zero, Nat.zero_lt_succ, if_true]
        exact hl.1.trans (e0.trans (by simp))
      · have hs : (k.onBank fun b => b.shiftLast (k.readV (d + BitVec.ofNat 8 n))).readV (BitVec.ofNat 8 (240 + q)) =
          k.readV (BitVec.ofNat 8 (240 + (q - 1))) := by
          interval_cases q
          · exact hl.2.1
          · exact hl.2.2.1
          · exact hl.2.2.2
        refine hs.trans ?_
        rw [h8 (q-1) (by omega)]
        by_cases hqn : q < n + 1
        · rw [if_pos hqn, if_pos (by omega)]; congr 3; omega
        · rw [if_neg hqn, if_neg (by omega)]; congr 2; omega

/-- A load's registers placed: the destination alone, the last-result file not yet shifted (R305). -/
theorem placeLoaded_spec (g : Group) (d : BitVec 8) (size : Nat) (lanes : List Nat) (val : Nat → Nat) (h : RunOk g d (regsOf size)) :
    let k := placeLoaded g d size lanes val
    SameGroup ((List.range (regsOf size)).map fun i => .v (d + BitVec.ofNat 8 i).toNat) g k ∧ k.pc = g.pc ∧ k.lc = g.lc ∧
        k.cmask = g.cmask ∧
      k.fills = g.fills ∧ k.status = g.status ∧
      (∀ i < regsOf size, k.readV (d + BitVec.ofNat 8 i) = loadLine lanes val i (g.readV (d + BitVec.ofNat 8 i))) ∧
      ∀ m : BitVec 8, (∀ i < regsOf size, m.toNat ≠ d.toNat + i) → k.readV m = g.readV m :=
  place_aux g d lanes val _ h

theorem laneAt_loadLine (lanes : List Nat) (val : Nat → Nat) (i : Nat) (old : Line) (j : Fin 32) :
    laneAt (loadLine lanes val i old) j = if j.val ∈ lanes then BitVec.ofNat 32 (val j / 2 ^ (32 * i)) else laneAt old j := by
  simp [laneAt, loadLine]

/-- A load that retires: its destination and the shifts of the last-result file (R174, R176, R41). -/
theorem loaded_spec (g : Group) (d : BitVec 8) (size : Nat) (lanes : List Nat) (val : Nat → Nat) (h : RunOk g d (regsOf size)) :
    let k := shiftLoaded (placeLoaded g d size lanes val) d size
    SameGroup (loadDst size d) g k ∧ k.pc = g.pc ∧ k.lc = g.lc ∧ Loaded size d lanes val g k := by
  obtain ⟨h1, h2, h3, h4, h5, h6, h7, h8⟩ := placeLoaded_spec g d size lanes val h
  have hr : RunOk (placeLoaded g d size lanes val) d (regsOf size) := by
    intro i hi; rw [h1.rest]; exact h i hi
  obtain ⟨k1, k2, k3, k4, k5, k6, k7, k8⟩ := shift_aux (placeLoaded g d size lanes val) d (regsOf size) hr
  refine ⟨(h1.trans k1).mono ?_, k2.trans h2, k3.trans h3, ?_, ?_⟩
  · unfold loadDst loadRegs; intro x hx; simp at hx ⊢; tauto
  · intro i hi j
    have hd := (h i hi).1
    have : (shiftLoaded (placeLoaded g d size lanes val) d size).readV (d + BitVec.ofNat 8 i) = _ :=
      (k7 _ (by rw [run_toNat hd]; omega)).trans (h7 i hi)
    rw [this, laneAt_loadLine]
  · intro q hq
    refine (k8 q hq).trans ?_
    by_cases hqn : q < regsOf size
    · rw [if_pos hqn, if_pos hqn]
      have hd := (h (regsOf size - 1 - q) (by omega)).1
      exact (k7 _ (by rw [run_toNat hd]; omega)).symm
    · rw [if_neg hqn, if_neg hqn]
      apply h8
      intro i hi
      have hd := (h i hi).1
      have : (BitVec.ofNat 8 (240 + q - regsOf size)).toNat = 240 + q - regsOf size := by rw [BitVec.toNat_ofNat]; omega
      rw [this]; omega

/-- With no lane to execute the registers keep their values, and the last-result file shifts all the same. -/
theorem shifted_spec (g : Group) (d : BitVec 8) (size : Nat) (h : RunOk g d (regsOf size)) :
    SameGroup (loadDst size d) g (shiftLoaded g d size) ∧ (shiftLoaded g d size).pc = g.pc ∧ (shiftLoaded g d size).lc = g.lc ∧
      ∀ val, Loaded size d [] val g (shiftLoaded g d size) := by
  obtain ⟨k1, k2, k3, k4, k5, k6, k7, k8⟩ := shift_aux g d (regsOf size) h
  refine ⟨k1.mono (by simp [loadDst]), k2, k3, fun val => ⟨?_, ?_⟩⟩
  · intro i hi j
    simp only [List.not_mem_nil, if_false]
    exact congrArg (laneAt · _) (k7 _ (by rw [run_toNat (h i hi).1]; exact (h i hi).1))
  · intro q hq
    refine (k8 q hq).trans ?_
    by_cases hqn : q < regsOf size
    · rw [if_pos hqn, if_pos hqn]
      have hd := (h (regsOf size - 1 - q) (by omega)).1
      exact (k7 _ (by rw [run_toNat hd]; omega)).symm
    · rw [if_neg hqn, if_neg hqn]

end Sys2Proof.Machine
end

