-- ==== Sys2Proof/Laws/PerInstr.lean ====
section
/-! SUPPORT. Statements made for every instruction, one lemma a constructor: `Length`, that an instruction is at most two words (R35, R49). -/

namespace Sys2Proof.Laws.Length

/-- The words of an instruction are at most two: a `lit` and the word after it (R49). -/
def Statement (i : Instr) : Prop := (encode i).length ≤ 2

theorem add (d a b) : Statement (.add d a b) := Nat.le_of_ble_eq_true rfl
theorem addVk (d a b) : Statement (.addVk d a b) := Nat.le_of_ble_eq_true rfl
theorem sub (d a b) : Statement (.sub d a b) := Nat.le_of_ble_eq_true rfl
theorem subVk (d a b) : Statement (.subVk d a b) := Nat.le_of_ble_eq_true rfl
theorem mul (d a b) : Statement (.mul d a b) := Nat.le_of_ble_eq_true rfl
theorem mulVk (d a b) : Statement (.mulVk d a b) := Nat.le_of_ble_eq_true rfl
theorem mulh (d a b) : Statement (.mulh d a b) := Nat.le_of_ble_eq_true rfl
theorem mulhVk (d a b) : Statement (.mulhVk d a b) := Nat.le_of_ble_eq_true rfl
theorem mad (d a b) : Statement (.mad d a b) := Nat.le_of_ble_eq_true rfl
theorem madVk (d a b) : Statement (.madVk d a b) := Nat.le_of_ble_eq_true rfl
theorem minV (d a b) : Statement (.minV d a b) := Nat.le_of_ble_eq_true rfl
theorem minVk (d a b) : Statement (.minVk d a b) := Nat.le_of_ble_eq_true rfl
theorem maxV (d a b) : Statement (.maxV d a b) := Nat.le_of_ble_eq_true rfl
theorem maxVk (d a b) : Statement (.maxVk d a b) := Nat.le_of_ble_eq_true rfl
theorem absV (d b) : Statement (.absV d b) := Nat.le_of_ble_eq_true rfl
theorem absVk (d b) : Statement (.absVk d b) := Nat.le_of_ble_eq_true rfl
theorem negV (d b) : Statement (.negV d b) := Nat.le_of_ble_eq_true rfl
theorem negVk (d b) : Statement (.negVk d b) := Nat.le_of_ble_eq_true rfl
theorem andV (d a b) : Statement (.andV d a b) := Nat.le_of_ble_eq_true rfl
theorem andVk (d a b) : Statement (.andVk d a b) := Nat.le_of_ble_eq_true rfl
theorem orV (d a b) : Statement (.orV d a b) := Nat.le_of_ble_eq_true rfl
theorem orVk (d a b) : Statement (.orVk d a b) := Nat.le_of_ble_eq_true rfl
theorem xorV (d a b) : Statement (.xorV d a b) := Nat.le_of_ble_eq_true rfl
theorem xorVk (d a b) : Statement (.xorVk d a b) := Nat.le_of_ble_eq_true rfl
theorem andn (d a b) : Statement (.andn d a b) := Nat.le_of_ble_eq_true rfl
theorem andnVk (d a b) : Statement (.andnVk d a b) := Nat.le_of_ble_eq_true rfl
theorem notV (d b) : Statement (.notV d b) := Nat.le_of_ble_eq_true rfl
theorem notVk (d b) : Statement (.notVk d b) := Nat.le_of_ble_eq_true rfl
theorem shl (d a b) : Statement (.shl d a b) := Nat.le_of_ble_eq_true rfl
theorem shlVk (d a b) : Statement (.shlVk d a b) := Nat.le_of_ble_eq_true rfl
theorem shr (d a b) : Statement (.shr d a b) := Nat.le_of_ble_eq_true rfl
theorem shrVk (d a b) : Statement (.shrVk d a b) := Nat.le_of_ble_eq_true rfl
theorem sar (d a b) : Statement (.sar d a b) := Nat.le_of_ble_eq_true rfl
theorem sarVk (d a b) : Statement (.sarVk d a b) := Nat.le_of_ble_eq_true rfl
theorem rot (d a b) : Statement (.rot d a b) := Nat.le_of_ble_eq_true rfl
theorem rotVk (d a b) : Statement (.rotVk d a b) := Nat.le_of_ble_eq_true rfl
theorem clz (d b) : Statement (.clz d b) := Nat.le_of_ble_eq_true rfl
theorem clzVk (d b) : Statement (.clzVk d b) := Nat.le_of_ble_eq_true rfl
theorem popc (d b) : Statement (.popc d b) := Nat.le_of_ble_eq_true rfl
theorem popcVk (d b) : Statement (.popcVk d b) := Nat.le_of_ble_eq_true rfl
theorem brev (d b) : Statement (.brev d b) := Nat.le_of_ble_eq_true rfl
theorem brevVk (d b) : Statement (.brevVk d b) := Nat.le_of_ble_eq_true rfl
theorem bfx (d a b) : Statement (.bfx d a b) := Nat.le_of_ble_eq_true rfl
theorem bfxVk (d a b) : Statement (.bfxVk d a b) := Nat.le_of_ble_eq_true rfl
theorem bfi (d a b) : Statement (.bfi d a b) := Nat.le_of_ble_eq_true rfl
theorem bfiVk (d a b) : Statement (.bfiVk d a b) := Nat.le_of_ble_eq_true rfl
theorem sel (d a b) : Statement (.sel d a b) := Nat.le_of_ble_eq_true rfl
theorem selVk (d a b) : Statement (.selVk d a b) := Nat.le_of_ble_eq_true rfl
theorem mov (d b) : Statement (.mov d b) := Nat.le_of_ble_eq_true rfl
theorem movk (d b) : Statement (.movk d b) := Nat.le_of_ble_eq_true rfl
theorem cmp (d a b) : Statement (.cmp d a b) := Nat.le_of_ble_eq_true rfl
theorem cmpVk (d a b) : Statement (.cmpVk d a b) := Nat.le_of_ble_eq_true rfl
theorem movi (d imm) : Statement (.movi d imm) := Nat.le_of_ble_eq_true rfl
theorem fadd (d a b) : Statement (.fadd d a b) := Nat.le_of_ble_eq_true rfl
theorem faddVk (d a b) : Statement (.faddVk d a b) := Nat.le_of_ble_eq_true rfl
theorem fsub (d a b) : Statement (.fsub d a b) := Nat.le_of_ble_eq_true rfl
theorem fsubVk (d a b) : Statement (.fsubVk d a b) := Nat.le_of_ble_eq_true rfl
theorem fmul (d a b) : Statement (.fmul d a b) := Nat.le_of_ble_eq_true rfl
theorem fmulVk (d a b) : Statement (.fmulVk d a b) := Nat.le_of_ble_eq_true rfl
theorem fma (d a b) : Statement (.fma d a b) := Nat.le_of_ble_eq_true rfl
theorem fmaVk (d a b) : Statement (.fmaVk d a b) := Nat.le_of_ble_eq_true rfl
theorem fms (d a b) : Statement (.fms d a b) := Nat.le_of_ble_eq_true rfl
theorem fmsVk (d a b) : Statement (.fmsVk d a b) := Nat.le_of_ble_eq_true rfl
theorem fmin (d a b) : Statement (.fmin d a b) := Nat.le_of_ble_eq_true rfl
theorem fminVk (d a b) : Statement (.fminVk d a b) := Nat.le_of_ble_eq_true rfl
theorem fmax (d a b) : Statement (.fmax d a b) := Nat.le_of_ble_eq_true rfl
theorem fmaxVk (d a b) : Statement (.fmaxVk d a b) := Nat.le_of_ble_eq_true rfl
theorem fabs (d b) : Statement (.fabs d b) := Nat.le_of_ble_eq_true rfl
theorem fabsVk (d b) : Statement (.fabsVk d b) := Nat.le_of_ble_eq_true rfl
theorem fneg (d b) : Statement (.fneg d b) := Nat.le_of_ble_eq_true rfl
theorem fnegVk (d b) : Statement (.fnegVk d b) := Nat.le_of_ble_eq_true rfl
theorem fcmp (d a b) : Statement (.fcmp d a b) := Nat.le_of_ble_eq_true rfl
theorem fcmpVk (d a b) : Statement (.fcmpVk d a b) := Nat.le_of_ble_eq_true rfl
theorem fcvt (d a b) : Statement (.fcvt d a b) := Nat.le_of_ble_eq_true rfl
theorem fcvtVk (d a b) : Statement (.fcvtVk d a b) := Nat.le_of_ble_eq_true rfl
theorem frnd (d b) : Statement (.frnd d b) := Nat.le_of_ble_eq_true rfl
theorem frndVk (d b) : Statement (.frndVk d b) := Nat.le_of_ble_eq_true rfl
theorem fclass (d b) : Statement (.fclass d b) := Nat.le_of_ble_eq_true rfl
theorem fclassVk (d b) : Statement (.fclassVk d b) := Nat.le_of_ble_eq_true rfl
theorem fdot2 (d a b) : Statement (.fdot2 d a b) := Nat.le_of_ble_eq_true rfl
theorem fdot2Vk (d a b) : Statement (.fdot2Vk d a b) := Nat.le_of_ble_eq_true rfl
theorem idot4 (d a b) : Statement (.idot4 d a b) := Nat.le_of_ble_eq_true rfl
theorem idot4Vk (d a b) : Statement (.idot4Vk d a b) := Nat.le_of_ble_eq_true rfl
theorem frcp (d b) : Statement (.frcp d b) := Nat.le_of_ble_eq_true rfl
theorem frcpVk (d b) : Statement (.frcpVk d b) := Nat.le_of_ble_eq_true rfl
theorem frsq (d b) : Statement (.frsq d b) := Nat.le_of_ble_eq_true rfl
theorem frsqVk (d b) : Statement (.frsqVk d b) := Nat.le_of_ble_eq_true rfl
theorem fsqrt (d b) : Statement (.fsqrt d b) := Nat.le_of_ble_eq_true rfl
theorem fsqrtVk (d b) : Statement (.fsqrtVk d b) := Nat.le_of_ble_eq_true rfl
theorem fex2 (d b) : Statement (.fex2 d b) := Nat.le_of_ble_eq_true rfl
theorem fex2Vk (d b) : Statement (.fex2Vk d b) := Nat.le_of_ble_eq_true rfl
theorem flg2 (d b) : Statement (.flg2 d b) := Nat.le_of_ble_eq_true rfl
theorem flg2Vk (d b) : Statement (.flg2Vk d b) := Nat.le_of_ble_eq_true rfl
theorem ftanh (d b) : Statement (.ftanh d b) := Nat.le_of_ble_eq_true rfl
theorem ftanhVk (d b) : Statement (.ftanhVk d b) := Nat.le_of_ble_eq_true rfl
theorem pand (d a b) : Statement (.pand d a b) := Nat.le_of_ble_eq_true rfl
theorem por (d a b) : Statement (.por d a b) := Nat.le_of_ble_eq_true rfl
theorem pxor (d a b) : Statement (.pxor d a b) := Nat.le_of_ble_eq_true rfl
theorem pnot (d b) : Statement (.pnot d b) := Nat.le_of_ble_eq_true rfl
theorem pmov (d b) : Statement (.pmov d b) := Nat.le_of_ble_eq_true rfl
theorem shfl (d a b) : Statement (.shfl d a b) := Nat.le_of_ble_eq_true rfl
theorem shflVk (d a b) : Statement (.shflVk d a b) := Nat.le_of_ble_eq_true rfl
theorem bcast (d a n) : Statement (.bcast d a n) := Nat.le_of_ble_eq_true rfl
theorem vote (d a op) : Statement (.vote d a op) := Nat.le_of_ble_eq_true rfl
theorem lsum (d f b) : Statement (.lsum d f b) := Nat.le_of_ble_eq_true rfl
theorem lscan (d f b) : Statement (.lscan d f b) := Nat.le_of_ble_eq_true rfl
theorem kadd (d a b) : Statement (.kadd d a b) := Nat.le_of_ble_eq_true rfl
theorem ksub (d a b) : Statement (.ksub d a b) := Nat.le_of_ble_eq_true rfl
theorem kmul (d a b) : Statement (.kmul d a b) := Nat.le_of_ble_eq_true rfl
theorem kmulh (d a b) : Statement (.kmulh d a b) := Nat.le_of_ble_eq_true rfl
theorem kand (d a b) : Statement (.kand d a b) := Nat.le_of_ble_eq_true rfl
theorem kor (d a b) : Statement (.kor d a b) := Nat.le_of_ble_eq_true rfl
theorem kxor (d a b) : Statement (.kxor d a b) := Nat.le_of_ble_eq_true rfl
theorem kshl (d a b) : Statement (.kshl d a b) := Nat.le_of_ble_eq_true rfl
theorem kshr (d a b) : Statement (.kshr d a b) := Nat.le_of_ble_eq_true rfl
theorem ksar (d a b) : Statement (.ksar d a b) := Nat.le_of_ble_eq_true rfl
theorem kmin (d a b) : Statement (.kmin d a b) := Nat.le_of_ble_eq_true rfl
theorem kmax (d a b) : Statement (.kmax d a b) := Nat.le_of_ble_eq_true rfl
theorem kmov (d b) : Statement (.kmov d b) := Nat.le_of_ble_eq_true rfl
theorem kmovi (d imm) : Statement (.kmovi d imm) := Nat.le_of_ble_eq_true rfl
theorem kcmp (d a b) : Statement (.kcmp d a b) := Nat.le_of_ble_eq_true rfl
theorem ksel (d a b) : Statement (.ksel d a b) := Nat.le_of_ble_eq_true rfl
theorem qand (d a b) : Statement (.qand d a b) := Nat.le_of_ble_eq_true rfl
theorem qor (d a b) : Statement (.qor d a b) := Nat.le_of_ble_eq_true rfl
theorem qnot (d b) : Statement (.qnot d b) := Nat.le_of_ble_eq_true rfl
theorem rqmove (d a) : Statement (.rqmove d a) := Nat.le_of_ble_eq_true rfl
theorem br (d imm) : Statement (.br d imm) := Nat.le_of_ble_eq_true rfl
theorem jmp (off) : Statement (.jmp off) := Nat.le_of_ble_eq_true rfl
theorem call (off) : Statement (.call off) := Nat.le_of_ble_eq_true rfl
theorem ret (a) : Statement (.ret a) := Nat.le_of_ble_eq_true rfl
theorem jmpk (a) : Statement (.jmpk a) := Nat.le_of_ble_eq_true rfl
theorem mkj (imm) : Statement (.mkj imm) := Nat.le_of_ble_eq_true rfl
theorem brv (d imm) : Statement (.brv d imm) := Nat.le_of_ble_eq_true rfl
theorem jn : Statement (.jn) := Nat.le_of_ble_eq_true rfl
theorem exitI : Statement (.exitI) := Nat.le_of_ble_eq_true rfl
theorem nop : Statement (.nop) := Nat.le_of_ble_eq_true rfl
theorem mdset (imm) : Statement (.mdset imm) := Nat.le_of_ble_eq_true rfl
theorem mdget (d) : Statement (.mdget d) := Nat.le_of_ble_eq_true rfl
theorem lcrd (d) : Statement (.lcrd d) := Nat.le_of_ble_eq_true rfl
theorem lcadv (a) : Statement (.lcadv a) := Nat.le_of_ble_eq_true rfl
theorem cede (a) : Statement (.cede a) := Nat.le_of_ble_eq_true rfl
theorem rqset (a) : Statement (.rqset a) := Nat.le_of_ble_eq_true rfl
theorem ldB (d a b) : Statement (.ldB d a b) := Nat.le_of_ble_eq_true rfl
theorem ldH (d a b) : Statement (.ldH d a b) := Nat.le_of_ble_eq_true rfl
theorem ldW (d a b) : Statement (.ldW d a b) := Nat.le_of_ble_eq_true rfl
theorem ldD (d a b) : Statement (.ldD d a b) := Nat.le_of_ble_eq_true rfl
theorem ldQ (d a b) : Statement (.ldQ d a b) := Nat.le_of_ble_eq_true rfl
theorem stB (d a b) : Statement (.stB d a b) := Nat.le_of_ble_eq_true rfl
theorem stH (d a b) : Statement (.stH d a b) := Nat.le_of_ble_eq_true rfl
theorem stW (d a b) : Statement (.stW d a b) := Nat.le_of_ble_eq_true rfl
theorem stD (d a b) : Statement (.stD d a b) := Nat.le_of_ble_eq_true rfl
theorem stQ (d a b) : Statement (.stQ d a b) := Nat.le_of_ble_eq_true rfl
theorem ldk (d a n) : Statement (.ldk d a n) := Nat.le_of_ble_eq_true rfl
theorem stk (d a n) : Statement (.stk d a n) := Nat.le_of_ble_eq_true rfl
theorem ldsB (d a b) : Statement (.ldsB d a b) := Nat.le_of_ble_eq_true rfl
theorem ldsH (d a b) : Statement (.ldsH d a b) := Nat.le_of_ble_eq_true rfl
theorem ldsW (d a b) : Statement (.ldsW d a b) := Nat.le_of_ble_eq_true rfl
theorem ldsD (d a b) : Statement (.ldsD d a b) := Nat.le_of_ble_eq_true rfl
theorem ldsQ (d a b) : Statement (.ldsQ d a b) := Nat.le_of_ble_eq_true rfl
theorem stsB (d a b) : Statement (.stsB d a b) := Nat.le_of_ble_eq_true rfl
theorem stsH (d a b) : Statement (.stsH d a b) := Nat.le_of_ble_eq_true rfl
theorem stsW (d a b) : Statement (.stsW d a b) := Nat.le_of_ble_eq_true rfl
theorem stsD (d a b) : Statement (.stsD d a b) := Nat.le_of_ble_eq_true rfl
theorem stsQ (d a b) : Statement (.stsQ d a b) := Nat.le_of_ble_eq_true rfl
theorem pf (h a b) : Statement (.pf h a b) := Nat.le_of_ble_eq_true rfl
theorem radd (d a b) : Statement (.radd d a b) := Nat.le_of_ble_eq_true rfl
theorem rfadd (d a b) : Statement (.rfadd d a b) := Nat.le_of_ble_eq_true rfl
theorem rmin (d a b) : Statement (.rmin d a b) := Nat.le_of_ble_eq_true rfl
theorem rmax (d a b) : Statement (.rmax d a b) := Nat.le_of_ble_eq_true rfl
theorem rfmin (d a b) : Statement (.rfmin d a b) := Nat.le_of_ble_eq_true rfl
theorem rfmax (d a b) : Statement (.rfmax d a b) := Nat.le_of_ble_eq_true rfl
theorem rand (d a b) : Statement (.rand d a b) := Nat.le_of_ble_eq_true rfl
theorem ror (d a b) : Statement (.ror d a b) := Nat.le_of_ble_eq_true rfl
theorem rxor (d a b) : Statement (.rxor d a b) := Nat.le_of_ble_eq_true rfl
theorem axchg (d a b) : Statement (.axchg d a b) := Nat.le_of_ble_eq_true rfl
theorem acas (d a b) : Statement (.acas d a b) := Nat.le_of_ble_eq_true rfl
theorem aadd (d a b) : Statement (.aadd d a b) := Nat.le_of_ble_eq_true rfl
theorem amin (d a b) : Statement (.amin d a b) := Nat.le_of_ble_eq_true rfl
theorem amax (d a b) : Statement (.amax d a b) := Nat.le_of_ble_eq_true rfl
theorem aand (d a b) : Statement (.aand d a b) := Nat.le_of_ble_eq_true rfl
theorem aor (d a b) : Statement (.aor d a b) := Nat.le_of_ble_eq_true rfl
theorem axor (d a b) : Statement (.axor d a b) := Nat.le_of_ble_eq_true rfl
theorem ldacq (d a) : Statement (.ldacq d a) := Nat.le_of_ble_eq_true rfl
theorem strel (a b) : Statement (.strel a b) := Nat.le_of_ble_eq_true rfl
theorem waita (c a b) : Statement (.waita c a b) := Nat.le_of_ble_eq_true rfl
theorem bar (n cnt) : Statement (.bar n cnt) := Nat.le_of_ble_eq_true rfl
theorem bara (n cnt) : Statement (.bara n cnt) := Nat.le_of_ble_eq_true rfl
theorem barw (n) : Statement (.barw n) := Nat.le_of_ble_eq_true rfl
theorem mma (t a) : Statement (.mma t a) := Nat.le_of_ble_eq_true rfl
theorem mmaz (t a) : Statement (.mmaz t a) := Nat.le_of_ble_eq_true rfl
theorem mfence (d) : Statement (.mfence d) := Nat.le_of_ble_eq_true rfl
theorem mwait (n) : Statement (.mwait n) := Nat.le_of_ble_eq_true rfl
theorem acczero (t) : Statement (.acczero t) := Nat.le_of_ble_eq_true rfl
theorem accrd (d t b) : Statement (.accrd d t b) := Nat.le_of_ble_eq_true rfl
theorem accwr (t a b) : Statement (.accwr t a b) := Nat.le_of_ble_eq_true rfl
theorem accdrain (t a z way) : Statement (.accdrain t a z way) := Nat.le_of_ble_eq_true rfl
theorem xfr (ch a b) : Statement (.xfr ch a b) := Nat.le_of_ble_eq_true rfl
theorem xfrw : Statement (.xfrw) := Nat.le_of_ble_eq_true rfl
theorem xfrq (d) : Statement (.xfrq d) := Nat.le_of_ble_eq_true rfl
theorem stmc (d a b) : Statement (.stmc d a b) := Nat.le_of_ble_eq_true rfl
theorem fenceSys : Statement (.fenceSys) := Nat.le_of_ble_eq_true rfl
theorem fstat (d) : Statement (.fstat d) := Nat.le_of_ble_eq_true rfl
theorem fclr (a) : Statement (.fclr a) := Nat.le_of_ble_eq_true rfl
theorem trap (n) : Statement (.trap n) := Nat.le_of_ble_eq_true rfl
theorem asrt (d b) : Statement (.asrt d b) := Nat.le_of_ble_eq_true rfl
theorem rfe : Statement (.rfe) := Nat.le_of_ble_eq_true rfl
theorem csrr (d n) : Statement (.csrr d n) := Nat.le_of_ble_eq_true rfl
theorem csrw (a n) : Statement (.csrw a n) := Nat.le_of_ble_eq_true rfl
theorem launch (d a) : Statement (.launch d a) := Nat.le_of_ble_eq_true rfl
theorem objw (a b) : Statement (.objw a b) := Nat.le_of_ble_eq_true rfl
theorem objfence : Statement (.objfence) := Nat.le_of_ble_eq_true rfl
theorem tscrd (d) : Statement (.tscrd d) := Nat.le_of_ble_eq_true rfl
theorem icinv (a) : Statement (.icinv a) := Nat.le_of_ble_eq_true rfl
theorem brkp (n) : Statement (.brkp n) := Nat.le_of_ble_eq_true rfl
theorem halt (a) : Statement (.halt a) := Nat.le_of_ble_eq_true rfl
theorem lit (l w) : Statement (.lit l w) := Nat.le_of_ble_eq_true rfl
theorem unassignedFirstByte (w) : Statement (.unassignedFirstByte w) := Nat.le_of_ble_eq_true rfl
theorem instructionFetchFault (l) : Statement (.instructionFetchFault l) := Nat.le_of_ble_eq_true rfl
theorem turnPerform (gid) : Statement (.turnPerform gid) := Nat.le_of_ble_eq_true rfl
theorem cedeReentry (gid) : Statement (.cedeReentry gid) := Nat.le_of_ble_eq_true rfl
theorem publicationApply (n) : Statement (.publicationApply n) := Nat.le_of_ble_eq_true rfl
theorem reductionContributionArrive (n) : Statement (.reductionContributionArrive n) := Nat.le_of_ble_eq_true rfl
theorem copyEngineRead (id) : Statement (.copyEngineRead id) := Nat.le_of_ble_eq_true rfl
theorem matrixProductComplete (gid) : Statement (.matrixProductComplete gid) := Nat.le_of_ble_eq_true rfl
theorem systemCopyComplete (id) : Statement (.systemCopyComplete id) := Nat.le_of_ble_eq_true rfl
theorem legEnd : Statement (.legEnd) := Nat.le_of_ble_eq_true rfl
theorem progressMonitorTimeout (part) : Statement (.progressMonitorTimeout part) := Nat.le_of_ble_eq_true rfl
theorem serviceWriteApply (n) : Statement (.serviceWriteApply n) := Nat.le_of_ble_eq_true rfl
theorem translationChangeComplete (n) : Statement (.translationChangeComplete n) := Nat.le_of_ble_eq_true rfl
theorem movingDrainComplete (n) : Statement (.movingDrainComplete n) := Nat.le_of_ble_eq_true rfl
theorem directoryEntryDrop (ln) : Statement (.directoryEntryDrop ln) := Nat.le_of_ble_eq_true rfl
theorem directoryError (ln) : Statement (.directoryError ln) := Nat.le_of_ble_eq_true rfl
theorem uncorrectableData (cno) : Statement (.uncorrectableData cno) := Nat.le_of_ble_eq_true rfl
theorem hostMemRead (pa) : Statement (.hostMemRead pa) := Nat.le_of_ble_eq_true rfl
theorem hostMemWrite (cno cells) : Statement (.hostMemWrite cno cells) := Nat.le_of_ble_eq_true rfl
theorem translationApertureWrite (x val) : Statement (.translationApertureWrite x val) := Nat.le_of_ble_eq_true rfl
theorem hostSnoop (ln) : Statement (.hostSnoop ln) := Nat.le_of_ble_eq_true rfl
theorem owner (m val) : Statement (.owner m val) := Nat.le_of_ble_eq_true rfl
theorem hbeat (m) : Statement (.hbeat m) := Nat.le_of_ble_eq_true rfl
theorem heartbeatLapse : Statement (.heartbeatLapse) := Nat.le_of_ble_eq_true rfl
theorem dpcfg (m val) : Statement (.dpcfg m val) := Nat.le_of_ble_eq_true rfl
theorem pstat (m port val) : Statement (.pstat m port val) := Nat.le_of_ble_eq_true rfl
theorem sparePortBind (m i val) : Statement (.sparePortBind m i val) := Nat.le_of_ble_eq_true rfl
theorem mgmtRegisterWrite (m off val) : Statement (.mgmtRegisterWrite m off val) := Nat.le_of_ble_eq_true rfl
theorem contextStart (m part cmd span) : Statement (.contextStart m part cmd span) := Nat.le_of_ble_eq_true rfl
theorem contextSuspend (m part cmd) : Statement (.contextSuspend m part cmd) := Nat.le_of_ble_eq_true rfl
theorem contextResume (m part cmd) : Statement (.contextResume m part cmd) := Nat.le_of_ble_eq_true rfl
theorem killContext (m part cmd) : Statement (.killContext m part cmd) := Nat.le_of_ble_eq_true rfl
theorem killLaunch (m part cmd) : Statement (.killLaunch m part cmd) := Nat.le_of_ble_eq_true rfl
theorem killBlock (m part cmd) : Statement (.killBlock m part cmd) := Nat.le_of_ble_eq_true rfl
theorem preEmptBlock (m part cmd) : Statement (.preEmptBlock m part cmd) := Nat.le_of_ble_eq_true rfl
theorem setParameterLegq (m part cmd) : Statement (.setParameterLegq m part cmd) := Nat.le_of_ble_eq_true rfl
theorem setParameterSeed (m part cmd) : Statement (.setParameterSeed m part cmd) := Nat.le_of_ble_eq_true rfl
theorem setParameterNondet (m part cmd) : Statement (.setParameterNondet m part cmd) := Nat.le_of_ble_eq_true rfl
theorem setParameterQuota (m part cmd) : Statement (.setParameterQuota m part cmd) := Nat.le_of_ble_eq_true rfl
theorem setParameterOvlb (m part cmd) : Statement (.setParameterOvlb m part cmd) := Nat.le_of_ble_eq_true rfl
theorem setParameterScrb (m part cmd) : Statement (.setParameterScrb m part cmd) := Nat.le_of_ble_eq_true rfl
theorem setParameterMctb (m part cmd) : Statement (.setParameterMctb m part cmd) := Nat.le_of_ble_eq_true rfl
theorem flitReceive (port crcOk) : Statement (.flitReceive port crcOk) := Nat.le_of_ble_eq_true rfl
theorem linkSilenceTimeout (port) : Statement (.linkSilenceTimeout port) := Nat.le_of_ble_eq_true rfl
theorem routerFailure : Statement (.routerFailure) := Nat.le_of_ble_eq_true rfl
theorem fabricReadRequest (p) : Statement (.fabricReadRequest p) := Nat.le_of_ble_eq_true rfl
theorem readResponse (p) : Statement (.readResponse p) := Nat.le_of_ble_eq_true rfl
theorem lineWrite (p) : Statement (.lineWrite p) := Nat.le_of_ble_eq_true rfl
theorem fabricPublication (p) : Statement (.fabricPublication p) := Nat.le_of_ble_eq_true rfl
theorem fabricTurnEntry (p) : Statement (.fabricTurnEntry p) := Nat.le_of_ble_eq_true rfl
theorem turnResult (p) : Statement (.turnResult p) := Nat.le_of_ble_eq_true rfl
theorem fabricDeferredReduction (p) : Statement (.fabricDeferredReduction p) := Nat.le_of_ble_eq_true rfl
theorem combinedReduction (p) : Statement (.combinedReduction p) := Nat.le_of_ble_eq_true rfl
theorem routerCombine (p) : Statement (.routerCombine p) := Nat.le_of_ble_eq_true rfl
theorem multicastWrite (p) : Statement (.multicastWrite p) := Nat.le_of_ble_eq_true rfl
theorem acknowledgement (p) : Statement (.acknowledgement p) := Nat.le_of_ble_eq_true rfl
theorem failureNotice (p) : Statement (.failureNotice p) := Nat.le_of_ble_eq_true rfl
theorem legEndAgreement (p) : Statement (.legEndAgreement p) := Nat.le_of_ble_eq_true rfl
theorem reservedPacketType (p) : Statement (.reservedPacketType p) := Nat.le_of_ble_eq_true rfl
theorem writeCombiningTimer (n) : Statement (.writeCombiningTimer n) := Nat.le_of_ble_eq_true rfl
theorem ringHop (ring link) : Statement (.ringHop ring link) := Nat.le_of_ble_eq_true rfl
theorem packetEject (ring endpoint) : Statement (.packetEject ring endpoint) := Nat.le_of_ble_eq_true rfl
theorem powerOn (fw) : Statement (.powerOn fw) := Nat.le_of_ble_eq_true rfl
theorem dramTrainingComplete (t) : Statement (.dramTrainingComplete t) := Nat.le_of_ble_eq_true rfl
theorem firmwareImageLoad (fw) : Statement (.firmwareImageLoad fw) := Nat.le_of_ble_eq_true rfl
theorem thermalTrip (part) : Statement (.thermalTrip part) := Nat.le_of_ble_eq_true rfl
theorem spdmRequest (req) : Statement (.spdmRequest req) := Nat.le_of_ble_eq_true rfl
theorem linkTrained (port) : Statement (.linkTrained port) := Nat.le_of_ble_eq_true rfl

end Sys2Proof.Laws.Length
end

