-- ==== Sys2Proof/Laws/PlainStore.lean ====
section
/-! SUPPORT. What a plain store does (R88, R103, R104, R106), said once: what changes, and what is read after it. -/

namespace Sys2Proof.Machine

/-- The bytes of a line share its home (R126, R279: a stripe is a whole number of lines). -/
theorem homedAway_line {c : Cpu} {m : Cells} {obj : Nat} {r : Record} (h : c.record m obj = some r) (hw : Module) (a : Nat) :
    homedAway hw r (vaOff (lineOf a)) = homedAway hw r (vaOff a) := by
  unfold homedAway
  by_cases h2 : r.home = 2
  · have hs : 12 ≤ r.slog := by
      obtain ⟨q, hq, rfl⟩ := Option.map_eq_some_iff.1 h
      have e1 : ∀ k p, (hostHome k p q).home = q.home := by intro k p; unfold hostHome; split <;> rfl
      have e2 : ∀ k p, (hostHome k p q).slog = q.slog := by intro k p; unfold hostHome; split <;> rfl
      rw [e1] at h2; rw [e2]
      unfold recordOf at hq
      split at hq
      · simp at hq
      · dsimp only at hq
        split at hq
        · rename_i hv
          simp only [Option.some.injEq] at hq
          subst hq
          unfold recordValid at hv
          simp only [Bool.and_eq_true, decide_eq_true_eq] at hv
          have := hv.1.1.1.1.1.1.1.1.2
          rw [if_pos h2] at this
          simp only [Bool.and_eq_true, decide_eq_true_eq] at this
          exact this.1.1.2
        · simp at hq
    have hd : vaOff (lineOf a) / 2 ^ r.slog = vaOff a / 2 ^ r.slog := by
      obtain ⟨k, hk⟩ : ∃ k, r.slog = 7 + k := ⟨r.slog - 7, by omega⟩
      rw [hk, pow_add, ← Nat.div_div_eq_div_mul, ← Nat.div_div_eq_div_mul]
      congr 1
      unfold vaOff lineOf; omega
    unfold homeModule
    simp only [h2, hd]
  · have e : ∀ off : Nat, homeModule hw r off = if r.home = 3 then r.host else some hw.number := by
      intro off
      unfold homeModule
      split
      · exact absurd ‹_› h2
      · simp_all
      · rw [if_neg ‹_›]
    simp only [e]

/-- A store all of whose bytes are homed here, into a PARCEL or PRIVATE object: the group's own bytes of the leg, tags and marks (R103). -/
theorem plainStore_through {m : Cells} {r : Record} {c : Cpu} {s : Cells} {obj : Nat} (hr : c.record m obj = some r)
    (hh : ∀ e ∈ s, homedAway c.hw r (vaOff e.1) = none) (ht : storesThrough r = true) :
    plainStore m r c s [] = { c with ctx := parcelPut (s.foldl (fun x e => tagLine x r c.grp.gid true e.1) (markPlain c.ctx c.grp.gid c.hw.number s)) c.grp.gid s } := by
  unfold plainStore
  have hm : (s.filter fun e => (homedAway c.hw r (vaOff e.1)).isNone) = s := by
    rw [List.filter_eq_self]; intro e he; rw [hh e he]; rfl
  dsimp only
  rw [hm, if_pos (by exact ht)]
  have : ∀ (l : List (Nat × Cells)) (c' : Cpu), c'.hw = c.hw → (∀ x ∈ l, homedAway c.hw r (vaOff x.1) = none) →
      l.foldl (fun c l => match homedAway c.hw r (vaOff l.1) with
        | some n => wcStore c n l
        | none => c) c' = c' := by
    intro l
    induction l with
    | nil => exact fun _ _ _ => rfl
    | cons x l ih =>
      intro c' h1 h2
      rw [List.foldl_cons, h1, h2 x (by simp)]
      exact ih c' h1 fun y hy => h2 y (List.mem_cons_of_mem _ hy)
  refine this _ _ rfl ?_
  intro x hx
  obtain ⟨e, he, hl⟩ := (byLine_mem_iff s x.1).1 (List.mem_map_of_mem hx)
  rw [← hl, homedAway_line hr, hh e he]

theorem plainStore_sketch {m : Cells} {r : Record} {c : Cpu} {s : Cells} (hh : ∀ e ∈ s, homedAway c.hw r (vaOff e.1) = none)
    (ht : storesThrough r = false) :
    plainStore m r c s [] = sketchStore m { c with ctx := markPlain c.ctx c.grp.gid c.hw.number s } s [] := by
  unfold plainStore
  have hm : (s.filter fun e => (homedAway c.hw r (vaOff e.1)).isNone) = s := by
    rw [List.filter_eq_self]; intro e he; rw [hh e he]; rfl
  dsimp only
  rw [hm, if_neg (by unfold storesThrough at ht; rw [ht]; simp)]

/-- Publications of sketch lines that are all homed here. -/
theorem publishAll_here {m : Cells} {st : Stamp} (sk : List (Nat × Cells)) {c : Cpu}
    (h : ∀ l ∈ sk, bytesHere c.hw (c.record m (vaObj l.1)) l.1 = none) :
    publishAll m st sk c = { c with ctx := { c.ctx with flight := c.ctx.flight ++ published st sk } } := by
  unfold publishAll published
  induction sk generalizing c with
  | nil => simp
  | cons l sk ih =>
    rw [List.foldl_cons]
    have : publishLine m st c l = { c with ctx := { c.ctx with flight := c.ctx.flight ++ [.publication st l.2] } } := by
      unfold publishLine; rw [h l (by simp)]
    rw [this, ih]
    · simp
    · intro x hx; exact h x (List.mem_cons_of_mem _ hx)

/-- How many lines a split has, and how many of them are new to a sketch. -/
theorem byLine_length {s : Cells} {ls : List Nat} (P : Nat → Prop) (hP : ∀ a, (∃ e ∈ s, e.1 = a) ↔ P a) (h : LinesOf P ls) :
    (byLine s).length = ls.length ∧ ∀ f : Nat → Bool, ((byLine s).filter fun l => f l.1).length = (ls.filter f).length := by
  have hk : ∀ l, l ∈ (byLine s).map Prod.fst ↔ l ∈ ls := by
    intro l
    rw [byLine_mem_iff, h.2]
    constructor
    · rintro ⟨e, he, hl⟩; exact ⟨e.1, (hP _).1 ⟨e, he, rfl⟩, hl⟩
    · rintro ⟨a, ha, hl⟩; obtain ⟨e, he, rfl⟩ := (hP a).2 ha; exact ⟨e, he, hl⟩
  have hp : ((byLine s).map Prod.fst).Perm ls := (List.perm_ext_iff_of_nodup (rising_nodup (rising_byLine s)) h.1).2 hk
  refine ⟨by simpa using hp.length_eq, fun f => ?_⟩
  rw [← (hp.filter f).length_eq, List.filter_map, List.length_map]
  rfl

/-- A sketch has a line for each one that a search finds. -/
theorem found_le (sk : List (Nat × Cells)) (ls : List Nat) (hn : ls.Nodup) :
    (ls.filter fun l => (get? sk l).isSome).length ≤ sk.length := by
  have h1 : (ls.filter fun l => (get? sk l).isSome).Nodup := hn.filter _
  have h2 : (ls.filter fun l => (get? sk l).isSome) ⊆ sk.map Prod.fst := by
    intro l hl
    have := (List.mem_filter.1 hl).2
    obtain ⟨y, hy⟩ := Option.isSome_iff_exists.1 this
    exact List.mem_map.2 ⟨_, get?_isSome_mem hy, rfl⟩
  have := (List.subperm_of_subset h1 h2).length_le
  simpa using this

theorem filter_split (ls : List Nat) (f : Nat → Bool) : ls.length = (ls.filter f).length + (ls.filter fun l => !f l).length := by
  induction ls with
  | nil => rfl
  | cons a l ih => by_cases h : f a = true <;> simp [h] <;> omega

/-- A store that fits into the sketch stays there (R88). -/
theorem sketchStore_fits {m : Cells} {c : Cpu} {s : Cells} {ls : List Nat} (P : Nat → Prop)
    (hP : ∀ a, (∃ e ∈ s, e.1 = a) ↔ P a) (h : LinesOf P ls) (hb : c.grp.bulk = false)
    (hf : sketchWith c.grp ls ≤ Config.sketchLines) :
    sketchStore m c s [] = { c with grp := { c.grp with sketch := sketchMerge c.grp.sketch s } } := by
  obtain ⟨h1, h2⟩ := byLine_length P hP h
  have h3 := h2 fun l => (get? c.grp.sketch l).isNone
  have h4 := found_le c.grp.sketch ls h.1
  have h5 := filter_split ls fun l => (get? c.grp.sketch l).isNone
  have h6 : (ls.filter fun l => !(get? c.grp.sketch l).isNone) = ls.filter fun l => (get? c.grp.sketch l).isSome := by
    apply List.filter_congr; intro l _; cases get? c.grp.sketch l <;> rfl
  unfold sketchWith at hf
  unfold sketchStore
  dsimp only
  rw [h6] at h5
  rw [if_neg (by rw [hb, h1]; simp; omega), if_neg (by rw [h3]; simp; omega)]

theorem homeByte_congr {c k : Cpu} {m : Cells} {r : Record} {gid : Nat} {view : Option (Stamp × Scope)} {a : Nat}
    (hp : get? k.ctx.parcel gid = get? c.ctx.parcel gid) (hv : k.ctx.versions = c.ctx.versions)
    (hf : ownFlight gid k.ctx.flight = ownFlight gid c.ctx.flight) (hn : k.hw.number = c.hw.number) :
    homeByte k m r gid view a = homeByte c m r gid view a := by
  unfold homeByte homeByteFor; rw [hp, hv, hf, hn]

/-- The group's own bytes of the leg after a write-through at its home. -/
theorem parcelPut_get (x : Ctx) (gid : Nat) (s : Cells) (hs : rising s = true) (k a : Nat) :
    get? ((get? (parcelPut x gid s).parcel k).getD []) a =
      if k = gid then (get? s a).or (get? ((get? x.parcel gid).getD []) a) else get? ((get? x.parcel k).getD []) a := by
  unfold parcelPut
  by_cases h : k = gid
  · subst h; rw [if_pos rfl]; simp only [get?_put_self, Option.getD_some]; exact get?_putAll _ _ hs
  · rw [if_neg h]; simp only [get?_put_ne _ h]

theorem tagCells_foldl (r : Record) (gid : Nat) (wrote : Bool) (l : Cells) (x : Ctx) :
    l.foldl (fun x e => tagLine x r gid wrote e.1) x = (l.map Prod.fst).foldl (fun x a => tagLine x r gid wrote a) x := by
  rw [List.foldl_map]

/-- What a plain store at this module does, where it fits into the sketch: everything it changes, and what the group and the others read
after it (R88, R100, R103, R104, R106). -/
theorem plainStore_spec {s : State} {obj : Nat} {r : Record} {cs : Cells} {ls : List Nat} {P : Nat → Prop} {c : Cpu}
    (hc : c.grp = s.cpu.grp ∧ c.ctx = s.cpu.ctx ∧ c.hw = { s.cpu.hw with dir := c.hw.dir })
    (hr : s.cpu.record s.mem obj = some r) (hs : rising cs = true) (hP : ∀ a, (∃ e ∈ cs, e.1 = a) ↔ P a) (hobj : ∀ a, P a → vaObj a = obj)
    (hT : PlainTarget s r P) (hl : LinesOf P ls) (hf : storesThrough r = false → sketchWith s.cpu.grp ls ≤ Config.sketchLines) :
    let k := plainStore s.mem r c cs []
    k.grp = { s.cpu.grp with sketch := k.grp.sketch } ∧ k.hw = { s.cpu.hw with dir := k.hw.dir } ∧
      k.ctx = { s.cpu.ctx with ptags := k.ctx.ptags, marks := k.ctx.marks, parcel := k.ctx.parcel } ∧
      (∀ q, q ∈ k.ctx.marks ↔ q ∈ s.cpu.ctx.marks ∨ plainMarks s P q) ∧
      (∀ q, q ∈ k.ctx.ptags ↔ q ∈ s.cpu.ctx.ptags ∨ tagsOf s obj true P q) ∧
      (∀ gid, gid ≠ s.cpu.grp.gid → get? k.ctx.parcel gid = get? s.cpu.ctx.parcel gid) ∧
      ∀ (m' : Cells), m' = s.mem → ∀ x, (match s.cpu.record m' (vaObj x) with
        | some q => loadByte { k with grp := { k.grp with fills := [] } } m' q x
        | none => 0) = (get? cs x).getD (seenByte s.forget x) := by
  obtain ⟨hg, hx, hh⟩ := hc
  have hrec : c.record s.mem obj = some r := by
    have e : hostHome c.hw s.cpu.ctx.span = hostHome s.cpu.hw s.cpu.ctx.span := by
      funext q; unfold hostHome; rw [hh]
    unfold Cpu.record; rw [hx, recordOf_dir s.cpu.hw c.hw s.mem _ _ (by rw [hh]) (by rw [hh]), e]; exact hr
  have hhome : ∀ e ∈ cs, homedAway c.hw r (vaOff e.1) = none := by
    intro e he
    rw [homedAway_congr s.cpu.hw c.hw _ _ (by rw [hh]) (by rw [hh]) (by rw [hh])]
    exact (hT.2 e.1 ((hP _).1 ⟨e, he, rfl⟩)).1
  obtain ⟨mk1, mk2⟩ := markPlain_spec s.cpu.grp.gid s.cpu.hw.number cs s.cpu.ctx
  have hnum : c.hw.number = s.cpu.hw.number := by rw [hh]
  have hmarks : ∀ q, q ∈ (markPlain s.cpu.ctx s.cpu.grp.gid s.cpu.hw.number cs).marks ↔ q ∈ s.cpu.ctx.marks ∨ plainMarks s P q := by
    intro q; rw [mk2 q]
    refine or_congr_right ⟨?_, ?_⟩
    · rintro ⟨e, he, rfl⟩; exact ⟨e.1, (hP _).1 ⟨e, he, rfl⟩, rfl⟩
    · rintro ⟨a, ha, rfl⟩; obtain ⟨e, he, rfl⟩ := (hP a).2 ha; exact ⟨e, he, rfl⟩
  have hget : ∀ x, (get? cs x).isSome = true → P x := by
    intro x hx
    obtain ⟨y, hy⟩ := Option.isSome_iff_exists.1 hx
    exact (hP x).1 ⟨_, get?_isSome_mem hy, rfl⟩
  cases ht : storesThrough r with
  | true =>
    have hm : r.mode = 1 ∨ r.mode = 3 := by unfold storesThrough at ht; simpa using ht
    rw [plainStore_through hrec hhome ht, tagCells_foldl, hg, hx, hnum]
    obtain ⟨t1, t2⟩ := tagLine_foldl r s.cpu.grp.gid true (cs.map Prod.fst) (markPlain s.cpu.ctx s.cpu.grp.gid s.cpu.hw.number cs)
    generalize hy : (cs.map Prod.fst).foldl (fun x a => tagLine x r s.cpu.grp.gid true a)
        (markPlain s.cpu.ctx s.cpu.grp.gid s.cpu.hw.number cs) = y at t1 t2
    have hyp : y.parcel = s.cpu.ctx.parcel := by rw [t1, mk1]
    refine ⟨rfl, hh, ?_, ?_, ?_, ?_, ?_⟩
    · show parcelPut y _ cs = _
      unfold parcelPut
      rw [t1, mk1]
    · intro q
      show q ∈ y.marks ↔ _
      rw [t1]; exact hmarks q
    · intro q
      show q ∈ y.ptags ↔ _
      rw [t2 q, mk1]
      refine or_congr_right ⟨?_, ?_⟩
      · rintro ⟨-, a, ha, rfl⟩
        obtain ⟨e, he, rfl⟩ := List.mem_map.1 ha
        have := (hP e.1).1 ⟨e, he, rfl⟩
        exact ⟨r, e.1, hr, hm, this, (hT.2 _ this).1, rfl⟩
      · rintro ⟨r', a, h1, -, h3, -, rfl⟩
        obtain ⟨e, he, rfl⟩ := (hP a).2 h3
        exact ⟨hm, e.1, List.mem_map_of_mem he, rfl⟩
    · intro gid hne
      show get? (put y.parcel _ _) gid = _
      rw [get?_put_ne _ hne, hyp]
    · intro m' hm' x
      subst hm'
      cases hq : s.cpu.record s.mem (vaObj x) with
      | none =>
        simp only
        have : get? cs x = none := by
          cases h : get? cs x with
          | none => rfl
          | some b =>
            have := hobj x (hget x (by rw [h]; rfl))
            rw [this, hr] at hq; simp at hq
        rw [this]
        unfold seenByte
        rw [show s.forget.cpu.record s.forget.mem (vaObj x) = none from hq]; rfl
      | some q =>
        simp only
        have hsee : seenByte s.forget x = loadByte s.forget.cpu s.mem q x := seenByte_eq hq
        rw [hsee]
        unfold loadByte
        show (match sketchByte s.cpu.grp.sketch x with
          | some b => b
          | none => homeByte _ s.mem q s.cpu.grp.gid s.cpu.grp.view x) = _
        cases hk : sketchByte s.cpu.grp.sketch x with
        | some b =>
          simp only
          have : get? cs x = none := by
            cases h : get? cs x with
            | none => rfl
            | some b' =>
              have := (hT.2 x (hget x (by rw [h]; rfl))).2 ht
              rw [hk] at this; simp at this
          rw [this]
          show b = (match sketchByte s.cpu.grp.sketch x with | some b => b | none => _)
          rw [hk]
        | none =>
          show _ = (get? cs x).getD (match sketchByte s.cpu.grp.sketch x with | some b => b | none => homeByte s.forget.cpu s.mem q s.cpu.grp.gid s.cpu.grp.view x)
          rw [hk]
          simp only
          cases hcs : get? cs x with
          | none =>
            unfold homeByte homeByteFor
            have e1 : get? ((get? (parcelPut y s.cpu.grp.gid cs).parcel s.cpu.grp.gid).getD []) x = get? ((get? s.cpu.ctx.parcel s.cpu.grp.gid).getD []) x := by
              rw [parcelPut_get _ _ _ hs, if_pos rfl, hcs, hyp]; rfl
            have e2 : y.versions = s.cpu.ctx.versions ∧ y.flight = s.cpu.ctx.flight := by rw [t1, mk1]; exact ⟨rfl, rfl⟩
            show (match q.mode with
              | 2 => baseByte s.mem q (vaOff x)
              | 1 | 3 => (get? ((get? (parcelPut y s.cpu.grp.gid cs).parcel s.cpu.grp.gid).getD []) x).getD (baseByte s.mem q (vaOff x))
              | _ => ((newestByte (seesVersion c.hw.number s.cpu.grp.gid s.cpu.grp.view) (y.versions ++ ownFlight s.cpu.grp.gid y.flight) x).map Prod.snd).getD (baseByte s.mem q (vaOff x))) = _
            rw [e1, e2.1, e2.2, hnum]; rfl
          | some b =>
            have hoq : vaObj x = obj := hobj x (hget x (by rw [hcs]; rfl))
            rw [hoq, hr] at hq; simp only [Option.some.injEq] at hq; subst hq
            unfold homeByte homeByteFor
            have e1 : get? ((get? (parcelPut y s.cpu.grp.gid cs).parcel s.cpu.grp.gid).getD []) x = some b := by
              rw [parcelPut_get _ _ _ hs, if_pos rfl, hcs]; rfl
            rcases hm with hm | hm <;> simp only [hm, e1, Option.getD_some]
  | false =>
    rw [plainStore_sketch hhome ht]
    rw [sketchStore_fits P hP hl (by show c.grp.bulk = false; rw [hg]; exact hT.1 ht) (by show sketchWith c.grp ls ≤ _; rw [hg]; exact hf ht)]
    rw [hx, hg, hnum]
    refine ⟨?_, hh, ?_, hmarks, ?_, ?_, ?_⟩
    · rfl
    · show markPlain _ _ _ _ = _
      rw [mk1]
    · intro q
      show q ∈ (markPlain s.cpu.ctx s.cpu.grp.gid s.cpu.hw.number cs).ptags ↔ _
      rw [mk1]
      constructor
      · exact .inl
      · rintro (h | ⟨r', a, h1, h2, -⟩)
        · exact h
        · rw [hr] at h1; simp only [Option.some.injEq] at h1; subst h1
          unfold storesThrough at ht; simp at ht; omega
    · intro gid _
      show get? (markPlain s.cpu.ctx s.cpu.grp.gid s.cpu.hw.number cs).parcel gid = _
      rw [mk1]
    · intro m' hm' x
      subst hm'
      cases hq : s.cpu.record s.mem (vaObj x) with
      | none =>
        simp only
        have : get? cs x = none := by
          cases h : get? cs x with
          | none => rfl
          | some b =>
            have := hobj x (hget x (by rw [h]; rfl))
            rw [this, hr] at hq; simp at hq
        rw [this]
        unfold seenByte
        rw [show s.forget.cpu.record s.forget.mem (vaObj x) = none from hq]; rfl
      | some q =>
        simp only
        have hsee : seenByte s.forget x = loadByte s.forget.cpu s.mem q x := seenByte_eq hq
        rw [hsee]
        unfold loadByte
        show (match sketchByte (sketchMerge s.cpu.grp.sketch cs) x with
          | some b => b
          | none => homeByte _ s.mem q s.cpu.grp.gid s.cpu.grp.view x) = (get? cs x).getD (match sketchByte s.cpu.grp.sketch x with | some b => b | none => homeByte s.forget.cpu s.mem q s.cpu.grp.gid s.cpu.grp.view x)
        rw [sketchByte_sketchMerge _ _ hs]
        cases hcs : get? cs x with
        | some b => rfl
        | none =>
          simp only [Option.none_or, Option.getD_none]
          cases hk : sketchByte s.cpu.grp.sketch x with
          | some b => rfl
          | none =>
            simp only
            apply homeByte_congr
            · show get? (markPlain s.cpu.ctx s.cpu.grp.gid s.cpu.hw.number cs).parcel _ = _
              rw [mk1]; rfl
            · show (markPlain s.cpu.ctx s.cpu.grp.gid s.cpu.hw.number cs).versions = _
              rw [mk1]; rfl
            · show ownFlight _ (markPlain s.cpu.ctx s.cpu.grp.gid s.cpu.hw.number cs).flight = _
              rw [mk1]; rfl
            · exact hnum

end Sys2Proof.Machine
end

