-- ==== Sys2Proof/Laws/Sends.lean ====
section
/-! SUPPORT. Entries sent to queues of this module (R81), and write-combining entries sent to their homes (R344). -/

namespace Sys2Proof.Machine

/-- An entry that releases nothing, to a queue of this module. -/
theorem sendEntry_quiet {m : Cells} {c : Cpu} {e : Entry} {t : TurnWait} (hr : opReleases e.op = false) (hh : e.home = c.hw.number) :
    sendEntry m c e t = { c with grp := { c.grp with status := .turn t }, ctx := { c.ctx with queue := c.ctx.queue ++ [e] } } := by
  unfold sendEntry
  simp only [hr, hh, Bool.false_eq_true, if_false, if_true]

/-- The same for a releasing operation whose sketch lines are homed here (R84, R89). -/
theorem sendEntry_releases {m : Cells} {c : Cpu} {e : Entry} {t : TurnWait} (hr : opReleases e.op = true) (hh : e.home = c.hw.number)
    (hl : ∀ l ∈ c.grp.sketch, bytesHere c.hw (c.record m (vaObj l.1)) l.1 = none) :
    sendEntry m c e t = { c with
      grp := { c.grp with status := .turn t }
      ctx := { c.ctx with queue := c.ctx.queue ++ [e], flight := c.ctx.flight ++ published e.stamp c.grp.sketch } } := by
  unfold sendEntry
  rw [if_pos hr, publishAll_here _ hl]
  simp only [hh, if_true]

/-- A fold of buffered writes sends them all: no other field changes, and none of them stays in the buffer. -/
theorem sendWc_fold (l : List WcEntry) (c : Cpu) : (l.foldl sendWc c).grp = c.grp ∧ (l.foldl sendWc c).ctx = c.ctx ∧
    (l.foldl sendWc c).hw = { c.hw with
      wcb := c.hw.wcb.filter (fun e => !decide (e ∈ l))
      seqs := (l.foldl sendWc c).hw.seqs
      outbox := (l.foldl sendWc c).hw.outbox
      retry := (l.foldl sendWc c).hw.retry
      sentLog := (l.foldl sendWc c).hw.sentLog } := by
  induction l generalizing c with
  | nil => exact ⟨rfl, rfl, by simp⟩
  | cons e l ih =>
    obtain ⟨h1, h2, h3⟩ := ih (sendWc c e)
    refine ⟨h1.trans rfl, h2.trans rfl, ?_⟩
    rw [List.foldl_cons]
    refine h3.trans ?_
    have : ((sendWc c e).hw.wcb.filter fun x => !decide (x ∈ l)) = c.hw.wcb.filter fun x => !decide (x ∈ e :: l) := by
      unfold sendWc sendSeq
      dsimp only
      rw [List.filter_filter]
      congr 1
      funext x
      by_cases h : x = e <;> simp [h]
    rw [this]
    rfl

end Sys2Proof.Machine
end

