-- ==== Sys2Proof/Laws/Traps.lean ====
section
/-! SUPPORT. Taking a trap (R294, R296, R299 to R301): everything that the shared operation can do, in its three cases. -/

namespace Sys2Proof.Machine

/-- With a handler and outside the window the trap enters the window; nothing but the group changes. -/
theorem trapWith_enters {c : Cpu} (word : Word) (lit : Option (BitVec 24)) (t : Trap) (n : Nat) (h1 : c.grp.inWin = false)
    (h2 : c.grp.trapv >>> 2 ≠ 0) :
    c.trapWith word lit t n =
      let g : Group := { c.grp with fills := [], status := .running, bulk := false }
      { c with grp := g.enterWindow (trapFrame g word lit t n) } := by
  unfold Cpu.trapWith
  dsimp only
  rw [if_neg (by simp [h1]), if_neg h2]

/-- Without a handler the context is suspended with class 39, and the frame records the trap. -/
theorem trapWith_unhandled {c : Cpu} (word : Word) (lit : Option (BitVec 24)) (t : Trap) (n : Nat) (h1 : c.grp.inWin = false)
    (h2 : c.grp.trapv >>> 2 = 0) :
    c.trapWith word lit t n =
      let f := trapFrame { c.grp with fills := [], bulk := false, status := .running } word lit t n
      Cpu.suspend (Cpu.logs { c with grp := { c.grp with
        fills := [], bulk := false, status := .running, frame := f, cmask := f.cmask } } 39 t.cls 0) := by
  unfold Cpu.trapWith
  dsimp only
  rw [if_neg (by simp [h1]), if_pos h2]

/-- Inside the window the trap is nested: the context is suspended with class 38. -/
theorem trapWith_nested {c : Cpu} (word : Word) (lit : Option (BitVec 24)) (t : Trap) (n : Nat) (h1 : c.grp.inWin = true) :
    c.trapWith word lit t n = Cpu.suspend (Cpu.logs { c with grp := { c.grp with fills := [], bulk := false, status := .running } } 38 t.cls 0) := by
  unfold Cpu.trapWith
  dsimp only
  rw [if_pos h1]

/-- A trap never changes the clock (R296). -/
theorem trapWith_lc (c : Cpu) (word : Word) (lit : Option (BitVec 24)) (t : Trap) (n : Nat) : (c.trapWith word lit t n).grp.lc = c.grp.lc := by
  unfold Cpu.trapWith
  dsimp only
  split
  · rfl
  · split <;> rfl

/-- Nor the gid, and of the context at most the state. -/
theorem trapWith_gid (c : Cpu) (word : Word) (lit : Option (BitVec 24)) (t : Trap) (n : Nat) : (c.trapWith word lit t n).grp.gid = c.grp.gid := by
  unfold Cpu.trapWith
  dsimp only
  split
  · rfl
  · split <;> rfl

/-- The frame is that of R299. -/
theorem trapFrame_eq (g : Group) (word : Word) (lit : Option (BitVec 24)) (e : Trap) (n : Nat) :
    trapFrame g word lit e n = frameOf g word lit e n := by
  unfold trapFrame frameOf
  simp only [Bool.or_eq_true, Bool.and_eq_true, decide_eq_true_eq]
  cases hv : g.view with
  | none => rfl
  | some v => obtain ⟨st, sc⟩ := v; cases sc <;> rfl

/-- HADDR is 0 (R296). -/
theorem shr2_zero (x : Dword) : x >>> 2 = 0 ↔ x.toNat / 4 = 0 := by
  rw [← BitVec.toNat_inj]; simp [Nat.shiftRight_eq_div_pow]

/-- HADDR as an address. -/
theorem and_not3 (x : Dword) : (x &&& ~~~(3 : Dword)).toNat = x.toNat / 4 * 4 := by
  have h0 : x &&& ~~~(3 : Dword) = (x >>> 2) <<< 2 := by
    apply BitVec.eq_of_getLsbD_eq
    intro i hi
    rw [BitVec.getLsbD_and, BitVec.getLsbD_not, BitVec.getLsbD_shiftLeft, BitVec.getLsbD_ushiftRight]
    rcases Nat.lt_or_ge i 2 with h | h
    · interval_cases i <;> simp
    · have h3 : (3 : Dword).getLsbD i = false := by
        rw [BitVec.getLsbD]
        exact Nat.testBit_lt_two_pow (lt_of_lt_of_le (by norm_num : 3 < 2 ^ 2) (Nat.pow_le_pow_right (by norm_num) h))
      rw [h3, show 2 + (i - 2) = i by omega]
      simp [hi, Nat.not_lt.mpr h]
  rw [h0]; simp [Nat.shiftRight_eq_div_pow, Nat.shiftLeft_eq]
  have := x.isLt; omega

/-- The uniform registers of the window at entry (R301). -/
theorem enterWindow_readK (g : Group) (f : Frame) {n : BitVec 8} (h : n.toNat < 32) :
    (g.enterWindow f).readK n = if n = 0 then (BitVec.ofNat 64 (imageVA g)).extractLsb' 0 32
      else if n = 1 then (BitVec.ofNat 64 (imageVA g)).extractLsb' 32 32
      else if n = 2 then f.code ++ 0#8 ++ f.cls else g.win.readK n.toNat := by
  have e : ∀ m : BitVec 8, n = m ↔ n.toNat = m.toNat := fun m => BitVec.toNat_inj.symm
  unfold Group.readK Group.fromBank Group.enterWindow Bank.readK
  simp only [show n.toNat < 160 by omega, if_true, e]
  simp only [Vector.getElem?_setIfInBounds, show (2 : BitVec 8).toNat = 2 from rfl, show (1 : BitVec 8).toNat = 1 from rfl,
    show (0 : BitVec 8).toNat = 0 from rfl]
  by_cases h0 : n.toNat = 0
  · simp [h0]
  · by_cases h1 : n.toNat = 1
    · simp [h1]
    · by_cases h2 : n.toNat = 2
      · simp [h2]
      · simp [h0, h1, h2, Ne.symm h0, Ne.symm h1, Ne.symm h2]

/-- A doubleword is its halves. -/
theorem append_parts (x : Dword) : x.extractLsb' 32 32 ++ x.extractLsb' 0 32 = x := by
  apply BitVec.eq_of_getLsbD_eq
  intro i hi
  rw [BitVec.getLsbD_append]
  split
  · rename_i h; simp [h]
  · rename_i h; simp [show i - 32 < 32 by omega, show 32 + (i - 32) = i by omega]

theorem enterWindow_readKK (g : Group) (f : Frame) : (g.enterWindow f).readKK 0 = BitVec.ofNat 64 (imageVA g) := by
  unfold Group.readKK
  rw [enterWindow_readK g f (by decide), enterWindow_readK g f (by decide)]
  exact append_parts _

theorem enterWindow_readK2 (g : Group) (f : Frame) : ((g.enterWindow f).readK 2).toNat = f.code.toNat * 2 ^ 16 + f.cls.toNat := by
  rw [enterWindow_readK g f (by decide)]
  simp only [show (2 : BitVec 8) ≠ 0 by decide, show (2 : BitVec 8) ≠ 1 by decide, if_false, if_true]
  erw [BitVec.toNat_append, BitVec.toNat_append]
  rw [← Nat.shiftLeft_add_eq_or_of_lt f.cls.isLt, Nat.shiftLeft_eq, show (0#8).toNat = 0 from rfl, Nat.or_zero, Nat.shiftLeft_eq]
  omega

/-- The shared operation is the one of R296 and R301. -/
theorem takesTrap (word : Word) (lit : Option (BitVec 24)) (e : Trap) (n : Nat) (s : State) :
    TakesTrap word lit e n s { s with cpu := s.cpu.trapWith word lit e n } where
  others := rfl
  inputs := rfl
  bytes := fun _ => rfl
  nested := by
    intro hw
    dsimp only
    rw [trapWith_nested word lit e n hw]
    exact ⟨⟨rfl, rfl⟩, rfl⟩
  unhandled := by
    intro hw ht
    dsimp only
    rw [trapWith_unhandled word lit e n hw ((shr2_zero _).mpr ht)]
    have hf : trapFrame { s.cpu.grp with fills := [], bulk := false, status := .running } word lit e n = frameOf s.cpu.grp word lit e n :=
      trapFrame_eq _ word lit e n
    rw [hf]
    exact ⟨⟨rfl, rfl⟩, rfl⟩
  entered := by
    intro hw ht
    dsimp only
    rw [trapWith_enters word lit e n hw (fun h => ht ((shr2_zero _).mp h))]
    have hf : trapFrame { s.cpu.grp with fills := [], bulk := false, status := .running } word lit e n = frameOf s.cpu.grp word lit e n :=
      trapFrame_eq _ word lit e n
    dsimp only
    rw [hf]
    refine ⟨rfl, rfl, rfl, and_not3 _, ?_, ?_, rfl, rfl, rfl, ?_, rfl, rfl, rfl, rfl, rfl⟩
    · exact enterWindow_readKK _ _
    · exact enterWindow_readK2 _ _
    · intro k h3 h32
      refine (enterWindow_readK _ _ h32).trans ?_
      rw [if_neg (by rintro rfl; simp at h3), if_neg (by rintro rfl; simp at h3), if_neg (by rintro rfl; simp at h3)]

end Sys2Proof.Machine
end

