-- ==== Sys2Proof/Laws/Vector.lean ====
section
/-! SUPPORT. What the shared operations of the vector words do when the mode check passes (R132, R138, R69). -/

namespace Sys2Proof.Machine

/-- The lane results of an instruction under the group's element type as element results. -/
theorem elemResults_of_lanes {g h : Group} {d : BitVec 8} {f : Nat → Dword} {r : Nat → Nat → Nat × FFlags}
    (hl : LaneResults (isWide g.ety) g.active d g h f) (hf : ∀ j, f j = (perElem (etyBits g.ety) (r j)).1) {R : Nat → Nat → Nat → Prop}
    (hR : ∀ j < 32, ∀ e < elems g, R j e ((r j e).1 % 2 ^ etyBits g.ety)) : ElemResults d g h R := by
  intro j
  have hj := hl j
  by_cases ha : g.active.getLsbD j = true
  · rw [if_pos ha] at hj ⊢
    intro e he
    have hval : h.laneV (isWide g.ety) d j = (perElem (etyBits g.ety) (r j)).1 := by
      rw [hj, hf]
      by_cases hw : isWide g.ety = true
      · rw [if_pos hw]
      · rw [if_neg hw]; exact perElem_narrow (etyBits_width _) (fun e => hw ((isWide_iff _).mpr e)) _
    rw [hval, elemIn, elemOf_perElem (etyBits_width _) _ he]
    exact hR j j.isLt e he
  · rw [if_neg ha] at hj ⊢; exact hj

/-- The mode check in the model's form. -/
theorem modeOk_of {ok : Nat → Bool} {g : Group} {pairs : Bool} (h1 : ok g.ety = true) (h2 : isWide g.ety = true → pairs = true) :
    modeOk g ok pairs = true := by
  unfold modeOk
  by_cases hw : isWide g.ety = true
  · simp [h1, h2 hw]
  · simp [h1, hw]

/-- A vector ALU word of R132. -/
theorem vecOp_did {ok : Nat → Bool} {d a : BitVec 8} {b : Src} {f : Group → Dword → Dword → Dword → Dword} {i : Instr} {s : State}
    (hm : VecMode ok s.cpu.grp [d] [a] [b]) (hd : s.cpu.grp.Writable d) :
    let g := s.cpu.grp
    let wide := isWide g.ety
    let t : State := { s with cpu := vecOp ok d a b f s.mem ⟨i, none⟩ s.cpu }
    Did i (vecDst wide d) s t ∧ Shifted wide d g t.cpu.grp ∧
      LaneResults wide g.active d g t.cpu.grp fun j => f g (g.laneV wide a j) (srcLane g wide b j) (g.laneV wide d j) := by
  intro g wide t
  have hp : wide = true → pairOk true d = true := fun h => (hm.2 h).1 d (by simp)
  have hmode : modeOk g ok (pairOk true d && pairOk false a && srcPair b) = true :=
    modeOk_of hm.1 fun h => by
      have := hm.2 h
      simp [this.1 d (by simp), this.2.1 a (by simp), this.2.2 b (by simp)]
  have ht : t = { s with cpu := s.cpu.retire ⟨i, none⟩ (g.writeLanes wide d g.active
      (Vector.ofFn fun (j : Fin 32) => f g (g.laneV wide a j) (srcLane g wide b j) (g.laneV wide d j))) } := by
    show ({ s with cpu := vecOp ok d a b f s.mem ⟨i, none⟩ s.cpu } : State) = _
    unfold vecOp
    simp only [show modeOk s.cpu.grp ok (pairOk true d && pairOk false a && srcPair b) = true from hmode, if_true]
    rfl
  rw [ht]
  exact ⟨did_retire (g.sameGroup_writeLanes wide g.active _ hd hp) (by simp; rfl) (by simp; rfl), g.shifted_writeLanes wide g.active _ hd hp,
    g.laneResults_writeLanes wide g.active (fun j => f g (g.laneV wide a j) (srcLane g wide b j) (g.laneV wide d j)) hd hp⟩

/-- A vector word that also sets flags (R69): its results never are pairs. -/
theorem flagOp_did {ok : Nat → Bool} {d a : BitVec 8} {b : Src} {f : Group → Dword → Dword → Dword → Dword × FFlags} {i : Instr}
    {s : State} (hm : ok s.cpu.grp.ety = true) (hd : s.cpu.grp.Writable d) :
    let g := s.cpu.grp
    let r := fun j : Nat => f g (g.laneV false a j) (srcLane g false b j) (g.laneV false d j)
    let t : State := { s with cpu := flagOp ok d a b f s.mem ⟨i, none⟩ s.cpu }
    Did i (.fpflags :: vecDst false d) s t ∧ Shifted false d g t.cpu.grp ∧
      LaneResults false g.active d g t.cpu.grp (fun j => (r j).1) ∧
      t.cpu.grp.fpflags = g.fpflags ||| laneFlags g.active fun j => (r j).2 := by
  intro g r t
  have hmode : modeOk s.cpu.grp ok true = true := modeOk_of hm fun _ => rfl
  have ht : t = { s with cpu := s.cpu.retire ⟨i, none⟩ ((g.writeLanes false d g.active
      (Vector.ofFn fun (j : Fin 32) => (r j).1)).orFlags (laneFlags g.active fun j => (r j).2)) } := by
    show ({ s with cpu := flagOp ok d a b f s.mem ⟨i, none⟩ s.cpu } : State) = _
    unfold flagOp
    simp only [hmode, if_true]
    rfl
  have hsame := g.sameGroup_writeLanes (n := d) false g.active (Vector.ofFn fun (j : Fin 32) => (r j).1) hd (by simp)
  rw [ht]
  refine ⟨did_retire ((hsame.trans (Group.sameGroup_orFlags _ _)).mono fun x hx => by simp at hx ⊢; tauto) ?_ ?_,
    g.shifted_writeLanes false g.active _ hd (by simp), g.laneResults_writeLanes false g.active (fun j => (r j).1) hd (by simp), ?_⟩
  · exact Group.writeLanes_pc _ _ _ _ _
  · exact Group.writeLanes_lc _ _ _ _ _
  · show (g.writeLanes false d g.active _).fpflags ||| _ = _
    have hf := hsame.regs.fpflags (by simp [vecDst])
    rw [hf]

/-- A write of a register that names reach: what well-formedness and R300 give. -/
theorem writable_of {g : Group} {n : BitVec 8} (h1 : vWrite n = true) (h2 : g.inWin = true → vIn n = true) : g.Writable n := by
  simp only [vWrite, vIn, decide_eq_true_eq, Bool.or_eq_true] at h1 h2
  exact ⟨by omega, h2⟩

end Sys2Proof.Machine
end

