-- ==== Sys2Proof/Tests/Slice0.lean ====
section
/-! SUPPORT. The model's own tests: decoding of every word row by words written out from the encodings of spec/ (the field values are
arbitrary); an ill-formed term for every check of a well-formed instruction; single steps with results worked out by hand from the rules;
and, for every statement with hypotheses, a state and operands that meet them, at a boundary value for every clause. -/

namespace Sys2Proof.Tests

open Sys2Proof.Machine

set_option Elab.async false

/-! ### Decoding -/

theorem test_decode_0 :
    (
      [0x007DDAA7, 0x01CC0FAA, 0x0232DADC, 0x034A6D1C, 0x049EEEE6, 0x05B7C5E8, 0x06844C78, 0x0740DD64, 0x0899BE84, 0x09F90F77, 0x0AB2DB91,
       0x0BF515A1, 0x0C999DD3, 0x0D99F0F4, 0x0E1600B9, 0x0F7100D7, 0x106B0070, 0x1155006C, 0x12EF5526, 0x13FB7785, 0x140ACA37, 0x15BC38C0,
       0x169E1E64, 0x17F61528, 0x181E77B1, 0x19E79C17, 0x1AC600F1] : List Nat).map (decodeTableWord 32) =
      [.add 0x7D 0xDA 0xA7, .addVk 0xCC 0xF 0xAA, .sub 0x32 0xDA 0xDC, .subVk 0x4A 0x6D 0x1C, .mul 0x9E 0xEE 0xE6, .mulVk 0xB7 0xC5 0xE8,
       .mulh 0x84 0x4C 0x78, .mulhVk 0x40 0xDD 0x64, .mad 0x99 0xBE 0x84, .madVk 0xF9 0xF 0x77, .minV 0xB2 0xDB 0x91, .minVk 0xF5 0x15 0xA1,
       .maxV 0x99 0x9D 0xD3, .maxVk 0x99 0xF0 0xF4, .absV 0x16 0xB9, .absVk 0x71 0xD7, .negV 0x6B 0x70, .negVk 0x55 0x6C, .andV 0xEF 0x55
       0x26, .andVk 0xFB 0x77 0x85, .orV 0xA 0xCA 0x37, .orVk 0xBC 0x38 0xC0, .xorV 0x9E 0x1E 0x64, .xorVk 0xF6 0x15 0x28, .andn 0x1E 0x77
       0xB1, .andnVk 0xE7 0x9C 0x17, .notV 0xC6 0xF1].map some := by
  decide +kernel

theorem test_decode_1 :
    (
      [0x1BFE0057, 0x1CC97A46, 0x1D603A1C, 0x1E6B3CFE, 0x1FD15C75, 0x20B4DB57, 0x215BB035, 0x221B6029, 0x238B7E7D, 0x2422009B, 0x259900FC,
       0x26D40032, 0x27AA0012, 0x281D0067, 0x294300D6, 0x2A26AE62, 0x2BB94ACE, 0x2C16CEDE, 0x2D9B86DB, 0x2E822868, 0x2F748C84, 0x30E40007,
       0x316B00B4, 0x3272BC88, 0x33A352E8, 0x3469BECD, 0x40FDDE1B] : List Nat).map (decodeTableWord 32) =
      [.notVk 0xFE 0x57, .shl 0xC9 0x7A 0x46, .shlVk 0x60 0x3A 0x1C, .shr 0x6B 0x3C 0xFE, .shrVk 0xD1 0x5C 0x75, .sar 0xB4 0xDB 0x57, .sarVk
       0x5B 0xB0 0x35, .rot 0x1B 0x60 0x29, .rotVk 0x8B 0x7E 0x7D, .clz 0x22 0x9B, .clzVk 0x99 0xFC, .popc 0xD4 0x32, .popcVk 0xAA 0x12,
       .brev 0x1D 0x67, .brevVk 0x43 0xD6, .bfx 0x26 0xAE 0x62, .bfxVk 0xB9 0x4A 0xCE, .bfi 0x16 0xCE 0xDE, .bfiVk 0x9B 0x86 0xDB, .sel 0x82
       0x28 0x68, .selVk 0x74 0x8C 0x84, .mov 0xE4 0x7, .movk 0x6B 0xB4, .cmp 0x72 0xBC 0x88, .cmpVk 0xA3 0x52 0xE8, .movi 0x69 0xBECD,
       .fadd 0xFD 0xDE 0x1B].map some := by
  decide +kernel

theorem test_decode_2 :
    (
      [0x4101A7B3, 0x42EAF62A, 0x430BF6F5, 0x44E7A18E, 0x45EDCDA9, 0x46A52DBE, 0x477C9B89, 0x48F44FE1, 0x49026649, 0x4AE96C37, 0x4BD6A367,
       0x4CEDA8BF, 0x4DE82A67, 0x4E6B0067, 0x4F7400FB, 0x506700CC, 0x513F00ED, 0x521C3B5E, 0x533244C1, 0x54C0F8D9, 0x55638ADC, 0x568600DD,
       0x577A002D, 0x584D0065, 0x59F600F5, 0x5A718F32, 0x5B9CF28A] : List Nat).map (decodeTableWord 32) =
      [.faddVk 0x1 0xA7 0xB3, .fsub 0xEA 0xF6 0x2A, .fsubVk 0xB 0xF6 0xF5, .fmul 0xE7 0xA1 0x8E, .fmulVk 0xED 0xCD 0xA9, .fma 0xA5 0x2D
       0xBE, .fmaVk 0x7C 0x9B 0x89, .fms 0xF4 0x4F 0xE1, .fmsVk 0x2 0x66 0x49, .fmin 0xE9 0x6C 0x37, .fminVk 0xD6 0xA3 0x67, .fmax 0xED 0xA8
       0xBF, .fmaxVk 0xE8 0x2A 0x67, .fabs 0x6B 0x67, .fabsVk 0x74 0xFB, .fneg 0x67 0xCC, .fnegVk 0x3F 0xED, .fcmp 0x1C 0x3B 0x5E, .fcmpVk
       0x32 0x44 0xC1, .fcvt 0xC0 0xF8 0xD9, .fcvtVk 0x63 0x8A 0xDC, .frnd 0x86 0xDD, .frndVk 0x7A 0x2D, .fclass 0x4D 0x65, .fclassVk 0xF6
       0xF5, .fdot2 0x71 0x8F 0x32, .fdot2Vk 0x9C 0xF2 0x8A].map some := by
  decide +kernel

theorem test_decode_3 :
    (
      [0x5C39053A, 0x5D9E869C, 0x5E300017, 0x5FA20072, 0x60C1001D, 0x617A0049, 0x628D003B, 0x636500F6, 0x64FE0091, 0x6543001B, 0x66540044,
       0x67EB0091, 0x68B500F1, 0x698B0033, 0x70060E0C, 0x71040202, 0x720C0301, 0x73060009, 0x74060026, 0x75DBBC40, 0x760AEFA5, 0x7794F502,
       0x78820B01, 0x79350113, 0x7A7701DD, 0x80C1C773, 0x81879222] : List Nat).map (decodeTableWord 32) =
      [.idot4 0x39 0x5 0x3A, .idot4Vk 0x9E 0x86 0x9C, .frcp 0x30 0x17, .frcpVk 0xA2 0x72, .frsq 0xC1 0x1D, .frsqVk 0x7A 0x49, .fsqrt 0x8D
       0x3B, .fsqrtVk 0x65 0xF6, .fex2 0xFE 0x91, .fex2Vk 0x43 0x1B, .flg2 0x54 0x44, .flg2Vk 0xEB 0x91, .ftanh 0xB5 0xF1, .ftanhVk 0x8B
       0x33, .pand 0x6 0xE 0xC, .por 0x4 0x2 0x2, .pxor 0xC 0x3 0x1, .pnot 0x6 0x9, .pmov 0x6 0x26, .shfl 0xDB 0xBC 0x40, .shflVk 0xA 0xEF
       0xA5, .bcast 0x94 0xF5 0x2, .vote 0x82 0xB 0x1, .lsum 0x35 0x1 0x13, .lscan 0x77 0x1 0xDD, .kadd 0xC1 0xC7 0x73, .ksub 0x87 0x92
       0x22].map some := by
  decide +kernel

theorem test_decode_4 :
    (
      [0x8234E85C, 0x833820A3, 0x84C6B206, 0x8543C980, 0x8601CA77, 0x87AAD142, 0x8875F823, 0x89A5A1A4, 0x8AD091F3, 0x8B9FB318, 0x8CFD00FB,
       0x8D6D101F, 0x8E92CE23, 0x8F21A606, 0x9003030D, 0x910B0901, 0x92060008, 0x9FD34D00, 0xA002000D, 0xA102BF6D, 0xA2319757, 0xA3006700,
       0xA4006700, 0xA500317A, 0xA60DD349, 0xA7000000, 0xA8000000] : List Nat).map (decodeTableWord 32) =
      [.kmul 0x34 0xE8 0x5C, .kmulh 0x38 0x20 0xA3, .kand 0xC6 0xB2 0x6, .kor 0x43 0xC9 0x80, .kxor 0x1 0xCA 0x77, .kshl 0xAA 0xD1 0x42,
       .kshr 0x75 0xF8 0x23, .ksar 0xA5 0xA1 0xA4, .kmin 0xD0 0x91 0xF3, .kmax 0x9F 0xB3 0x18, .kmov 0xFD 0xFB, .kmovi 0x6D 0x101F, .kcmp
       0x92 0xCE 0x23, .ksel 0x21 0xA6 0x6, .qand 0x3 0x3 0xD, .qor 0xB 0x9 0x1, .qnot 0x6 0x8, .rqmove 0xD3 0x4D, .br 0x2 0xD, .jmp
       0x2BF6D, .call 0x319757, .ret 0x67, .jmpk 0x67, .mkj 0x317A, .brv 0xD 0xD349, .jn, .exitI].map some := by
  decide +kernel

theorem test_decode_5 :
    (
      [0xA9000000, 0xAA008694, 0xAB050000, 0xACE70000, 0xAD00F100, 0xAE000500, 0xAF003900, 0xB02935B4, 0xB1B23402, 0xB225302D, 0xB389BA08,
       0xB4E0C266, 0xB5DC5376, 0xB6B5564C, 0xB7E5F6FC, 0xB8705F7A, 0xB946EFEF, 0xBA76D909, 0xBB835A0F, 0xBC06D046, 0xBD65B084, 0xBE67E520,
       0xBF7AB30D, 0xC0F9A722, 0xC1FEA2CE, 0xC224F669, 0xC371D504] : List Nat).map (decodeTableWord 32) =
      [.nop, .mdset 0x8694, .mdget 0x5, .lcrd 0xE7, .lcadv 0xF1, .cede 0x5, .rqset 0x39, .ldB 0x29 0x35 0xB4, .ldH 0xB2 0x34 0x2, .ldW 0x25
       0x30 0x2D, .ldD 0x89 0xBA 0x8, .ldQ 0xE0 0xC2 0x66, .stB 0xDC 0x53 0x76, .stH 0xB5 0x56 0x4C, .stW 0xE5 0xF6 0xFC, .stD 0x70 0x5F
       0x7A, .stQ 0x46 0xEF 0xEF, .ldk 0x76 0xD9 0x9, .stk 0x83 0x5A 0xF, .ldsB 0x6 0xD0 0x46, .ldsH 0x65 0xB0 0x84, .ldsW 0x67 0xE5 0x20,
       .ldsD 0x7A 0xB3 0xD, .ldsQ 0xF9 0xA7 0x22, .stsB 0xFE 0xA2 0xCE, .stsH 0x24 0xF6 0x69, .stsW 0x71 0xD5 0x4].map some := by
  decide +kernel

theorem test_decode_6 :
    (
      [0xC41C049E, 0xC5710A8F, 0xC601342E, 0xC7D9482A, 0xC8E56F9E, 0xC9F2EEE7, 0xCA2A9237, 0xCB0278A6, 0xCC4B6D49, 0xCD095338, 0xCE068C73,
       0xCFA873C8, 0xD0DC82F1, 0xD1B0B965, 0xD26C7613, 0xD308A340, 0xD45A5645, 0xD5BB5320, 0xD6E188A6, 0xD7F468BF, 0xD899F800, 0xD900A4C8,
       0xDAD04D65, 0xDB030239, 0xDC010364, 0xDD0B0000, 0xE00BF500] : List Nat).map (decodeTableWord 32) =
      [.stsD 0x1C 0x4 0x9E, .stsQ 0x71 0xA 0x8F, .pf 0x1 0x34 0x2E, .radd 0xD9 0x48 0x2A, .rfadd 0xE5 0x6F 0x9E, .rmin 0xF2 0xEE 0xE7, .rmax
       0x2A 0x92 0x37, .rfmin 0x2 0x78 0xA6, .rfmax 0x4B 0x6D 0x49, .rand 0x9 0x53 0x38, .ror 0x6 0x8C 0x73, .rxor 0xA8 0x73 0xC8, .axchg
       0xDC 0x82 0xF1, .acas 0xB0 0xB9 0x65, .aadd 0x6C 0x76 0x13, .amin 0x8 0xA3 0x40, .amax 0x5A 0x56 0x45, .aand 0xBB 0x53 0x20, .aor
       0xE1 0x88 0xA6, .axor 0xF4 0x68 0xBF, .ldacq 0x99 0xF8, .strel 0xA4 0xC8, .waita 0xD 0x4D 0x65, .bar 0x3 0x239, .bara 0x1 0x364,
       .barw 0xB, .mma 0xB 0xF5].map some := by
  decide +kernel

theorem test_decode_7 :
    (
      [0xE1052000, 0xE24B0000, 0xE3000001, 0xE4080000, 0xE59A09F3, 0xE60B1FC4, 0xE7036907, 0xE80297EC, 0xE9000000, 0xEAB70000, 0xECBD4F2E,
       0xED000000, 0xEE830000, 0xEF00AE00, 0xF0000010, 0xF10F00C9, 0xF2000000, 0xF3AE00B9, 0xF4008197, 0xF5ABD900, 0xF6006D25, 0xF7000000,
       0xF8600000, 0xF9008300, 0xFA00000C, 0xFB003100, 0xFE34CE04] : List Nat).map (decodeTableWord 32) =
      [.mmaz 0x5 0x20, .mfence 0x4B, .mwait 0x1, .acczero 0x8, .accrd 0x9A 0x9 0xF3, .accwr 0xB 0x1F 0xC4, .accdrain 0x3 0x69 0x1 0x3, .xfr
       0x2 0x97 0xEC, .xfrw, .xfrq 0xB7, .stmc 0xBD 0x4F 0x2E, .fenceSys, .fstat 0x83, .fclr 0xAE, .trap 0x10, .asrt 0xF 0xC9, .rfe, .csrr
       0xAE 0xB9, .csrw 0x81 0x97, .launch 0xAB 0xD9, .objw 0x6D 0x25, .objfence, .tscrd 0x60, .icinv 0x83, .brkp 0xC, .halt 0x31, .lit
       0x34CE04 0].map some := by
  decide +kernel

/-- First bytes that no instruction has (R53), a reserved bit that is set (R35), and a `lit` with its word. -/
theorem test_decode_others :
    decodeTableWord 32 0x35000000 = some (.unassignedFirstByte 0x35000000) ∧ decodeTableWord 32 0xFF123456 = some (.unassignedFirstByte 0xFF123456) ∧
      decodeTableWord 32 0xF2000001 = none ∧
      decode (bytesOfWord 0xFE000012 ++ bytesOfWord 0x8D0D0008) = .ok (.lit 0x12 0x8D0D0008, []) := by decide +kernel

/-- The words that the spec's own examples assemble: `mdset bf16x2, rne, ftz, ?!p3` (R165), `lds.w v2, [k4 + v1 + 20_0000H]` (R179),
`mmaz acc1, k20` (R213), `accrd v8, acc0, k6` and `accwr acc1, k6, v12` (R217), `accdrain.by acc0, k7`
and `accdrain.rm.z acc2, k9` (R219), `ldk k16, [k8], 4`, and four of R256; the gid of R9. -/
theorem test_decode_examples :
    ([0xAA00103B, 0xE1011400, 0xE5080006, 0xE601060C, 0xE7000702, 0xE7020905, 0xBA100803, 0xF3040004, 0xF30A0008, 0xF400F804, 0xF4001405] : List Nat).map
        (decodeTableWord 32) =
      [.mdset 0x103B, .mmaz 1 20, .accrd 8 0 6, .accwr 1 6 12, .accdrain 0 7 0 2, .accdrain 2 9 1 1, .ldk 16 8 3, .csrr 4 4, .csrr 10 8, .csrw 248 4,
        .csrw 20 5].map some ∧
    decode (bytesOfWord 0xFE200000 ++ bytesOfWord 0xBE020401) = .ok (.lit 0x200000 0xBE020401, []) ∧
    decodeTableWord 32 0xBE020401 = some (.ldsW 2 4 1) ∧
    (let g : Group := { Group.none with gid := 0x30000000A11 }
     (g.gix, g.blk, g.lord) = (17, 5, 3)) := by decide +kernel

/-! ### Well-formed words -/

/-- Names of vector registers (R36): o7 is the last destination, l3 the last source, 244 to 251 and 255 name nothing. -/
theorem test_illformed_vector_names :
    wellFormed (.add 239 243 254) = true ∧ wellFormed (.add 240 0 0) = false ∧ wellFormed (.add 0 244 0) = false ∧
      wellFormed (.add 0 0 251) = false ∧ wellFormed (.add 0 0 255) = false := by decide

/-- Names of uniform registers and pairs (R37). -/
theorem test_illformed_uniform_names :
    wellFormed (.kadd 159 248 159) = true ∧ wellFormed (.kadd 160 0 0) = false ∧ wellFormed (.kadd 248 0 0) = false ∧
      wellFormed (.kadd 0 160 0) = false ∧ wellFormed (.addVk 0 0 249) = false ∧ wellFormed (.ret 158) = true ∧ wellFormed (.ret 1) = false ∧
      wellFormed (.ret 248) = false := by decide

/-- Predicate fields (R38, R48, R149). -/
theorem test_illformed_predicates :
    wellFormed (.pand 6 15 7) = true ∧ wellFormed (.pand 7 0 0) = false ∧ wellFormed (.pand 8 0 0) = false ∧ wellFormed (.pand 0 16 0) = false ∧
      wellFormed (.cmp 0x96 0 0) = true ∧ wellFormed (.cmp 0x97 0 0) = false ∧ wellFormed (.cmp 0xA0 0 0) = false ∧
      wellFormed (.fcmp 0xB6 0 0) = true ∧ wellFormed (.fcmp 0x60 0 0) = false ∧ wellFormed (.fcmp 0xC0 0 0) = false := by decide

/-- Registers of a d or a q access (R176), and of `ldk`, `stk` (R177). -/
theorem test_illformed_access_registers :
    wellFormed (.ldD 238 158 0) = true ∧ wellFormed (.ldD 231 0 0) = false ∧ wellFormed (.ldD 240 0 0) = false ∧ wellFormed (.ldQ 236 0 0) = true ∧
      wellFormed (.ldQ 230 0 0) = false ∧ wellFormed (.stD 242 0 0) = true ∧ wellFormed (.stD 243 0 0) = false ∧
      wellFormed (.stQ 252 0 0) = true ∧ wellFormed (.stQ 254 0 0) = false ∧
      wellFormed (.ldk 144 0 15) = true ∧ wellFormed (.ldk 145 0 15) = false ∧ wellFormed (.stk 248 0 0) = true ∧ wellFormed (.stk 248 0 1) = false := by
  decide

/-- Groups of registers (R213, R258), the destination of `vote` and its op (R153), `fcvt` (R70). -/
theorem test_illformed_register_groups :
    wellFormed (.mma 0 156) = true ∧ wellFormed (.mma 0 157) = false ∧ wellFormed (.launch 0 152) = true ∧ wellFormed (.launch 0 153) = false ∧
      wellFormed (.vote 7 0 0) = false ∧ wellFormed (.vote 160 0 3) = false ∧ wellFormed (.vote 0 0 5) = true ∧ wellFormed (.vote 0 0 6) = false ∧
      wellFormed (.fcvt 0 0x01 0) = true ∧ wellFormed (.fcvt 0 0x00 0) = false ∧ wellFormed (.fcvt 1 0xC0 0) = false ∧
      wellFormed (.fcvtVk 0 0x0C 1) = false := by decide

/-- MD (R45), the space field (R173), `waita` (R185), `csrr` and `csrw` (R253, R256). -/
theorem test_illformed_codes :
    wellFormed (.mdset 0x1C87) = true ∧ wellFormed (.mdset 0x2007) = false ∧ wellFormed (.mdset 0x0507) = false ∧ wellFormed (.mdset 0x0097) = false ∧
      wellFormed (.radd 0 0x7E 0) = true ∧ wellFormed (.radd 0 0x80 0) = false ∧ wellFormed (.aadd 0 0xBE 0) = true ∧ wellFormed (.aadd 0 0xC0 0) = false ∧
      wellFormed (.aadd 0 0x41 0) = false ∧ wellFormed (.waita 9 0 0) = true ∧ wellFormed (.waita 10 0 0) = false ∧
      wellFormed (.csrr 0 12) = true ∧ wellFormed (.csrr 1 12) = false ∧ wellFormed (.csrr 0 13) = false ∧ wellFormed (.csrw 0 9) = true ∧
      wellFormed (.csrw 1 9) = false ∧ wellFormed (.csrw 0 7) = false := by decide

/-- Counts, hints and ways (R178, R190, R219). -/
theorem test_illformed_counts :
    wellFormed (.bar 15 512) = true ∧ wellFormed (.bar 0 513) = false ∧ wellFormed (.bara 0 513) = false ∧ wellFormed (.pf 1 0 0) = true ∧
      wellFormed (.pf 2 0 0) = false ∧ wellFormed (.accdrain 0 0 0 2) = true ∧ wellFormed (.accdrain 0 0 0 3) = false := by decide

def packet (typ : Nat) (body : PBody) : Packet := ⟨typ, 1, 0, 0, 0, 0, 0, body⟩

/-- Commands and packets of the kind that the row names (R334, R368); words that a row takes by their first byte (R53). -/
theorem test_illformed_steps :
    wellFormed (.contextStart .hostA 0 (1 <<< 60) false) = true ∧ wellFormed (.contextStart .hostA 0 (2 <<< 60) false) = false ∧
      wellFormed (.setParameterSeed .hostA 0 (0x82 <<< 56)) = true ∧ wellFormed (.setParameterSeed .hostA 0 (0x81 <<< 56)) = false ∧
      wellFormed (.fabricReadRequest (packet 1 .reserved)) = false ∧ wellFormed (.reservedPacketType (packet 11 .reserved)) = false ∧
      wellFormed (.routerCombine (packet 7 .reserved)) = true ∧ wellFormed (.routerCombine (packet 8 .reserved)) = false ∧
      wellFormed (.unassignedFirstByte 0xFD000000) = true ∧ wellFormed (.unassignedFirstByte 0x00000000) = false := by decide

/-- Names that the trap window has (R300). -/
theorem test_window_names :
    windowOk (.add 31 232 239) = true ∧ windowOk (.add 32 0 0) = false ∧ windowOk (.kadd 31 248 0) = true ∧ windowOk (.kadd 0 32 0) = false ∧
      windowOk (.aadd 0 0x5E 0) = true ∧ windowOk (.aadd 0 0x5F 0) = false ∧ windowOk (.call 0) = false := by decide

/-! ### States for the tests

`base`: a running context whose one group, at system level, stands at the start of object 2: an OPEN object of 4,096 bytes with every
permission (DESIGN CHOICE, log 4). Object 3 is a PARCEL object of 256 bytes beside it. -/

/-- Memory with the records of objects 2 and 3 (R277): valid, OPEN or PARCEL, permissions r w a c x, rank 1, 1-byte elements, stride 1;
4,096 bytes at PA 20000H and 256 at 30000H. -/
def baseMem : List Host.Cell :=
  [(0x10100, 0xF1), (0x10101, 0x13), (0x1010A, 0x2), (0x10111, 0x10), (0x10119, 0x10), (0x1012C, 0x1), (0x10180, 0xF3), (0x10181, 0x13),
   (0x1018A, 0x3), (0x10191, 0x1), (0x10199, 0x1), (0x101AC, 0x1)]

def base : State := { placeProgram [] State.reset with mem := baseMem }

def onGrp (f : Group → Group) (s : State) : State := { s with cpu := { s.cpu with grp := f s.cpu.grp } }
def onCtx (f : Ctx → Ctx) (s : State) : State := { s with cpu := { s.cpu with ctx := f s.cpu.ctx } }
def onHw (f : Module → Module) (s : State) : State := { s with cpu := { s.cpu with hw := f s.cpu.hw } }
/-- A uniform register, MD, the lane set, and a lane predicate of the main bank. -/
def setK (n : Nat) (x : Word) : State → State := onGrp fun g => { g with main := g.main.writeK n x }
def setMd (x : Half) : State → State := onGrp fun g => { g with main := { g.main with md := x } }
def setC (x : Word) : State → State := onGrp fun g => { g with main := { g.main with c := x } }
def setP (n : Nat) (x : Word) : State → State := onGrp fun g => { g with main := g.main.writeP n x }
/-- The group in its trap window. -/
def inWindow : State → State := onGrp fun g => { g with inWin := true }
/-- k10:k11 hold an address of an object. -/
def atObj (obj : Word) (off : Word) (s : State) : State := setK 10 off (setK 11 (obj <<< 8) s)
/-- One active lane, lane 0, that addresses an object. -/
def lane0 (obj : Word) (off : Word) : State := atObj obj off (setC 1 base)

def rec2 : Record := ⟨2, none, 0, 31, 1, 1, 0, false, 0, false, 0, false, false, 0x20000, 4096, [4096, 0, 0, 0, 0], [1, 0, 0, 0, 0], 0, 0, 0, 1, 0⟩
def rec3 : Record := ⟨3, none, 1, 31, 1, 1, 0, false, 0, false, 0, false, false, 0x30000, 256, [256, 0, 0, 0, 0], [1, 0, 0, 0, 0], 0, 0, 0, 1, 0⟩

theorem record_base : base.cpu.record base.mem 2 = some rec2 ∧ base.cpu.record base.mem 3 = some rec3 := by decide +kernel

/-! ### Witnesses: words of registers and control -/

/-- Vector words: the last names of R36 under s32, and the last pair under u64. -/
theorem witness_VectorArithmetic :
    (Issues (IntOp.add.word 239 243 (.v 254)) base.cpu.grp ∧ VecMode isInt base.cpu.grp [239] [243] [.v 254]) ∧
    (Issues (IntOp.neg.word 238 0 (.k 158)) (setMd 0x87 base).cpu.grp ∧ VecMode isInt (setMd 0x87 base).cpu.grp [238] [] [.k 158]) := by
  unfold Issues VecMode; decide +kernel

theorem witness_VectorShiftsAndCounts :
    (Issues (IntOp.rot.word 0 252 (.k 248)) (setMd 0x57 base).cpu.grp ∧ VecMode isInt (setMd 0x57 base).cpu.grp [0] [252] [.k 248]) ∧
    (Issues (IntOp.brev.word 0 0 (.v 242)) (setMd 0x77 base).cpu.grp ∧ VecMode isInt (setMd 0x77 base).cpu.grp [0] [] [.v 242]) := by
  unfold Issues VecMode; decide +kernel

theorem witness_VectorLogicAndFields :
    (Issues (BitOp.xor.word 239 0 (.v 253)) (setMd 0x27 base).cpu.grp ∧ VecMode isAny (setMd 0x27 base).cpu.grp [239] [0] [.v 253]) ∧
    (Issues (BitOp.mov.word 230 0 (.k 248)) (setMd 0x87 base).cpu.grp ∧ VecMode isAny (setMd 0x87 base).cpu.grp [230] [] [.k 248]) ∧
    (Issues (FieldOp.bfi.word 231 240 (.k 159)) (setMd 0x17 base).cpu.grp ∧ isW32 (setMd 0x17 base).cpu.grp.ety = true) := by
  unfold Issues VecMode; decide +kernel

theorem witness_CompareSelectMovi :
    (Issues (.cmp 0x96 0 254) base.cpu.grp ∧ VecMode isCmpI base.cpu.grp [] [0] [.v 254]) ∧
    (Issues (.selVk 238 0 158) (setMd 0x80 base).cpu.grp ∧ VecMode isAny (setMd 0x80 base).cpu.grp [238] [0] [.k 158]) ∧
    Issues (.movi 31 0x8000) (inWindow base).cpu.grp := by
  unfold Issues VecMode; decide +kernel

theorem witness_FloatArithmetic :
    Issues (FltOp.fms.word 239 243 (.k 159)) (setMd 0x1C47 base).cpu.grp ∧ isFlt (setMd 0x1C47 base).cpu.grp.ety = true := by
  unfold Issues; decide +kernel

theorem witness_FloatSelectCompareClass :
    let g := (setMd 0x1C37 base).cpu.grp
    let h := (setMd 0x27 base).cpu.grp
    (Issues (PickOp.max.word 239 243 (.k 159)) g ∧ Issues (SignOp.neg.word 239 (.v 252)) g ∧ Issues (.frnd 0 254) g ∧
      Issues (.fclassVk 0 248) g ∧ isFlt g.ety = true) ∧ Issues (.fcmp 0xB6 0 0) h ∧ isF32 h.ety = true := by
  unfold Issues; decide +kernel

theorem witness_FloatConversion : Issues (.fcvt 239 0x51 243) base.cpu.grp ∧ Issues (.fcvt 238 0xD2 0) base.cpu.grp ∧
    Issues (.fcvtVk 0 0x2C 158) base.cpu.grp := by
  unfold Issues; decide +kernel

theorem witness_DotProducts :
    (Issues (fdot2Word 239 0 (.v 254)) (setMd 0x47 base).cpu.grp ∧ isPairF (setMd 0x47 base).cpu.grp.ety = true) ∧
    (Issues (idot4Word 0 243 (.k 159)) (setMd 0x867 base).cpu.grp ∧ isI8Q (setMd 0x867 base).cpu.grp.ety = true) := by
  unfold Issues; decide +kernel

/-- Also for each case of the table: the reciprocal of 1.0 is no special input, that of 0 is. -/
theorem witness_Transcendentals :
    Issues (FnOp.rcp.word 239 (.k 1)) (setMd 0x27 base).cpu.grp ∧ isFlt (setMd 0x27 base).cpu.grp.ety = true ∧
      FnOp.rcp.special fp32 (decodeF fp32 false 0x3F800000) = none ∧ FnOp.rcp.special fp32 (decodeF fp32 false 0) ≠ none := by
  unfold Issues; decide +kernel

theorem witness_RoundingIsCorrect : (5 : Nat) < 6 ∧ (4 : Nat) < 5 ∧ (3 : Nat) ≠ 0 ∧
    (roundMag (fmtOf 5) 4 true false 0x80000000 true ⟨1, 3, 0⟩).2.getLsbD 2 = false ∧
    (roundMag (fmtOf 3) 0 false false 0 true ⟨1, 1, 9⟩).2.getLsbD 2 = true ∧
    (0 < 3 ∧ subnormal (fmtOf 0) (roundMag (fmtOf 0) 0 false false 0 false ⟨1, 1, -149⟩).1) ∧ ¬ ((3 : Nat) < 3) := by
  refine ⟨by decide, by decide, by decide, by decide +kernel, by decide +kernel, by unfold subnormal; decide +kernel, by decide⟩

/-- R66: the example of the rounding of 1 + 2^−8 to BF16, which goes up exactly from r = 2^31 on. -/
theorem test_roundSr :
    (roundMag (fmtOf 2) 4 false false 0x7FFFFFFF false ⟨257, 1, -8⟩).1 = 0x3F80 ∧
    (roundMag (fmtOf 2) 4 false false 0x80000000 false ⟨257, 1, -8⟩).1 = 0x3F81 := by decide +kernel

theorem witness_PredicatesAndVotes :
    let g := base.cpu.grp
    Issues (PredOp.xor.word 6 15 0) g ∧ Issues (PredOp.not.word 0 0 7) g ∧ Issues (.pmov 6 254) g ∧ Issues (.vote 6 15 0) g ∧
      Issues (.vote 0 0 2) g ∧ Issues (.vote 159 7 3) g ∧ Issues (.vote 0 0 5) g ∧
      VecMode isAny g [] [254] [] ∧ VecMode isAny (setMd 0x77 base).cpu.grp [] [242] [] ∧
      isWide (setMd 0x77 base).cpu.grp.ety = true ∧ Issues (.pmov 0 231) (setMd 0x77 base).cpu.grp ∧ pairOk false 231 = false ∧ pairOk false 1 = false := by
  unfold Issues
  refine ⟨?_, ?_, ?_, ?_, ?_, ?_, ?_, ?_, ?_, ?_, ?_, ?_, ?_⟩
  all_goals first | decide +kernel | (unfold VecMode; decide +kernel)

theorem witness_LaneMoves :
    (Issues (MoveOp.word (.shflV 253) 239 0) base.cpu.grp ∧ VecMode isAny base.cpu.grp [239] [0] []) ∧
    (Issues (MoveOp.word (.bcast 31) 238 242) (setMd 0x77 base).cpu.grp ∧ VecMode isAny (setMd 0x77 base).cpu.grp [238] [242] []) := by
  unfold Issues VecMode; decide +kernel

theorem witness_CrossLaneSums :
    (Issues (crossWord true 239 1 253) (setMd 0x27 base).cpu.grp ∧ VecMode isFlt (setMd 0x27 base).cpu.grp [239] [253] []) ∧
    (Issues (crossWord false 238 0 0) (setMd 0x877 base).cpu.grp ∧ VecMode isInt (setMd 0x877 base).cpu.grp [238] [0] []) := by
  unfold Issues VecMode; decide +kernel

theorem witness_UniformWords :
    let g := base.cpu.grp
    Issues (UniOp.mulh.word 159 0 248) g ∧ Issues (.kmov 0 159) g ∧ Issues (.kmovi 159 0x8000) g ∧ Issues (.ksel 0 159 15) g ∧
      Issues (.kcmp 0x96 0 248) g ∧ Issues (.qand 6 15 0) g ∧ Issues (.qor 0 7 8) g ∧ Issues (.qnot 6 15) g := by
  unfold Issues; decide +kernel

/-- An address that may be jumped to: the last word of object 2. -/
theorem jumpTarget_last : JumpTarget base 0x20000000FFC :=
  ⟨by decide, rec2, by decide +kernel, by decide, by decide⟩

/-- Object 2 without execute permission. -/
def noX : State := { base with mem := baseMem.set 1 (0x10101, 0x12) }

/-- A target for each fault of `jmpk`: unaligned, no object, one word beyond the object, no execute permission. -/
theorem witness_Branches_faults :
    (Issues (.jmpk 10) (atObj 2 0xFFE base).cpu.grp ∧ ((atObj 2 0xFFE base).cpu.grp.readKK 10).toNat % 4 ≠ 0) ∧
    (Issues (.ret 10) (atObj 9 0 base).cpu.grp ∧ (atObj 9 0 base).cpu.record (atObj 9 0 base).mem 9 = none ∧
      baseObj ((atObj 9 0 base).cpu.grp.readKK 10) = 9) ∧
    (baseObj ((atObj 2 0x1000 base).cpu.grp.readKK 10) = 2 ∧ rec2.ext < baseOff ((atObj 2 0x1000 base).cpu.grp.readKK 10) + 4 ∧
      (atObj 2 0x1000 base).cpu.record (atObj 2 0x1000 base).mem 2 = some rec2) ∧
    (baseOff ((atObj 2 0xFFC noX).cpu.grp.readKK 10) + 4 ≤ rec2.ext ∧ hasPerm { rec2 with perm := 15 } 4 = false ∧
      (atObj 2 0xFFC noX).cpu.record (atObj 2 0xFFC noX).mem 2 = some { rec2 with perm := 15 }) := by
  unfold Issues; decide +kernel

theorem witness_Branches :
    Issues (.br 15 0x8000) base.cpu.grp ∧ Issues (.call 0x800000) base.cpu.grp ∧
      (Issues (.jmpk 10) (atObj 2 0xFFC base).cpu.grp ∧ JumpTarget (atObj 2 0xFFC base) ((atObj 2 0xFFC base).cpu.grp.readKK 10)) ∧
      Issues (.ret 158) base.cpu.grp := by
  refine ⟨?_, ?_, ⟨?_, ⟨by decide +kernel, rec2, by decide +kernel, by decide +kernel, by decide⟩⟩, ?_⟩ <;> unfold Issues <;> decide +kernel

/-- One entry whose label is the next word; p0 true in the odd lanes. -/
def joined (p : Word) (t : Dword) : State :=
  setP 0 0xAAAAAAAA (onGrp (fun g => { g with main := { g.main with stack := [⟨0x20000000004, 0xFFFFFFFF, p, t⟩] } }) base)

/-- The five cases of `brv`: no lane, the join label, every lane, a first split; and `jn` with and without pending lanes. -/
theorem witness_Divergence :
    (Issues (.mkj 0x7FFF) base.cpu.grp ∧ base.cpu.grp.joins.length < (if base.cpu.grp.inWin then 4 else 32)) ∧
    (Issues (.brv 0 1) (joined 0 0).cpu.grp ∧ (joined 0 0).cpu.grp.joins = [⟨0x20000000004, 0xFFFFFFFF, 0, 0⟩] ∧
      CodeAt (joined 0 0).cpu.grp.pc (4 * (1 : Half).toInt) 0x20000000004) ∧
    (Issues (.brv 0 5) (joined 0 0).cpu.grp ∧ CodeAt (joined 0 0).cpu.grp.pc (4 * (5 : Half).toInt) 0x20000000014) ∧
    (Issues (.brv 15 5) (joined 1 0x20000000008).cpu.grp ∧ (joined 1 0x20000000008).cpu.grp.lanes &&& (joined 1 0x20000000008).cpu.grp.readP 15 = 0) ∧
    (Issues (.brv 7 5) (joined 1 0x20000000008).cpu.grp ∧
      (joined 1 0x20000000008).cpu.grp.lanes &&& ~~~(joined 1 0x20000000008).cpu.grp.readP 7 = 0) ∧
    (let s := onGrp (fun g => { g with pc := 0x20000000004 }) (joined 1 0x20000000008)
     s.cpu.grp.joins = [⟨0x20000000004, 0xFFFFFFFF, 1, 0x20000000008⟩] ∧ s.cpu.grp.pc = 0x20000000004) := by
  unfold Issues CodeAt; decide +kernel

/-- The faults of the reconvergence stack: full in the window, empty, a second split, and a `jn` elsewhere. -/
theorem witness_Divergence_faults :
    let full := onGrp (fun g => { g with inWin := true, win := { g.win with stack := List.replicate 4 ⟨0, 0, 0, 0⟩ } }) base
    let two := joined 1 0x20000000008
    (Issues (.mkj 1) full.cpu.grp ∧ (if full.cpu.grp.inWin then 4 else 32) ≤ full.cpu.grp.joins.length) ∧
    (Issues (.brv 0 1) base.cpu.grp ∧ base.cpu.grp.joins = []) ∧
    (Issues (.brv 0 5) two.cpu.grp ∧ two.cpu.grp.joins = [⟨0x20000000004, 0xFFFFFFFF, 1, 0x20000000008⟩] ∧
      CodeAt two.cpu.grp.pc (4 * (5 : Half).toInt) 0x20000000014 ∧ two.cpu.grp.lanes &&& two.cpu.grp.readP 0 ≠ 0 ∧
      two.cpu.grp.lanes &&& ~~~(two.cpu.grp.lanes &&& two.cpu.grp.readP 0) ≠ 0) ∧ two.cpu.grp.pc ≠ 0x20000000004 := by
  unfold Issues CodeAt; decide +kernel

/-- `rqmove` to the group itself and to the last other one; `exit` in its block. -/
theorem witness_ModeClockQuotaExit :
    let g := base.cpu.grp
    let two := setK 3 1 (onCtx (fun x => { x with blocks := [{ programBlock with g := 2 }] }) base)
    Issues (.mdset 0x1C87) g ∧ Issues (.mdget 159) g ∧ Issues (.lcrd 158) g ∧ (Issues (.lcadv 159) g ∧ g.lc + 1 + (g.readK 159).toNat < 2 ^ 63) ∧
      Issues (.rqset 248) g ∧
      (Issues (.rqmove 3 2) g ∧ base.cpu.ctx.block g = some programBlock ∧ (g.readK 3).toNat < programBlock.g ∧ (g.readK 3).toNat = g.gix) ∧
      (Issues (.rqmove 3 2) two.cpu.grp ∧ two.cpu.ctx.block two.cpu.grp = some { programBlock with g := 2 } ∧ (two.cpu.grp.readK 3).toNat = 1) ∧
      base.cpu.settle.ctx.block base.cpu.settle.grp = some programBlock ∧
      (let late := onGrp (fun g => { g with lc := 2 ^ 63 - 1 }) base
       Issues (.lcadv 248) late.cpu.grp ∧ 2 ^ 63 ≤ late.cpu.grp.lc + 1 + (late.cpu.grp.readK 248).toNat) ∧
      (let one := setK 3 1 base
       Issues (.rqmove 3 2) one.cpu.grp ∧ one.cpu.ctx.block one.cpu.grp = some programBlock ∧ programBlock.g ≤ (one.cpu.grp.readK 3).toNat) := by
  unfold Issues; decide +kernel

theorem witness_IllegalWordsAndFetchTrap :
    OneWord (.add 240 0 0) ∧ wellFormed (.add 240 0 0) = false ∧ unassigned 0x35 = true ∧ unassigned 0x9E = true ∧
      (unassigned 0x8E = false ∧ litForm 0x8E = none) ∧
      (unassigned 0x8D = false ∧ litForm 0x8D = some .w ∧ (0x010000 : BitVec 24).extractLsb' 16 8 ≠ 0) :=
  ⟨⟨rfl, nofun⟩, by decide⟩

theorem witness_PrivilegeWindowAndModeFaults :
    let user := (onGrp (fun g => { g with sys := false }) base)
    (wellFormed (.csrr 0 11) = true ∧ Forbidden user.cpu.grp user.cpu.ctx (.csrr 0 11)) ∧
    (wellFormed (.tscrd 158) = true ∧ Forbidden base.cpu.grp base.cpu.ctx (.tscrd 158)) ∧
    (wellFormed (.kadd 32 0 0) = true ∧ (inWindow base).cpu.grp.inWin = true ∧ windowOk (.kadd 32 0 0) = false ∧
      ¬ Forbidden (inWindow base).cpu.grp (inWindow base).cpu.ctx (.kadd 32 0 0)) ∧
    (Issues (IntOp.add.word 0 0 (.v 0)) (setMd 0x47 base).cpu.grp ∧ isInt (setMd 0x47 base).cpu.grp.ety = false) ∧
    (Issues (IntOp.add.word 231 0 (.v 0)) (setMd 0x77 base).cpu.grp ∧ isWide (setMd 0x77 base).cpu.grp.ety = true) ∧
    (Issues (FltOp.add.word 0 0 (.v 0)) (setMd 0x57 base).cpu.grp ∧ isFlt (setMd 0x57 base).cpu.grp.ety = false) := by
  unfold Issues Forbidden; decide +kernel

theorem witness_SoftwareTrapAndReturn : (inWindow base).cpu.grp.inWin = true ∧ base.cpu.grp.inWin = false := by decide +kernel

/-- An illegal word with a handler, and `rfe` after it. -/
theorem witness_TrapThenReturn :
    let s := onGrp (fun g => { g with trapv := 0x20000000100 }) base
    OneWord (.add 240 0 0) ∧ wellFormed (.add 240 0 0) = false ∧ s.cpu.grp.inWin = false ∧ s.cpu.grp.trapv.toNat / 4 ≠ 0 ∧
      ∃ t u, exec (.add 240 0 0) s = .next t ∧ exec .rfe t = .next u := by
  refine ⟨⟨rfl, nofun⟩, by decide, by decide +kernel, by decide +kernel, ⟨_, _, rfl, rfl⟩⟩

theorem witness_ControlRegisters :
    let g := base.cpu.grp
    let x := base.cpu.ctx
    let open' := onCtx (fun x => { x with nondet := 1 }) base
    (Issues (.csrr 158 11) g ∧ ¬ Forbidden g x (.csrr 158 11)) ∧ (Issues (.csrr 159 7) g ∧ ¬ Forbidden g x (.csrr 159 7)) ∧
    (Issues (.csrr 158 12) g ∧ Issues (.tscrd 158) g ∧ open'.cpu.ctx.nondet.getLsbD 0 = true) ∧
    (∀ n ∈ ([4, 5, 8, 9] : List (BitVec 8)), Issues (.csrw 158 n) g ∧ ¬ Forbidden g x (.csrw 158 n)) := by
  unfold Issues Forbidden; decide +kernel

/-- p0 true in no lane, in every lane. -/
theorem witness_AssertBreakHalt :
    Issues (.asrt 15 158) base.cpu.grp ∧ (base.cpu.grp.active.getLsbD 0 = true ∧ (base.cpu.grp.readP 15).getLsbD 0 = false) ∧
      (∀ j < 32, (base.cpu.grp.readP 7).getLsbD j = true) ∧ Issues (.asrt 7 0) base.cpu.grp ∧ Issues (.halt 159) base.cpu.grp ∧
      base.cpu.grp.sys = true := by
  unfold Issues; decide +kernel

/-! ### Witnesses: system words and memory -/

/-- Memory with seven objects: 1 the image object, 4 mapped with 16 KiB sub-tiles and its map at PA 40000H (entry 1 resident), 5 FIXED, 6
mapped with RELOC, NEWBASE 80000H and a moving entry in its map at PA 40100H, 7 PRIVATE of block 5. -/
def manyMem : List Host.Cell :=
  [(0x10080, 0x31), (0x10081, 0x12), (0x1008B, 0x1), (0x10093, 0x4), (0x1009B, 0x4), (0x100AC, 0x1), (0x10100, 0xF1), (0x10101, 0x13),
   (0x1010A, 0x2), (0x10111, 0x10), (0x10119, 0x10), (0x1012C, 0x1), (0x10180, 0xF3), (0x10181, 0x13), (0x1018A, 0x3), (0x10191, 0x1),
   (0x10199, 0x1), (0x101AC, 0x1), (0x10200, 0xF1), (0x10201, 0x13), (0x10202, 0x80), (0x10203, 0xB), (0x1020A, 0x4), (0x10211, 0x80),
   (0x10219, 0x80), (0x1022C, 0x1), (0x10280, 0xF5), (0x10281, 0x13), (0x1028A, 0x5), (0x10291, 0x1), (0x10299, 0x1), (0x102AC, 0x1),
   (0x10300, 0xF1), (0x10301, 0x13), (0x10302, 0x80), (0x10303, 0x1B), (0x10309, 0x1), (0x1030A, 0x4), (0x10311, 0x40), (0x10319, 0x40),
   (0x1032C, 0x1), (0x1035E, 0x8), (0x10380, 0xF7), (0x10381, 0x13), (0x10383, 0x20), (0x1038A, 0x6), (0x10391, 0x1), (0x10399, 0x1),
   (0x103AC, 0x1), (0x103D5, 0xA), (0x4000A, 0x6), (0x4000F, 0x40), (0x40102, 0x7), (0x40107, 0xC0)]

def many : State := onCtx (fun x => { x with objtb := 0x10003 }) { base with mem := manyMem }

theorem record_many : (many.cpu.record many.mem 1).isSome = true ∧ (many.cpu.record many.mem 4).map (fun r => (r.mapped, r.ext)) = some (true, 0x8000) ∧
    (many.cpu.record many.mem 5).map (fun r => r.mode) = some 2 ∧ (many.cpu.record many.mem 6).map (fun r => (r.reloc, r.newbase)) = some (true, 0x80000) ∧
    (many.cpu.record many.mem 7).map (fun r => (r.mode, r.owner)) = some (3, 2560) := by decide +kernel

/-- An access that passes its checks. -/
theorem reach_of {s : State} {kind : Access} {align size obj : Nat} {off : Int} (r : Record)
    (h : s.cpu.record s.mem obj = some r ∧ off % (align : Int) = 0 ∧ 0 ≤ off ∧ off + size ≤ r.ext ∧ obj ≠ 1 ∧ permOk r kind = true ∧
      modeRefuses r s.cpu.grp.gid kind = false ∧ accessBlock s.mem r (waitsOnZero r kind) off.toNat size = none) :
    Reach s kind align size obj off := ⟨h.2.1, r, h.1, h.2.2⟩

/-- Bytes of an object with HOME 0 are homed here. -/
theorem local_of {s : State} {va : Nat} {obj : Nat} {r : Record} (hr : s.cpu.record s.mem obj = some r) (hh : r.home = 0)
    (hv : obj * 2 ^ 40 ≤ va ∧ va < (obj + 1) * 2 ^ 40) : LocalByte s va := by
  intro q hq
  have : vaObj va = obj := by unfold vaObj; omega
  rw [this, hr] at hq
  cases hq
  simp [homedAway, homeModule, hh]

/-- The bytes of one lane's access. -/
theorem single {lanes : List Nat} {addr : Nat → Nat} {size A : Nat} (hl : lanes = [0]) (ha : addr 0 = A) (x : Nat) :
    lanesBytes lanes addr size x ↔ A ≤ x ∧ x < A + size := by
  subst hl ha; simp [lanesBytes]

/-- Their line. -/
theorem single_lines {lanes : List Nat} {addr : Nat → Nat} {size A : Nat} (hl : lanes = [0]) (ha : addr 0 = A) (L : Nat)
    (h : L % 128 = 0 ∧ L ≤ A ∧ A + size ≤ L + 128 ∧ 0 < size) : LinesOf (lanesBytes lanes addr size) [L] := by
  refine ⟨List.nodup_singleton _, fun l => ?_⟩
  simp only [List.mem_singleton]
  constructor
  · rintro rfl
    exact ⟨A, (single hl ha A).2 ⟨by omega, by omega⟩, by unfold lineOf; omega⟩
  · rintro ⟨a, ha', rfl⟩
    have := (single hl ha a).1 ha'
    unfold lineOf; omega

theorem all_single {lanes : List Nat} {P : Nat → Prop} (hl : lanes = [0]) (h : P 0) : ∀ j ∈ lanes, P j := by
  subst hl; simpa using h

/-- A launch record of R257: one block of 512 groups, its entry the last word of object 2. -/
def launching (sys : Word) : State :=
  setK 20 0xFFC (setK 21 0x200 (setK 24 0x04010001 (setK 25 0x00100600 (setK 26 (sys + 0xFF8000) base))))

theorem witness_LaunchSends :
    let s := launching 0x10000000
    Issues (.launch 248 20) s.cpu.grp ∧ ((lrecOf (launchWords s.cpu.grp 20)).sys = true → s.cpu.grp.sys = true) ∧
      (lrecOf (launchWords s.cpu.grp 20)).sys = true ∧ lrecOk (launchWords s.cpu.grp 20) = true ∧
      JumpTarget s (lrecOf (launchWords s.cpu.grp 20)).entry ∧ launchHome s.cpu.hw s.cpu.ctx = s.cpu.hw.number := by
  refine ⟨by unfold Issues; decide +kernel, by decide +kernel, by decide +kernel, by decide +kernel,
    ⟨by decide +kernel, rec2, by decide +kernel, by decide +kernel, by decide⟩, by decide +kernel⟩

/-- A queue with an entry of the group in hand at stamp (100, 0), which waits for it, and another group. -/
def entry (op : TurnOp) (sc : Scope) : Entry := ⟨⟨100, 0⟩, 64, sc, op, 0, 0, 0⟩
def turning (e : Entry) (w : TurnWait) (others : List Group) (q : List Entry) : State :=
  onCtx (fun x => { x with queue := e :: q, groups := others }) (onGrp (fun g => { g with lc := 100, status := .turn w }) base)
def other (gid lc : Nat) (st : Status) : Group := { Group.none with gid := gid, lc := lc, status := st }

/-- A record of one block of one group, one of 512 groups with the highest quota, and one that waits for launch 5. -/
def oneGroup : List Word := [0xFFC, 0x200, 0, 0, 0x04010001, 0x00100401, 0xFF0000, 0]
def tooBig : List Word := [0xFFC, 0x200, 0, 0, 0x04010001, 0x00100600, 0xFD0000, 0]
def afterFive : List Word := [0xFFC, 0x200, 0, 0, 0x04010001, 0x00100401, 0x8FF0000, 5]

theorem oneGroup_cores {r : List Word} (h : r = oneGroup ∨ r = afterFive) : CoresTake (lrecOf r) base.cpu.ctx.dq 1 ∧ ∀ m < 1, ¬ CoresTake (lrecOf r) base.cpu.ctx.dq m := by
  refine ⟨?_, fun m hm h => absurd h.1 (by omega)⟩
  obtain rfl | rfl := h
  all_goals exact ⟨by decide, by decide, by decide +kernel, ⟨1, by decide +kernel⟩, by decide +kernel⟩

/-- The turn of a launch: no cores, no ordinal left, a launch to wait for that is none, a full queue, and room. -/
theorem witness_LaunchSends_turn :
    let w : TurnWait := ⟨none, some 248, false, 0, 64, 4⟩
    let st := fun (r : List Word) (n : Nat) (l : List Launch) => onCtx (fun x => { x with nextOrd := n, launches := l }) (turning (entry (.launch r) .system) w [] [])
    let ok := fun s r => AtTurn s (entry (.launch r) .system) ∧
      performable s.cpu.hw s.cpu.ctx s.cpu.groups (entry (.launch r) .system) = true ∧ s.cpu.grp.status = .turn w
    (ok (st tooBig 1 []) tooBig ∧ ∀ n, ¬ CoresTake (lrecOf tooBig) base.cpu.ctx.dq n) ∧
    (ok (st oneGroup (2 ^ 24) []) oneGroup ∧ ok (st oneGroup 1 []) oneGroup) ∧
    (ok (st afterFive 5 []) afterFive ∧ (lrecOf afterFive).aft = true ∧ 5 ≤ (lrecOf afterFive).after) ∧
    256 ≤ ((List.replicate 256 (⟨1, oneGroup, 0, 0, 1, 1, false⟩ : Launch)).filter fun k =>
      (lrecOf k.rcd).que == (lrecOf oneGroup).que && !k.killed && decide (k.next < (lrecOf k.rcd).grid)).length := by
  refine ⟨⟨by unfold AtTurn; decide +kernel, ?_⟩, ⟨by unfold AtTurn; decide +kernel, by unfold AtTurn; decide +kernel⟩,
    ⟨by unfold AtTurn; decide +kernel, by decide +kernel, by decide +kernel⟩, by decide +kernel⟩
  rintro n ⟨h1, h2, -, ⟨m, -, h3, h4⟩, -⟩
  have hg : (lrecOf tooBig).g = 512 := by decide +kernel
  have hq : (lrecOf tooBig).qta = 29 := by decide +kernel
  rw [hg] at h3
  rw [hq, if_neg (by decide)] at h4
  interval_cases n <;> omega

/-- An address and a value for `objw`. -/
def objwAt (pa : Word) (val : Dword) : State := setK 10 pa (setK 12 (val.setWidth 32) (setK 13 ((val >>> 32).setWidth 32) many))

/-- `objw` of a record (deferred, the same), of a map entry (a service write, a drain). -/
theorem witness_TranslationWrites :
    (Issues (.objw 10 12) many.cpu.grp ∧ many.cpu.grp.sys = true ∧ (many.cpu.grp.readKK 10).toNat % 8 = 0) ∧
    (let s := objwAt 0x10388 1
     (s.cpu.grp.readKK 10).toNat = 0x10388 ∧ changeOf s.cpu.hw s.mem s.cpu.ctx 0x10388 (s.cpu.grp.readKK 12) = some .deferred) ∧
    (let s := objwAt 0x10100 5105
     changeOf s.cpu.hw s.mem s.cpu.ctx 0x10100 (s.cpu.grp.readKK 12) = some .same) ∧
    (let s := objwAt 0x40000 0x4000000000060000
     changeOf s.cpu.hw s.mem s.cpu.ctx 0x40000 (s.cpu.grp.readKK 12) = some .service) ∧
    (let s := objwAt 0x40008 0xC000000000060000
     changeOf s.cpu.hw s.mem s.cpu.ctx 0x40008 (s.cpu.grp.readKK 12) = some .drain) ∧
    Issues .objfence many.cpu.grp ∧
    (let s := lane0 2 0xFFF
     Issues (.icinv 10) s.cpu.grp ∧ s.cpu.record s.mem (baseObj (s.cpu.grp.readKK 10)) = some rec2 ∧ baseOff (s.cpu.grp.readKK 10) < rec2.ext ∧
       baseObj (s.cpu.grp.readKK 10) ≠ 1 ∧ hasPerm rec2 4 = true ∧ modeRefuses rec2 s.cpu.grp.gid .execute = false) := by
  unfold Issues; decide +kernel

/-- The turn of a deferred write, beside a group that runs above it. -/
theorem witness_TranslationWrites_turn :
    let w : TurnWait := ⟨none, none, false, 0, 64, 4⟩
    let e := entry (.objw 0x10388 1) .system
    let s := turning e w [other 513 101 .running] []
    AtTurn s e ∧ performable s.cpu.hw s.cpu.ctx s.cpu.groups e = true ∧ s.cpu.grp.gid = e.stamp.gid ∧ s.cpu.grp.status = .turn w ∧ NoneSaved s := by
  refine ⟨by unfold AtTurn; decide +kernel, by decide +kernel, by decide +kernel, by decide +kernel, fun x hx => ⟨?_, ?_, ?_⟩⟩
  all_goals revert x; decide +kernel

theorem witness_FabricStatusAndFence : Issues (.fstat 159) base.cpu.grp ∧ Issues (.fclr 248) base.cpu.grp := by unfold Issues; decide +kernel

/-- A load of the last word of object 2; of the last word of the group's own image. -/
theorem witness_PlainLoads :
    (let s := lane0 2 0xFFC
     let g := s.cpu.grp
     let addr := fun j => vaOf 2 (laneOff g (g.readKK 10) 252 0 j)
     Issues (loadWord 4 239 10 252) g ∧ baseObj (g.readKK 10) = 2 ∧ pendingLanes g = [0] ∧
       (∀ j ∈ pendingLanes g, Reach s .load 4 4 2 (laneOff g (g.readKK 10) 252 0 j)) ∧
       (∀ x, lanesBytes (pendingLanes g) addr 4 x → Present s x ∧ get? g.fills (lineOf x) ≠ some none)) ∧
    (let s := onGrp (fun g => { g with fills := [(2 * 2 ^ 40 + 3968, none)] }) (lane0 2 0xFFC)
     get? s.cpu.grp.fills (lineOf (2 * 2 ^ 40 + 0xFFC)) = some none) ∧
    (let s := onGrp (fun g => { g with inWin := true, win := ({ g.win with md := 7, c := 1 }.writeK 10 0x3FFF0).writeK 11 0x100 }) many
     let g := s.cpu.grp
     Issues (loadWord 16 28 10 252) g ∧ baseObj (g.readKK 10) = 1 ∧
       ∀ j ∈ pendingLanes g, (s.cpu.record s.mem 1).isSome = true ∧ laneOff g (g.readKK 10) 252 0 j % 16 = 0 ∧
         ownImage g (laneOff g (g.readKK 10) 252 0 j) 16 = true) := by
  refine ⟨⟨by unfold Issues; decide +kernel, by decide +kernel, by decide +kernel, ?_, ?_⟩, by decide +kernel, ?_⟩
  · exact all_single (by decide +kernel) (reach_of rec2 (by decide +kernel))
  · intro x hx
    have hx := (single (A := 2 * 2 ^ 40 + 0xFFC) (by decide +kernel) (by decide +kernel) x).1 hx
    refine ⟨.inl (local_of (obj := 2) (r := rec2) (by decide +kernel) rfl (by omega)), ?_⟩
    change get? [] _ ≠ _
    simp [get?]
  · unfold Issues; decide +kernel

/-- A store of the last word of object 2 (OPEN) and of object 3 (PARCEL). -/
theorem witness_PlainStores :
    ∀ p ∈ [((2 : Word), (0xFFC : Word), rec2), (3, 0xFC, rec3)],
     let s := lane0 p.1 p.2.1
     let g := s.cpu.grp
     let obj := p.1.toNat
     let addr := fun j => vaOf obj (laneOff g (g.readKK 10) 252 0 j)
     let P := lanesBytes (pendingLanes g) addr 4
     Issues (storeWord 4 243 10 252) g ∧ baseObj (g.readKK 10) = obj ∧
       (∀ j ∈ pendingLanes g, Reach s .store 4 4 obj (laneOff g (g.readKK 10) 252 0 j)) ∧
       ∃ ls, LinesOf P ls ∧ ∀ r, s.cpu.record s.mem obj = some r → PlainTarget s r P ∧ (storesThrough r = false → sketchWith g ls ≤ Config.sketchLines) := by
  intro p hp
  fin_cases hp
  all_goals refine ⟨by unfold Issues; decide +kernel, by decide +kernel, ?_, ?_⟩
  · exact all_single (by decide +kernel) (reach_of rec2 (by decide +kernel))
  · refine ⟨[2 * 2 ^ 40 + 3968], single_lines (A := 2 * 2 ^ 40 + 0xFFC) (by decide +kernel) (by decide +kernel) _ (by decide), fun r hr => ?_⟩
    obtain rfl : rec2 = r := Option.some.inj ((show _ = some rec2 by decide +kernel).symm.trans hr)
    refine ⟨⟨fun _ => rfl, fun a _ => ⟨by simp [homedAway, homeModule, rec2], fun _ => rfl⟩⟩, fun _ => by decide +kernel⟩
  · exact all_single (by decide +kernel) (reach_of rec3 (by decide +kernel))
  · refine ⟨[3 * 2 ^ 40 + 128], single_lines (A := 3 * 2 ^ 40 + 0xFC) (by decide +kernel) (by decide +kernel) _ (by decide), fun r hr => ?_⟩
    obtain rfl : rec3 = r := Option.some.inj ((show _ = some rec3 by decide +kernel).symm.trans hr)
    refine ⟨⟨fun _ => rfl, fun a _ => ⟨by simp [homedAway, homeModule, rec3], fun _ => rfl⟩⟩, fun _ => by decide +kernel⟩

/-- v1 holds a value per lane. -/
def setV1 (f : Nat → Nat) : State → State :=
  onGrp fun g => { g with main := g.main.writeReg 1 (Vector.ofFn fun j : Fin 32 => BitVec.ofNat 32 (f j)) }

/-- Sixteen lines of object 2 in the sketch, a byte each. -/
def fullSketch (s : State) : State :=
  onGrp (fun g => { g with sketch := (List.range 16).map fun i => (2 * 2 ^ 40 + 128 * i, [(2 * 2 ^ 40 + 128 * i, 1)]) }) s

/-- Thirty-two lines, one a lane. -/
def spread : State := setC 0xFFFFFFFF (setV1 (fun j => 128 * j) (lane0 2 0))

/-- One line too many beside a full sketch, a word that has published before, and more lines than a sketch holds. -/
theorem witness_SketchOverflow :
    (∀ p ∈ [(fullSketch (lane0 2 2048), false), (onGrp (fun g => { g with bulk := true }) (lane0 2 2048), true)],
     let s := p.1
     let g := s.cpu.grp
     let addr := fun j => vaOf 2 (laneOff g (g.readKK 10) 252 0 j)
     let P := lanesBytes (pendingLanes g) addr 4
     let ls := [2 * 2 ^ 40 + 2048]
     Issues (storeWord 4 1 10 252) g ∧ pendingLanes g ≠ [] ∧ (∀ j ∈ pendingLanes g, Reach s .store 4 4 2 (laneOff g (g.readKK 10) 252 0 j)) ∧
       s.cpu.record s.mem 2 = some rec2 ∧ storesThrough rec2 = false ∧ (∀ a, P a → homedAway s.cpu.hw rec2 (vaOff a) = none) ∧ LinesOf P ls ∧
       (∀ l, l ∈ ls ∨ l ∈ g.sketch.map Prod.fst → LocalByte s l) ∧ (Config.sketchLines < sketchWith g ls ∨ g.bulk = true) ∧
       ls.length ≤ Config.sketchLines ∧ g.bulk = p.2) ∧
    (let s := spread
     let g := s.cpu.grp
     let addr := fun j => vaOf 2 (laneOff g (g.readKK 10) 1 0 j)
     let P := lanesBytes (pendingLanes g) addr 4
     let ls := (List.range 32).map fun j => 2 * 2 ^ 40 + 128 * j
     Issues (storeWord 4 1 10 1) g ∧ pendingLanes g ≠ [] ∧ (∀ j ∈ pendingLanes g, Reach s .store 4 4 2 (laneOff g (g.readKK 10) 1 0 j)) ∧
       s.cpu.record s.mem 2 = some rec2 ∧ (∀ a, P a → homedAway s.cpu.hw rec2 (vaOff a) = none) ∧ LinesOf P ls ∧
       (∀ l, l ∈ ls ∨ l ∈ g.sketch.map Prod.fst → LocalByte s l) ∧ Config.sketchLines < sketchWith g ls ∧ ¬ ls.length ≤ Config.sketchLines) := by
  have h2 : ∀ (s : State) l, s.cpu.record s.mem 2 = some rec2 → 2 * 2 ^ 40 ≤ l → l < 3 * 2 ^ 40 → LocalByte s l := fun s l hr h h' => local_of hr rfl ⟨h, h'⟩
  refine ⟨fun p hp => ?_,
    ⟨by unfold Issues; decide +kernel, by decide +kernel, ?_, by decide +kernel, fun a _ => by simp [homedAway, homeModule, rec2], ?_, ?_,
      by decide +kernel, by decide⟩⟩
  · have hs : ∀ l ∈ [2 * 2 ^ 40 + 2048] ++ p.1.cpu.grp.sketch.map Prod.fst, 2 * 2 ^ 40 ≤ l ∧ l < 3 * 2 ^ 40 := by revert p; decide +kernel
    refine ⟨?_, ?_, all_single ?_ (reach_of rec2 ?_), ?_, rfl, fun a _ => by simp [homedAway, homeModule, rec2], single_lines (A := 2 * 2 ^ 40 + 2048) ?_ ?_ _ (by decide),
      fun l hl => h2 _ l ?_ (hs l (List.mem_append.2 hl)).1 (hs l (List.mem_append.2 hl)).2, ?_, by decide, ?_⟩
    all_goals clear hs h2
    all_goals fin_cases hp
    all_goals first | decide +kernel | (unfold Issues; decide +kernel)
  · have hl : pendingLanes spread.cpu.grp = List.range 32 := by decide +kernel
    rw [hl]
    intro j hj
    refine reach_of rec2 ?_
    revert j; decide +kernel
  · have hl : pendingLanes spread.cpu.grp = List.range 32 := by decide +kernel
    have ha : ∀ j ∈ List.range 32, vaOf 2 (laneOff spread.cpu.grp (spread.cpu.grp.readKK 10) 1 0 j) = 2 * 2 ^ 40 + 128 * j := by decide +kernel
    refine ⟨by decide +kernel, fun l => ?_⟩
    simp only [hl, lanesBytes, List.mem_map]
    constructor
    · rintro ⟨j, hj, rfl⟩
      exact ⟨2 * 2 ^ 40 + 128 * j, ⟨j, hj, by rw [ha j hj]; omega⟩, by unfold lineOf; omega⟩
    · rintro ⟨a, ⟨j, hj, h⟩, rfl⟩
      rw [ha j hj] at h
      exact ⟨j, hj, by unfold lineOf; omega⟩
  · intro l hl
    have : ∀ l ∈ ((List.range 32).map fun j => 2 * 2 ^ 40 + 128 * j) ++ spread.cpu.grp.sketch.map Prod.fst, 2 * 2 ^ 40 ≤ l ∧ l < 3 * 2 ^ 40 := by
      decide +kernel
    exact h2 _ l (by decide +kernel) (this l (List.mem_append.2 hl)).1 (this l (List.mem_append.2 hl)).2

/-- A byte in the sketch; none there, under each mode; a version at the view, and none. -/
theorem witness_LoadSelection :
    let a := 2 * 2 ^ 40
    let s := onCtx (fun x => { x with versions := [⟨⟨5, 513⟩, 0, none, [(a, 7)]⟩] }) (onGrp (fun g => { g with view := some (⟨5, 513⟩, .device) }) base)
    sketchByte (fullSketch base).cpu.grp.sketch a = some 1 ∧
    (sketchByte s.cpu.grp.sketch a = none ∧ get? s.cpu.grp.fills (lineOf a) = none ∧ rec2.mode = 0 ∧ rec3.mode = 1 ∧
      (many.cpu.record many.mem 5).map (fun r => r.mode) = some 2) ∧
    (∃ u ∈ s.cpu.ctx.versions, get? u.cells a = some 7 ∧ s.cpu.grp.view = some (⟨5, 513⟩, .device) ∧ u.module = s.cpu.hw.number ∧
      ¬ (5 < u.stamp.lc ∨ 5 = u.stamp.lc ∧ 513 < u.stamp.gid)) ∧ base.cpu.ctx.versions = [] ∧ base.cpu.ctx.flight = [] := by decide +kernel

/-- Lanes 0 and 1 active, lane 1 unaligned, or one byte outside. -/
def twoLanes (x : Nat) : State := setC 3 (setV1 (fun j => if j = 1 then x else 0) (lane0 2 0))

theorem lanes_local {s : State} {lanes : List Nat} {addr : Nat → Nat} {size : Nat} (hr : s.cpu.record s.mem 2 = some rec2)
    (h : ∀ j ∈ lanes, 2 * 2 ^ 40 ≤ addr j ∧ addr j + size ≤ 3 * 2 ^ 40) (x : Nat) (hx : lanesBytes lanes addr size x) : LocalByte s x := by
  obtain ⟨j, hj, h1, h2⟩ := hx
  have := h j hj
  exact local_of hr rfl (by omega)

/-- An unaligned lane; a lane outside, by one byte and at the object's end. -/
theorem witness_LaneFaults :
    (let s := twoLanes 2
     let g := s.cpu.grp
     let off := laneOff g (g.readKK 10) 1 0
     Issues (storeWord 4 2 10 1) g ∧ Issues (loadWord 4 2 10 1) g ∧ baseObj (g.readKK 10) = 2 ∧ pendingLanes g = [0, 1] ∧
       (∀ x, lanesBytes (pendingLanes g) (fun j => vaOf 2 (off j)) 4 x → LocalByte s x) ∧
       (Reach s .store 4 4 2 (off 0) ∧ Reach s .load 4 4 2 (off 0)) ∧ off 1 % 4 ≠ 0 ∧ ¬ off 0 % 4 ≠ 0) ∧
    (∀ p ∈ [((4096 : Nat), (4 : Nat)), (4096, 1)],
     let s := twoLanes p.1
     let g := s.cpu.grp
     let off := laneOff g (g.readKK 10) 1 0
     let outside := fun j => ∀ r, s.cpu.record s.mem 2 = some r → off j < 0 ∨ r.ext < off j + p.2
     Issues (storeWord p.2 2 10 1) g ∧ Issues (loadWord p.2 2 10 1) g ∧ pendingLanes g = [0, 1] ∧ (∀ j ∈ [0, 1], ¬ off j % p.2 ≠ 0) ∧
       (∀ x, lanesBytes (pendingLanes g) (fun j => vaOf 2 (off j)) p.2 x → LocalByte s x) ∧ Reach s .store p.2 p.2 2 (off 0) ∧ outside 1 ∧ ¬ outside 0) := by
  refine ⟨⟨by unfold Issues; decide +kernel, by unfold Issues; decide +kernel, by decide +kernel, by decide +kernel,
    lanes_local (by decide +kernel) (by decide +kernel), ⟨reach_of rec2 (by decide +kernel), reach_of rec2 (by decide +kernel)⟩, by decide +kernel⟩, ?_⟩
  intro p hp
  fin_cases hp
  all_goals
    refine ⟨by unfold Issues; decide +kernel, by unfold Issues; decide +kernel, by decide +kernel, by decide +kernel,
      lanes_local (by decide +kernel) (by decide +kernel), reach_of rec2 (by decide +kernel), fun r hr => ?_, fun h => ?_⟩
    · obtain rfl : rec2 = r := Option.some.inj ((show _ = some rec2 by decide +kernel).symm.trans hr)
      decide +kernel
    · exact absurd (h rec2 (by decide +kernel)) (by decide +kernel)

/-- `ldk` and `stk` of the last 16 words of object 2, in OPEN and PARCEL objects and in the group's own image; each failing check. -/
theorem witness_UniformMemoryWords :
    (let s := lane0 2 4032
     let g := s.cpu.grp
     let va := 2 * 2 ^ 40 + 4032
     let P := lanesBytes (List.range 16) (fun w => va + 4 * w) 4
     Issues (.ldk 144 10 15) g ∧ vaOf 2 (baseOff (g.readKK 10)) = va ∧ Reach s .load 4 64 2 4032 ∧ (∀ x, P x → Present s x ∧ get? g.fills (lineOf x) ≠ some none) ∧
       Issues (.stk 144 10 15) g ∧ Reach s .store 4 64 2 4032 ∧ LinesOf P [2 * 2 ^ 40 + 3968] ∧ PlainTarget s rec2 P ∧
       sketchWith g [2 * 2 ^ 40 + 3968] ≤ Config.sketchLines) ∧
    (let s := onGrp (fun g => { g with inWin := true, win := (g.win.writeK 10 0x3FFC0).writeK 11 0x100 }) many
     let g := s.cpu.grp
     Issues (.ldk 16 10 15) g ∧ Issues (.stk 16 10 15) g ∧ baseObj (g.readKK 10) = 1 ∧ (s.cpu.record s.mem 1).isSome = true ∧
       baseOff (g.readKK 10) % 4 = 0 ∧ ownImage g (baseOff (g.readKK 10)) 64 = true) ∧
    (let fail := fun (s : State) (off : Nat) (k : Nat) (r : Option Record) => baseOff (s.cpu.grp.readKK 10) = off ∧ Issues (.ldk 0 10 (BitVec.ofNat 4 (k - 1))) s.cpu.grp ∧
       s.cpu.record s.mem (baseObj (s.cpu.grp.readKK 10)) = r
     fail (lane0 2 2) 2 1 (some rec2) ∧ fail (lane0 9 0) 0 1 none ∧ (fail (lane0 2 4092) 4092 2 (some rec2) ∧ rec2.ext < 4092 + 4 * 2) ∧
       (let s := atObj 1 0 many
        (s.cpu.record s.mem 1).isSome = true ∧ baseObj (s.cpu.grp.readKK 10) = 1 ∧ ownImage s.cpu.grp 0 4 = false) ∧
       (let s := atObj 7 252 many
        (s.cpu.record s.mem 7).any (fun r => permOk r .load && modeRefuses r s.cpu.grp.gid .load && decide (252 + 4 ≤ r.ext)) = true) ∧
       (let s := atObj 5 0 many
        (s.cpu.record s.mem 5).any (fun r => permOk r .store && modeRefuses r s.cpu.grp.gid .store) = true)) ∧
    Issues (.pf 1 10 254) base.cpu.grp := by
  refine ⟨⟨by unfold Issues; decide +kernel, by decide +kernel, reach_of rec2 (by decide +kernel), fun x hx => ⟨.inl (lanes_local (by decide +kernel) (by decide +kernel) x hx), ?_⟩,
    by unfold Issues; decide +kernel, reach_of rec2 (by decide +kernel), ⟨by decide, fun l => ?_⟩,
    ⟨fun _ => rfl, fun a _ => ⟨by simp [homedAway, homeModule, rec2], fun h => absurd h (by decide)⟩⟩, by decide +kernel⟩, by unfold Issues; decide +kernel, by unfold Issues; decide +kernel,
    by unfold Issues; decide +kernel⟩
  · change get? [] _ ≠ _
    simp [get?]
  · simp only [List.mem_singleton, lanesBytes, List.mem_range]
    constructor
    · rintro rfl
      exact ⟨2 * 2 ^ 40 + 4032, ⟨0, by omega, by omega, by omega⟩, by unfold lineOf; omega⟩
    · rintro ⟨a, ⟨j, hj, h⟩, rfl⟩
      unfold lineOf; omega

/-- The programme's block with scratchpad: 22,784 bytes that hold a canonical tile of one plane at 0, and a tile of the accumulator. -/
def padBlock : Block := { programBlock with share := 22784, acc := 1, pad := [(0, 1)] }
def withBlock (b : Block) : State → State := onCtx fun x => { x with blocks := [b] }

theorem witness_ScratchpadWords :
    (let s := setK 10 22768 (withBlock padBlock (lane0 2 0))
     let u := settled s
     let g := u.cpu.grp
     u.cpu.ctx.block g = some padBlock ∧ Issues (padLoadWord 16 236 10 252) s.cpu.grp ∧ Issues (padStoreWord 16 236 10 252) s.cpu.grp ∧
       pendingLanes g = [0] ∧ PadOk padBlock 16 (padLane g 10 252 0)) ∧
    (let s := setK 10 22784 (withBlock padBlock (lane0 2 0))
     let g := (settled s).cpu.grp
     Issues (padLoadWord 1 0 10 252) s.cpu.grp ∧ (∀ j ∈ pendingLanes g, padLane g 10 252 j % ((1 : Nat) : Int) = 0) ∧
       (∀ j ∈ pendingLanes g, padValid padBlock (padLane g 10 252 j) 1 = false) ∧ (pendingLanes g).head? = some 0) := by
  unfold Issues PadOk; decide +kernel

/-- No active lane; lane 31 the lowest active one, at device and system scope, on the last dword, and in the scratchpad. -/
theorem witness_OrderingSends :
    (Issues (orderWord .aadd 0 1 74 2) (setC 0 base).cpu.grp ∧ (setC 0 base).cpu.grp.active = 0) ∧
    (∀ op ∈ [AOp.axchg, .acas, .aadd, .amin, .amax, .aand, .aor, .axor, .ldacq, .strel, .waita], ∀ a ∈ [(74 : BitVec 8), 138, 10],
      let s := setC 0x80000000 (setMd 0x77 (withBlock padBlock (atObj 2 0xFF8 base)))
      let g := s.cpu.grp
      Issues (orderWord op 9 0 a 2) g ∧ g.active.getLsbD 31 = true ∧ (∀ j < 31, g.active.getLsbD j = false) ∧
        VecMode (orderTypes op 9) g (orderDst op 0).toList (orderSrcs op 2) [] ∧ AimOk s a 8 ∧ ∀ l ∈ g.sketch, LocalByte s l.1) := by
  refine ⟨by unfold Issues; decide +kernel, fun op hop a ha => ⟨?_, by decide +kernel, by decide +kernel, ?_, ?_, fun l hl => by cases hl⟩⟩
  · revert op a; unfold Issues; decide +kernel
  · revert op; clear ha; unfold VecMode; decide +kernel
  · fin_cases ha
    · refine ⟨reach_of rec2 (by decide +kernel), fun r hr => ?_⟩
      obtain rfl : rec2 = r := Option.some.inj ((show _ = some rec2 by decide +kernel).symm.trans hr)
      decide +kernel
    · refine ⟨reach_of rec2 (by decide +kernel), fun r hr => ?_⟩
      obtain rfl : rec2 = r := Option.some.inj ((show _ = some rec2 by decide +kernel).symm.trans hr)
      decide +kernel
    · exact ⟨by decide +kernel, padBlock, by decide +kernel, by decide +kernel⟩

/-- Barrier 15 with its greatest count; `barw` of a generation complete or not; `cede` on the last byte of object 2. -/
theorem witness_BarriersAndCede :
    base.cpu.ctx.block base.cpu.grp = some programBlock ∧ Issues (.bar 15 512) base.cpu.grp ∧ Issues (.bara 0 0) base.cpu.grp ∧ Issues (.barw 15) base.cpu.grp ∧
    get? base.cpu.grp.baras 15 = none ∧
    (let b : Block := { programBlock with bars := Vector.replicate 16 ⟨1, 0, [], [(0, ⟨5, 512⟩)]⟩ }
     let s := onGrp (fun g => { g with baras := [(3, 1), (15, 0)] }) (withBlock b base)
     s.cpu.ctx.block s.cpu.grp = some b ∧ get? s.cpu.grp.baras 15 = some 0 ∧ (b.bars[15]?.bind fun x => get? x.done 0) = some ⟨5, 512⟩ ∧
       get? s.cpu.grp.baras 3 = some 1 ∧ (b.bars[3]?.bind fun x => get? x.done 1) = none) ∧
    (let s := lane0 2 0xFFF
     let va := s.cpu.grp.readKK 10
     Issues (.cede 10) s.cpu.grp ∧ s.cpu.record s.mem (baseObj va) = some rec2 ∧ Reach s .load 1 1 (baseObj va) (baseOff va) ∧
       homedAway s.cpu.hw rec2 (baseOff va) = none) := by
  refine ⟨by decide +kernel, by unfold Issues; decide +kernel, by unfold Issues; decide +kernel, by unfold Issues; decide +kernel, by decide +kernel,
    by decide +kernel, by unfold Issues; decide +kernel, by decide +kernel, reach_of rec2 (by decide +kernel), by decide +kernel⟩

theorem witness_Reductions :
    (∀ op ∈ [ROp.radd, .rfadd, .rmin, .rmax, .rfmin, .rfmax, .rand, .ror, .rxor],
      let s := setMd (if reduceTypes op 2 then 0x27 else 0x77) (lane0 2 0xFF8)
      let g := s.cpu.grp
      let size := if isWide g.ety then 8 else 4
      Issues (reduceWord op 2 74 252) g ∧ VecMode (reduceTypes op) g [] [2] [] ∧
        (∀ j ∈ lanesOf g.active, Reach s .reduce size size 2 (laneOff g (g.readKK 10) 252 0 j)) ∧
        ∀ x, lanesBytes (lanesOf g.active) (fun j => vaOf 2 (laneOff g (g.readKK 10) 252 0 j)) size x → LocalByte s x) ∧
    (let s := setK 10 22780 (withBlock padBlock (lane0 2 0))
     let g := s.cpu.grp
     Issues (reduceWord .radd 0 10 252) g ∧ VecMode (reduceTypes .radd) g [] [0] [] ∧ s.cpu.ctx.block g = some padBlock ∧
       ∀ j ∈ lanesOf g.active, PadOk padBlock 4 (spaceBase g 10 + (laneAt (g.readV 252) j).toInt)) ∧
    (let s := twoLanes 2
     let g := s.cpu.grp
     Issues (reduceWord .radd 0 74 1) g ∧ VecMode (reduceTypes .radd) g [] [0] [] ∧
       (∀ j < 32, (2 : Word).getLsbD j = true ↔ j ∈ lanesOf g.active ∧ laneOff g (g.readKK 10) 1 0 j % 4 ≠ 0) ∧
       (2 : Word).getLsbD 1 = true ∧ ∀ j < 1, (2 : Word).getLsbD j = false) := by
  refine ⟨fun op hop => ?_, by unfold Issues VecMode PadOk; decide +kernel, by unfold Issues VecMode; decide +kernel⟩
  fin_cases hop
  all_goals exact ⟨by unfold Issues; decide +kernel, by unfold VecMode; decide +kernel,
    all_single (by decide +kernel) (reach_of rec2 (by decide +kernel)), lanes_local (by decide +kernel) (by decide +kernel)⟩

/-- Tile 0 is granted, tile 1 is not; descriptor words that are all zero; a drain into the last place that fits, one that is refused. -/
theorem witness_MatrixUnit :
    let s := setK 20 0x00000001 (withBlock padBlock base)
    let g := s.cpu.grp
    (Issues (.mmaz 0 156) g ∧ (afterDrains s).cpu.ctx.block (afterDrains s).cpu.grp = some padBlock ∧ Granted padBlock g 0 ∧
      productTrap padBlock g (descWords g 156) = none) ∧
    (Issues (.mfence 159) g ∧ BatchesOk g) ∧ (Issues (.mwait 15) g ∧ g.batches = []) ∧
    ((settled s).cpu.ctx.block (settled s).cpu.grp = some padBlock ∧ Issues (.acczero 0) g ∧ Issues (.accrd 236 0 159) g ∧
      Issues (.accwr 0 248 252) g ∧ rising (tileNow padBlock g.gid 0) = true) ∧
    (Issues (.accdrain 0 20 1 0) g ∧ drainOk (g.readK 20) 0 = true ∧ padValid padBlock 0 (drainSize (g.readK 20) 0) = true) ∧
    (Issues (.accdrain 0 21 0 2) g ∧ drainOk (g.readK 21) 2 = false) ∧
    (Issues (.acczero 1) g ∧ ¬ Granted padBlock g 1) := by
  unfold Issues Granted BatchesOk; decide +kernel

/-! ### Witnesses: copies, turns, engines -/

/-- Three templates at PA 70000H: sixteen bytes from object 2 to the scratchpad, from there to object 3, and a system copy; the fourth is
empty. k157 to k159 hold the parameters. -/
def copyMem : List Host.Cell :=
  [(0x10100, 0xF1), (0x10101, 0x13), (0x1010A, 0x2), (0x10111, 0x10), (0x10119, 0x10), (0x1012C, 0x1), (0x10180, 0xF3), (0x10181, 0x13),
   (0x1018A, 0x3), (0x10191, 0x1), (0x10199, 0x1), (0x101AC, 0x1), (0x70001, 0x8), (0x70002, 0xAA), (0x70003, 0x84), (0x7000D, 0x2),
   (0x70048, 0x10), (0x70102, 0xAA), (0x70103, 0xA4), (0x70115, 0x3), (0x70148, 0x10), (0x70202, 0xBB), (0x70203, 0xC4), (0x7020A, 0x2),
   (0x70212, 0x3), (0x70248, 0x80)]

def copying (n o c d : Word) : State :=
  setK 12 n (setK 157 o (setK 158 c (setK 159 d (withBlock padBlock (onCtx (fun x => { x with tmplb := 0x70004 }) { base with mem := copyMem })))))

/-- Checks of `xfr` that fail: no such template, level, form, parameters. -/
theorem witness_Copies_checks :
    let at' := fun (s : State) (n : Nat) => templateAt s.mem s.cpu.ctx.tmplb n
    let s := copying 0 0 16 1
    Issues (.xfr 3 12 157) s.cpu.grp ∧ Issues (.xfrq 159) s.cpu.grp ∧ ¬ (4 < s.cpu.ctx.tmplb.toNat % 4096) ∧
      (3 < s.cpu.ctx.tmplb.toNat % 4096 ∧ templateOk (at' s 3) = false) ∧
      ((at' s 2).dir = 2 ∧ templateRaw s.mem s.cpu.ctx.tmplb 2 = true ∧ templateOk (at' s 2) = true ∧ s.cpu.grp.sys = true ∧
        paramsOk (at' s 2) [0, 128, 1] = true ∧ sysCopyTrap (at' s 2) 128 = none) ∧
      (templateRaw s.mem s.cpu.ctx.tmplb 0 = true ∧ templateOk (at' s 0) = true ∧ paramsOk (at' s 0) [0, 16, 7] = true ∧ paramsOk (at' s 0) [0, 16, 8] = false ∧
        paramsOk (at' s 0) [0, 17, 1] = false) := by
  unfold Issues; decide +kernel

/-- The memory of `copying` with some bytes changed, and the parameters from k156 on. -/
def changed (cells : Cells) (s : State) : State := { s with mem := wrAll unwritten s.mem cells }
def params (o c d v : Word) (s : State) : State := setK 156 o (setK 157 c (setK 158 d (setK 159 v s)))

theorem firstOf_at {α : Type} {l : List α} {P : α → Prop} {x : α} (n : Nat) (h : l = l.take n ++ x :: l.drop (n + 1)) (hx : P x)
    (hn : ∀ y ∈ l.take n, ¬ P y) : FirstOf l P x := ⟨_, _, h, hx, hn⟩

/-- A part of an object with HOME 0 can be read. -/
theorem readable_of {u : State} {va size : Nat} (r : Record) (h : u.cpu.record u.mem (vaObj va) = some r ∧ r.home = 0 ∧ accessBlock u.mem r false (vaOff va) size = none) :
    Readable u va size := by
  intro q hq
  cases h.1.symm.trans hq
  exact ⟨h.2.2, fun x _ _ => .inl (by simp [homedAway, homeModule, h.2.1])⟩

/-- The last sixteen bytes of object 2 to the scratchpad, and from there to the last sixteen of object 3. -/
def copyIn : State := copying 0 4080 16 1
def copyOut : State := copying 1 240 16 1
def inTemplate : Template := templateAt copyIn.mem copyIn.cpu.ctx.tmplb 0
def outTemplate : Template := templateAt copyOut.mem copyOut.cpu.ctx.tmplb 1

/-- Checks past the parameters that fail: a completion value that is unaligned, and the ninth element beyond the scratchpad. -/
theorem witness_Copies_padFaults :
    (let s := changed [(0x70000, 0x4), (0x70028, 0x2)] (params 4080 16 1 5 (copying 0 0 0 0))
     let u := xferState s
     let t := templateAt s.mem s.cpu.ctx.tmplb 0
     Issues (.xfr 0 12 156) s.cpu.grp ∧ templateRaw s.mem s.cpu.ctx.tmplb 0 = true ∧ templateOk t = true ∧ t.stm = 2 ∧ paramsOk t [4080, 16, 1, 5] = true ∧
       paramWords u.cpu.grp 156 4 = [4080, 16, 1, 5] ∧ u.cpu.ctx.block u.cpu.grp = some padBlock ∧ recordFits t rec2 = true ∧ wholeBlocks t rec2 [4080] [16] = true ∧
       FirstOf (padItems t (elemsOf t rec2 [4080] [16])) (fun y => y.1 % y.2.2 ≠ 0) (2, 4, 4)) ∧
    (let s := changed [(0x70010, 0xF8), (0x70011, 0x58)] (copying 0 4080 16 1)
     let t := templateAt s.mem s.cpu.ctx.tmplb 0
     templateOk t = true ∧ (∀ y ∈ padItems t (elemsOf t rec2 [4080] [16]), y.1 % y.2.2 = 0) ∧
       FirstOf (padItems t (elemsOf t rec2 [4080] [16])) (fun y => padValid padBlock y.1 y.2.1 = false) (0x5900, 1, 1)) :=
  ⟨⟨by unfold Issues; decide +kernel, by decide +kernel, by decide +kernel, by decide +kernel, by decide +kernel, by decide +kernel, by decide +kernel,
    by decide +kernel, by decide +kernel, firstOf_at 16 (by decide +kernel) (by decide +kernel) (by decide +kernel)⟩,
   ⟨by decide +kernel, by decide +kernel, firstOf_at 8 (by decide +kernel) (by decide +kernel) (by decide +kernel)⟩⟩

/-- The seventh element beyond the object; a FIXED object to be written, and one without c. -/
theorem witness_Copies_elemFaults :
    (∀ y ∈ padItems inTemplate (elemsOf inTemplate rec2 [4090] [16]), y.1 % y.2.2 = 0 ∧ padValid padBlock y.1 y.2.1 = true) ∧
    (∀ j < 6, ((elemsOf inTemplate rec2 [4090] [16])[j]?.map fun f => elemTrap inTemplate rec2 0 j f) = some none) ∧
    ((elemsOf inTemplate rec2 [4090] [16])[6]?.any fun e => e.bad.isSome && e.off % (elemSize rec2 : Int) == 0 && !(rec2.pmt && inTemplate.pmt)) = true ∧
    ((elemsOf outTemplate rec3 [240] [16])[0]?.any fun e => e.bad.isNone && e.off % (elemSize rec3 : Int) == 0) = true ∧
    CopyBarred 0 true { rec3 with mode := 2 } 2 ∧ CopyBarred 0 true { rec3 with perm := 23 } 1 := by
  refine ⟨by decide +kernel, by decide +kernel, by decide +kernel, by decide +kernel, ?_, ?_⟩ <;> unfold CopyBarred <;> decide +kernel

/-- A stamp in an object that is not there, unaligned, beyond the extent; an origin, a count and a range that a system copy refuses. -/
theorem witness_Copies_lastFaults :
    (let at' := fun (a b c : Byte) => changed [(0x70100, 0x2), (0x70128, a), (0x70129, b), (0x7012D, c)] copyOut
     let t := fun (s : State) => templateAt s.mem s.cpu.ctx.tmplb 1
     let x := fun (s : State) => (⟨vaObj (t s).sta, vaOff (t s).sta, 8, 8, CopyBarred 0 true⟩ : MemItem)
     let ok := fun s => templateOk (t s) = true ∧ (t s).stm = 1
     (∀ s, (t s).stm = 1 → (t s).amx = false → extraItems (t s) 0 [] = [x s]) ∧
     (ok (at' 0 0 9) ∧ (t (at' 0 0 9)).amx = false ∧ (x (at' 0 0 9)).Fails (xferState (at' 0 0 9)) 3 2) ∧
     (ok (at' 4 0 3) ∧ (x (at' 4 0 3)).Fails (xferState (at' 4 0 3)) 2 1) ∧ (ok (at' 0 1 3) ∧ (x (at' 0 1 3)).Fails (xferState (at' 0 1 3)) 3 1)) ∧
    (([1] : List Int) ≠ [0] ∧ ([127] : List Nat) ≠ (templateAt copyMem 0x70004 2).shape.take 1 ∧ ([128] : List Nat) = (templateAt copyMem 0x70004 2).shape.take 1 ∧
      (sysCopyTrap { templateAt copyMem 0x70004 2 with dst := 0x20000 } 128).isSome = true) := by
  refine ⟨⟨fun s h h' => by simp only [extraItems, h, h']; rfl, ⟨by decide +kernel, by decide +kernel, .inr ⟨by decide +kernel, .inl ⟨rfl, rfl, by decide +kernel⟩⟩⟩,
    ⟨by decide +kernel, .inl ⟨rfl, rfl, by decide +kernel⟩⟩,
    ⟨by decide +kernel, .inr ⟨by decide +kernel, .inr ⟨rec3, by decide +kernel, .inl ⟨rfl, rfl, by decide +kernel⟩⟩⟩⟩⟩, by decide +kernel⟩

theorem copyIn_ok : CopyOk (xferState copyIn) inTemplate rec2 [4080] [16] where
  record := by decide +kernel
  fits := by decide +kernel
  blocks := by decide +kernel
  pad := by decide +kernel
  elems := by decide +kernel
  extras := by decide +kernel

theorem copyOut_ok : CopyOk (xferState copyOut) outTemplate rec3 [240] [16] where
  record := by decide +kernel
  fits := by decide +kernel
  blocks := by decide +kernel
  pad := by decide +kernel
  elems := by decide +kernel
  extras := by decide +kernel

theorem copyIn_reads : ∀ e ∈ elemsOf inTemplate rec2 [4080] [16], (xferState copyIn).cpu.record (xferState copyIn).mem (vaObj (vaOf 2 e.off)) = some rec2 ∧ rec2.home = 0 ∧
    accessBlock (xferState copyIn).mem rec2 false (vaOff (vaOf 2 e.off)) 1 = none := by decide +kernel

theorem witness_Copies :
    (inTemplate.dir = 0 ∧ (copyIn.cpu.grp.readK 12).toNat = 0 ∧ paramWords (xferState copyIn).cpu.grp 157 3 = [4080, 16, 1] ∧
      (xferState copyIn).cpu.ctx.block (xferState copyIn).cpu.grp = some padBlock ∧ inTemplate.sblk = 0) ∧
    (∀ e ∈ elemsOf inTemplate rec2 [4080] [16], e.bad = none → Readable (xferState copyIn) (vaOf 2 e.off) 1) ∧
    (outTemplate.dir = 1 ∧ (copyOut.cpu.grp.readK 12).toNat = 1 ∧ paramWords (xferState copyOut).cpu.grp 157 3 = [240, 16, 1] ∧
      (xferState copyOut).cpu.ctx.block (xferState copyOut).cpu.grp = some padBlock) ∧
    CopyOk (xferState copyIn) inTemplate rec2 [4080] [16] ∧ CopyOk (xferState copyOut) outTemplate rec3 [240] [16] :=
  ⟨by decide +kernel, fun e he _ => readable_of rec2 (copyIn_reads e he), by decide +kernel, copyIn_ok, copyOut_ok⟩

/-- The last line of the PARCEL object; of an OPEN one; no active lane. -/
theorem witness_MulticastStore :
    (let s := lane0 3 128
     Issues (.stmc 243 10 159) s.cpu.grp ∧ s.cpu.grp.active ≠ 0 ∧ baseOff (s.cpu.grp.readKK 10) % 128 = 0 ∧
       s.cpu.record s.mem (baseObj (s.cpu.grp.readKK 10)) = some rec3 ∧ 128 + 128 ≤ rec3.ext ∧ baseObj (s.cpu.grp.readKK 10) ≠ 1 ∧ hasPerm rec3 1 = true ∧
       rec3.mode = 1 ∧ rec3.home = 0) ∧
    (setC 0 base).cpu.grp.active = 0 ∧ hasPerm rec2 1 = true ∧ rec2.mode ≠ 1 ∧
    (let m := wrAll unwritten base.mem (bytesAt 0x10180 (1 + 2 + 31 * 2 ^ 4 + 2 ^ 9 + 2 ^ 12 + 2 ^ 20 + 0x30000 * 2 ^ 64 + 256 * 2 ^ 128 + 256 * 2 ^ 192 + 2 ^ 352) 128)
     (base.cpu.record m 3).any (fun r => hasPerm r 1 && r.mode == 1 && r.home != 0 && decide (128 ≤ r.ext)) = true) := by
  unfold Issues; decide +kernel

theorem witness_LitPairs :
    (0x00FFFF : BitVec 24).extractLsb' 16 8 = 0 ∧ Issues (.kmovi 159 0xFFFF) base.cpu.grp ∧ Issues (.movi 239 0) base.cpu.grp ∧ Issues (.br 15 0x8000) base.cpu.grp ∧
    (let s := onGrp (fun g => { g with main := { g.main with stack := List.replicate 32 ⟨0, 0, 0, 0⟩ } }) base
     Issues (.mkj 0) s.cpu.grp ∧ (if s.cpu.grp.inWin then 4 else 32) ≤ s.cpu.grp.joins.length) ∧
    (let s := lane0 2 0xFFD
     let g := s.cpu.grp
     let off := laneOff g (g.readKK 10) 252 (0xFFFFFF : BitVec 24).toInt
     Issues (loadWord 4 0 10 252) g ∧ baseObj (g.readKK 10) = 2 ∧ pendingLanes g = [0] ∧ (∀ j ∈ pendingLanes g, Reach s .load 4 4 2 (off j)) ∧
       ∀ y, lanesBytes (pendingLanes g) (fun j => vaOf 2 (off j)) 4 y → Present s y ∧ get? g.fills (lineOf y) ≠ some none) := by
  unfold Issues
  refine ⟨by decide, by decide +kernel, by decide +kernel, by decide +kernel, by decide +kernel, by decide +kernel, by decide +kernel, by decide +kernel, all_single (by decide +kernel) (reach_of rec2 (by decide +kernel)),
    fun y hy => ⟨.inl (lanes_local (by decide +kernel) (by decide +kernel) y hy), ?_⟩⟩
  change get? [] _ ≠ _
  simp [get?]

/-- Each operation at its turn, on the last word of object 2; an earlier entry of the same line; a running group below it; a watcher of
the line; a failing and a succeeding check. -/
theorem takes_of {g : Group} {d : BitVec 8} {act : Word} (h : g.Writable d) : Takes g ⟨some d, none, false, act, 64, 4⟩ :=
  ⟨fun e he => ⟨by cases he; exact h, fun h => by cases h⟩, rfl⟩

theorem witness_OrderingTurns :
    let a := 2 * 2 ^ 40 + 0xFFC
    let e := fun op cond => entry (.atomic op cond a false false 5 0) .device
    let w : TurnWait := ⟨some 1, none, false, 1, 64, 4⟩
    (∀ op ∈ [AOp.aadd, .strel, .waita],
      let s := turning (e op 0) w [other 513 7 (.ceded 64 (.line .device (a - 100)) none)] []
      AtTurn s (e op 0) ∧ performable s.cpu.hw s.cpu.ctx s.cpu.groups (e op 0) = true ∧
        overlayFull s.cpu.hw s.mem s.cpu.ctx (lineOf a) = false ∧ Takes s.cpu.grp w ∧
        lineOf (a - 100) = lineOf a) ∧
    (let f : Entry := { entry (.atomic .ldacq 0 (a - 4) false false 0 0) .device with stamp := ⟨99, 513⟩ }
     let s := turning (e .ldacq 0) w [] [f]
     AtTurn s (e .ldacq 0) ∧ f ∈ s.cpu.ctx.queue ∧ f.home = s.cpu.hw.number ∧ Stamp.lt f.stamp (e .ldacq 0).stamp = true ∧ lineOf (a - 4) = lineOf a) ∧
    (let h := other 513 99 .running
     let s := turning (e .ldacq 0) w [h] []
     AtTurn s (e .ldacq 0) ∧ h ∈ s.cpu.groups ∧ h.lc < (s.cpu.ctx.leg + 1) * 2 ^ s.cpu.ctx.legq ∧ Stamp.lt h.stamp (e .ldacq 0).stamp = true) ∧
    (waitHolds 0 32 false 0 0 ∧ ¬ waitHolds 1 32 false 0 0) ∧
    (let h := other 513 7 (.ceded 64 (.line .device (2 * 2 ^ 40 + 5)) none)
     let s := onGrp (fun g => { g with sketch := [(2 * 2 ^ 40, [(2 * 2 ^ 40, 1)])] }) (turning (e .strel 0) w [h] [])
     AtTurn s (e .strel 0) ∧ performable s.cpu.hw s.cpu.ctx s.cpu.groups (e .strel 0) = true ∧ s.cpu.find (e .strel 0).stamp.gid = some s.cpu.grp ∧
       orderReleases .strel = true ∧ (∀ l ∈ s.cpu.grp.sketch, l.1 = lineOf (2 * 2 ^ 40 + 5) ∧ LocalByte s l.1)) ∧
    (let s := onGrp (fun g => { g with baras := [(15, 0)], status := .ceded 16 (.barrier 15 0) (some ⟨200, 513⟩) }) base
     s.cpu.grp.status = .ceded 16 (.barrier 15 0) (some ⟨200, 513⟩) ∧ (∀ h ∈ s.cpu.ctx.groups, h.gid ≠ s.cpu.grp.gid) ∧ rising s.cpu.grp.baras = true ∧
       get? s.cpu.grp.baras 15 = some 0) := by
  refine ⟨fun op hop => ⟨?_, ?_, ?_, takes_of ?_, ?_⟩, by unfold AtTurn; decide +kernel, by unfold AtTurn; decide +kernel, ⟨rfl, by simp [waitHolds]⟩,
    ⟨by unfold AtTurn; decide +kernel, by decide +kernel, by decide +kernel, rfl, fun l hl => ?_⟩, by decide +kernel⟩
  rotate_right
  · cases List.mem_singleton.1 hl
    exact ⟨by decide, local_of (obj := 2) (r := rec2) (by decide +kernel) rfl (by omega)⟩
  all_goals revert op
  all_goals (first | unfold AtTurn | unfold Group.Writable | skip)
  all_goals decide +kernel

/-- Each operation at its turn in the scratchpad, beside a group of the block that watches the line; an overlapping operation of lower stamp, and
a running group of the block below it. -/
theorem witness_OrderingTurns_block :
    let e := fun op => entry (.atomic op 0 256 true false 5 0) .block
    let w : TurnWait := ⟨some 2, none, true, 1, 64, 4⟩
    let st := fun op l q => withBlock { padBlock with g := 2, pad := [(256, 9)], ords := [⟨⟨50, 1⟩, [(260, 1)]⟩] } (turning (e op) w l q)
    (∀ op ∈ [AOp.aadd, .strel, .waita],
      let s := st op [other 1 7 (.ceded 64 (.line .block 300) none)] []
      AtTurn s (e op) ∧ performable s.cpu.hw s.cpu.ctx s.cpu.groups (e op) = true ∧ Takes s.cpu.grp w ∧ lineOf 300 = lineOf 256 ∧
        BlockOf s (e op) { padBlock with g := 2, pad := [(256, 9)], ords := [⟨⟨50, 1⟩, [(260, 1)]⟩] }) ∧
    (let f : Entry := { entry (.atomic .aadd 0 260 false false 5 0) .block with stamp := ⟨99, 1⟩ }
     let s := st .aadd [] [f]
     AtTurn s (e .aadd) ∧ f ∈ s.cpu.ctx.queue ∧ f.home = s.cpu.hw.number ∧ Stamp.lt f.stamp (e .aadd).stamp = true ∧ f.stamp.gid / 512 = 0 ∧
       opWord 260 false 65 ∧ opWord 256 true 65) ∧
    (let h := other 1 99 .running
     let s := st .aadd [h] []
     AtTurn s (e .aadd) ∧ h ∈ s.cpu.groups ∧ h.lc < (s.cpu.ctx.leg + 1) * 2 ^ s.cpu.ctx.legq ∧ Stamp.lt h.stamp (e .aadd).stamp = true) := by
  refine ⟨fun op hop => ⟨?_, ?_, ⟨fun d hd => ⟨?_, fun _ => ?_⟩, rfl⟩, by decide, ?_⟩, by unfold AtTurn opWord; decide +kernel, by unfold AtTurn; decide +kernel⟩
  rotate_left 2
  all_goals first | (cases hd; unfold Group.Writable) | (cases hd) | unfold BlockOf | skip
  all_goals revert op
  all_goals (first | unfold AtTurn | skip)
  all_goals decide +kernel

/-- A block of two groups with an epoch behind it: granule 0, to which group 0 stored and which group 1 read; an ordering operation of group
1, in granule 256; two reductions to a word of granule 512; a tile that group 0 wrote. -/
def epoch : Block := { programBlock with
  g := 2, share := 1024, own := [(0, [(0, 7)])], tags := [⟨0, 0, true⟩, ⟨0, 1, false⟩]
  ords := [⟨⟨50, 1⟩, [(256, 1), (257, 0), (258, 0), (259, 0)]⟩], ordTags := [⟨256, 1, true⟩]
  reds := [⟨512, .radd, 0, 32, 5, none, 0⟩, ⟨512, .radd, 0, 32, 3, none, 1⟩]
  ownTiles := [(0, 5, [(0, 1)])], tileTags := [⟨5, 0, true⟩] }

theorem epoch_words {w : Nat} {k : Contrib} (hk : k ∈ epoch.reds) (h : onWord k w) : w = 128 ∧ contribKind k = contribKind ⟨512, .radd, 0, 32, 5, none, 0⟩ := by
  have : k.addr = 512 ∧ k.bits = 32 ∧ contribKind k = contribKind ⟨512, .radd, 0, 32, 5, none, 0⟩ := by clear h; revert k; decide
  unfold onWord at h
  rw [this.1, this.2.1] at h
  exact ⟨by omega, this.2.2⟩

/-- The one pair of this epoch, and with it the fault of its sync. -/
theorem epoch_pairs {u x y : Nat} (h : SyncPair epoch u x y) : x = 0 ∧ y = 1 ∧ u = 0 := by
  have ht : ∀ t ∈ epoch.tags, t.unit = 0 ∧ (t.gid = 0 ∨ t.gid = 1) := by decide
  have ho : ∀ t ∈ epoch.ordTags, t.unit = 256 := by decide
  have hl : ∀ t ∈ epoch.tileTags, t.gid = 0 := by decide
  obtain ⟨-, ⟨t, h1, v, h2, rfl, -, h3, -, rfl, rfl⟩ | ⟨a, b, ⟨⟨t, h1, rfl, -⟩, -⟩, ⟨h2, -⟩, -⟩ | ⟨a, b, ⟨⟨k, hk, -, w, hw, rfl⟩, -⟩, ⟨⟨t, h1, h2, -⟩, -⟩, -⟩ |
      ⟨w, k1, k2, a, b, -, ⟨⟨k, hk, hw, rfl⟩, -⟩, ⟨⟨⟨j, hj, hv, rfl⟩, hne⟩, -⟩, -⟩⟩ | ⟨v, rfl, hlt, t, h1, w, h2, -, -, -, h3⟩ := h
  · have := ht t h1
    have := ht v h2
    omega
  · rw [ho t h1] at h2
    obtain ⟨v, h3, h4, -⟩ | ⟨k, hk, -, w, hw, h4⟩ := h2
    · have := (ht v h3).1; omega
    · have := (epoch_words hk hw).1; omega
  · have := (epoch_words hk hw).1
    have := (ht t h1).1
    omega
  · exact absurd ((epoch_words hj hv).2.trans (epoch_words hk hw).2.symm) hne
  · have := hl t h1
    have := hl w h2
    omega

/-- Its conflict and its fault, its target, and a byte of each kind. -/
theorem witness_BarrierTurns_epoch :
    SyncFault epoch 0 0 1 ∧ Conflicts epoch 0 ∧ ¬ Conflicts epoch 256 ∧ SyncByte epoch 256 1 ∧ (∀ k ∈ epoch.reds, ¬ redBytes k 256) ∧
      ∀ k ∈ epoch.reds, RedOk epoch.reds k ∧ ¬ Conflicts epoch k.addr ∧ ∀ i < k.bits / 8, SyncByte epoch (k.addr + i) 0 := by
  have hp : PadPair epoch 0 0 1 := .inl ⟨⟨0, 0, true⟩, by decide, ⟨0, 1, false⟩, by decide, by decide⟩
  have hn : ∀ a, 256 ≤ a → a < 2 ^ 32 → ¬ Conflicts epoch a := by
    rintro a h1 h2 ⟨x, y, h⟩
    have := (epoch_pairs (u := a - a % 256) (.inl ⟨by omega, h⟩)).2.2
    omega
  refine ⟨⟨.inl ⟨by decide, hp⟩, fun v a b h => ?_⟩, ⟨0, 1, hp⟩, hn _ (by decide) (by decide), .inl ⟨_, List.mem_singleton_self _, by decide, by decide⟩,
    fun k hk h => ?_, fun k hk => ⟨⟨hk, ?_, fun w _ h => ?_, ?_, ?_⟩, ?_, fun i hi => .inr ⟨?_, .inr ⟨?_, ?_⟩⟩⟩⟩
  · obtain ⟨rfl, rfl, rfl⟩ := epoch_pairs h
    omega
  · revert k; unfold redBytes; decide
  · decide
  · obtain ⟨i, hi, j, hj, h1, h2, h3⟩ := h
    exact h3 ((epoch_words hi h1).2.trans (epoch_words hj h2).2.symm)
  · revert k; decide
  · revert k; decide
  · refine hn _ ?_ ?_ <;> revert k <;> decide
  all_goals
    revert i k; decide

/-- A granule with each of the other cases: an ordering operation beside a store, a reduction beside a store, two kinds on a word. -/
theorem witness_BarrierTurns_cases :
    PadPair { epoch with tags := [⟨0, 0, true⟩], ordTags := [⟨0, 1, true⟩], reds := [] } 0 0 1 ∧
    PadPair { epoch with tags := [⟨0, 0, true⟩], ordTags := [], reds := [⟨4, .radd, 0, 32, 5, none, 1⟩] } 0 0 1 ∧
    PadPair { epoch with tags := [], ordTags := [], reds := [⟨4, .radd, 0, 32, 5, none, 1⟩, ⟨4, .rxor, 0, 32, 5, none, 0⟩] } 0 0 1 := by
  refine ⟨.inr (.inl ⟨1, 0, ⟨⟨⟨0, 1, true⟩, by decide, by decide⟩, ?_⟩, ⟨.inl ⟨⟨0, 0, true⟩, by decide, by decide⟩, fun _ _ => Nat.zero_le _⟩, by decide⟩),
    .inr (.inr (.inl ⟨1, 0, ⟨⟨⟨4, .radd, 0, 32, 5, none, 1⟩, by decide, rfl, 1, by unfold onWord; decide, by decide⟩, ?_⟩,
      ⟨⟨⟨0, 0, true⟩, by decide, by decide⟩, fun _ _ => Nat.zero_le _⟩, by decide⟩)),
    .inr (.inr (.inr ?_))⟩
  · rintro k ⟨t, ht, -, rfl⟩
    cases List.mem_singleton.1 ht; decide
  · rintro k ⟨t, ht, rfl, -⟩
    cases List.mem_singleton.1 ht; decide
  · refine ⟨1, contribKind ⟨4, .radd, 0, 32, 5, none, 1⟩, contribKind ⟨4, .rxor, 0, 32, 5, none, 0⟩, 1, 0, by decide,
      ⟨⟨_, List.mem_cons_self .., by unfold onWord; decide, rfl⟩, ?_⟩, ⟨⟨⟨_, .tail _ (List.mem_cons_self ..), by unfold onWord; decide, rfl⟩, by decide⟩, ?_⟩,
      ⟨⟨_, List.mem_cons_self .., by unfold onWord; decide, rfl, rfl⟩, ?_⟩,
      ⟨⟨_, .tail _ (List.mem_cons_self ..), by unfold onWord; decide, rfl, rfl⟩, fun _ _ => Nat.zero_le _⟩, by decide⟩
    · rintro k ⟨j, hj, -, rfl⟩
      revert j; decide
    · rintro k ⟨⟨j, hj, -, rfl⟩, hne⟩
      revert j; decide
    · rintro g ⟨j, hj, -, hk, rfl⟩
      revert j; decide

/-- A barrier of a block of two groups at its turn: the first of two, the last of part of the block (count 1), the last of all, with a copy
that lands at this sync and one that was issued after it; a count above the block's, a second arrival, a differing count, each with a handler. -/
theorem witness_BarrierTurns :
    let b := fun (arr : List Nat) (n : Nat) => { epoch with bars := (Vector.replicate 16 ⟨0, 0, [], []⟩).set 15 ⟨0, n, arr, []⟩ }
    let e := fun n => entry (.arrive 15 n true) .block
    let w : TurnWait := ⟨none, none, false, 0, 16, 4⟩
    let st := fun arr k n => onGrp (fun g => { g with trapv := 0x20000000100 }) (withBlock (b arr k) (turning (e n) w [other 513 100 (.ceded 16 (.barrier 15 0) none)] []))
    let ok := fun s n p x => AtTurn s (e n) ∧ performable s.cpu.hw s.cpu.ctx s.cpu.groups (e n) = true ∧ ArrivesAt s (e n) 15 p x
    ok (st [] 0 2) 2 (b [] 0) ⟨0, 0, [], []⟩ ∧ ok (st [] 0 1) 1 (b [] 0) ⟨0, 0, [], []⟩ ∧
    (ok (st [1] 2 2) 2 (b [1] 2) ⟨0, 2, [1], []⟩ ∧ EpochOk (b [1] 2) ∧ (b [1] 2).anyExit = false ∧ ((st [1] 2 2).cpu.groups.map Group.gid).Nodup ∧
      (∃ h ∈ (st [1] 2 2).cpu.groups, h.gid = 0 ∧ h.live = true) ∧
      (∀ h ∈ (st [1] 2 2).cpu.groups, ∀ b ∈ h.batches, b.members = []) ∧ (st [1] 2 2).cpu.ctx.copies = []) ∧
    (ok (st [] 0 3) 3 (b [] 0) ⟨0, 0, [], []⟩ ∧ ok (st [0] 2 2) 2 (b [0] 2) ⟨0, 2, [0], []⟩ ∧ ok (st [1] 2 1) 1 (b [1] 2) ⟨0, 2, [1], []⟩ ∧
      (st [] 0 3).cpu.grp.status = .turn w ∧ (st [] 0 3).cpu.grp.inWin = false ∧ (st [] 0 3).cpu.grp.trapv.toNat / 4 ≠ 0 ∧
      ∀ h ∈ (st [] 0 3).cpu.ctx.groups, h.gid ≠ 0) := by
  refine ⟨by unfold AtTurn ArrivesAt; decide +kernel, by unfold AtTurn ArrivesAt; decide +kernel,
    ⟨by unfold AtTurn ArrivesAt; decide +kernel, ⟨by decide, by decide, by decide, by decide, by simp [epoch], by decide, by decide, by decide, by decide, by decide, by decide, by decide⟩, rfl,
      by decide +kernel, by decide +kernel, by decide +kernel, by decide +kernel⟩, by unfold AtTurn ArrivesAt; decide +kernel⟩

def landing (stamp : Stamp) : Copy :=
  ⟨0, stamp, 0, 0, 0, inTemplate, rec2, [4080], [16], 0, 0, true, 1, [], [], true, [(4, 9)], [], [], none⟩

theorem witness_BarrierTurns_copies :
    let s := onCtx (fun x => { x with copies := [landing ⟨50, 0⟩, landing ⟨101, 0⟩] }) base
    (∀ k ∈ s.cpu.ctx.copies, LandsAt programBlock ⟨100, 0⟩ k ↔ some (landing ⟨50, 0⟩) = some k) ∧
      (∀ k, some (landing ⟨50, 0⟩) = some k → k ∈ s.cpu.ctx.copies ∧ k.read = true) := by
  refine ⟨?_, fun k hk => by cases hk; exact ⟨List.mem_cons_self .., rfl⟩⟩
  unfold LandsAt; decide +kernel

/-- The overlay with some versions of one line, a region of 256 entries, and a publication and a contribution on their way to that line. -/
def contribution1 : Contrib := ⟨2 * 2 ^ 40, .radd, 0, 32, 1, none, 1⟩
def full (n : Nat) (reds : List Contrib) : State :=
  onCtx (fun x => { x with
    ovlb := 16, versions := List.replicate n ⟨⟨1, 1⟩, 0, none, [(2 * 2 ^ 40, 1)]⟩, reds := reds
    flight := [.publication ⟨1, 1⟩ [(2 * 2 ^ 40, 1)], .contribution contribution1] }) base

theorem full_lines (n : Nat) : overlayLines (full n []).cpu.ctx = List.replicate n (2 * 2 ^ 40) := by
  have h1 : (full n []).cpu.ctx.parcel = [] := (by decide +kernel : base.cpu.ctx.parcel = [])
  have h2 : (full n []).cpu.ctx.reds = [] := rfl
  have h3 : (full n []).cpu.ctx.versions = List.replicate n ⟨⟨1, 1⟩, 0, none, [(2 * 2 ^ 40, 1)]⟩ := rfl
  simp [overlayLines, h1, h2, h3, byTarget, lineOf]

theorem full_slice (n : Nat) : lineSlice (full n []).cpu.hw (full n []).mem (full n []).cpu.ctx (2 * 2 ^ 40) < 128 := by
  have h : recordOf (full n []).cpu.hw (full n []).mem (full n []).cpu.ctx.objtb (vaObj (2 * 2 ^ 40)) = some rec2 :=
    (by decide +kernel : recordOf base.cpu.hw base.mem base.cpu.ctx.objtb (vaObj (2 * 2 ^ 40)) = some rec2)
  have hd : homeDie rec2 (vaOff (2 * 2 ^ 40)) = 0 := by decide
  unfold lineSlice
  rw [h]
  dsimp only
  rw [hd]
  omega

theorem full_used (n : Nat) : sliceUsed (full n []).cpu.hw (full n []).mem (full n []).cpu.ctx
    (lineSlice (full n []).cpu.hw (full n []).mem (full n []).cpu.ctx (2 * 2 ^ 40)) = n := by
  simp [sliceUsed, full_lines]

theorem le_foldl_add : ∀ (l : List Nat) (k x : Nat), x ∈ l → x ≤ l.foldl (· + ·) k
  | y :: l, k, x, h => by
    have hk : ∀ (l : List Nat) (k : Nat), k ≤ l.foldl (· + ·) k := fun l => by
      induction l with
      | nil => exact fun k => Nat.le_refl k
      | cons a l ih => exact fun k => Nat.le_trans (Nat.le_add_right k a) (ih (k + a))
    obtain rfl | h := List.mem_cons.1 h
    · exact Nat.le_trans (Nat.le_add_left x k) (hk l (k + x))
    · exact le_foldl_add l (k + y) x h

theorem full_full : overlayFull (full 4352 []).cpu.hw (full 4352 []).mem (full 4352 []).cpu.ctx (2 * 2 ^ 40) = true := by
  have hs : 256 ≤ spillUsed (full 4352 []).cpu.hw (full 4352 []).mem (full 4352 []).cpu.ctx := by
    refine le_foldl_add _ 0 256 (List.mem_map.2 ⟨_, List.mem_range.2 (full_slice 4352), ?_⟩)
    rw [full_used]; rfl
  have hr : regionSize (full 4352 []).cpu.ctx = 256 := by decide +kernel
  unfold overlayFull
  rw [full_lines, full_used, hr, List.length_replicate, decide_eq_true hs]
  decide

/-- Room and no room, before a suspension and after it; a target that has its accumulator; a live group with a handler. -/
theorem witness_OverlayArrivals :
    (∀ n reds, (full n reds).cpu.ctx.flight[0]? = some (.publication ⟨1, 1⟩ [(2 * 2 ^ 40, 1)]) ∧ (full n reds).cpu.ctx.flight[1]? = some (.contribution contribution1)) ∧
    overlayFull (full 0 []).cpu.hw (full 0 []).mem (full 0 []).cpu.ctx (2 * 2 ^ 40) = false ∧
    overlayFull (full 4352 []).cpu.hw (full 4352 []).mem (full 4352 []).cpu.ctx (2 * 2 ^ 40) = true ∧
    ((full 0 [contribution1]).cpu.ctx.reds = [contribution1] ∧ (full 4352 []).cpu.ctx.reds = [] ∧ (full 0 []).cpu.ctx.ovlFull = false ∧
      (onCtx (fun x => { x with ovlFull := true }) (full 0 [])).cpu.ctx.ovlFull = true) ∧
    (let g := (onGrp (fun g => { g with trapv := 0x20000000100 }) (full 0 [])).cpu.grp
     g.live = true ∧ g.inWin = false ∧ g.trapv.toNat / 4 ≠ 0) :=
  ⟨fun _ _ => ⟨rfl, rfl⟩, by decide +kernel, full_full, by decide +kernel, by decide +kernel⟩

/-- Tiles with headers of one plane; a drain of one plane each way; copies of every form, with what they need to be read. -/
theorem witness_EngineSteps_values :
    (TileHead (fun o => padByte padBlock 0 (128 * (descOf [0, 0, 0, 0]).aline + o)) 1 ∧ (descOf [0, 0, 0, 0]).pa ≤ 1 ∧ rising (tileNow padBlock 0 0) = true) ∧
    (1 ≤ (1 : Word).toNat % 16 ∧ (1 : Word).toNat % 16 ≤ 11) ∧
    (let k := fun (t : Template) (src : List Nat) (sc : List (Nat × Word × Nat)) =>
       (⟨0, ⟨0, 0⟩, 0, 0, 0, t, rec2, [4080], [16], 0, 0, false, 0, src, sc, false, [], [], [], none⟩ : Copy)
     let xs := fun (k : Copy) => (((elemsOf k.t k.rcd k.origin k.counts).zip k.src).filter fun x => x.1.bad.isNone).map fun x => decodeCode k.t.sfmt false x.2
     let tagged := k { outTemplate with dblk := 1, sfmt := 0, amx := true } (List.replicate 16 0x40000000) []
     let rows := k { inTemplate with sblk := 1, dfmt := 0, dlay := 1 } (List.replicate 16 8) [(31, 1, 0)]
     let tile : Copy := { k { inTemplate with sblk := 1, dlay := 0, pl := 11 } [1, 2, 3, 4] [(0, 1, 0), (1, 1, 0)] with
       rcd := { rec2 with rank := 2, dims := [64, 64, 0, 0, 0], strides := [64, 1, 0, 0, 0] }, origin := [0, 0], counts := [2, 2] }
     (outTemplate.dir = 1 ∧ outTemplate.dblk = 0) ∧
     (tagged.t.dir = 1 ∧ tagged.t.dblk ≠ 0 ∧ tagged.t.amx = true ∧ (xs tagged).length = 16 ∧ (∀ v ∈ xs tagged, v ≠ .nan) ∧ (∀ v ∈ xs tagged, ∀ n, v ≠ .inf n)) ∧
     (rows.t.dir = 0 ∧ rows.t.dlay = 1 ∧ (∀ e ∈ elemsOf rows.t rows.rcd rows.origin rows.counts, blockOf rows.t rows.rcd e = some 31) ∧
       get? rows.scales 31 ≠ none) ∧
     (tile.t.dir = 0 ∧ tile.t.dlay = 0 ∧ 1 ≤ tile.t.pl ∧ tile.t.pl ≤ 11 ∧ tile.rcd.rank = 2 ∧ tile.origin.length = 2 ∧ tile.counts = [2, 2] ∧
       tile.src.length = (elemsOf tile.t tile.rcd tile.origin tile.counts).length ∧
       ∀ e ∈ elemsOf tile.t tile.rcd tile.origin tile.counts, ∀ n ∈ (blockOf tile.t tile.rcd e).toList, get? tile.scales n ≠ none)) := by
  refine ⟨⟨⟨by decide, by decide, 0, by decide, by decide +kernel⟩, by decide +kernel, by decide +kernel⟩, by decide, by decide +kernel, ⟨by decide +kernel, by decide +kernel,
    by decide +kernel, by decide +kernel, by decide +kernel, fun v hv n hn => ?_⟩, by decide +kernel, by decide +kernel⟩
  subst hn
  revert hv; cases n <;> decide +kernel

/-- A batch of one product, of one drain to the bypass slot; a copy not yet read; a system copy of one line. -/
theorem witness_EngineSteps :
    (∀ mb ∈ [Member.product true 0 [0, 0, 0, 0] none, .drain 0 1 false 2],
      let s := onGrp (fun g => { g with batches := [⟨some 0, [mb]⟩, ⟨none, [mb]⟩], status := .ceded 1 (.mwait 0) none }) (withBlock padBlock base)
      s.cpu.grp.status ≠ .absent ∧ (∀ h ∈ s.cpu.ctx.groups, h.gid ≠ s.cpu.grp.gid) ∧ s.cpu.ctx.block s.cpu.grp = some padBlock ∧
        s.cpu.grp.batches = ⟨some 0, [mb]⟩ :: [⟨none, [mb]⟩]) ∧
    (let s := copying 1 240 16 1
     let t := templateAt s.mem s.cpu.ctx.tmplb 1
     let k : Copy := ⟨0, ⟨0, 0⟩, 0, 0, 0, t, rec3, [240], [16], 0, 0, false, 0, List.replicate 16 255, [], false, [], [], [], none⟩
     k.t.stm = 0 ∧ k.t.dir = 1 ∧ k.t.dblk = 0 ∧ k.t.sfmt = k.t.dfmt ∧ 6 ≤ k.t.sfmt ∧ k.t.sfmt ≤ 13 ∧ k.rcd.lay = 0 ∧ (∀ b ∈ k.src, b < 2 ^ fmtBits k.t.sfmt) ∧
       k.src.length = (elemsOf k.t k.rcd k.origin k.counts).length) ∧
    (let s := changed [(0x70100, 0x2), (0x7012D, 3)] copyOut
     (templateAt s.mem s.cpu.ctx.tmplb 1).dir = 1 ∧ (templateAt s.mem s.cpu.ctx.tmplb 1).stm = 1) ∧
    (let s := changed [(0x70000, 0x4)] copyIn
     (templateAt s.mem s.cpu.ctx.tmplb 0).dir = 0 ∧ (templateAt s.mem s.cpu.ctx.tmplb 0).stm = 2) ∧
    (let k : SysCopy := ⟨0, 0, 0x20000, 0x30000, 128, false⟩
     let s := onHw (fun h => { h with tmarks := [0x20000] }) (onCtx (fun x => { x with sysCopies := [k] }) base)
     s.cpu.ctx.sysCopies.find? (fun k => k.id == 0 && !k.done) = some k ∧ k.dst % 128 = 0 ∧ k.bytes % 128 = 0 ∧ canonical unwritten s.mem = true) := by
  decide +kernel

/-! ### Witnesses: translation, legs, host, commands, fabric, bring-up -/

/-- A service write of an absent entry, and one that R285 refuses, in each stage. -/
def serving (pa : Nat) (val : Dword) (gid : Option Nat) (st : SvcStage) : State := onCtx (fun x => { x with svc := [⟨pa, val, gid, st, []⟩] }) many

theorem witness_TranslationSteps :
    (let s := serving 0x40000 0x4000000000060000 (some 0) .sent
     let v : Svc := ⟨0x40000, 0x4000000000060000, some 0, .sent, []⟩
     s.cpu.ctx.svc[0]? = some v ∧ canonical unwritten s.mem = true ∧ svcRefused s.cpu.hw s.mem s.cpu.ctx v = false ∧ memNat s.mem v.pa 8 / 2 ^ 62 = 0 ∧
       (match exec (.serviceWriteApply 0) s with
        | .next t => (mapRecord t.cpu.hw t.mem s.cpu.ctx.objtb v.pa).isSome
        | _ => false) = true ∧ ∀ i ∈ s.cpu.ctx.loaded :: s.cpu.ctx.images, canonical unwritten i.mem = true) ∧
    (serving 0x40008 0x8000000000060000 none .sent).cpu.ctx.svc[0]? = some ⟨0x40008, 0x8000000000060000, none, .sent, []⟩ ∧ memNat many.mem 0x40008 8 / 2 ^ 62 ≠ 0 ∧
    (let s := serving 0x40100 0x4000000000060000 none .sent
     let v : Svc := ⟨0x40100, 0x4000000000060000, none, .sent, []⟩
     s.cpu.ctx.svc[0]? = some v ∧ svcRefused s.cpu.hw s.mem s.cpu.ctx v = true) ∧
    (serving 0 0 none .draining).cpu.ctx.svc[0]? = some ⟨0, 0, none, .draining, []⟩ ∧ (serving 0 0 none .draining).cpu.ctx.queue = [] ∧
    (let e : Entry := ⟨⟨100, 1⟩, 64, .device, .atomic .aadd 0 (4 * 2 ^ 40 + 0x4000) false false 1 0, 0, 0, 0⟩
     let s := onCtx (fun x => { x with queue := [e] }) (serving 0x40008 0 (some 0) .draining)
     s.cpu.ctx.svc[0]? = some ⟨0x40008, 0, some 0, .draining, []⟩ ∧ e ∈ s.cpu.ctx.queue ∧ e.home = s.cpu.hw.number ∧ e.scope ≠ .block ∧
       (s.cpu.record s.mem (vaObj (4 * 2 ^ 40 + 0x4000))).any (fun r => r.mapped && entryPa r (vaOff (4 * 2 ^ 40 + 0x4000)) == 0x40008) = true ∧
       (∀ n ∈ [99, 101], (({ Group.none with gid := 0, lc := n } : Group).lc = n))) ∧
    (let s := serving 0 0 (some 0) .invalidating
     s.cpu.ctx.svc[0]? = some ⟨0, 0, some 0, .invalidating, []⟩ ∧ s.cpu.hw.held = [] ∧ (∀ y ∈ s.cpu.ctx.groups, y.gid ≠ s.cpu.grp.gid) ∧
       s.cpu.grp.status ≠ .absent) ∧
    (many.cpu.ctx.status ≠ .absent ∧ inTable many.cpu.ctx.objtb 0x10380 = true) ∧
    (devicePa (2 ^ 40) = false ∧ devicePa 0x3000000000 = false ∧ (0x10104 : Nat) % 8 ≠ 0 ∧ devicePa 0x10100 = true) ∧
    (∀ p ∈ [((0x10100 : Nat), (5105 : Dword), Change.same), (0x10388, 1, .deferred), (0x40000, 0x4000000000060000, .service), (0x40008, 0xC000000000060000, .drain)],
      devicePa p.1 = true ∧ p.1 % 8 = 0 ∧ changeOf many.cpu.hw many.mem many.cpu.ctx p.1 p.2.1 = some p.2.2) ∧ many.cpu.ctx.pendXlat = [] := by
  decide +kernel

/-- A moving entry that becomes resident in another frame. -/
theorem witness_TranslationSteps_relocates :
    let v : Svc := ⟨0x40100, 0x4000000000080000, none, .sent, []⟩
    let s := serving 0x40100 0x4000000000080000 none .sent
    s.cpu.ctx.svc[0]? = some v ∧ svcRefused s.cpu.hw s.mem s.cpu.ctx v = false ∧ Relocates s v 0x70000 0x80000 16384 := by
  refine ⟨by decide +kernel, by decide +kernel, ?_⟩
  have h : (mapRecord (serving 0x40100 0x4000000000080000 none .sent).cpu.hw manyMem 0x10003 0x40100).any (fun r => decide (16384 = 2 ^ r.stlog)) = true := by
    decide +kernel
  obtain ⟨r, hr, hs⟩ := Option.any_eq_true _ _ |>.1 h
  exact ⟨r, hr, by decide +kernel, by decide, by decide, by decide +kernel, by decide, of_decide_eq_true hs⟩

/-- A leg that is ready to end: a group at the leg's last clock with a byte in its sketch, and a version of device scope on another word. -/
def legDone : State :=
  onCtx (fun x => { x with
      versions := [⟨⟨5, 513⟩, 0, some .device, [(2 * 2 ^ 40 + 4, 8)]⟩]
      marks := [⟨2 * 2 ^ 40, 1, 0, none, 0, 0⟩, ⟨2 * 2 ^ 40 + 4, 2, 0, some .device, 513, 0⟩] })
    (onGrp (fun g => { g with lc := 65536, sketch := [(2 * 2 ^ 40, [(2 * 2 ^ 40, 9)])] }) base)

theorem noneSaved_of {s : State} (h : ∀ x ∈ s.contexts, (∀ g ∈ x.groups, g.preempted = false) ∧ (∀ b ∈ x.blocks, b.preempted = false) ∧
    (x.status = .suspended ∨ x.status = .ended → x.imaged = false)) : NoneSaved s := fun x hx => ⟨(h x hx).1, (h x hx).2.1, (h x hx).2.2⟩

/-- Bytes of object 2 have frames. -/
theorem physical_of {s : State} (hr : s.cpu.record s.mem 2 = some rec2) {va : Nat} (hv : vaObj va = 2) : physical s va (0x20000 + vaOff va) :=
  ⟨rec2, hv ▸ hr, rfl⟩

theorem physical_only {s : State} (hr : s.cpu.record s.mem 2 = some rec2) {va pa : Nat} (hv : vaObj va = 2) (h : physical s va pa) : pa = 0x20000 + vaOff va := by
  obtain ⟨r, h1, h2⟩ := h
  rw [hv, hr] at h1
  cases h1
  injection h2 with h2
  exact h2.symm

/-- A leg that touches object 2 alone and stores in no PARCEL object is ready to end. -/
theorem legEnds_of {s : State} (hr : s.cpu.record s.mem 2 = some rec2)
    (h : s.cpu.ctx.parcel = [] ∧
      (∀ g ∈ s.cpu.groups, ∀ l ∈ g.sketch, vaObj l.1 = 2 ∧ ∀ e ∈ l.2, vaObj e.1 = 2) ∧ (∀ v ∈ s.cpu.ctx.versions, ∀ e ∈ v.cells, vaObj e.1 = 2) ∧
      (s.cpu.ctx.status = .running ∧ s.cpu.ctx.phase = 0 ∧ s.cpu.ctx.peers = [] ∧ s.cpu.ctx.said = none ∧ s.cpu.hw.retry = [] ∧ s.cpu.hw.held = [] ∧
      s.cpu.hw.hostLate = [] ∧ s.cpu.ctx.queue = [] ∧ s.cpu.ctx.flight = []) ∧
      ((∀ g ∈ s.cpu.groups, g.status = .exited ∨ g.status = .running ∧ legTop s.cpu.ctx ≤ g.lc) ∧ (s.cpu.groups.map Group.gid).Nodup ∧
      (∀ g ∈ s.cpu.groups, dies s.cpu.ctx g = true → g.faults = [])) ∧
      (s.cpu.ctx.landings = [] ∧ s.cpu.ctx.watchers = [] ∧ (s.cpu.ctx.moved = [] ∧ s.cpu.ctx.movedTags = []) ∧ s.cpu.ctx.stops = [] ∧
      s.cpu.ctx.suspendReq = false ∧ s.cpu.hw.tmarks = []) ∧
      (∀ x ∈ s.contexts, (∀ g ∈ x.groups, g.preempted = false) ∧ (∀ b ∈ x.blocks, b.preempted = false) ∧ (x.status = .suspended ∨ x.status = .ended → x.imaged = false)) ∧
      (∀ g ∈ s.cpu.groups, rising g.sketch = true ∧ ∀ l ∈ g.sketch, rising l.2 = true ∧ ∀ e ∈ l.2, lineOf e.1 = l.1) ∧
      ((∀ v ∈ s.cpu.ctx.versions, rising v.cells = true ∧ v.stamp.lc < legTop s.cpu.ctx) ∧
      overlayOver s.cpu.hw s.mem (withAmax { s.cpu.ctx with versions := s.cpu.ctx.versions ++ sketchVersions s }) = false ∧
      heldHost s.cpu.hw s.mem s.cpu.ctx = [] ∧ s.cpu.ctx.hostNext = [] ∧ canonical unwritten s.mem = true)) : LegEnds s := by
  obtain ⟨hp, hs, hv, h1, h2, h3, h4, h5, h6⟩ := h
  obtain ⟨a1, a2, a3, a4, a5, a6, a7, a8, a9⟩ := h1
  obtain ⟨b1, b2, b3⟩ := h2
  obtain ⟨c1, c2, c3, c4, c5, c6⟩ := h3
  refine ⟨a1, a2, a3, a4, a5, a6, a7, a8, a9, b1, b2, b3, c1, c2, c3, c4, c5, c6, noneSaved_of h4, fun g hg => ⟨h5 g hg, fun l hl => ?_⟩, h6.1,
    by rw [hp]; simp, h6.2.1, fun va hw => ⟨_, physical_of hr ?_⟩, h6.2.2.1, h6.2.2.2.1, h6.2.2.2.2⟩
  · have h := (hs g hg l hl).1
    unfold vaObj at h
    exact local_of hr rfl (by omega)
  · obtain ⟨y, -, p, hp', -⟩ | ⟨g, hg, hb⟩ | ⟨v, hv', hb⟩ := hw
    · rw [hp] at hp'; cases hp'
    · unfold sketchByte at hb
      cases hl : get? g.sketch (lineOf va) with
      | none => rw [hl] at hb; exact absurd rfl hb
      | some c =>
        rw [hl] at hb
        obtain ⟨y, hy⟩ := Option.ne_none_iff_exists'.1 hb
        exact (hs g (List.mem_filter.1 hg).1 _ (get?_isSome_mem hl)).2 _ (get?_isSome_mem hy)
    · obtain ⟨y, hy⟩ := Option.ne_none_iff_exists'.1 hb
      exact hv v hv' _ (get?_isSome_mem hy)

/-- `base` at the end of its leg, with some of its context changed. -/
def legOf (f : Ctx → Ctx) : State := onCtx f (onGrp (fun g => { g with lc := 65536 }) base)

theorem legDone_ends : LegEnds legDone :=
  legEnds_of (by decide +kernel) (by decide +kernel)

theorem noLines {s : State} (h : s.cpu.ctx.ptags = []) (u : Nat) : ¬ LineConflict s u := by
  rintro ⟨t, ht, -⟩
  rw [h] at ht; cases ht

/-- A leg with a store and a version, and no conflict: the group goes on; it has exited. -/
theorem witness_LegEndFolds :
    (LegEnds legDone ∧ Faultless legDone ∧ (∀ l ∈ legDone.cpu.ctx.launches, l.pending = false) ∧ legDone.cpu.ctx.reds = [] ∧ (∀ k, ¬ Due legDone k) ∧
      survivors legDone ≠ []) ∧
    (let s := onGrp (fun g => { g with status := .exited }) (legOf id)
     LegEnds s ∧ Faultless s ∧ (∀ l ∈ s.cpu.ctx.launches, l.pending = false) ∧ s.cpu.ctx.reds = [] ∧ (∀ k, ¬ Due s k) ∧ survivors s = [] ∧
       s.cpu.ctx.copies = [] ∧ s.cpu.ctx.sysCopies = []) := by
  refine ⟨⟨legDone_ends, ⟨noLines (by decide +kernel), by decide +kernel, by decide +kernel⟩, by decide +kernel, by decide +kernel, ?_, by decide +kernel⟩,
    ⟨legEnds_of (by decide +kernel) (by decide +kernel), ⟨noLines (by decide +kernel), by decide +kernel, by decide +kernel⟩, by decide +kernel,
      by decide +kernel, ?_, by decide +kernel, by decide +kernel, by decide +kernel⟩⟩
  all_goals exact fun k hk => absurd hk.1 (by simp [legDone, legOf, onCtx, onGrp, base, placeProgram, Ctx.none])

/-- No store and no version, and two contributions to one word; a copy that lands. -/
def legReds : State := legOf fun x => { x with reds := [⟨2 * 2 ^ 40, .radd, 0, 32, 0xFFFFFFFF, none, 0⟩, ⟨2 * 2 ^ 40, .radd, 0, 32, 3, none, 513⟩] }
def landedCopy : Copy := ⟨0, ⟨5, 0⟩, 0, 0, 0, outTemplate, rec2, [0], [1], 0, 0, false, 0, [], [], true, [(2 * 2 ^ 40, 9)], [], [], none⟩
def legCopy : State := legOf fun x => { x with copies := [landedCopy] }

theorem nothing_written {s : State} (h1 : s.cpu.ctx.parcel = []) (h2 : ∀ g ∈ s.cpu.groups, g.sketch = []) (h3 : s.cpu.ctx.versions = []) (va : Nat) : ¬ Written s va := by
  rintro (⟨y, -, p, hp, -⟩ | ⟨g, hg, hb⟩ | ⟨v, hv, -⟩)
  · rw [h1] at hp; cases hp
  · rw [h2 g (List.mem_filter.1 hg).1] at hb; exact hb rfl
  · rw [h3] at hv; cases hv

/-- A target that no other kind meets, the words of the targets being apart. -/
theorem redOk_of {rs : List Contrib} {k : Contrib} (h : k ∈ rs ∧ (∀ j ∈ rs, j.bits ∈ [8, 16, 32, 64] ∧ j.addr % (j.bits / 8) = 0 ∧ j.val < 2 ^ j.bits) ∧
    (∀ j ∈ rs, ∀ i ∈ rs, contribKind i ≠ contribKind j → (j.addr + j.bits / 8 - 1) / 4 < i.addr / 4 ∨ (i.addr + i.bits / 8 - 1) / 4 < j.addr / 4) ∧
    (∀ j ∈ rs, contribKind j = contribKind k → j.bits = k.bits) ∧ (k.op ∈ [.rfadd, .rfmin, .rfmax] → isFlt k.ety.toNat = true ∧ k.bits = etyBits k.ety.toNat)) :
    RedOk rs k := by
  refine ⟨h.1, h.2.1, fun w _ ⟨j, hj, i, hi, h1, h2, hne⟩ => ?_, h.2.2.2.1, h.2.2.2.2⟩
  unfold onWord at h1 h2
  have := h.2.2.1 i hi j hj hne
  omega

/-- What goes through object 2 alone leaves its record as it is. -/
theorem steady_of {s : State} {l : List Copy} (hr : s.cpu.record s.mem 2 = some rec2) (hp : recordPa s.cpu.ctx.objtb 2 = 0x10100)
    (h : ∀ va, Touched s l va → vaObj va = 2) : Steady s l where
  placed va ht := ⟨_, physical_of hr (h va ht)⟩
  apart va va' pa ht ht' h1 h2 := by
    have e1 := physical_only hr (h va ht) h1
    have e2 := physical_only hr (h va' ht') h2
    have := h va ht
    have := h va' ht'
    unfold vaObj at *; unfold vaOff at *; omega
  still m hm va ht := by
    rw [h va ht]
    have : s.cpu.record m 2 = s.cpu.record s.mem 2 := by
      unfold Cpu.record
      rw [recordOf_bytes]
      intro i hi
      rw [hp]
      refine hm _ fun va' ht' h' => ?_
      have := physical_only hr (h va' ht') h'
      omega
    refine ⟨this, fun r h' => ?_⟩
    cases hr.symm.trans h'
    rfl

theorem witness_LegEndFolds_reductions :
    let s := legReds
    let pa := fun i => 0x20000 + i
    LegEnds s ∧ (∀ va, ¬ Written s va) ∧ s.cpu.ctx.hostWrites = [] ∧ s.cpu.ctx.pendXlat = [] ∧ (∀ k, ¬ Due s k) ∧
      (∀ j ∈ s.cpu.ctx.reds, ∀ va, redBytes j va → ∃ pa, physical s va pa) ∧
      (∀ k ∈ s.cpu.ctx.reds, RedOk s.cpu.ctx.reds k) ∧ (∀ i < 4, physical s (2 * 2 ^ 40 + i) (pa i)) ∧
      ∀ j ∈ s.cpu.ctx.reds, ∀ va, redBytes j va → ∀ i < 4, physical s va (pa i) → va = 2 * 2 ^ 40 + i := by
  have hr : legReds.cpu.record legReds.mem 2 = some rec2 := by decide +kernel
  have hj : ∀ j ∈ legReds.cpu.ctx.reds, j.addr = 2 * 2 ^ 40 ∧ j.bits = 32 := by decide +kernel
  have ho : ∀ j ∈ legReds.cpu.ctx.reds, ∀ va, redBytes j va → vaObj va = 2 := by
    intro j h va hb
    unfold redBytes at hb
    rw [(hj j h).1, (hj j h).2] at hb
    unfold vaObj; omega
  refine ⟨legEnds_of hr (by decide +kernel), nothing_written (by decide +kernel) (by decide +kernel) (by decide +kernel), by decide +kernel, by decide +kernel,
    fun k hk => absurd hk.1 (by simp [legReds, legOf, onCtx, onGrp, base, placeProgram, Ctx.none]), fun j h va hb => ⟨_, physical_of hr (ho j h va hb)⟩,
    fun k hk => redOk_of ⟨hk, by revert k; decide +kernel⟩, fun i hi => ?_, fun j h va hb i hi hp => ?_⟩
  · have := physical_of hr (va := 2 * 2 ^ 40 + i) (by unfold vaObj; omega)
    have hv : vaOff (2 * 2 ^ 40 + i) = i := by unfold vaOff; omega
    rwa [hv] at this
  · have h1 : 0x20000 + i = 0x20000 + vaOff va := physical_only hr (ho j h va hb) hp
    have h2 := ho j h va hb
    unfold vaObj at h2; unfold vaOff at h1; omega

theorem witness_LegEndFolds_copies :
    let s := legCopy
    LegEnds s ∧ (∀ va, ¬ Written s va) ∧ s.cpu.ctx.hostWrites = [] ∧ s.cpu.ctx.pendXlat = [] ∧ s.cpu.ctx.reds = [] ∧ Due s landedCopy ∧ (∀ k, Due s k → k = landedCopy) ∧
      landedCopy.read = true ∧ landedCopy.nibs = [] ∧ landedCopy.amax = none ∧ ∀ e ∈ landedCopy.payload ++ landedCopy.stampCells, ∃ pa, physical s e.1 pa := by
  have hr : legCopy.cpu.record legCopy.mem 2 = some rec2 := by decide +kernel
  refine ⟨legEnds_of hr (by decide +kernel), nothing_written (by decide +kernel) (by decide +kernel) (by decide +kernel), by decide +kernel, by decide +kernel,
    by decide +kernel, ⟨List.mem_cons_self .., rfl, rfl⟩, fun k hk => List.mem_singleton.1 hk.1, rfl, rfl, rfl, fun e he => ?_⟩
  cases List.mem_singleton.1 he
  exact ⟨_, physical_of hr (by decide)⟩

/-- All steps of a leg end that meet on a line: a byte of the sketch; integer contributions to its word and a floating one; a copy that lands on
the next word with its greatest magnitude; a host write. -/
def layerCopy : Copy := { landedCopy with payload := [(2 * 2 ^ 40 + 4, 9)], amax := some ⟨2 * 2 ^ 40 + 16, .rfmax, 2, 32, 0x3F800000, some (1, 0), 0⟩ }
def legLayers : State :=
  onCtx (fun x => { x with
      reds := [⟨2 * 2 ^ 40, .radd, 0, 32, 0xFFFFFFFF, none, 0⟩, ⟨2 * 2 ^ 40 + 8, .rfadd, 2, 32, 0x3F800000, none, 0⟩], copies := [layerCopy]
      hostWrites := [[(0x20000, 5)]] })
    (onGrp (fun g => { g with lc := 65536, sketch := [(2 * 2 ^ 40, [(2 * 2 ^ 40, 9)])] }) base)

theorem witness_LegEndFolds_layers :
    LegEnds legLayers ∧ DueList legLayers [layerCopy] ∧ Steady legLayers [layerCopy] ∧
      (∀ k ∈ allReds legLayers [layerCopy], RedOk (allReds legLayers [layerCopy]) k) ∧ Written legLayers (2 * 2 ^ 40) := by
  have hr : legLayers.cpu.record legLayers.mem 2 = some rec2 := by decide +kernel
  have hw : ∀ va, Written legLayers va → vaObj va = 2 := by
    rintro va (⟨y, -, p, hp, -⟩ | ⟨g, hg, hb⟩ | ⟨v, hv, -⟩)
    · rw [(by decide +kernel : legLayers.cpu.ctx.parcel = [])] at hp; cases hp
    · have hs : ∀ g ∈ survivors legLayers, g.sketch = [(2 * 2 ^ 40, [(2 * 2 ^ 40, 9)])] := by decide +kernel
      rw [hs g hg] at hb
      unfold sketchByte at hb
      cases hl : get? [((2 * 2 ^ 40 : Nat), [((2 * 2 ^ 40 : Nat), (9 : Byte))])] (lineOf va) with
      | none => rw [hl] at hb; exact absurd rfl hb
      | some c =>
        have hl : lineOf va = 2 * 2 ^ 40 := congrArg Prod.fst (List.mem_singleton.1 (get?_isSome_mem hl))
        unfold lineOf at hl; unfold vaObj; omega
    · rw [(by decide +kernel : legLayers.cpu.ctx.versions = [])] at hv; cases hv
  refine ⟨legEnds_of hr (by decide +kernel), ⟨fun k => ?_, List.pairwise_singleton .., by decide +kernel, by decide +kernel⟩,
    steady_of hr (by decide +kernel) fun va ht => ?_, fun k hk => redOk_of ⟨hk, ?_⟩, .inr (.inl ?_)⟩
  · have hc : legLayers.cpu.ctx.copies = [layerCopy] := by decide +kernel
    unfold Due
    rw [hc]
    refine ⟨fun h => ⟨h, ?_⟩, fun h => h.1⟩
    cases List.mem_singleton.1 h
    decide +kernel
  · obtain h | ⟨j, hj, h⟩ | ⟨z, hz, rfl⟩ := ht
    · exact hw va h
    · have : ∀ j ∈ allReds legLayers [layerCopy], 2 * 2 ^ 40 ≤ j.addr ∧ j.addr + j.bits / 8 ≤ 3 * 2 ^ 40 := by decide +kernel
      have := this j hj
      unfold redBytes at h; unfold vaObj; omega
    · have : ∀ z ∈ landed [layerCopy], vaObj z.1 = 2 := by decide +kernel
      exact this z hz
  · revert k; decide +kernel
  · have : ∃ g ∈ survivors legLayers, sketchByte g.sketch (2 * 2 ^ 40) ≠ none := by decide +kernel
    exact this

/-- A word with marks of each pair of classes, kinds and scopes that conflict, with the class, the code and the gids of its fault. -/
def legMarks (l : List Mark) : State := legOf fun x => { x with marks := l }
def marked (c k : Nat) (sc : Option Scope) (gid mo : Nat) : Mark := ⟨2 * 2 ^ 40, c, k, sc, gid, mo⟩
def wordCases : List (List Mark × Nat × Nat × Nat × Nat) :=
  [([marked 1 0 none 0 0, marked 2 0 (some .device) 513 0], 10, 6, 0, 513), ([marked 1 0 none 0 0, marked 3 0 none 513 0], 10, 7, 0, 513),
   ([marked 2 0 (some .device) 0 0, marked 3 0 none 513 0], 10, 11, 0, 513), ([marked 3 0 none 513 0, marked 3 1 none 0 0], 10, 15, 513, 0),
   ([marked 2 0 (some .device) 0 0, marked 2 0 (some .system) 513 1], 11, 1, 0, 513)]

theorem witness_LegEndFolds_words : ∀ c ∈ wordCases, LegEnds (legMarks c.1) ∧ (∀ j ∈ (legMarks c.1).cpu.ctx.launches, j.pending = false) ∧
    (∀ k, ¬ Due (legMarks c.1) k) ∧ (legMarks c.1).cpu.ctx.reds = [] ∧ WordConflict (legMarks c.1) (2 * 2 ^ 40) c.2.1 c.2.2.1 c.2.2.2.1 c.2.2.2.2 ∧
    ∃ g ∈ survivors (legMarks c.1), g.gid = min c.2.2.2.1 c.2.2.2.2 := by
  refine fun c hc => ⟨legEnds_of ?_ ⟨?_, ?_, ?_, ?_, ?_, ?_, ?_, ?_, ?_⟩, ?_, fun k hk => absurd hk.1 (by simp [legMarks, legOf, onCtx, onGrp, base, placeProgram, Ctx.none]), rfl, ?_, ?_⟩
  rotate_left 11
  · fin_cases hc
    · exact .inl ⟨rfl, rfl, (by unfold LowOf; decide +kernel), (by unfold LowOf; decide +kernel)⟩
    · exact .inr (.inl ⟨rfl, rfl, (by decide +kernel), (by unfold LowOf; decide +kernel), (by unfold LowOf; decide +kernel)⟩)
    · exact .inr (.inr (.inl ⟨rfl, rfl, (by decide +kernel), (by unfold LowOf; decide +kernel), (by unfold LowOf; decide +kernel)⟩))
    · exact .inr (.inr (.inr (.inl ⟨rfl, rfl, (by decide +kernel), 0, 1, (by decide), (by decide +kernel), (by unfold LowOf; decide +kernel), (by unfold LowOf; decide +kernel)⟩)))
    · exact .inr (.inr (.inr (.inr ⟨rfl, rfl, (by unfold LowOf; decide +kernel), (by unfold LowOf; decide +kernel), (by decide +kernel)⟩)))
  all_goals revert c; decide +kernel

/-- A line with a store and an access of another group; a launch of one block that waits. -/
def legTags : State := legOf fun x => { x with ptags := [⟨3 * 2 ^ 40, 513, true⟩, ⟨3 * 2 ^ 40, 0, false⟩] }
def waiting : Launch := ⟨1, [0xFFC, 0x200, 0, 0, 0x04010001, 0x00100401, 0xFF0000, 0], 0, 0, 1, 1, false⟩
def legLaunch : State := legOf fun x => { x with launches := [waiting] }

theorem witness_LegEndFolds_lines :
    (LegEnds legTags ∧ (∀ j ∈ legTags.cpu.ctx.launches, j.pending = false) ∧ legTags.cpu.ctx.copies = [] ∧ legTags.cpu.ctx.reds = [] ∧ PairOn legTags (3 * 2 ^ 40) 0 513 ∧
      (∀ v q1 q2, PairOn legTags v q1 q2 → 0 < q1 ∨ 0 = q1 ∧ (513 < q2 ∨ 513 = q2 ∧ 3 * 2 ^ 40 ≤ v)) ∧ ∃ g ∈ survivors legTags, g.gid = 0) ∧
    (LegEnds legLaunch ∧ Faultless legLaunch ∧ legLaunch.cpu.ctx.copies = [] ∧ legLaunch.cpu.ctx.reds = [] ∧ legLaunch.cpu.ctx.kills = [] ∧
      legLaunch.cpu.ctx.launches = [waiting] ∧ waiting.pending = true ∧ (lrecOf waiting.rcd).aft = false ∧ (lrecOf waiting.rcd).grid ≤ waiting.next + waiting.step) := by
  refine ⟨⟨legEnds_of (by decide +kernel) (by decide +kernel), by decide +kernel, by decide +kernel, by decide +kernel, by unfold PairOn; decide +kernel, ?_,
      by decide +kernel⟩,
    ⟨legEnds_of (by decide +kernel) (by decide +kernel), ⟨noLines (by decide +kernel), by decide +kernel, by decide +kernel⟩, by decide +kernel,
      by decide +kernel, by decide +kernel, rfl, by decide +kernel, by decide +kernel, by decide +kernel⟩⟩
  rintro v q1 q2 ⟨hlt, t, ht, u, hu, rfl, h2, rfl, rfl, -⟩
  have h : ∀ y ∈ legTags.cpu.ctx.ptags, y.unit = 3 * 2 ^ 40 ∧ (y.gid = 0 ∨ y.gid = 513) := by decide +kernel
  have := h t ht
  have := h u hu
  omega

/-- Addresses that name memory and that do not: the last byte of die 0's DRAM and the one after it; a host write for the context, before and
after the leg's end is agreed, one for no context here, while a leg is open and while none is; a partition with work and one without. -/
theorem witness_HostAccess :
    (devicePa 0x2FFFFFFFFF = true ∧ devicePa 0x3000000000 = false ∧ namesMemory 0x3000000000 = false ∧ namesMemory (2 ^ 50) = true) ∧
    (base.cpu.ctx.status ≠ .absent ∧ base.cpu.ctx.key = 0 ∧ base.cpu.ctx.phase ≠ 2 ∧ (legOf fun x => { x with phase := 2 }).cpu.ctx.phase = 2) ∧
    ((∀ y ∈ base.contexts, y.key ≠ 1) ∧ ∃ y ∈ base.contexts, legOpen y = true) ∧
    (let s := onCtx (fun x => { x with status := .ended }) base
     (∀ y ∈ s.contexts, y.key ≠ 1 ∧ legOpen y = false) ∧ canonical unwritten s.mem = true ∧ rising [((0x20000 : Nat), (1 : Byte))] = true) ∧
    (workRemains 0 base = true ∧ workRemains 1 base = false ∧ base.others = [] ∧ base.cpu.ctx.dpart.toNat = 0 ∧ base.cpu.ctx.dpart.toNat ≠ 15) := by decide +kernel

/-- The owner, another master, none; a link that has failed and trained; a partition's limits at their bounds. -/
theorem witness_ManagementWindow :
    let mine := onHw (fun h => { h with own := 3, ports := h.ports.set 15 ⟨255, 8, 2, 0, true⟩ }) State.reset
    (State.reset.cpu.hw.own ≠ 1) ∧ (mine.cpu.hw.own = 3 ∧ mine.cpu.hw.err = 0 ∧ mine.contexts = [] ∧ mine.cpu.hw.ports[15]? = some ⟨255, 8, 2, 0, true⟩ ∧
      mine.cpu.hw.ports[14]? = some ⟨0, 0, 0, 0, false⟩ ∧ (0x7FFF < 0x8000 ∧ 2 ^ mine.cpu.hw.dpcfg < 0x10000 / 0x8000 ∧ 0x8034 % 0x8000 ∉ [0x08, 0x10, 0x18, 0x1C, 0x20, 0x28, 0x2C, 0x30]) ∧ (0 : Nat) < 2 ^ mine.cpu.hw.dpcfg ∧ mine.cpu.hw.parts[0]? = some Part.reset) ∧
    base.contexts ≠ [] := by decide +kernel

/-- A module that is ready, host A its owner, all quadrants working, and a context with block 0. -/
def owned : State :=
  onHw (fun h => { h with stage := 5, own := 1, working := List.range 16, parts := h.parts.set 0 { Part.reset with ctxarg := 0x80000 } }) base
def ofStatus (st : CtxStatus) : State → State := onCtx fun x => { x with status := st }

theorem witness_ContextCommands :
    (owned.cpu.hw.own = ownCode .hostA ∧ owned.cpu.hw.err = 0 ∧ (0 : Nat) < 2 ^ owned.cpu.hw.dpcfg ∧ owned.cpu.hw.stage = 5 ∧
      owned.cpu.hw.own ≠ ownCode .hostB ∧ base.cpu.hw.stage ≠ 5 ∧ owned.cpu.hw.parts[0]? = some { Part.reset with ctxarg := 0x80000 }) ∧
    (∀ o : CtxCmd, ∃ i, o.Word .hostA 0 (1 <<< 40) i) ∧
    ((∀ y ∈ owned.contexts, ¬ (y.number.toNat = 1 ∧ y.dpart = 0)) ∧ owned.cpu.ctx.status ≠ .absent ∧ owned.cpu.ctx.number.toNat = 0 ∧ owned.cpu.ctx.dpart = 0) ∧
    (let run := owned.cpu.ctx
     let stop := (ofStatus .suspended owned).cpu.ctx
     let gone := (ofStatus .ended owned).cpu.ctx
     let pre := (withBlock { programBlock with preempted := true } owned).cpu.ctx
     (CtxCmd.suspend.Ready run ∧ ¬ CtxCmd.suspend.Ready stop) ∧ (CtxCmd.resume.Ready stop ∧ CtxCmd.resume.Ready pre ∧ ¬ CtxCmd.resume.Ready run) ∧
       CtxCmd.kill.Ready gone ∧ (CtxCmd.killLaunch.Ready stop ∧ ¬ CtxCmd.killLaunch.Ready gone) ∧ (CtxCmd.killBlock.Ready run ∧ ¬ CtxCmd.killBlock.Ready gone) ∧
       (CtxCmd.preempt.Ready run ∧ ¬ CtxCmd.preempt.Ready stop) ∧ (CtxCmd.legq.Ready stop ∧ ¬ CtxCmd.legq.Ready run) ∧ (CtxCmd.mctb.Ready run ∧ ¬ CtxCmd.mctb.Ready gone) ∧
       (CtxCmd.killLaunch.InRange run 0 ∧ ¬ CtxCmd.killLaunch.InRange run 1) ∧
       (CtxCmd.legq.InRange run 12 ∧ CtxCmd.legq.InRange run 24 ∧ ¬ CtxCmd.legq.InRange run 11 ∧ ¬ CtxCmd.legq.InRange run 25 ∧ CtxCmd.legq.InRange run 0x30) ∧
       (CtxCmd.quota.InRange run 29 ∧ ¬ CtxCmd.quota.InRange run 30) ∧ (CtxCmd.ovlb.InRange run 40 ∧ ¬ CtxCmd.ovlb.InRange run 41 ∧ ¬ CtxCmd.ovlb.InRange run 15) ∧
       NamesBlock run 0 programBlock) ∧
    (quadsOk (ofStatus .suspended owned) 0 0 1 (cmdQuads (1 <<< 55)) = true ∧ quadsOk (ofStatus .suspended owned) 0 0 1 (cmdQuads (3 <<< 40)) = false ∧
      owned.cpu.ctx.placeDue = false ∧ owned.cpu.hw.held = [] ∧ (owned.cpu.ctx.blocks.map fun b => (b.lord, b.blk)).Nodup ∧
      (owned.cpu.groups.map Group.gid).Nodup ∧ (∀ g ∈ owned.cpu.groups, g.batches = []) ∧ NoneSaved (ofStatus .suspended owned)) := by
  refine ⟨by decide +kernel, fun o => by cases o <;> exact ⟨_, rfl⟩, by decide +kernel, ?_, by decide +kernel, by decide +kernel, by decide +kernel, by decide +kernel,
    by decide +kernel, by decide +kernel, by decide +kernel, noneSaved_of (by decide +kernel)⟩
  unfold CtxCmd.Ready CtxCmd.InRange NamesBlock; decide +kernel

/-- Block 0 of a launch that waits: it has no groups yet; blocks that no launch has. -/
def queued : State := onCtx (fun x => { x with launches := x.launches ++ [waiting] }) owned

theorem witness_ContextCommands_blocks :
    (QueuedBlock queued.cpu.ctx (1 <<< 40) ∧ (∀ b, ¬ NamesBlock queued.cpu.ctx (1 <<< 40) b) ∧ CtxCmd.killBlock.Ready queued.cpu.ctx ∧ CtxCmd.preempt.Ready queued.cpu.ctx) ∧
    FarBlock (onCtx (fun x => { x with peers := [⟨⟨0, 0, 1, false, [], [], [], [], [], none, [], 2, [(1, 3, 4, 12)]⟩, 1, false⟩] }) owned).cpu.ctx (2 ^ 40 + 512 * 7) ∧
    ¬ CtxCmd.killBlock.InRange owned.cpu.ctx 512 ∧ ¬ CtxCmd.preempt.InRange owned.cpu.ctx 1 ∧ CtxCmd.killBlock.InRange owned.cpu.ctx 0 := by
  have hb : ∀ b ∈ owned.cpu.ctx.blocks, b.lord = 0 ∧ b.blk = 0 := by decide +kernel
  refine ⟨⟨by unfold QueuedBlock; decide +kernel, fun b h => absurd (hb b h.2.1).1 ?_, by unfold CtxCmd.Ready; decide +kernel, by unfold CtxCmd.Ready; decide +kernel⟩,
    ⟨by decide, _, List.mem_singleton_self _, rfl, 3, 4, 12, by decide⟩, ?_, ?_,
    .inr (.inr ⟨programBlock, by unfold NamesBlock; decide +kernel⟩)⟩
  · have h1 : b.lord = 1 := h.2.2.1
    omega
  · rintro (h | h | ⟨b, h⟩)
    · exact absurd h (by unfold QueuedBlock; decide +kernel)
    · obtain ⟨-, p, hp, -⟩ := h
      rw [(by decide +kernel : owned.cpu.ctx.peers = [])] at hp
      cases hp
    · have h1 : b.blk = 1 := h.2.2.2
      have := (hb b h.2.1).2
      omega
  · rintro (h | h | ⟨b, h⟩) <;> exact absurd h.1 (by decide)

/-- A context that runs with its block out in the image object, which is not mapped. -/
def outBlock : State :=
  { onGrp (fun g => { g with preempted := true }) (onCtx (fun x => { x with objtb := 0x10003, blocks := [{ programBlock with preempted := true }] }) owned) with mem := manyMem }

theorem witness_ContextCommands_resume : ∃ r, outBlock.cpu.record outBlock.mem 1 = some r ∧ (∀ off, translate outBlock.mem r off = .at (r.base + off)) ∧
    outBlock.cpu.ctx.status = .running ∧ quadsOk outBlock 0 0 1 (cmdQuads (1 <<< 55)) = true ∧ outBlock.cpu.hw.held = [] ∧
    (outBlock.cpu.groups.map Group.gid).Nodup ∧ CtxCmd.resume.Ready outBlock.cpu.ctx ∧ outBlock.cpu.grp.live = true ∧ outBlock.cpu.grp.inWin = false := by
  have h : ∃ r, outBlock.cpu.record outBlock.mem 1 = some r ∧ r.mapped = false ∧ r.home = 0 := by
    have := record_many.1
    have h : (outBlock.cpu.record outBlock.mem 1).any (fun r => !r.mapped && r.home == 0) = true := by decide +kernel
    obtain ⟨r, hr, hp⟩ := Option.any_eq_true _ _ |>.1 h
    simp only [Bool.and_eq_true, Bool.not_eq_true', beq_iff_eq] at hp
    exact ⟨r, hr, hp⟩
  obtain ⟨r, hr, hm, hh⟩ := h
  exact ⟨r, hr, fun off => by simp [Sys2Proof.Machine.translate, hm, hh], by decide +kernel, by decide +kernel, by decide +kernel, by decide +kernel,
    by unfold CtxCmd.Ready; decide +kernel, by decide +kernel, by decide +kernel⟩

/-- A descriptor at PA 80000H, its record in object 2; the fields at the bounds of R250. -/
def starting (legq quota ovl quads : Byte) : State :=
  { owned with mem := baseMem ++ [(0x20100, 0xFC), (0x20101, 0xF), (0x20105, 2), (0x20108, 0x88), (0x20110, 1), (0x20112, 1), (0x20113, 4), (0x20114, 1),
      (0x20115, 4), (0x20116, 0x10), (0x2011A, 0x1F), (0x80000, 2), (0x80002, 1), (0x80010, ovl), (0x80029, 1), (0x8002D, 2), (0x80030, 7),
      (0x80034, legq), (0x80036, quota), (0x80037, quads)] }

theorem witness_ContextStart :
    (let s := starting 24 29 40 1
     let x := describedCtx s 0 1 0x80000 false [15]
     (∀ y ∈ s.contexts, ¬ (y.number.toNat = 1 ∧ y.dpart = 0)) ∧ (¬ ∀ y ∈ s.contexts, ¬ (y.number.toNat = 0 ∧ y.dpart = 0)) ∧ descriptorOk s 0 0x80000 = true ∧
       (firstRecord s x 0x80000).isSome = true ∧ ((firstRecord s x 0x80000).bind fun w => coresFor (lrecOf w) 29) = some 1 ∧
       quadsOk s 0 1 1 [15] = true ∧ quadsOk s 0 1 1 [0] = false) ∧
    (let f := fun (s : State) a c => memNat s.mem (0x80000 + a) c
     f (starting 25 29 40 1) 52 1 = 25 ∧ f (starting 11 29 40 1) 52 1 = 11 ∧ f (starting 24 30 40 1) 54 1 = 30 ∧ f (starting 24 29 41 1) 16 8 % 64 = 41 ∧
       f (starting 24 29 15 1) 16 8 % 64 = 15 ∧ f (starting 24 29 40 0) 55 1 = 0 ∧ f (starting 24 29 40 17) 55 1 = 17 ∧ (partQuads owned.cpu.hw 0).length = 16 ∧
       descriptorOk (starting 12 0 16 16) 0 0x80000 = true ∧ descriptorOk (starting 0 0 16 16) 0 0x80000 = true) ∧
    (let s := onHw (fun h => { h with cols := 2 }) (starting 24 29 40 1)
     domainOk s.cpu.hw = false) ∧
    (let s := starting 24 29 40 1
     let s := { s with mem := wrAll unwritten s.mem ([(0x20100, 0), (0x20101, 0x10)]) }
     descriptorOk s 0 0x80000 = true ∧ firstRecord s (describedCtx s 0 1 0x80000 false [15]) 0x80000 = none) := by
  decide +kernel

/-- A packet from module 1 to this one, and what this module has received from it: all below 5, and 6. -/
def arriving (typ seq : Nat) (body : PBody) : Packet := ⟨typ, 1, 0, seq, 0, 0, 0, body⟩
def receiver : State := onHw (fun h => { h with windows := [⟨1, 5, [6]⟩] }) base

/-- Sequence numbers at the bounds of R338 and R348, and what each type carries; a packet of another leg; a multicast line that the record
here admits, and one sent under another extent. -/
theorem witness_FabricReceipt :
    let h := receiver.cpu.hw
    let x := receiver.cpu.ctx
    let p := fun typ body => arriving typ 5 body
    (∀ o : Pk, ∃ i, o.Word (p 0 .reserved) i) ∧
    (FreshPk h (arriving 0 5 .reserved) ∧ FreshPk h (arriving 0 4100 .reserved) ∧ BeyondPk h (arriving 0 4101 .reserved) ∧ BeyondPk h (arriving 0 61444 .reserved) ∧
      RepeatedPk h (arriving 0 61445 .reserved) ∧ RepeatedPk h (arriving 0 4 .reserved) ∧ RepeatedPk h (arriving 0 6 .reserved)) ∧
    ((p 0 .reserved).dst = h.number ∧ x.status ≠ .absent ∧ x.key = (p 0 .reserved).ctx ∧ (∀ y ∈ receiver.contexts, y.key = (p 0 .reserved).ctx → y.leg % 65536 = (p 0 .reserved).leg) ∧
      ∃ y ∈ receiver.contexts, y.key = (p 0 .reserved).ctx ∧ y.leg % 65536 ≠ { p 0 .reserved with leg := 3 }.leg) ∧ NoneSaved receiver ∧
    (receiver.cpu.record receiver.mem (vaObj (2 * 2 ^ 40)) = some rec2 ∧ inSendWindow h 1 (nextSeq h 1) = true) ∧
    (receiver.cpu.record receiver.mem (vaObj (3 * 2 ^ 40)) = some rec3 ∧ rec3.mode = 1 ∧ rec3.home = 0 ∧ rec3.ext ≠ 255 ∧
      accessBlock receiver.mem rec3 true (vaOff (lineOf (3 * 2 ^ 40 + 200))) 128 = none ∧ writeFull h receiver.mem x 513 [(3 * 2 ^ 40 + 200, 1)] = false) ∧
    (overlayFull h receiver.mem x (2 * 2 ^ 40) = false ∧ noAccumulator h receiver.mem x contribution1 = false ∧ x.ovlFull = false) ∧
    (∀ a k b, [contribution1] = a ++ k :: b → noAccumulator h receiver.mem { x with reds := x.reds ++ a } k = false) ∧
    (∀ a ∈ [((1 : Nat), (5 : Nat)), (1, 7)], a.2 < 65536 ∧ WindowOk (windowOf h a.1) ∧ FreshPk h { p 7 .reserved with src := a.1, seq := a.2 }) := by
  refine ⟨fun o => by cases o <;> exact ⟨_, rfl⟩, by unfold FreshPk BeyondPk RepeatedPk; decide +kernel, by decide +kernel, noneSaved_of (by decide +kernel),
    by decide +kernel, by decide +kernel, by decide +kernel, fun a k b h => ?_, by unfold FreshPk WindowOk; decide +kernel⟩
  cases a with
  | nil => cases h; decide +kernel
  | cons y a => simp at h

/-- The same for a home whose overlay is full: a publication, a contribution and a write-through to that line. -/
theorem witness_FabricReceipt_full :
    let s := full 4352 []
    overlayFull s.cpu.hw s.mem s.cpu.ctx (2 * 2 ^ 40) = true ∧ noAccumulator s.cpu.hw s.mem s.cpu.ctx contribution1 = true ∧
      writeFull s.cpu.hw s.mem s.cpu.ctx 513 [(2 * 2 ^ 40, 1)] = true ∧ s.cpu.ctx.ovlFull = false ∧ FreshPk s.cpu.hw (arriving 3 0 .reserved) := by
  refine ⟨full_full, ?_, ?_, by decide +kernel, by unfold FreshPk; decide +kernel⟩
  · have h : hasAccumulator (full 4352 []).cpu.ctx contribution1 = false := rfl
    have hl : lineOf contribution1.addr = 2 * 2 ^ 40 := by decide
    unfold noAccumulator
    rw [h, hl, full_full]; rfl
  · have h : (get? (full 4352 []).cpu.ctx.parcel 513).getD [] = [] := (by decide +kernel : (get? base.cpu.ctx.parcel 513).getD [] = [])
    have hl : lineOfCells [(2 * 2 ^ 40, 1)] = 2 * 2 ^ 40 := by decide
    unfold writeFull
    rw [h, hl, full_full]; rfl

/-- A group that waits for a remote line, for a turn elsewhere, on a line, at a fence; an agreement of a module that has spoken before. -/
theorem witness_FabricAnswers :
    let p := fun body => arriving 1 5 body
    let put' := fun (f : Group → Group) (k : Module → Module) (c : Ctx → Ctx) => onGrp f (onHw k (onCtx c receiver))
    let req : Packet := ⟨0, 0, 1, 9, 0, 0, 0, .readReq (2 * 2 ^ 40) 0 none .load⟩
    let e := fun op => ({ entry op .system with home := 1 } : Entry)
    (FreshPk receiver.cpu.hw (p .reserved) ∧ (p .reserved).dst = receiver.cpu.hw.number ∧ receiver.cpu.ctx.key = (p .reserved).ctx ∧
      ∀ y ∈ receiver.contexts, y.key = (p .reserved).ctx → y.leg % 65536 = (p .reserved).leg) ∧
    (let s := put' (fun g => { g with status := .remote [(9, 1)] }) (fun h => { h with retry := [req] }) id
     s.cpu.grp.status = .remote [(9, (p .reserved).src)] ∧ s.cpu.hw.retry.find? (fun q => q.dst == 1 && q.seq == 9) = some req ∧
       req.body = .readReq (2 * 2 ^ 40) s.cpu.grp.gid none .load) ∧
    (let op := TurnOp.atomic .waita 1 (2 * 2 ^ 40) true false 0 0
     let s := put' (fun g => { g with status := .turn ⟨some 1, none, false, 1, 64, 4⟩ }) id fun x => { x with queue := [e op] }
     s.cpu.ctx.queue.find? (fun e => e.home == 1 && e.stamp.gid == s.cpu.grp.gid) = some (e op) ∧ s.cpu.grp.status = .turn ⟨some 1, none, false, 1, 64, 4⟩ ∧
       s.cpu.grp.Writable 1) ∧
    (let r : List Word := [0xFFC, 0x200, 0, 0, 0x04010001, 0x00100401, 0xFF0000, 0]
     let s := put' (fun g => { g with status := .turn ⟨none, some 1, false, 0, 64, 4⟩ }) id fun x => { x with queue := [e (.launch r)] }
     s.cpu.ctx.queue.find? (fun e => e.home == 1 && e.stamp.gid == s.cpu.grp.gid) = some (e (.launch r)) ∧ coresFor (lrecOf r) s.cpu.ctx.dq = some 1 ∧
       (16777215 : Dword).toNat < 2 ^ 24) ∧
    (let s := put' (fun g => { g with status := .ceded 64 (.line .system (2 * 2 ^ 40)) none }) id id
     s.cpu.grp.status = .ceded 64 (.line .system (2 * 2 ^ 40)) none ∧ lineOf (2 * 2 ^ 40) ∈ [2 * 2 ^ 40]) ∧
    (let s := put' (fun g => { g with status := .fence }) (fun h => { h with retry := [req] }) id
     s.cpu.grp.status = .fence ∧ ∀ q ∈ s.cpu.hw.retry, q.ctx = s.cpu.ctx.key → s.cpu.grp.gid ∈ packetGids q.body → q.dst = 1 ∧ q.seq = 9) ∧
    (let r : Peer := ⟨⟨2, 1, 4, false, [], [], [], [], [], none, [], 0, []⟩, 1, false⟩
     (∀ y ∈ receiver.cpu.ctx.peers, y.module ≠ 1) ∧ [r].find? (fun y => y.module == 1) = some r ∧ (1 < r.leg ∧ 0 < r.phase ∧ 3 < r.serial)) ∧
    (let k : Contrib := ⟨2 * 2 ^ 40, .radd, 0, 32, 1, none, 513⟩
     let a := fun n => (⟨2, 2 * 2 ^ 40, 3, .radd, 0, 0, List.replicate n (1, 0), [(3, 8)], List.replicate n k⟩ : Combine)
     (∀ n ∈ [14, 15], [a n].find? (fun e => e.dst == 2 && e.line == lineOf k.addr && e.leg == 3 && e.op == k.op && e.ety == k.ety && e.ctx == 0) = some (a n) ∧
       (a n).parts.length = n) ∧ (List.replicate 1024 (a 1)).length = 1024 ∧ ([] : List Combine).length < 1024 ∧ (a 15).parts.length < 16 ∧
       (List.replicate 1024 { a 1 with dst := 3 }).find? (fun e => e.dst == 2 && e.line == lineOf k.addr) = none) ∧
    (let w : WcEntry := ⟨0, 0, 0, 1, 3 * 2 ^ 40, 0, [(3 * 2 ^ 40, 1)]⟩
     let s := put' id (fun h => { h with wcb := [w] }) id
     s.cpu.hw.wcb[0]? = some w ∧ s.cpu.ctx.key = w.ctx ∧ inSendWindow s.cpu.hw 1 (nextSeq s.cpu.hw 1) = true) := by
  unfold FreshPk Group.Writable; decide +kernel

/-- A barrier arrival of one flit and a line write of three, from stop 6 of quadrant 0 to the core and the slice at stop 2: four hops,
clockwise. -/
def netOne : NetPacket := ⟨.barrierArrival, .core 0 0 6, .core 0 0 2, 0, 0, none, []⟩
def netThree : NetPacket := ⟨.lineWrite, .core 0 0 6, .slice 0 0 2, 2 * 2 ^ 40, BitVec.allOnes 128, none, List.replicate 128 0⟩
/-- At stop 7 on the ring, waiting to be injected there, partly past it, and at their stop. -/
def ringOne : RingPacket := ⟨netOne, 0, [⟨7, false, 0, 1, 0, 5⟩]⟩
def ringNew : RingPacket := ⟨netThree, 0, [⟨7, false, 3, 3, 0, 9⟩]⟩
def ringPast : RingPacket := ⟨netThree, 0, [⟨0, true, 0, 1, 0, 0⟩, ⟨7, false, 0, 3, 1, 2⟩]⟩
def ringHere (flits : NetPacket) (arrived : Nat) : RingPacket := ⟨flits, 0, [⟨2, true, 0, arrived, 0, 1⟩]⟩

/-- A port that is up, with 16 failures behind it, and one that is down; a notice of a link, alone and joined by a second one; packets that
are past a stop, that find room, that are offered, and at their endpoints; a packet in a station; rooms of each kind. -/
theorem witness_LinksAndRings :
    (let s := onHw (fun h => { h with ports := h.ports.set 15 ⟨0, 1, 1, 16, true⟩ }) State.reset
     s.cpu.hw.ports[15]? = some ⟨0, 1, 1, 16, true⟩ ∧ s.cpu.hw.ports[0]? = some ⟨0, 0, 0, 0, false⟩) ∧
    (let k : Packet := ⟨3, 0, 9, 0, 0, 0, 0, .reserved⟩
     let s := onHw (fun h => { h with rows := 2, cols := 2, retry := [k] }) State.reset
     (1, 9) ∉ s.cpu.hw.failed ∧ k.dst ∈ moduleList s.cpu.hw ∧ k.dst ≠ s.cpu.hw.number ∧ inSendWindow s.cpu.hw 9 0 = true ∧
       (routeTo s.cpu.hw 9).any (fun r => routeUses (1, 9) 0 r) = true ∧ (routeTo { s.cpu.hw with failed := [(1, 9)] } 9).isSome = true) ∧
    (let two := onHw (fun h => { h with ports := (h.ports.set 15 ⟨0, 9, 1, 0, true⟩).set 3 ⟨0, 9, 1, 0, true⟩ }) State.reset
     2 ≤ portsUp two.cpu.hw.ports 9 ∧ ¬ 2 ≤ portsUp State.reset.cpu.hw.ports 9 ∧ State.reset.cpu.hw.number = 0) ∧
    (let h := (onHw (fun h => { h with rings := [ringNew, ringOne] }) State.reset).cpu.hw
     RingReady h 0 7 ringOne ∧ RingReady h 0 7 ringNew ∧ waitsEntry ringNew = true ∧ waitsEntry ringOne = false ∧
       (∀ k ∈ h.rings, ¬ (k.ring = 0 ∧ ∃ y ∈ k.stays.drop 1, y.stop = 7)) ∧ (ringPast.ring = 0 ∧ ∃ y ∈ ringPast.stays.drop 1, y.stop = 7)) ∧
    (offered State.reset.cpu.hw 0 6 netOne = true ∧ pathOk State.reset netOne = true) ∧
    (∀ k ∈ [(false, ringHere netOne 1), (true, ringHere netThree 0), (true, ringHere netThree 2)], atEndpoint 0 2 k.1 k.2 = true ∧ ∃ y l, k.2.stays = y :: l) ∧
    (let k : StationPacket := ⟨netOne, 0, 1, true, false⟩
     [k].find? (fun y => y.die == 0 && y.member == 1 && y.up == true) = some k ∧ (64 : Nat) ≤ 64 ∧ (64 - 64) / 2 % 4 = 0) ∧
    RoomOk [] 16 true 0 ∧ RoomOk [(16, ⟨7, false, 0, 16, 0, 0⟩)] 1 false 1 ∧ RoomOk [(16, ⟨7, false, 0, 16, 0, 0⟩)] 5 true 2 := by
  refine ⟨by decide +kernel, by decide +kernel, by decide +kernel, by unfold RingReady; decide +kernel, by decide +kernel, fun k hk => ?_, by decide +kernel, ?_, ?_, ?_⟩
  · fin_cases hk <;> exact ⟨by decide +kernel, _, _, rfl⟩
  all_goals simp [RoomOk]

def ringCore : RingPacket := ⟨⟨.acknowledgement, .slice 0 0 6, .core 0 0 2, 0, 0, none, []⟩, 2, [⟨2, true, 0, 1, 0, 0⟩]⟩
/-- The oldest packet for a core that has reserved room for a response is there. -/
theorem witness_LinksAndRings_core :
    CoreTakes (withOffer (onHw (fun h => { h with rings := [ringCore], promised := [(.core 0 0 2, 5)] }) State.reset) 2 2 none) 2 2 :=
  ⟨by decide, by decide +kernel, ringCore, ⟨2, true, 0, 1, 0, 0⟩, [], by decide +kernel, rfl, by decide⟩

/-- Images that verify and do not; a bring-up in which every layer, core and slice passed, and one with a failed layer. -/
theorem witness_BringUp :
    (let ok := onHw (fun h => { h with stage := 2 }) State.reset
     ok.cpu.hw.stage = 2 ∧ ok.cpu.hw.err = 0 ∧ (0xFFFFFE : BitVec 24) ≠ 0xFFFFFF) ∧
    (∃ f ∈ State.reset.cpu.hw.fuses, f.1 = 0 ∧ f.2 = false) ∧
    (∀ d < 16, (∀ i < 8, (BitVec.allOnes 128).getLsbD (8 * d + i) = true) ∧ ∀ i < 4, (BitVec.allOnes 64).getLsbD (4 * d + i) = true) := by
  refine ⟨by decide +kernel, ⟨(0, false), List.mem_cons_self .., rfl, rfl⟩, fun d hd => ⟨fun i hi => ?_, fun i hi => ?_⟩⟩
  all_goals rw [BitVec.getLsbD_allOnes]; exact decide_eq_true (by omega)

/-- The group of `base` issues next, and its words can be fetched: one word, a pair, and one with a reserved bit set. -/
theorem fetches_of (s : State) (bytes : List Byte)
    (h : s.cpu.grp.pc.toNat % 4 = 0 ∧ s.cpu.record s.mem (baseObj s.cpu.grp.pc) = some rec2 ∧ baseOff s.cpu.grp.pc + bytes.length ≤ 4096 ∧
      (∀ k, k < bytes.length → accessBlock s.mem rec2 false (baseOff s.cpu.grp.pc + k) 4 = none) ∧
      ∀ k < bytes.length, bytes[k]? = some (codeByteHere s.cpu.hw s.cpu.ctx s.mem rec2 (baseOff s.cpu.grp.pc + k))) : Fetches s bytes :=
  ⟨h.1, rec2, h.2.1, h.2.2.1, rfl, rfl, fun k hk _ => h.2.2.2.1 k hk, fun k hk => ⟨by simp [homedAway, homeModule, rec2], h.2.2.2.2 k hk⟩⟩

theorem witness_StepRunsDecoded_issues (s : State) (h : s = base ∨ s = State.reset.withFetchWord 32 0xFE000012 ∨ s = State.reset.withFetchWord 32 0xF2000001) :
    IssuesNext s ∧ s.cpu.grp.faults = [] := by
  obtain rfl | rfl | rfl := h
  all_goals exact ⟨⟨by decide +kernel, by decide +kernel, by decide +kernel, by decide +kernel, fun q hq => by cases hq; rfl, by decide +kernel, by decide +kernel,
    by decide +kernel, by decide +kernel, by decide +kernel⟩, by decide +kernel⟩

theorem witness_StepRunsDecoded :
    (Fetches base [0, 0, 0, 0] ∧ decode [0, 0, 0, 0] = .ok (.add 0 0 0, [])) ∧
    (Fetches (State.reset.withFetchWord 32 0xFE000012) [0x12, 0, 0, 0xFE, 0, 0, 0, 0] ∧ decode [0x12, 0, 0, 0xFE, 0, 0, 0, 0] = .ok (.lit 0x12 0, [])) ∧
    (Fetches (State.reset.withFetchWord 32 0xF2000001) [1, 0, 0, 0xF2] ∧ decode [1, 0, 0, 0xF2] = .error (.reservedBit 4 0xF2000001)) ∧
    (∃ s : State, s.inputs = [.legEnd]) := by
  refine ⟨⟨fetches_of _ _ (by decide +kernel), by decide +kernel⟩, ⟨fetches_of _ _ (by decide +kernel), by decide +kernel⟩,
    ⟨fetches_of _ _ (by decide +kernel), by decide +kernel⟩, ⟨{ base with inputs := [.legEnd] }, rfl⟩⟩

theorem witness_DecodeEncode :
    (wellFormed (.accdrain 15 159 1 2) = true ∧ encode (.accdrain 15 159 1 2) ≠ []) ∧ (wellFormed (.lit 0xFFFFFF 0xFFFFFFFF) = true ∧ encode (.lit 0xFFFFFF 0xFFFFFFFF) ≠ []) ∧
      decode (bytesOfWord 0xFFFFFFFF) = .ok (.unassignedFirstByte 0xFFFFFFFF, []) := by decide +kernel

theorem witness_StepKeepsMemory : canonical unwritten base.mem = true ∧ ∃ t, step base = .next t := by
  refine ⟨by decide +kernel, ?_⟩
  have h : (schedule base).2 = some (.add 0 0 0) := by decide +kernel
  unfold step
  split
  · next t i hi => rw [hi] at h; cases h; exact ⟨_, rfl⟩
  · exact ⟨_, rfl⟩

/-- The three stops, each at an address beside memory. -/
theorem witness_NeverStops :
    exec (.hostMemRead 0x3000000000) base = .fault (.hostAddress 0x3000000000) ∧ exec (.hostMemWrite 0 [(0x3000000000, 1)]) base = .fault (.hostAddress 0x3000000000) ∧
      exec (.translationApertureWrite 0x10104 0) base = .fault (.hostAddress 0x10104) ∧ base.inputs = [] := ⟨rfl, rfl, rfl, rfl⟩

/-! ### Single steps: results worked out by hand from the rules -/

def after (i : Instr) (s : State) : State :=
  match exec i s with
  | .next t => t
  | _ => s

/-- Lane 0 of a register, and a uniform register. -/
def lane (n : BitVec 8) (s : State) : Word := laneAt (s.cpu.grp.readV n) 0
def uni (n : BitVec 8) (s : State) : Word := s.cpu.grp.readK n
/-- v1 and k12 under an MD, one active lane. -/
def ops (md : Half) (x : Nat) (y : Word) : State := setMd md (setC 1 (setV1 (fun _ => x) (setK 12 y base)))

/-- R68: 2^31 − 1 + 1 wraps under s32, and clamps with SAT; under u16x2 no carry passes between elements. -/
theorem test_add_wraps_and_clamps : lane 2 (after (.addVk 2 1 12) (ops 0x07 0x7FFFFFFF 1)) = 0x80000000 ∧
    lane 2 (after (.addVk 2 1 12) (ops 0x807 0x7FFFFFFF 1)) = 0x7FFFFFFF ∧
    lane 2 (after (.addVk 2 1 12) (ops 0x57 0x0001FFFF 0x00010001)) = 0x00020000 := by decide +kernel

/-- R134: the high half of (−2^31)·(−2^31) is 2^30; 255 and 255 are −1 as signed bytes, their product's high byte is 0. -/
theorem test_mulh : lane 2 (after (.mulhVk 2 1 12) (ops 0x07 0x80000000 0x80000000)) = 0x40000000 ∧
    lane 2 (after (.mulhVk 2 1 12) (ops 0x67 0xFFFFFFFF 0xFFFFFFFF)) = 0 ∧
    lane 2 (after (.mulhVk 2 1 12) (ops 0x17 0xFFFFFFFF 0xFFFFFFFF)) = 0xFFFFFFFE := by decide +kernel

/-- R135: a count of 32 or more gives 0 or the sign; `rot` takes it modulo 32. -/
theorem test_shift_counts : lane 2 (after (.shlVk 2 1 12) (ops 0x07 1 32)) = 0 ∧ lane 2 (after (.sarVk 2 1 12) (ops 0x07 0x80000000 40)) = 0xFFFFFFFF ∧
    lane 2 (after (.rotVk 2 1 12) (ops 0x07 0x80000001 33)) = 3 := by decide +kernel

/-- R136: bits 4 to 7 of 80H, signed and unsigned; FH put at bit 28. -/
theorem test_bit_fields : lane 2 (after (.bfxVk 2 1 12) (ops 0x07 0x80 0x404)) = 0xFFFFFFF8 ∧ lane 2 (after (.bfxVk 2 1 12) (ops 0x17 0x80 0x404)) = 8 ∧
    lane 2 (after (.bfiVk 2 1 12) (ops 0x07 0xF 0x81C)) = 0xF0000000 := by decide +kernel

/-- R41: the last-result file takes the destination; R46: lane 1, not active, keeps its value. -/
theorem test_last_result : let t := after (.addVk 1 1 12) (ops 0x07 5 3)
    lane 240 t = 8 ∧ laneAt (t.cpu.grp.readV 1) 1 = 5 ∧ laneAt (t.cpu.grp.readV 240) 1 = 5 := by decide +kernel

/-- R138: ltu of −1 and 1 is false, lt is true. -/
theorem test_cmp_signs : (after (.cmpVk 0x20 1 12) (ops 0x07 0xFFFFFFFF 1)).cpu.grp.readP 0 = 1 ∧
    (after (.cmpVk 0x60 1 12) (ops 0x07 0xFFFFFFFF 1)).cpu.grp.readP 0 = 0 := by decide +kernel

/-- R64: 1 + 2^−24 is a tie: to even 1.0, upwards the next number; NX in both. -/
theorem test_fadd_rounds : (let t := after (.faddVk 2 1 12) (ops 0x27 0x3F800000 0x33800000)
      lane 2 t = 0x3F800000 ∧ t.cpu.grp.fpflags = 1) ∧
    lane 2 (after (.faddVk 2 1 12) (ops 0x227 0x3F800000 0x33800000)) = 0x3F800001 := by decide +kernel

/-- R67, R140: 0·∞ + d is the canonical NaN, with NV; the largest FP32 doubled is +∞, with OF and NX, and clamps with SAT. -/
theorem test_fma_special : (let t := after (.fmaVk 2 1 12) (ops 0x27 0 0x7F800000)
      lane 2 t = 0x7FC00000 ∧ t.cpu.grp.fpflags = 16) ∧
    (let t := after (.faddVk 2 1 12) (ops 0x27 0x7F7FFFFF 0x7F7FFFFF)
     lane 2 t = 0x7F800000 ∧ t.cpu.grp.fpflags = 5) ∧
    lane 2 (after (.faddVk 2 1 12) (ops 0x827 0x7F7FFFFF 0x7F7FFFFF)) = 0x7F7FFFFF := by decide +kernel

/-- R63: FTZ reads the smallest subnormal as 0; R141: −0 is below +0; R145: its class bit is 5. -/
theorem test_float_corners : lane 2 (after (.faddVk 2 1 12) (ops 0x1027 1 0x3F800000)) = 0x3F800000 ∧
    lane 2 (after (.fminVk 2 1 12) (ops 0x27 0 0x80000000)) = 0x80000000 ∧ lane 2 (after (.fclassVk 2 12) (ops 0x27 0 1)) = 32 := by decide +kernel

/-- R72: 2.5 to INT32 is 2 to nearest even, with NX; NaN is 80000000H with NV, 0 with SAT. -/
theorem test_fcvt : (let t := after (.fcvtVk 2 0x60 12) (ops 0x07 0 0x40200000)
      lane 2 t = 2 ∧ t.cpu.grp.fpflags = 1) ∧ lane 2 (after (.fcvtVk 2 0x60 12) (ops 0x07 0 0x7FC00000)) = 0x80000000 ∧
    lane 2 (after (.fcvtVk 2 0x60 12) (ops 0x807 0 0x7FC00000)) = 0 := by decide +kernel

/-- R146: 1/3 to nearest even; the reciprocal of −0 is −∞ with DZ; 2^0 is 1. -/
theorem test_transcendentals : lane 2 (after (.frcpVk 2 12) (ops 0x27 0 0x40400000)) = 0x3EAAAAAB ∧
    (let t := after (.frcpVk 2 12) (ops 0x27 0 0x80000000)
     lane 2 t = 0xFF800000 ∧ t.cpu.grp.fpflags = 8) ∧ lane 2 (after (.fex2Vk 2 12) (ops 0x27 0 0)) = 0x3F800000 := by decide +kernel

/-- R148: 1·1 + 2·1 + 3·1 + (−1)·1 = 5. -/
theorem test_idot4 : lane 2 (after (.idot4Vk 2 1 12) (ops 0x67 0xFF030201 0x01010101)) = 5 := by decide +kernel

/-- R77, R78: the sum of 0 to 31, and its prefix in lane 3. -/
theorem test_lane_sums : let s := setV1 id base
    lane 2 (after (.lsum 2 0 1) s) = 496 ∧ laneAt ((after (.lscan 2 0 1) s).cpu.grp.readV 2) 3 = 6 := by decide +kernel

/-- R151, R153: lane 5 everywhere; the number of true lanes, and the lowest. -/
theorem test_lane_moves : (after (.bcast 2 1 5) (setV1 id base)).cpu.grp.readV 2 = allLanes 5 ∧
    uni 3 (after (.vote 3 0 3) (setP 0 0xF0 base)) = 4 ∧ uni 3 (after (.vote 3 0 5) (setP 0 0xF0 base)) = 4 := by decide +kernel

/-- R155: signed high product, shift by 32, unsigned compare; `kmovi` sign-extends. -/
theorem test_uniform : let s := setK 1 0xFFFFFFFF (setK 2 32 base)
    uni 3 (after (.kmulh 3 1 2) s) = 0xFFFFFFFF ∧ uni 3 (after (.kshr 3 1 2) s) = 0 ∧ uni 3 (after (.ksar 3 1 2) s) = 0xFFFFFFFF ∧
      (after (.kcmp 0x60 2 1) s).cpu.grp.readQ 0 = true ∧ uni 3 (after (.kmovi 3 0x8000) s) = 0xFFFF8000 := by decide +kernel

/-- R156, R157: a branch back by one word; the link of a call; LC counts one. -/
theorem test_branches : let s := onGrp (fun g => { g with pc := 0x20000000100 }) base
    (after (.br 7 0xFFFF) s).cpu.grp.pc = 0x200000000FC ∧ (after (.br 15 0xFFFF) s).cpu.grp.pc = 0x20000000104 ∧
      ((after (.call 2) s).cpu.grp.pc, (after (.call 2) s).cpu.grp.readKK 158) = (0x20000000108, 0x20000000104) ∧ (after (.call 2) s).cpu.grp.lc = 1 := by
  decide +kernel

/-- R160, R161: `brv` keeps the lanes that do not branch, `jn` at the label turns to the others and then pops. -/
theorem test_divergence : let s := joined 0 0
    let t := after (.brv 0 5) s
    t.cpu.grp.lanes = 0x55555555 ∧ (let u := after .jn t
     u.cpu.grp.lanes = 0xAAAAAAAA ∧ u.cpu.grp.pc = 0x20000000014 ∧ u.cpu.grp.joins.length = 1) := by decide +kernel

/-- R301: the entry to the trap window of a software trap 9 in slot 0 of core 0: k0:k1 hold 2^40, k2 code and class; R304: back. -/
theorem test_trap : let s := onGrp (fun g => { g with trapv := 0x20000000103 }) base
    let t := after (.trap 9) s
    t.cpu.grp.pc = 0x20000000100 ∧ t.cpu.grp.readKK 0 = 0x10000000000 ∧ uni 2 t = 0x00090008 ∧ t.cpu.grp.frame.pc = 0x20000000004 ∧
      (after .rfe t).cpu.grp.pc = 0x20000000004 ∧ (after .rfe t).cpu.grp.inWin = false := by decide +kernel

/-- R255: FPFLAGS takes five bits at once, TMPLB waits for the leg's end; R254: CTXID. -/
theorem test_control_registers : (after (.csrw 1 4) (setK 1 0xFFFFFFE3 base)).cpu.grp.fpflags = 3 ∧
    (after (.csrw 2 9) base).cpu.ctx.pendCsr = [(true, ⟨0, 0⟩, 0)] ∧ uni 1 (after (.csrr 1 1) base) = 16 := by decide +kernel

/-- R175, R100: a stored halfword is read back, beside bytes not stored; another group does not see it. -/
theorem test_store_load : let s := setV1 (fun _ => 0x12345678) (lane0 2 0)
    let t := after (.stH 1 10 252) s
    lane 2 (after (.ldW 2 10 252) t) = 0x00005678 ∧ homeByte t.cpu t.mem rec2 513 none (2 * 2 ^ 40) = 0 ∧
      t.cpu.grp.sketch = [(2 * 2 ^ 40, [(2 * 2 ^ 40, 0x78), (2 * 2 ^ 40 + 1, 0x56)])] := by decide +kernel

/-- R128: an unaligned word raises the alignment fault with its address and lane. -/
theorem test_alignment : let t := after (.ldW 2 10 252) (onGrp (fun g => { g with trapv := 0x20000000100 }) (lane0 2 2))
    (t.cpu.grp.frame.cls, t.cpu.grp.frame.code, t.cpu.grp.frame.faddr, t.cpu.grp.frame.fmask) = (2, 1, 0x20000000002, 1) := by decide +kernel

/-- R177: two words of memory in two registers; `ld` in a PARCEL object tags the line (R104). -/
theorem test_ldk : let s := { lane0 3 0 with mem := baseMem ++ [(0x30000, 1), (0x30004, 2)] }
    let t := after (.ldk 20 10 1) s
    uni 20 t = 1 ∧ uni 21 t = 2 ∧ t.cpu.ctx.ptags = [⟨3 * 2 ^ 40, 0, false⟩] := by decide +kernel

/-- R180: the group reads its own scratchpad store; another group the start of the epoch. -/
theorem test_scratchpad : let s := setV1 (fun _ => 7) (setK 10 252 (withBlock padBlock (lane0 2 0)))
    let t := after (.stsW 1 10 252) s
    lane 2 (after (.ldsW 2 10 252) t) = 7 ∧ (t.cpu.ctx.blocks.map fun b => (padByte b 0 252, padByte b 1 252, b.tags)) = [(7, 0, [⟨0, 0, true⟩])] := by
  decide +kernel

/-- R183, R81: `aadd` releases the sketch and waits with weight 64; at its turn it adds to the word and returns the old value (R84). -/
theorem test_aadd : let s := setV1 (fun _ => 5) (onGrp (fun g => { g with sketch := [(2 * 2 ^ 40, [(2 * 2 ^ 40, 1)])] }) (lane0 2 8))
    let t := after (.aadd 2 74 1) s
    t.cpu.ctx.flight = [.publication ⟨0, 0⟩ [(2 * 2 ^ 40, 1)]] ∧ (t.cpu.ctx.queue.map fun e => (e.stamp, e.weight)) = [(⟨0, 0⟩, 64)] ∧
      (let u := after (.turnPerform 0) (after (.publicationApply 0) t)
       (u.cpu.ctx.versions.map fun v => (v.stamp, v.cells)) =
         [(⟨0, 0⟩, [(2 * 2 ^ 40, 1)]), (⟨0, 0⟩, [(2 * 2 ^ 40 + 8, 5), (2 * 2 ^ 40 + 9, 0), (2 * 2 ^ 40 + 10, 0), (2 * 2 ^ 40 + 11, 0)])] ∧
         (u.cpu.groups.map fun g => (g.lc, laneAt (g.readV 2) 0, g.view)) = [(64, 0, some (⟨0, 0⟩, .device))]) := by decide +kernel

/-- R187: one contribution of each active lane. -/
theorem test_radd : ((after (.radd 1 74 252) (setV1 (fun _ => 5) (lane0 2 8))).cpu.ctx.flight.map fun
      | .contribution c => (c.addr, c.val)
      | .publication _ _ => (0, 0)) = [(2 * 2 ^ 40 + 8, 5)] := by decide +kernel

/-- R217: a written row is read back from the tile. -/
theorem test_accumulator_row : let s := setV1 (fun j => j + 1) (setK 6 127 (withBlock padBlock base))
    let t := after (.accwr 0 6 1) (setC 0 s)
    lane 8 (after (.accrd 8 0 6) t) = 0 ∧
      lane 8 (after (.accrd 8 0 6) (after (.accwr 0 6 0) (onGrp (fun g => { g with main := g.main.writeReg 0 (allLanes 9) }) s))) = 9 := by decide +kernel

/-- R365: a claim with EXP equal to OWN, and one without. -/
theorem test_owner : (after (.owner .hostB 0x102) State.reset).cpu.hw.own = 2 ∧ (after (.owner .hostA 0x21) State.reset).cpu.hw.own = 0 := by decide +kernel

/-- R362: a host read answers the line. -/
theorem test_host_read : ((after (.hostMemRead 0x10101) base).cpu.hw.hostReads.map fun r => (r.1, (get? r.2 0x10101))) = [(0x10100, some 0x13)] := by
  decide +kernel

/-- R322, R325: an offered packet of one flit moves clockwise to the next stop; the core at its stop takes it. -/
theorem test_ring_hop : (after (.ringHop 0 ⟨6, some netOne⟩) State.reset).cpu.hw.rings = [⟨netOne, 0, [⟨7, false, 0, 1, 0, 0⟩]⟩] ∧
    (after (.packetEject 0 ⟨2, false⟩) (onHw (fun h => { h with rings := [ringHere netOne 1] }) State.reset)).cpu.hw.ejected = [netOne] := by decide +kernel

/-- R94: the leg's end writes the sketch and the version of `legDone` to their frames. -/
theorem test_leg_end : let t := after .legEnd legDone
    memByte t.mem 0x20000 = 9 ∧ memByte t.mem 0x20004 = 8 ∧ t.cpu.ctx.leg = 1 := by decide +kernel

/-- R34: the first step after a word is placed runs it. -/
theorem test_step_runs : (match step (State.reset.withFetchWord 32 0x8D0D0008) with
    | .next t => (uni 13 t, t.cpu.grp.pc, t.cpu.grp.lc)
    | _ => (0, 0, 0)) = (8, 0x20000000004, 1) := by decide +kernel

end Sys2Proof.Tests
end

/-! SUPPORT. What an encoded word decodes to, and the steps of the host and of the events that suspend R1 (O56, O47). -/

namespace Sys2Proof

/-! ### Words among bytes (R6, R35) -/

@[simp] theorem wordOfBytes_extractLsb' (w : Word) :
    wordOfBytes (w.extractLsb' 0 8) (w.extractLsb' 8 8) (w.extractLsb' 16 8) (w.extractLsb' 24 8) = w := by
  unfold wordOfBytes
  rw [BitVec.extractLsb'_append_extractLsb'_eq_extractLsb' (by rfl), BitVec.extractLsb'_append_extractLsb'_eq_extractLsb' (by rfl),
    BitVec.extractLsb'_append_extractLsb'_eq_extractLsb' (by rfl)]
  exact BitVec.extractLsb'_eq_self

/-- A word that is no `lit` is decoded by itself, whatever follows it. -/
theorem decode_bytesOfWord {w : Word} {i : Instr} (hlit : w.extractLsb' 24 8 ≠ 0xFE#8) (h : decodeWord w = .ok i) (rest : List Byte) :
    decode (bytesOfWord w ++ rest) = .ok (i, rest) := by
  simp [bytesOfWord, decode, hlit, h]

end Sys2Proof

namespace Sys2Proof.Machine

/-- Settles O56: no word of the list is a `lit`, and each by itself decodes to its instruction. -/
theorem decodeWords : Obligations.DecodeWords := by
  unfold Obligations.DecodeWords
  intro l hl rest
  have h : l.1.extractLsb' 24 8 ≠ 0xFE#8 ∧ decodeWord l.1 = .ok l.2 := by revert l; decide +kernel
  exact decode_bytesOfWord h.1 h.2 rest

/-! ### The context in hand and the others -/

@[simp] theorem Cpu.park_status (c : Cpu) : c.park.ctx.status = c.ctx.status := by unfold Cpu.park; split <;> rfl
@[simp] theorem Cpu.park_dpart (c : Cpu) : c.park.ctx.dpart = c.ctx.dpart := by unfold Cpu.park; split <;> rfl
@[simp] theorem Cpu.park_number (c : Cpu) : c.park.ctx.number = c.ctx.number := by unfold Cpu.park; split <;> rfl
@[simp] theorem Cpu.park_key (c : Cpu) : c.park.ctx.key = c.ctx.key := by simp [Ctx.key]

theorem State.contexts_of_absent {s : State} (h : s.cpu.ctx.status = .absent) : s.contexts = s.others := if_pos h

theorem State.contexts_of_present {s : State} (h : s.cpu.ctx.status ≠ .absent) : s.contexts = s.cpu.park.ctx :: s.others := if_neg h

theorem State.mem_parkCtx_others (s : State) (x : Ctx) : x ∈ s.parkCtx.others ↔ x ∈ s.contexts := by
  unfold State.parkCtx
  by_cases h : s.cpu.ctx.status = .absent
  · simp [h, contexts_of_absent]
  · simp [h, contexts_of_present, or_comm]

theorem State.byNumber_self {s : State} {n : Nat} (hx : s.cpu.ctx.status ≠ .absent) (hn : s.cpu.ctx.key = n) : s.byNumber n = some s := by
  simp [State.byNumber, State.takeCtx, hx, hn]

theorem State.byNumber_eq_none {s : State} {n : Nat} (h : ∀ y ∈ s.contexts, y.key ≠ n) : s.byNumber n = none := by
  have hx : s.cpu.ctx.status ≠ .absent → s.cpu.ctx.key ≠ n := fun hx => by
    have := h s.cpu.park.ctx (by simp [contexts_of_present hx])
    simpa using this
  have ho : s.parkCtx.others.find? (fun x => x.key == n) = none := by
    simpa [List.find?_eq_none, State.mem_parkCtx_others] using h
  unfold State.byNumber State.takeCtx
  rw [if_neg (by simpa using hx)]
  simp only [ho]

/-! ### What host writes leave in memory (R105, R287) -/

theorem get?_cons_ne {α : Type} {k a : Nat} {x : α} {m : List (Nat × α)} (h : rising ((k, x) :: m) = true) (ha : a ≠ k) :
    get? ((k, x) :: m) a = get? m a := by
  rw [get?, if_neg (Ne.symm ha)]
  split
  · next hlt => exact (get?_of_above ((rising_cons_iff k x m).1 h).1 (Nat.le_of_lt hlt)).symm
  · rfl

theorem hostLand_cons (h : Module) (m : Cells) (e : Nat × Byte) (cells : Cells) :
    hostLand h m [e :: cells] = hostLand h (if lineOf e.1 ∈ h.tmarks then m else memPut m e.1 e.2) [cells] := rfl

theorem memByte_hostLand (h : Module) {m cells : Cells} (a : Nat) (hm : canonical unwritten m = true) (hc : rising cells = true) :
    memByte (hostLand h m [cells]) a =
      if lineOf a ∈ h.tmarks then memByte m a else (get? cells a).getD (memByte m a) := by
  induction cells generalizing m with
  | nil => simp [hostLand, get?]
  | cons e cells ih =>
    obtain ⟨k, x⟩ := e
    obtain ⟨hk, hr⟩ := (rising_cons_iff k x cells).1 hc
    have hfirst : get? cells k = none := get?_of_above hk (Nat.le_refl k)
    rw [hostLand_cons]
    by_cases hmark : lineOf k ∈ h.tmarks
    · rw [if_pos hmark, ih hm hr]
      by_cases ha : a = k
      · simp [ha, hmark]
      · rw [get?_cons_ne hc ha]
    · rw [if_neg hmark, ih (Memory.wf_put k x hm) hr]
      by_cases ha : a = k
      · simp [ha, hmark, hfirst, get?, memByte_memPut_self k x hm]
      · rw [memByte_memPut_ne x hm ha, get?_cons_ne hc ha]

theorem mem_hostMarked {h : Module} {cells : Cells} {e : Nat × Byte} (he : e ∈ cells) (hmark : lineOf e.1 ∈ h.tmarks) :
    lineOf e.1 ∈ hostMarked h [cells] := by
  unfold hostMarked
  rw [List.mem_eraseDups, List.flatMap_singleton]
  exact List.mem_map_of_mem (List.mem_filter.2 ⟨he, decide_eq_true hmark⟩)

/-! ### Reads and writes of the host (R105, R362) -/

theorem exec_hostMemRead (pa : Nat) (s : State) : exec (.hostMemRead pa) s = hostRead pa s := by rfl

theorem exec_hostMemWrite (cno : Nat) (cells : Cells) (s : State) : exec (.hostMemWrite cno cells) s = hostWrite cno cells s := by rfl

theorem span_getElem? {a n i : Nat} (h : i < n) : (span a n)[i]? = some (a + i) := by
  induction n generalizing a i with
  | zero => omega
  | succ n ih =>
    cases i with
    | zero => rfl
    | succ i => rw [span, List.getElem?_cons_succ, ih (by omega)]; congr 1; omega

theorem length_span (a n : Nat) : (span a n).length = n := by
  induction n generalizing a with
  | zero => rfl
  | succ n ih => rw [span, List.length_cons, ih]

/-- What a host read of a line answers (R362). -/
def readRow (m : Cells) (line : Nat) : Cells := (span line 128).map fun a => (a, memByte m a)

theorem hostRead_of_devicePa {pa : Nat} (s : State) (h : devicePa pa = true) :
    hostRead pa s = .next (s.onHw fun k => { k with
      hostReads := k.hostReads ++ [(lineOf pa, readRow s.mem (lineOf pa))]
      hostLines := insertNew k.hostLines (lineOf pa) }) := if_pos h

theorem hostRead_of_not_devicePa {pa : Nat} (s : State) (h : devicePa pa = false) : hostRead pa s = .fault (.hostAddress pa) :=
  if_neg (by simp [h])

theorem length_readRow (m : Cells) (line : Nat) : (readRow m line).length = 128 := by simp [readRow, length_span]

theorem readRow_getElem? (m : Cells) (line : Nat) {i : Nat} (h : i < 128) :
    (readRow m line)[i]? = some (line + i, memByte m (line + i)) := by simp [readRow, span_getElem? h]

theorem HwOnly.onHw (s : State) (f : Module → Module) : HwOnly s (s.onHw f) := ⟨rfl, rfl, rfl, rfl, rfl⟩

theorem hostWrite_of_unnamed {cno : Nat} {cells : Cells} {e : Nat × Byte} (s : State) (he : e ∈ cells) (h : namesMemory e.1 = false) :
    ∃ a, hostWrite cno cells s = .fault (.hostAddress a) ∧ namesMemory a = false := by
  unfold hostWrite
  cases hf : cells.find? fun e => !namesMemory e.1 with
  | none =>
    have := List.find?_eq_none.1 hf e he
    simp [h] at this
  | some f => exact ⟨f.1, rfl, by simpa using List.find?_some hf⟩

section
variable {cno : Nat} {cells : Cells} {s : State} (hnamed : ∀ e ∈ cells, namesMemory e.1 = true)
include hnamed

/-- A write whose addresses all name memory is not refused for one of them. -/
theorem find?_unnamed : cells.find? (fun e => !namesMemory e.1) = none := by
  simpa [List.find?_eq_none] using hnamed

theorem hostWrite_of_here (hx : s.cpu.ctx.status ≠ .absent) (hk : s.cpu.ctx.key = cno) :
    hostWrite cno cells s = .next (s.onCtx fun x =>
      if x.phase = 2 then { x with hostNext := x.hostNext ++ [cells] } else { x with hostWrites := x.hostWrites ++ [cells] }) := by
  simp only [hostWrite, find?_unnamed hnamed, State.byNumber_self hx hk]

theorem hostWrite_of_elsewhere_open (hk : ∀ y ∈ s.contexts, y.key ≠ cno) (hopen : ∃ y ∈ s.contexts, legOpen y = true) :
    hostWrite cno cells s = .next (s.onHw fun h => { h with hostLate := h.hostLate ++ [⟨hostPlaces s, cells⟩] }) := by
  simp only [hostWrite, find?_unnamed hnamed, State.byNumber_eq_none hk]
  exact if_pos (List.any_eq_true.2 hopen)

theorem hostWrite_of_elsewhere_closed (hk : ∀ y ∈ s.contexts, y.key ≠ cno) (hclosed : ∀ y ∈ s.contexts, legOpen y = false) :
    hostWrite cno cells s = .next (State.onHw (fun h => { h with
      log := h.log ++ (hostMarked s.cpu.hw [cells]).map fun l => ⟨sourceOf h 40, 40, 7, 0, BitVec.ofNat 64 l⟩ })
      { s with mem := hostLand s.cpu.hw s.mem [cells] }) := by
  simp only [hostWrite, find?_unnamed hnamed, State.byNumber_eq_none hk]
  exact if_neg (by simpa using hclosed)

end

theorem hostPlaces_eq (s : State) :
    hostPlaces s = s.contexts.map fun y => (y.key, (if y.phase = 2 then y.hostNext else y.hostWrites).length) := by
  unfold hostPlaces
  congr 1
  funext y
  rw [apply_ite List.length]

/-! ### The contexts that a snoop awaits (R363) -/

theorem exec_hostSnoop (ln : Nat) (s : State) : exec (.hostSnoop ln) s = .next (hostSnoop ln s) := by rfl

/-- A leg is open of the context with this device partition and number. -/
def LegLive (s : State) (n : Nat × Nat) : Prop := ∃ y ∈ s.contexts, legOpen y = true ∧ n = (y.dpart.toNat, y.number.toNat)

/-- That context holds the line as well. -/
def LegHolds (ln : Nat) (s : State) (n : Nat × Nat) : Prop := LegLive s n ∧ (n.1, n.2, lineOf ln) ∈ s.cpu.hw.dir.shared

/-- The contexts with an open leg, as `snoopAwaits` lists them. -/
def openLegs (s : State) : List (Nat × Nat) := (s.contexts.filter legOpen).map fun x => (x.dpart.toNat, x.number.toNat)

/-- Those of them that hold the line. -/
def openHolders (ln : Nat) (s : State) : List (Nat × Nat) :=
  (openLegs s).filter fun n => decide ((n.1, n.2, lineOf ln) ∈ s.cpu.hw.dir.shared)

theorem mem_openLegs (s : State) (n : Nat × Nat) : n ∈ openLegs s ↔ LegLive s n := by
  simp only [openLegs, List.mem_map, List.mem_filter, LegLive, and_assoc]
  exact exists_congr fun y => and_congr_right fun _ => and_congr_right fun _ => eq_comm

theorem mem_openHolders (ln : Nat) (s : State) (n : Nat × Nat) : n ∈ openHolders ln s ↔ LegHolds ln s n := by
  simp [openHolders, LegHolds, mem_openLegs]

theorem snoopAwaits_eq (ln : Nat) (s : State) :
    snoopAwaits ln s = if (openHolders ln s).isEmpty then openLegs s else openHolders ln s := rfl

theorem mem_snoopAwaits_of_held {ln : Nat} {s : State} (h : ∃ n, LegHolds ln s n) (n : Nat × Nat) :
    n ∈ snoopAwaits ln s ↔ LegHolds ln s n := by
  obtain ⟨k, hk⟩ := h
  have hne : openHolders ln s ≠ [] := List.ne_nil_of_mem ((mem_openHolders ln s k).2 hk)
  rw [snoopAwaits_eq, if_neg (by simpa using hne), mem_openHolders]

theorem mem_snoopAwaits_of_not_held {ln : Nat} {s : State} (h : ∀ n, ¬ LegHolds ln s n) (n : Nat × Nat) :
    n ∈ snoopAwaits ln s ↔ LegLive s n := by
  have hnil : openHolders ln s = [] := List.eq_nil_iff_forall_not_mem.2 fun k hk => h k ((mem_openHolders ln s k).1 hk)
  rw [snoopAwaits_eq, if_pos (by simp [hnil]), mem_openLegs]

theorem snoopAwaits_eq_nil_iff (ln : Nat) (s : State) : snoopAwaits ln s = [] ↔ ∀ n, ¬ LegLive s n := by
  rw [List.eq_nil_iff_forall_not_mem]
  by_cases h : ∃ n, LegHolds ln s n
  · obtain ⟨k, hk⟩ := h
    exact iff_of_false (fun hn => hn k ((mem_snoopAwaits_of_held ⟨k, hk⟩ k).2 hk)) fun hn => hn k hk.1
  · simp only [mem_snoopAwaits_of_not_held (not_exists.1 h)]

theorem hostSnoop_of_none_live {ln : Nat} {s : State} (h : ∀ n, ¬ LegLive s n) :
    (hostSnoop ln s).cpu.hw = { s.cpu.hw with snooped := s.cpu.hw.snooped ++ [ln] } := by
  simp [hostSnoop, (snoopAwaits_eq_nil_iff ln s).2 h]

theorem hostSnoop_of_live {ln : Nat} {s : State} (h : ∃ n, LegLive s n) :
    (hostSnoop ln s).cpu.hw = { s.cpu.hw with snoops := s.cpu.hw.snoops ++ [(ln, snoopAwaits ln s)] } := by
  have hne : snoopAwaits ln s ≠ [] := fun hn => by
    obtain ⟨n, hl⟩ := h
    exact (snoopAwaits_eq_nil_iff ln s).1 hn n hl
  simp [hostSnoop, hne]

theorem hostSnoop_hwOnly (ln : Nat) (s : State) : HwOnly s (hostSnoop ln s) := by
  unfold hostSnoop; exact HwOnly.onHw s _

/-! ### Frozen partitions and machine checks (R4, R23, R295, R371) -/

theorem exec_progressMonitorTimeout (part : Nat) (s : State) :
    exec (.progressMonitorTimeout part) s = .next (if workRemains part s then freezePart part 1 s else s) := by rfl

theorem exec_thermalTrip (part : Nat) (s : State) : exec (.thermalTrip part) s = .next (freezePart part 4 s) := by rfl

theorem exec_uncorrectableData (cno : Nat) (s : State) : exec (.uncorrectableData cno) s = .next (checkContext 36 3 cno s) := by rfl

theorem checkContext_of_here {s : State} {n : Nat} (cls code : Nat) (hx : s.cpu.ctx.status ≠ .absent) (hk : s.cpu.ctx.key = n) :
    checkContext cls code n s = s.onCpu (checkR1 cls code 0) := by
  simp only [checkContext, State.byNumber_self hx hk]

theorem onPart_eq (d : Nat) (f : Part → Part) (h : Module) : onPart d f h = { h with parts := (onPart d f h).parts } := by
  unfold onPart; split <;> rfl

theorem onPart_parts_self {d : Nat} {h : Module} {q : Part} (f : Part → Part) (hq : h.parts[d]? = some q) :
    (onPart d f h).parts[d]? = some (f q) := by
  obtain ⟨hd, rfl⟩ := Vector.getElem?_eq_some_iff.1 hq
  simp [onPart, hd]

theorem onPart_parts_ne {d p : Nat} (h : Module) (f : Part → Part) (hp : p ≠ d) : (onPart d f h).parts[p]? = h.parts[p]? := by
  unfold onPart
  split
  · exact Vector.getElem?_setIfInBounds_ne hp.symm
  · rfl

/-- The module with a partition frozen. -/
def frozenHw (d : Nat) (h : Module) : Module := onPart d (fun p => { p with frozen := true }) h

@[simp] theorem frozenHw_log (d : Nat) (h : Module) : (frozenHw d h).log = h.log := by rw [frozenHw, onPart_eq]
@[simp] theorem sourceOf_frozenHw (d kind : Nat) (h : Module) : sourceOf (frozenHw d h) kind = sourceOf h kind := by rw [frozenHw, onPart_eq]; rfl

theorem freezePart_eq (d code : Nat) (s : State) :
    freezePart d code s = ((s.contexts.filter fun x => x.dpart.toNat == d).map Ctx.key).foldl (fun s n => checkContext 36 code n s)
      (s.onHw (frozenHw d)) := rfl

section
variable {d : Nat} {s : State} (code : Nat) (ho : s.others = []) (hx : s.cpu.ctx.status ≠ .absent)
include ho hx

theorem freezePart_of_member (hd : s.cpu.ctx.dpart.toNat = d) :
    freezePart d code s = (s.onHw (frozenHw d)).onCpu (checkR1 36 code 0) := by
  have hcheck := checkContext_of_here (s := s.onHw (frozenHw d)) 36 code hx rfl
  simpa [freezePart_eq, State.contexts_of_present hx, ho, hd] using hcheck

theorem freezePart_of_not_member (hd : s.cpu.ctx.dpart.toNat ≠ d) : freezePart d code s = s.onHw (frozenHw d) := by
  simp [freezePart_eq, State.contexts_of_present hx, ho, hd]

/-- Whether or not the context is one of the partition's. -/
theorem freezePart_frame : (freezePart d code s).mem = s.mem ∧ (freezePart d code s).cpu.grp = s.cpu.grp ∧
    (freezePart d code s).cpu.hw.parts = (frozenHw d s.cpu.hw).parts := by
  by_cases hd : s.cpu.ctx.dpart.toNat = d
  · rw [freezePart_of_member code ho hx hd]; exact ⟨rfl, rfl, rfl⟩
  · rw [freezePart_of_not_member code ho hx hd]; exact ⟨rfl, rfl, rfl⟩

theorem freezePart_ctx :
    (freezePart d code s).cpu.ctx = { s.cpu.ctx with r1off := s.cpu.ctx.r1off || s.cpu.ctx.dpart.toNat == d } := by
  by_cases hd : s.cpu.ctx.dpart.toNat = d
  · rw [freezePart_of_member code ho hx hd, beq_iff_eq.2 hd, Bool.or_true]; rfl
  · rw [freezePart_of_not_member code ho hx hd, beq_false_of_ne hd, Bool.or_false]; rfl

theorem freezePart_log :
    (freezePart d code s).cpu.hw.log =
      s.cpu.hw.log ++ if s.cpu.ctx.dpart.toNat = d then [⟨sourceOf s.cpu.hw 36, 36, code, ctxId s.cpu.ctx, 0⟩] else [] := by
  by_cases hd : s.cpu.ctx.dpart.toNat = d
  · simp [freezePart_of_member code ho hx hd, checkR1, reportTo, hd]
  · simp [freezePart_of_not_member code ho hx hd, hd]

end

/-! ### The statement -/

/-- Settles O47, clause by clause: each of the steps is one of the operations above, in the case that the clause names. -/
theorem hostAccess : Obligations.HostAccess := by
  unfold Obligations.HostAccess
  intro pa cno part cells s x h src
  refine ⟨fun hpa => ?_, fun hpa => ?_, fun e he hun => ?_, fun hnamed => ⟨fun hx hk => ?_, fun hk hopen => ?_, fun hy hm hc => ?_⟩, ?_,
    fun i code hi hpart ho hx => ?_, fun hw => ?_, fun hx hk => ?_⟩
  · rw [exec_hostMemRead, hostRead_of_not_devicePa s hpa]
  · rw [exec_hostMemRead, hostRead_of_devicePa s hpa]
    exact ⟨_, _, rfl, HwOnly.onHw s _, rfl, mem_insertNew _ _, length_readRow _ _, fun i hi => readRow_getElem? _ _ hi⟩
  · rw [exec_hostMemWrite]
    exact hostWrite_of_unnamed s he hun
  · rw [exec_hostMemWrite]
    exact ⟨_, hostWrite_of_here hnamed hx hk, ⟨rfl, rfl, rfl, rfl, fun _ => rfl⟩, rfl⟩
  · rw [exec_hostMemWrite, ← hostPlaces_eq]
    exact ⟨_, hostWrite_of_elsewhere_open hnamed hk hopen, HwOnly.onHw s _, rfl⟩
  · obtain ⟨hk, hclosed⟩ := forall₂_and.1 hy
    rw [exec_hostMemWrite]
    refine ⟨_, hostWrite_of_elsewhere_closed hnamed hk hclosed, rfl, rfl, rfl, fun a => memByte_hostLand h a hm hc, fun e he hmark => ?_, rfl⟩
    exact List.mem_append_right _ (List.mem_map.2 ⟨_, mem_hostMarked he hmark, rfl⟩)
  · refine ⟨_, exec_hostSnoop pa s, hostSnoop_hwOnly pa s, hostSnoop_of_none_live, fun hlive => ⟨_, hostSnoop_of_live hlive, ?_, ?_⟩⟩
    · exact mem_snoopAwaits_of_held
    · exact mem_snoopAwaits_of_not_held
  · have hexec : exec i s = .next (freezePart part code s) := by
      obtain ⟨rfl, rfl, hw⟩ | ⟨rfl, rfl⟩ := hi
      · rw [exec_progressMonitorTimeout, if_pos hw]
      · exact exec_thermalTrip part s
    rw [hexec]
    obtain ⟨hmem, hgrp, hparts⟩ := freezePart_frame (d := part) code ho hx
    refine ⟨_, rfl, hmem, hgrp, freezePart_ctx code ho hx, fun q hq => ?_, fun p hp => ?_, freezePart_log code ho hx⟩
    · rw [hparts]; exact onPart_parts_self _ hq
    · rw [hparts]; exact onPart_parts_ne h _ hp
  · rw [exec_progressMonitorTimeout, hw]; rfl
  · rw [exec_uncorrectableData, checkContext_of_here 36 3 hx hk]
    exact ⟨_, rfl, rfl, rfl, rfl, rfl⟩

end Sys2Proof.Machine

/-! SUPPORT. The turn of a `launch` (R84, R259), and what a step writes into the log for saved groups (R287, R308); the refutation of O24. -/

namespace Sys2Proof.Machine

/-! ### Attempts on marked lines (R287) -/

theorem logLost_log (ctxid : Word) (lost : List Nat) (h : Module) :
    (logLost ctxid lost h).log = h.log ++ lost.map fun l => ⟨sourceOf h 40, 40, 7, ctxid, BitVec.ofNat 64 l⟩ := by
  induction lost generalizing h with
  | nil => exact (List.append_nil _).symm
  | cons l lost ih => exact (ih _).trans (List.append_assoc _ [_] _)

/-- A saved group that a step changes, where the first line of its image has a translation mark. -/
theorem mem_resaveLost {h : Module} {new : Ctx} {g : Group} {olds news : List Group} {m : Cells} {r : Record} {pa : Nat} (old : Ctx)
    (hg : g ∈ news) (hsaved : isSaved new g = true) (hnew : g ∉ olds) (hr : recordOf h m new.objtb 1 = some r)
    (hpa : translate m r (imageOff g) = .at pa) (hmark : lineOf pa ∈ h.tmarks) : lineOf pa ∈ resaveLost h old new olds news m := by
  have hne : ¬ h.tmarks.isEmpty = true := by
    rw [List.isEmpty_iff]
    exact List.ne_nil_of_mem hmark
  unfold resaveLost lostImages
  rw [if_neg hne, if_neg hne, hr]
  refine List.mem_append_left _ (List.mem_eraseDups.2 (List.mem_flatMap.2 ⟨g, ?_, List.mem_filterMap.2 ⟨0, by simp, ?_⟩⟩))
  · exact List.mem_filter.2 ⟨hg, by simp [hsaved, hnew]⟩
  · simp [hpa, hmark]

/-- A step that changes such a group has written to the log. -/
theorem keepSaved_log_ne {f : State → State} {s : State} {g : Group} {r : Record} {pa : Nat} (hg : g ∈ (f s).cpu.groups)
    (hsaved : isSaved (f s).cpu.ctx g = true) (hnew : g ∉ s.cpu.groups) (hlog : (f s).cpu.hw.log = s.cpu.hw.log)
    (hr : recordOf (f s).cpu.hw (f s).mem (f s).cpu.ctx.objtb 1 = some r) (hpa : translate (f s).mem r (imageOff g) = .at pa)
    (hmark : lineOf pa ∈ (f s).cpu.hw.tmarks) : (s.keepSaved f).cpu.hw.log ≠ s.cpu.hw.log := by
  intro h
  have hnil := (logLost_log _ _ _).symm.trans h
  rw [hlog, List.append_right_eq_self, List.map_eq_nil_iff] at hnil
  exact List.ne_nil_of_mem (mem_resaveLost s.cpu.ctx hg hsaved hnew hr hpa hmark) hnil

/-! ### The turn of a launch (R84, R259) -/

theorem exec_turnPerform (gid : Nat) (s : State) : exec (.turnPerform gid) s = .next (turnStep gid s) := by rfl

theorem turnStep_of_performable {s : State} {e : Entry} (hat : AtTurn s e) (hp : performable s.cpu.hw s.cpu.ctx s.cpu.groups e = true) :
    turnStep e.stamp.gid s = s.keepSaved fun _ => { s with cpu := performEntry s.mem s.cpu e } := by
  obtain ⟨hfind, -, -⟩ := hat
  unfold turnStep State.keepSaved
  simp only [hfind, hp, if_true]

/-- What the answer to its turn makes of a group (R81): only the group that sent the entry goes on. -/
def goneOn (e : Entry) (ok : Bool) (val : Dword) (g : Group) : Group := if g.gid = e.stamp.gid then turnGroup e ok val g else g

@[simp] theorem Cpu.park_grp (c : Cpu) : c.park.grp = Group.none := by unfold Cpu.park; split <;> rfl
@[simp] theorem Cpu.park_hw (c : Cpu) : c.park.hw = c.hw := by unfold Cpu.park; split <;> rfl

theorem Cpu.answer_of_here {c : Cpu} {e : Entry} (ok : Bool) (val : Dword) (hm : e.module = c.hw.number) (hg : c.grp.status = .absent) :
    c.answer e ok val = { c with ctx := { c.ctx with groups := c.ctx.groups.map (goneOn e ok val) } } := by
  unfold Cpu.answer Cpu.onGid Cpu.mapGroups
  rw [if_pos hm, if_pos hg]
  rfl

/-- A launch of a group of this module, with the result d of its turn and no group in hand. -/
def launched (e : Entry) (d : Word × Option Launch) (c : Cpu) : Cpu :=
  { c with ctx := { c.ctx with
      groups := c.ctx.groups.map (goneOn e true (d.1.setWidth 64))
      nextOrd := c.ctx.nextOrd + d.2.toList.length
      launches := c.ctx.launches ++ d.2.toList } }

theorem performLaunch_of_here {c : Cpu} {e : Entry} (r : List Word) (hm : e.module = c.hw.number) (hg : c.grp.status = .absent) :
    performLaunch c e r = launched e (launchTurn c.hw.number c.ctx e r) c := by
  unfold performLaunch
  generalize launchTurn c.hw.number c.ctx e r = d
  obtain ⟨kd, _ | l⟩ := d
  · exact (Cpu.answer_of_here true _ hm hg).trans (by simp [launched])
  · simp only [if_pos hm]
    exact Cpu.answer_of_here true _ hm hg

theorem performEntry_launch {c : Cpu} {e : Entry} {r : List Word} (m : Cells) (hop : e.op = .launch r) (hm : e.module = c.hw.number) :
    let x : Ctx := { c.park.ctx with queue := c.park.ctx.queue.filter fun f => f != e }
    performEntry m c e = launched e (launchTurn c.hw.number x e r) { c.park with ctx := x } := by
  unfold performEntry
  simp only [hop]
  rw [performLaunch_of_here r (by simpa using hm) (by simp [Group.none])]
  simp

/-! ### A stray turn: the context in hand is absent, and its group is out -/

/-- One block of one group, its entry the last word of object 2 (R257). -/
def strayLaunch : List Word := [0xFFC, 0x200, 0, 0, 0x04010001, 0x00100401, 0xFF0000, 0]

def strayEntry : Entry := ⟨⟨100, 0⟩, 64, .system, .launch strayLaunch, 0, 0, 0⟩

/-- A pre-empted group that waits for the turn of its `launch`, whose result goes to k20. -/
def strayGroup : Group :=
  { Group.none with lc := 100, status := .turn ⟨none, some 20, false, 0, 64, 4⟩, preempted := true }

/-- Memory with the record of the image object, object 1: 64 MiB at PA 1000000H (R277, R297). -/
def strayImages : Cells :=
  [(0x10080, 0x31), (0x10081, 0x12), (0x1008B, 0x1), (0x10093, 0x4), (0x1009B, 0x4), (0x100AC, 0x1)]

/-- The context in hand is absent, so that it is none of the module's contexts, but it holds the group and its entry; the first line of the
group's image has a translation mark. -/
def strayTurn : State := { State.reset with
  mem := strayImages
  cpu := { State.reset.cpu with
    hw := { Module.reset with tmarks := [0x1000000] }
    ctx := { Ctx.none with objtb := 0x10001, groups := [strayGroup], queue := [strayEntry] } } }

theorem strayTurn_noneSaved : NoneSaved strayTurn := fun x hx => by
  rw [State.contexts_of_absent rfl] at hx
  exact absurd hx List.not_mem_nil

theorem strayTurn_atTurn : AtTurn strayTurn strayEntry := by unfold AtTurn; decide +kernel

theorem strayTurn_performable :
    performable strayTurn.cpu.hw strayTurn.cpu.ctx strayTurn.cpu.groups strayEntry = true := by decide +kernel

theorem strayTurn_record : (recordOf strayTurn.cpu.hw strayImages 0x10001 1).map (fun r => translate strayImages r (imageOff strayGroup)) =
    some (.at 0x1000000) := by decide +kernel

theorem strayTurn_groups : strayTurn.cpu.groups = [strayGroup] := by rfl

/-- The turn changes the pre-empted group, whose image has the marked line. -/
theorem strayTurn_logs : (turnStep strayEntry.stamp.gid strayTurn).cpu.hw.log ≠ strayTurn.cpu.hw.log := by
  obtain ⟨r, hr, hpa⟩ := Option.map_eq_some_iff.1 strayTurn_record
  rw [turnStep_of_performable strayTurn_atTurn strayTurn_performable,
    performEntry_launch (c := strayTurn.cpu) strayTurn.mem (show strayEntry.op = .launch strayLaunch from rfl) rfl]
  refine keepSaved_log_ne (pa := 0x1000000) (List.mem_singleton.2 rfl) rfl ?_ rfl hr hpa (List.mem_singleton.2 rfl)
  rw [strayTurn_groups, List.mem_singleton]
  exact fun h => Status.noConfusion (congrArg Group.status h)

/-- Refutes O24 by `strayTurn`: an absent context is none of the module's contexts, so that `NoneSaved` holds whatever its groups are, and
`KeepsImages` asks for the log to stay as it was; but the turn of the launch changes a pre-empted group, and the write to its image meets a
marked line, which is logged. -/
theorem not_launchSends : ¬ Obligations.LaunchSends := by
  unfold Obligations.LaunchSends
  rintro ⟨-, hturn⟩
  obtain ⟨t, _, _, _, hexec, -, -, -, himages, -⟩ := hturn strayTurn strayEntry strayLaunch rfl strayTurn_atTurn strayTurn_performable
  obtain rfl : turnStep strayEntry.stamp.gid strayTurn = t := by
    rw [exec_turnPerform] at hexec
    exact Host.Outcome.next.inj hexec
  exact strayTurn_logs (himages strayTurn_noneSaved).2

end Sys2Proof.Machine

/-! SUPPORT. Decode and encode: what the opcode map makes of every word, and the bytes of an instruction (R35, R49, R51, R53; O57). -/

namespace Sys2Proof.Machine

/-! ### The opcode map on the words of the instructions -/

/-- A word is read as its entry of the opcode map reads it (R51). -/
theorem entry_apply {n k : Nat} {f : Word → Instr} {w : Word} {i : Instr} (hf : (opRow n)[k]? = some f) (h : f w = i) :
    ((opRow n)[k]?.getD .unassignedFirstByte) w = i := by
  rw [hf]; exact h

/-- Form T3 (R35): the fields d, a and b. -/
theorem rawDecode_t3 {op d a b : Byte} {k : Byte → Byte → Byte → Instr}
    (h : (opRow (op.toNat / 16))[op.toNat % 16]? = some fun w => k (w.extractLsb' 16 8) (w.extractLsb' 8 8) (w.extractLsb' 0 8)) :
    rawDecode (op ++ d ++ a ++ b) = k d a b := by
  simp (disch := decide) only [rawDecode, BitVec.extractLsb'_append_eq_of_le, BitVec.extractLsb'_eq_self, Nat.reduceSub]
  refine entry_apply h ?_
  simp (disch := decide) only [BitVec.extractLsb'_append_eq_of_le, BitVec.extractLsb'_append_eq_of_add_le,
    BitVec.extractLsb'_eq_self, Nat.reduceSub]

/-- Form T3 with field a reserved. -/
theorem rawDecode_t3_noA {op d b : Byte} {k : Byte → Byte → Instr}
    (h : (opRow (op.toNat / 16))[op.toNat % 16]? = some fun w => k (w.extractLsb' 16 8) (w.extractLsb' 0 8)) :
    rawDecode (op ++ d ++ 0#8 ++ b) = k d b :=
  rawDecode_t3 (k := fun d _ b => k d b) h

/-- The word of an instruction of one word, of an assigned first byte, is read as that instruction, field by field. -/
theorem rawDecode_wordOf {i : Instr} (h : OneWord i) : rawDecode (wordOf i) = i := by
  obtain ⟨hlen, hassigned⟩ := h
  cases i with
  | add | addVk | sub | subVk | mul | mulVk | mulh | mulhVk | mad | madVk | minV | minVk | maxV | maxVk | andV | andVk | orV | orVk
  | xorV | xorVk | andn | andnVk | shl | shlVk | shr | shrVk | sar | sarVk | rot | rotVk | bfx | bfxVk | bfi | bfiVk | sel | selVk
  | cmp | cmpVk | fadd | faddVk | fsub | fsubVk | fmul | fmulVk | fma | fmaVk | fms | fmsVk | fmin | fminVk | fmax | fmaxVk | fcmp
  | fcmpVk | fcvt | fcvtVk | fdot2 | fdot2Vk | idot4 | idot4Vk | pand | por | pxor | shfl | shflVk | kadd | ksub | kmul | kmulh | kand
  | kor | kxor | kshl | kshr | ksar | kmin | kmax | kcmp | ksel | qand | qor | ldB | ldH | ldW | ldD | ldQ | stB | stH | stW | stD
  | stQ | ldsB | ldsH | ldsW | ldsD | ldsQ | stsB | stsH | stsW | stsD | stsQ | radd | rfadd | rmin | rmax | rfmin | rfmax | rand
  | ror | rxor | axchg | acas | aadd | amin | amax | aand | aor | axor | stmc =>
    exact rawDecode_t3 rfl
  | absV | absVk | negV | negVk | notV | notVk | clz | clzVk | popc | popcVk | brev | brevVk | mov | movk | fabs | fabsVk | fneg
  | fnegVk | frnd | frndVk | fclass | fclassVk | frcp | frcpVk | frsq | frsqVk | fsqrt | fsqrtVk | fex2 | fex2Vk | flg2 | flg2Vk
  | ftanh | ftanhVk | pnot | pmov | kmov | qnot | asrt =>
    exact rawDecode_t3_noA rfl
  | movi | kmovi | br | brv | bcast | vote | lsum | lscan | rqmove | ldacq | launch | jmp | call | ret | jmpk | lcadv | cede | rqset
  | fclr | icinv | halt | mkj | mdset | jn | exitI | nop | xfrw | fenceSys | rfe | objfence | mdget | lcrd | mfence | xfrq | fstat
  | tscrd | ldk | stk | pf | strel | objw | waita | bar | bara | barw | mma | mmaz | mwait | acczero | accrd | accwr | accdrain | xfr
  | trap | brkp | csrr | csrw =>
    simp (disch := decide) only [wordOf, encode, List.getLast?_singleton, Option.getD_some, rawDecode, BitVec.extractLsb'_append_eq_of_le,
      BitVec.extractLsb'_eq_self, Nat.reduceSub, Nat.reduceDiv, Nat.reduceMod, BitVec.reduceToNat]
    refine entry_apply rfl ?_
    simp (disch := decide) only [BitVec.extractLsb'_append_eq_of_le, BitVec.extractLsb'_append_eq_of_add_le,
      BitVec.extractLsb'_eq_self, Nat.reduceSub]
  | unassignedFirstByte w => exact absurd rfl (hassigned w)
  | _ => exact absurd hlen (Nat.ne_of_beq_eq_false rfl)

/-- A first byte that R53 leaves unassigned has no instruction in the opcode map. -/
theorem opRow_of_unassigned {op : Nat} (h : unassigned op = true) :
    (opRow (op / 16))[op % 16]?.getD .unassignedFirstByte = .unassignedFirstByte := by
  simp only [unassigned, Bool.or_eq_true, Bool.and_eq_true, decide_eq_true_eq] at h
  obtain ((((((((⟨lo, hi⟩ | ⟨lo, hi⟩) | ⟨lo, hi⟩) | ⟨lo, hi⟩) | h) | h) | h) | h) | h) | h := h
  iterate 4
    · interval_cases op <;> rfl
  all_goals subst h; rfl

theorem firstByte_toNat (w : Word) : (w.extractLsb' 24 8).toNat = w.toNat / 2 ^ 24 := by
  have := w.isLt
  rw [BitVec.extractLsb'_toNat, Nat.shiftRight_eq_div_pow]
  omega

theorem rawDecode_of_unassigned {w : Word} (h : unassigned (w.toNat / 2 ^ 24) = true) : rawDecode w = .unassignedFirstByte w := by
  simp only [rawDecode, firstByte_toNat, opRow_of_unassigned h]

/-- Every entry of the opcode map but that of `lit` is an instruction of one word. -/
theorem length_encode_opRow {op : Nat} (hop : op < 0xFE ∨ op = 0xFF) (w : Word) :
    (encode (((opRow (op / 16))[op % 16]?.getD .unassignedFirstByte) w)).length = 1 := by
  obtain hop | rfl := hop
  · interval_cases op <;> rfl
  · rfl

theorem length_encode_rawDecode {w : Word} (hlit : w.extractLsb' 24 8 ≠ 0xFE#8) : (encode (rawDecode w)).length = 1 := by
  refine length_encode_opRow ?_ w
  have : (w.extractLsb' 24 8).toNat ≠ 0xFE := fun h => hlit (BitVec.eq_of_toNat_eq h)
  omega

theorem encode_eq_of_length {i : Instr} (h : (encode i).length = 1) : encode i = [wordOf i] := by
  obtain ⟨w, hw⟩ := List.length_eq_one_iff.1 h
  simp [wordOf, hw]

/-- The instructions with words: those of one word, the unassigned first bytes, and the `lit` pairs. -/
theorem length_encode_eq_two_iff (i : Instr) : (encode i).length = 2 ↔ ∃ l w, i = .lit l w := by
  constructor
  · intro h
    cases i with
    | lit l w => exact ⟨l, w, rfl⟩
    | _ => exact absurd h (Nat.ne_of_beq_eq_false rfl)
  · rintro ⟨l, w, rfl⟩
    rfl

theorem length_encode_le (i : Instr) : (encode i).length ≤ 2 := by
  cases i <;> exact Nat.le_of_ble_eq_true rfl

theorem encode_cases {i : Instr} (h : encode i ≠ []) : (∃ l w, i = .lit l w) ∨ (∃ w, i = .unassignedFirstByte w) ∨ OneWord i := by
  by_cases hlit : ∃ l w, i = .lit l w
  · exact .inl hlit
  · by_cases hun : ∃ w, i = .unassignedFirstByte w
    · exact .inr (.inl hun)
    · have htwo := mt (length_encode_eq_two_iff i).1 hlit
      have hzero := mt List.length_eq_zero_iff.1 h
      have hle := length_encode_le i
      exact .inr (.inr ⟨by omega, fun w hw => hun ⟨w, hw⟩⟩)

/-! ### One word and its bytes -/

/-- A well-formed word decodes to its instruction (R35, R51). -/
theorem decodeWord_wordOf {i : Instr} (h : OneWord i) : decodeWord (wordOf i) = .ok i := by
  simp only [decodeWord, rawDecode_wordOf h, if_true]

theorem decodeWord_of_unassigned {w : Word} (h : unassigned (w.toNat / 2 ^ 24) = true) : decodeWord w = .ok (.unassignedFirstByte w) := by
  have hword : wordOf (.unassignedFirstByte w) = w := rfl
  simp only [decodeWord, rawDecode_of_unassigned h, hword, if_true]

/-- What decodes to an instruction is its word. -/
theorem wordOf_of_decodeWord {w : Word} {i : Instr} (h : decodeWord w = .ok i) : rawDecode w = i ∧ wordOf i = w := by
  unfold decodeWord at h
  dsimp only at h
  split at h
  · next hw => cases h; exact ⟨rfl, hw⟩
  · cases h

theorem firstByte_lit (l : BitVec 24) : (0xFE#8 ++ l : Word).extractLsb' 24 8 = 0xFE#8 := by
  simp (disch := decide) only [BitVec.extractLsb'_append_eq_of_le, Nat.reduceSub, BitVec.extractLsb'_eq_self]

theorem rest_lit (l : BitVec 24) : (0xFE#8 ++ l : Word).extractLsb' 0 24 = l := by
  simp (disch := decide) only [BitVec.extractLsb'_append_eq_of_add_le, BitVec.extractLsb'_eq_self]

/-- A word of first byte 0xFE is the `lit` of its other bits (R49). -/
theorem lit_eq_of_firstByte {w : Word} (h : w.extractLsb' 24 8 = 0xFE#8) : 0xFE#8 ++ w.extractLsb' 0 24 = w := by
  rw [← h, BitVec.extractLsb'_append_extractLsb'_eq_extractLsb' (by rfl)]
  exact BitVec.extractLsb'_eq_self

/-- An instruction of one word is no `lit`: its first byte is not 0xFE. -/
theorem firstByte_ne_lit {i : Instr} (h : OneWord i) : (wordOf i).extractLsb' 24 8 ≠ 0xFE#8 := by
  intro hop
  have hlit : rawDecode (wordOf i) = .lit ((wordOf i).extractLsb' 0 24) 0 := by
    unfold rawDecode
    simp only [hop]
    rfl
  rw [rawDecode_wordOf h] at hlit
  have hlen := h.1
  rw [hlit] at hlen
  exact absurd hlen (Nat.ne_of_beq_eq_false rfl)

theorem firstByte_ne_lit_of_unassigned {w : Word} (h : unassigned (w.toNat / 2 ^ 24) = true) : w.extractLsb' 24 8 ≠ 0xFE#8 := by
  intro hop
  rw [← firstByte_toNat, hop] at h
  exact absurd h (by decide)

theorem bytesOfWord_wordOfBytes (b0 b1 b2 b3 : Byte) : bytesOfWord (wordOfBytes b0 b1 b2 b3) = [b0, b1, b2, b3] := by
  simp (disch := decide) only [bytesOfWord, wordOfBytes, BitVec.extractLsb'_append_eq_of_le, BitVec.extractLsb'_append_eq_of_add_le,
    Nat.reduceSub, BitVec.extractLsb'_eq_self]

/-- A `lit` takes the word after it, whatever that is (R49). -/
theorem decode_litBytes {v : Word} (hlit : v.extractLsb' 24 8 = 0xFE#8) (w : Word) (rest : List Byte) :
    decode (bytesOfWord v ++ (bytesOfWord w ++ rest)) = .ok (.lit (v.extractLsb' 0 24) w, rest) := by
  simp only [bytesOfWord, decode, List.cons_append, List.nil_append, wordOfBytes_extractLsb']
  rw [if_pos hlit]

theorem encodeBytes_of_length {i : Instr} (h : (encode i).length = 1) : encodeBytes i = bytesOfWord (wordOf i) := by
  simp [encodeBytes, encode_eq_of_length h]

/-! ### Decode and encode (O57) -/

theorem decode_encodeBytes {i : Instr} (rest : List Byte) (hwf : wellFormed i = true) (hne : encode i ≠ []) :
    decode (encodeBytes i ++ rest) = .ok (i, rest) := by
  obtain ⟨l, w, rfl⟩ | ⟨w, rfl⟩ | hone := encode_cases hne
  · have := decode_litBytes (firstByte_lit l) w rest
    simpa [encodeBytes, encode, rest_lit] using this
  · have hop : unassigned (w.toNat / 2 ^ 24) = true := by simpa [wellFormed, namesOk, codesOk] using hwf
    exact decode_bytesOfWord (firstByte_ne_lit_of_unassigned hop) (decodeWord_of_unassigned hop) rest
  · rw [encodeBytes_of_length hone.1]
    exact decode_bytesOfWord (firstByte_ne_lit hone) (decodeWord_wordOf hone) rest

theorem eq_encodeBytes_of_decode {bytes rest : List Byte} {i : Instr} (h : decode bytes = .ok (i, rest)) :
    bytes = encodeBytes i ++ rest ∧ encode i ≠ [] := by
  unfold decode at h
  split at h
  next b0 b1 b2 b3 tail =>
    by_cases hlit : (wordOfBytes b0 b1 b2 b3).extractLsb' 24 8 = 0xFE#8
    · simp only [hlit, if_true] at h
      split at h
      next c0 c1 c2 c3 tail' =>
        cases h
        simp [encodeBytes, encode, lit_eq_of_firstByte hlit, bytesOfWord_wordOfBytes]
      next => cases h
    · simp only [hlit, if_false] at h
      split at h
      next j hj =>
        cases h
        obtain ⟨hraw, hword⟩ := wordOf_of_decodeWord hj
        have hlen : (encode i).length = 1 := hraw ▸ length_encode_rawDecode hlit
        rw [encodeBytes_of_length hlen, hword, bytesOfWord_wordOfBytes]
        exact ⟨rfl, by rintro hnil; simp [hnil] at hlen⟩
      next => cases h
  next => cases h

/-- Settles O57: both directions are shown for one word through the opcode map (R51), and lifted to bytes and to `lit` pairs. -/
theorem decodeEncode : Obligations.DecodeEncode := by
  unfold Obligations.DecodeEncode
  exact ⟨fun _ rest hwf hne => decode_encodeBytes rest hwf hne, fun _ _ _ h => eq_encodeBytes_of_decode h, length_encode_eq_two_iff⟩

end Sys2Proof.Machine

/-! SUPPORT. The uniform words (R155): what the two shared operations leave, and the results as numbers (O14). -/

namespace Sys2Proof.Machine

/-! ### The shared operations -/

/-- The destination of a uniform word that issues is a register that names reach (R37, R300). -/
theorem kDst_reached {g : Group} {d : BitVec 8} (hd : kWrite d = true) (hw : g.inWin = true → kIn d = true) :
    d.toNat < 160 ∧ (g.inWin = true → d.toNat < 32) := by
  simp only [kWrite, kIn, decide_eq_true_eq, Bool.or_eq_true] at hd hw
  exact ⟨hd, fun h => by have := hw h; omega⟩

theorem toNat_lt_of_pDst {d : BitVec 8} (h : pDst d = true) : d.toNat < 7 := of_decide_eq_true h

/-- A word that issues names legal registers (R54). -/
theorem namesOk_of_issues {i : Instr} {g : Group} (h : Issues i g) : namesOk i = true := (Bool.and_eq_true_iff.1 h.1).1

/-- A word that writes a uniform register retires, and the register holds the value. -/
theorem uniOp_did {i : Instr} {d : BitVec 8} {f : Group → Word} {s : State} (h : Issues i s.cpu.grp) (hd : kWrite d = true)
    (hw : s.cpu.grp.inWin = true → kIn d = true) :
    ∃ t, issue noPre (uniOp d f) i s = .next t ∧ Did i [.k d.toNat] s t ∧ t.cpu.grp.readK d = f s.cpu.grp := by
  obtain ⟨hlt, hwin⟩ := kDst_reached hd hw
  refine ⟨_, issue_of_issues h rfl, did_retire (Group.sameGroup_writeK _ d _) (by simp) (by simp), ?_⟩
  exact Group.readK_writeK_self s.cpu.grp (f s.cpu.grp) hlt hwin

/-- A word that writes a uniform predicate retires, and the predicate holds the value. -/
theorem uniQ_did {i : Instr} {d : BitVec 8} {f : Group → Bool} {n : Nat} {s : State} (h : Issues i s.cpu.grp) (hn : n < 7)
    (hd : d.toNat % 8 = n) :
    ∃ t, issue noPre (uniQ d f) i s = .next t ∧ Did i [.q n] s t ∧ t.cpu.grp.readQ n = f s.cpu.grp := by
  subst hd
  exact ⟨_, issue_of_issues h rfl, did_retire (Group.sameGroup_writeQ _ d.toNat _) (by simp) (by simp),
    Group.readQ_writeQ_self s.cpu.grp (f s.cpu.grp) hn⟩

/-! ### The results -/

/-- The value that a uniform word of two sources writes. -/
def UniOp.value (o : UniOp) (a b : Word) : Word :=
  match o with
  | .add => a + b
  | .sub => a - b
  | .mul => a * b
  | .mulh => kMulh a b
  | .and => a &&& b
  | .or => a ||| b
  | .xor => a ^^^ b
  | .shl => kShl a b
  | .shr => kShr a b
  | .sar => kSar a b
  | .min => if a.toInt ≤ b.toInt then a else b
  | .max => if a.toInt ≤ b.toInt then b else a

theorem exec_uniOp (o : UniOp) (d a b : BitVec 8) (s : State) :
    exec (o.word d a b) s = issue noPre (uniOp d fun g => o.value (g.readK a) (g.readK b)) (o.word d a b) s := by
  cases o <;> rfl

theorem kWrite_of_issues {o : UniOp} {d a b : BitVec 8} {g : Group} (h : Issues (o.word d a b) g) :
    kWrite d = true ∧ (g.inWin = true → kIn d = true) := by
  obtain ⟨hwf, hwin⟩ := h
  cases o <;> simp_all [UniOp.word, wellFormed, namesOk, windowOk]

theorem toNat_kShl (a b : Word) : (kShl a b).toNat = a.toNat * 2 ^ b.toNat % 2 ^ 32 := by
  unfold kShl
  split
  · next h =>
    obtain ⟨k, hk⟩ := Nat.exists_eq_add_of_le h
    rw [hk, Nat.pow_add, Nat.mul_left_comm, Nat.mul_mod_right]
    rfl
  · rw [BitVec.toNat_shiftLeft, Nat.shiftLeft_eq]

theorem toNat_kShr (a b : Word) : (kShr a b).toNat = a.toNat / 2 ^ b.toNat := by
  unfold kShr
  split
  · next h =>
    exact (Nat.div_eq_of_lt (lt_of_lt_of_le a.isLt (Nat.pow_le_pow_right (by decide) h))).symm
  · rw [BitVec.toNat_ushiftRight, Nat.shiftRight_eq_div_pow]

/-- A shift of 31 or more leaves copies of the sign. -/
theorem toInt_div_pow (a : Word) {n : Nat} (h : 31 ≤ n) : a.toInt / 2 ^ n = if a.toInt < 0 then -1 else 0 := by
  have hlo : -2 ^ 31 ≤ a.toInt := BitVec.le_toInt a
  have hhi : a.toInt < 2 ^ 31 := BitVec.toInt_lt
  have hpow : (2 : Int) ^ 31 ≤ 2 ^ n := pow_le_pow_right₀ (by decide) h
  split
  · exact (Int.ediv_emod_unique (r := a.toInt + 2 ^ n) (by omega)).2 ⟨by ring, by omega, by omega⟩ |>.1
  · exact Int.ediv_eq_zero_of_lt (by omega) (by omega)

theorem toInt_kSar (a b : Word) : (kSar a b).toInt = a.toInt / 2 ^ b.toNat := by
  unfold kSar
  rw [BitVec.toInt_sshiftRight, Int.shiftRight_eq_div_pow]
  push_cast
  obtain h | h := Nat.lt_or_ge b.toNat 31
  · rw [Nat.min_eq_left (by omega)]
  · rw [Nat.min_eq_right h, toInt_div_pow a h, toInt_div_pow a (Nat.le_refl 31)]

/-- The high half of a doubleword, as a signed number. -/
theorem toInt_high (x : Dword) : (x.extractLsb' 32 32).toInt = x.toInt / 2 ^ 32 := by
  have hx := x.isLt
  have hn : (x.extractLsb' 32 32).toNat = x.toNat / 2 ^ 32 := by
    rw [BitVec.extractLsb'_toNat, Nat.shiftRight_eq_div_pow]; omega
  rw [BitVec.toInt_eq_toNat_cond, BitVec.toInt_eq_toNat_cond, hn]
  split <;> split <;> omega

theorem toInt_kMulh (a b : Word) : (kMulh a b).toInt = a.toInt * b.toInt / 2 ^ 32 := by
  have ha : -2 ^ 31 ≤ a.toInt ∧ a.toInt < 2 ^ 31 := ⟨BitVec.le_toInt a, BitVec.toInt_lt⟩
  have hb : -2 ^ 31 ≤ b.toInt ∧ b.toInt < 2 ^ 31 := ⟨BitVec.le_toInt b, BitVec.toInt_lt⟩
  have hlo : -2 ^ 62 ≤ a.toInt * b.toInt := by nlinarith
  have hhi : a.toInt * b.toInt ≤ 2 ^ 62 := by nlinarith
  have hprod : (a.signExtend 64 * b.signExtend 64).toInt = a.toInt * b.toInt := by
    rw [BitVec.toInt_mul, BitVec.toInt_signExtend_of_le (by decide), BitVec.toInt_signExtend_of_le (by decide)]
    exact Int.bmod_eq_of_le (by norm_num; omega) (by norm_num; omega)
  rw [kMulh, toInt_high, hprod]

theorem UniOp.result_value (o : UniOp) (a b : Word) : o.Result a b (o.value a b) := by
  cases o with
  | add => exact BitVec.toNat_add a b
  | sub => simp only [Result, value, BitVec.toNat_sub]; have := a.isLt; have := b.isLt; omega
  | mul => exact BitVec.toNat_mul a b
  | mulh => exact toInt_kMulh a b
  | and => intro k hk; exact BitVec.getLsbD_and
  | or => intro k hk; exact BitVec.getLsbD_or
  | xor => intro k hk; exact BitVec.getLsbD_xor
  | shl => exact toNat_kShl a b
  | shr => exact toNat_kShr a b
  | sar => exact toInt_kSar a b
  | min => simp only [Result, value]; split <;> omega
  | max => simp only [Result, value]; split <;> omega

/-- A condition of `kcmp` by its code (R48). -/
def kcmpHolds (c : Nat) (x y : Word) : Bool :=
  match c with
  | 0 => decide (x = y)
  | 1 => decide (x ≠ y)
  | 2 => x.slt y
  | 3 => x.sle y
  | 4 => y.slt x
  | 5 => y.sle x
  | 6 => x.ult y
  | 7 => x.ule y
  | 8 => y.ult x
  | _ => y.ule x

theorem kCond_eq (d : BitVec 8) (x y : Word) : kCond d x y = kcmpHolds (d.toNat / 16) x y := by
  unfold kCond condHolds kcmpHolds
  generalize d.toNat / 16 = c
  obtain _ | _ | _ | _ | _ | _ | _ | _ | _ | c := c
  · simp [BitVec.toNat_eq, beq_eq_decide]
  · simp [BitVec.toNat_eq, bne, beq_eq_decide]
  all_goals simp [BitVec.slt, BitVec.sle, BitVec.ult, BitVec.ule]

/-- Settles O14: each word is one of the two shared operations, and its value is that of R155. -/
theorem uniformWords : Obligations.UniformWords := by
  unfold Obligations.UniformWords
  intro d a b imm s g
  refine ⟨fun o h => ?_, fun h => ?_, fun h => ?_, fun h => ?_, fun h => ?_, fun h => ?_, fun h => ?_, fun h => ?_⟩
  · obtain ⟨hd, hw⟩ := kWrite_of_issues h
    obtain ⟨t, ht, hdid, hval⟩ := uniOp_did (f := fun g => o.value (g.readK a) (g.readK b)) h hd hw
    exact ⟨t, (exec_uniOp o d a b s).trans ht, hdid, hval ▸ o.result_value _ _⟩
  · obtain ⟨hd, -⟩ : kWrite d = true ∧ kRead b = true := by simpa [namesOk] using namesOk_of_issues h
    exact uniOp_did h hd fun hin => (Bool.and_eq_true_iff.1 (h.2 hin)).1
  · obtain ⟨t, ht, hdid, hval⟩ := uniOp_did (d := d) (f := fun _ => imm.signExtend 32) h (namesOk_of_issues h) h.2
    exact ⟨t, ht, hdid, by rw [hval]; exact BitVec.toInt_signExtend_of_le (by decide)⟩
  · obtain ⟨⟨hd, -⟩, -⟩ : (kWrite d = true ∧ kRead a = true) ∧ pSrc b = true := by simpa [namesOk] using namesOk_of_issues h
    exact uniOp_did h hd fun hin => (Bool.and_eq_true_iff.1 (h.2 hin)).1
  · obtain ⟨⟨hd, -⟩, -⟩ : (pDstLow d = true ∧ kRead a = true) ∧ kRead b = true := by simpa [namesOk] using namesOk_of_issues h
    have hn : d.toNat % 16 < 7 := by simpa [pDstLow] using hd
    obtain ⟨t, ht, hdid, hval⟩ := uniQ_did (d := d) (f := fun g => kCond d (g.readK a) (g.readK b)) h hn (by omega)
    exact ⟨t, ht, hdid, hval.trans (kCond_eq d _ _)⟩
  · obtain ⟨⟨hd, -⟩, -⟩ : (pDst d = true ∧ pSrc a = true) ∧ pSrc b = true := by simpa [namesOk] using namesOk_of_issues h
    have hn := toNat_lt_of_pDst hd
    exact uniQ_did h hn (by omega)
  · obtain ⟨⟨hd, -⟩, -⟩ : (pDst d = true ∧ pSrc a = true) ∧ pSrc b = true := by simpa [namesOk] using namesOk_of_issues h
    have hn := toNat_lt_of_pDst hd
    exact uniQ_did h hn (by omega)
  · obtain ⟨hd, -⟩ : pDst d = true ∧ pSrc b = true := by simpa [namesOk] using namesOk_of_issues h
    have hn := toNat_lt_of_pDst hd
    exact uniQ_did h hn (by omega)

end Sys2Proof.Machine

/-! SUPPORT. Fetch and the choice of the next step (R34, R49, R80): the group in hand runs what its bytes decode to (O55). -/

namespace Sys2Proof.Machine

/-! ### The words that a fetch reads -/

/-- Bytes of a code object that are homed here and hold what is listed (R34). -/
def CodeBytes (s : State) (r : Record) (off : Nat) (bytes : List Byte) : Prop :=
  ∀ k < bytes.length, homedAway s.cpu.hw r (off + k) = none ∧ bytes[k]? = some (codeByteHere s.cpu.hw s.cpu.ctx s.mem r (off + k))

theorem codeByte_of_here {s : State} {r : Record} {off : Nat} {x : Byte} (h : homedAway s.cpu.hw r off = none)
    (hx : some x = some (codeByteHere s.cpu.hw s.cpu.ctx s.mem r off)) : codeByte s.cpu.hw s.cpu.ctx s.mem s.cpu.grp r off = x := by
  simp only [codeByte, h, Option.isSome_none, Bool.false_eq_true, if_false]
  exact (Option.some.inj hx).symm

theorem CodeBytes.tail {s : State} {r : Record} {off : Nat} {b0 b1 b2 b3 : Byte} {bytes : List Byte}
    (h : CodeBytes s r off (b0 :: b1 :: b2 :: b3 :: bytes)) : CodeBytes s r (off + 4) bytes := by
  intro k hk
  obtain ⟨hhome, hbyte⟩ := h (k + 4) (by simpa using hk)
  rw [show off + (k + 4) = off + 4 + k by omega] at hhome hbyte
  exact ⟨hhome, by simpa using hbyte⟩

theorem codeWord_eq {s : State} {r : Record} {off : Nat} {b0 b1 b2 b3 : Byte} {bytes : List Byte}
    (h : CodeBytes s r off (b0 :: b1 :: b2 :: b3 :: bytes)) :
    codeWord s.cpu.hw s.cpu.ctx s.mem s.cpu.grp r off = wordOfBytes b0 b1 b2 b3 := by
  have hbyte : ∀ k x, (b0 :: b1 :: b2 :: b3 :: bytes)[k]? = some x → k < 4 →
      codeByte s.cpu.hw s.cpu.ctx s.mem s.cpu.grp r (off + k) = x :=
    fun k x hx hk => codeByte_of_here (h k (by simp; omega)).1 (hx.symm.trans (h k (by simp; omega)).2)
  simp only [codeWord, hbyte 0 b0 rfl, hbyte 1 b1 rfl, hbyte 2 b2 rfl, hbyte 3 b3 rfl, Nat.reduceLT]

/-- No line of these bytes is asked of another module (R343). -/
theorem missingLines_code {s : State} {r : Record} {off n : Nat} (hoff : off + n ≤ 2 ^ 40)
    (h : ∀ k < n, homedAway s.cpu.hw r (off + k) = none) :
    missingLines s.cpu r (span (vaOf r.obj off) n) = [] := by
  refine missingLines_nil fun a ha => .inl ?_
  obtain ⟨hlo, hhi⟩ := (mem_span _ _ _).1 ha
  have hva : vaOf r.obj off = r.obj % 2 ^ 24 * 2 ^ 40 + off := by
    have hlt : off < 2 ^ 40 := by omega
    unfold vaOf wrapI
    rw [← Int.natCast_mod, Int.toNat_natCast, Nat.mod_eq_of_lt hlt]
  have hvo : vaOff a = off + (a - vaOf r.obj off) := by
    unfold vaOff
    omega
  rw [hvo]
  exact h _ (by omega)

/-- Bytes that decode are fetched as their instruction (R34, R49); a word with a reserved bit set is fetched as its trap (R54). -/
theorem fetch_of_fetches {s : State} {bytes : List Byte} (hlen : bytes.length = 4 ∨ bytes.length = 8) (hf : Fetches s bytes) :
    (∀ i rest, decode bytes = .ok (i, rest) → fetch s.cpu s.mem = .instr i) ∧
    ∀ code w, decode bytes = .error (.reservedBit code w) → fetch s.cpu s.mem = .trap w none (illegalTrap s.cpu.grp code) := by
  obtain ⟨halign, r, hr, hext, hperm, hmode, hblock, hbytes⟩ := hf
  obtain ⟨hmax, -⟩ := record_ext hr
  have hcode : CodeBytes s r (baseOff s.cpu.grp.pc) bytes := hbytes
  obtain _ | ⟨b0, _ | ⟨b1, _ | ⟨b2, _ | ⟨b3, tail⟩⟩⟩⟩ := bytes
  iterate 4 simp at hlen
  simp only [List.length_cons] at hlen hext
  have h4 : ¬ r.ext < baseOff s.cpu.grp.pc + 4 := by omega
  have hfree := hblock 0 (by simp) rfl
  have hmiss := missingLines_code (s := s) (r := r) (off := baseOff s.cpu.grp.pc) (n := 4) (by omega) fun k hk => (hcode k (by simp; omega)).1
  simp only [Nat.add_zero] at hfree
  unfold fetch
  simp only [halign, hr, h4, hperm, hmode, hfree, hmiss, codeWord_eq hcode, ne_eq, not_true_eq_false, if_false,
    Bool.not_true, Bool.false_eq_true]
  simp only [decode]
  by_cases hlit : (wordOfBytes b0 b1 b2 b3).extractLsb' 24 8 = 0xFE#8
  · simp only [hlit, if_true]
    obtain _ | ⟨c0, _ | ⟨c1, _ | ⟨c2, _ | ⟨c3, tail'⟩⟩⟩⟩ := tail
    case cons.cons.cons.cons =>
      have h8 : ¬ r.ext < baseOff s.cpu.grp.pc + 8 := by simp at hext; omega
      have hfree' := hblock 4 (by simp) rfl
      have hmiss' := missingLines_code (s := s) (r := r) (off := baseOff s.cpu.grp.pc + 4) (n := 4) (by omega)
        fun k hk => (hcode.tail k (by simp; omega)).1
      push_cast at hmiss'
      simp only [h8, hfree', hmiss', codeWord_eq hcode.tail, if_false]
      exact ⟨fun i rest h => by cases h; rfl, fun code w h => nomatch h⟩
    all_goals exact ⟨fun i rest h => (nomatch h), fun code w h => nomatch h⟩
  · simp only [hlit, if_false]
    cases hd : decodeWord (wordOfBytes b0 b1 b2 b3) with
    | ok j => exact ⟨fun i rest h => by cases h; rfl, fun code w h => nomatch h⟩
    | error e => exact ⟨fun i rest h => (nomatch h), fun code w h => by cases h; rfl⟩

/-! ### The choice of the group in hand (R80, R92) -/

theorem mem_putGroup_self (l : List Group) (g : Group) : g ∈ putGroup l g := by
  induction l with
  | nil => simp [putGroup]
  | cons h t ih => unfold putGroup; split <;> [simp; (split <;> simp [ih])]

/-- The lower of the best stamp so far and the next one, as `nextGroup` keeps it. -/
def lowerStamp (best : Option Stamp) (g : Group) : Option Stamp :=
  match best with
  | none => some g.stamp
  | some b => if Stamp.lt g.stamp b then some g.stamp else some b

theorem Stamp.lt_iff (a b : Stamp) : Stamp.lt a b = true ↔ a.lc < b.lc ∨ a.lc = b.lc ∧ a.gid < b.gid := by simp [Stamp.lt]

theorem Stamp.lt_irrefl (a : Stamp) : Stamp.lt a a = false := by simp [Stamp.lt]

theorem Stamp.lt_asymm_of_lt {a b st : Stamp} (hab : Stamp.lt a b = true) (hb : Stamp.lt st b = false) : Stamp.lt st a = false := by
  rw [Bool.eq_false_iff, Ne, Stamp.lt_iff] at hb ⊢
  rw [Stamp.lt_iff] at hab
  omega

/-- Where every stamp of another gid is above a stamp, the fold that keeps the lowest stops at that gid once it has met the stamp. -/
theorem foldl_lowerStamp (st : Stamp) (l : List Group) (best : Option Stamp) (hl : ∀ g ∈ l, g.gid = st.gid ∨ Stamp.lt st g.stamp = true)
    (hb : ∀ b ∈ best, b.gid = st.gid ∨ Stamp.lt st b = true)
    (hmet : (∃ g ∈ l, g.stamp = st) ∨ ∃ b ∈ best, Stamp.lt st b = false) :
    (l.foldl lowerStamp best).map (fun t => t.gid) = some st.gid := by
  induction l generalizing best with
  | nil =>
    obtain ⟨g, hg, -⟩ | ⟨b, hbest, hle⟩ := hmet
    · cases hg
    · obtain h | h := hb b hbest
      · obtain rfl : best = some b := hbest
        simp [h]
      · rw [hle] at h
        cases h
  | cons g l ih =>
    have hg := hl g (by simp)
    refine ih (lowerStamp best g) (fun x hx => hl x (by simp [hx])) ?_ ?_
    · intro b hbest
      unfold lowerStamp at hbest
      split at hbest
      · cases hbest; exact hg
      · split at hbest
        · cases hbest; exact hg
        · exact hb b hbest
    · obtain ⟨x, hx, hst⟩ | ⟨b, rfl, hle⟩ := hmet
      · obtain rfl | hx := List.mem_cons.1 hx
        · refine .inr ?_
          unfold lowerStamp
          split
          · exact ⟨_, rfl, by rw [hst]; exact Stamp.lt_irrefl st⟩
          · split
            · exact ⟨_, rfl, by rw [hst]; exact Stamp.lt_irrefl st⟩
            · next hnot => exact ⟨_, rfl, by rw [← hst]; exact Bool.eq_false_iff.2 hnot⟩
        · exact .inl ⟨x, hx, hst⟩
      · refine .inr ?_
        simp only [lowerStamp]
        split
        · next hlt => exact ⟨_, rfl, Stamp.lt_asymm_of_lt hlt hle⟩
        · exact ⟨b, rfl, hle⟩

theorem Cpu.groups_of_present {c : Cpu} (h : c.grp.status ≠ .absent) : c.groups = putGroup c.ctx.groups c.grp := by
  simp [Cpu.groups, Cpu.park, h]

section
variable {s : State} (h : IssuesNext s)
include h

theorem nextGroup_of_issuesNext : nextGroup s.cpu = some s.cpu.grp.gid := by
  obtain ⟨hrun, hpre, hlc⟩ := h.group
  have hmay : mayIssue (legTop s.cpu.ctx) s.cpu.grp = true := by simp [mayIssue, hrun, hpre, legTop, hlc]
  have hmem : s.cpu.grp ∈ s.cpu.groups := by
    rw [Cpu.groups_of_present (by simp [hrun])]
    exact mem_putGroup_self _ _
  refine foldl_lowerStamp s.cpu.grp.stamp _ none (fun g hg => ?_) (by simp) (.inl ⟨_, List.mem_filter.2 ⟨hmem, hmay⟩, rfl⟩)
  obtain ⟨hg, hgmay⟩ := List.mem_filter.1 hg
  by_cases hgid : g.gid = s.cpu.grp.gid
  · exact .inl hgid
  · refine .inr (h.first g hg ?_ hgid)
    simp only [mayIssue, Bool.and_eq_true, beq_iff_eq] at hgmay
    exact hgmay.1.1

theorem ctxRuns_of_issuesNext : ctxRuns s.cpu.hw s.cpu.ctx = true := by
  have hthaw := h.thawed
  unfold ctxRuns
  cases hq : s.cpu.hw.parts[s.cpu.ctx.dpart.toNat]? with
  | none => simp [h.context]
  | some q => simp [h.context, hthaw q hq]

theorem takeCtx_of_issuesNext : s.takeCtx needsImages = none := by
  have hx : s.cpu.ctx.status ≠ .absent := by simp [h.context]
  have hhere : needsImages s.cpu.ctx = false := by simp [needsImages, isOut, h.context]
  have hothers : s.parkCtx.others.find? needsImages = none := by
    simpa [List.find?_eq_none, State.mem_parkCtx_others] using h.images
  simp only [State.takeCtx, hhere, hothers, Bool.and_false, Bool.false_eq_true, if_false]

theorem schedule_of_issuesNext : schedule s = issueStep s.cpu.grp.gid s := by
  have hwork : hasWork s.mem s.cpu = true := by simp [hasWork, ctxRuns_of_issuesNext h, nextGroup_of_issuesNext h]
  simp only [schedule, h.inputs, h.events, List.isEmpty_nil, Bool.not_true, Bool.false_eq_true, if_false,
    takeCtx_of_issuesNext h, hwork, if_true,
    ctxStep, h.overlay, h.agents, nextGroup_of_issuesNext h]

theorem take_of_issuesNext : s.cpu.take s.cpu.grp.gid = s.cpu := by simp [Cpu.take, h.group.1]

end

/-- A fetch leaves its translations in the directory of R284, and changes nothing else. -/
theorem fetchTouch_eq (m : Cells) (c : Cpu) : ∃ d, fetchTouch m c = { c with hw := { c.hw with dir := d } } := by
  unfold fetchTouch
  split
  · exact ⟨_, rfl⟩
  · exact ⟨c.hw.dir, rfl⟩

theorem fillAt_of_no_badSlots (i : Instr) {c : Cpu} (h : c.grp.badSlots = []) : fillAt i c = c := by simp [fillAt, h]

/-- Settles O55: the scheduler reaches the group in hand, its fetch finds what the bytes decode to, and an input comes first. -/
theorem stepRunsDecoded : Obligations.StepRunsDecoded := by
  unfold Obligations.StepRunsDecoded
  refine fun s => ⟨fun h hfaults bytes hlen hf => ?_, fun i rest hin => ?_⟩
  · obtain ⟨hok, hreserved⟩ := fetch_of_fetches hlen hf
    obtain ⟨d, hd⟩ := fetchTouch_eq s.mem s.cpu
    refine ⟨fun i rest hdec => ⟨d, ?_⟩, fun code w hdec => ⟨d, ?_⟩⟩
    · have hfill := fillAt_of_no_badSlots i (c := { s.cpu with hw := { s.cpu.hw with dir := d } }) h.slots
      simp only [step, schedule_of_issuesNext h, issueStep, take_of_issuesNext h, hfaults, hok i rest hdec, hd, hfill]
    · simp only [step, schedule_of_issuesNext h, issueStep, take_of_issuesNext h, hfaults, hreserved code w hdec, hd]
      rfl
  · simp only [step, schedule, hin]

end Sys2Proof.Machine

/-! SUPPORT. Every word of an assigned first byte is issued: illegal words and pairs trap (R49, R53, R54; O18), and the privilege check of
`xfr` comes before the window's (R238, R249, R300; O19). -/

namespace Sys2Proof.Machine

/-- Every word of an assigned first byte is issued, so the checks of its operands come before anything else (R54). -/
theorem exec_eq_issue {i : Instr} (h : OneWord i) (s : State) : ∃ pre k, exec i s = issue pre k i s := by
  obtain ⟨hlen, hassigned⟩ := h
  cases i with
  | add | addVk | sub | subVk | mul | mulVk | mulh | mulhVk | mad | madVk | minV | minVk | maxV | maxVk | andV | andVk | orV | orVk
  | xorV | xorVk | andn | andnVk | shl | shlVk | shr | shrVk | sar | sarVk | rot | rotVk | bfx | bfxVk | bfi | bfiVk | sel | selVk
  | cmp | cmpVk | fadd | faddVk | fsub | fsubVk | fmul | fmulVk | fma | fmaVk | fms | fmsVk | fmin | fminVk | fmax | fmaxVk | fcmp
  | fcmpVk | fcvt | fcvtVk | fdot2 | fdot2Vk | idot4 | idot4Vk | pand | por | pxor | shfl | shflVk | kadd | ksub | kmul | kmulh | kand
  | kor | kxor | kshl | kshr | ksar | kmin | kmax | kcmp | ksel | qand | qor | ldB | ldH | ldW | ldD | ldQ | stB | stH | stW | stD
  | stQ | ldsB | ldsH | ldsW | ldsD | ldsQ | stsB | stsH | stsW | stsD | stsQ | radd | rfadd | rmin | rmax | rfmin | rfmax | rand
  | ror | rxor | axchg | acas | aadd | amin | amax | aand | aor | axor | stmc | absV | absVk | negV | negVk | notV | notVk | clz
  | clzVk | popc | popcVk | brev | brevVk | mov | movk | fabs | fabsVk | fneg | fnegVk | frnd | frndVk | fclass | fclassVk | frcp
  | frcpVk | frsq | frsqVk | fsqrt | fsqrtVk | fex2 | fex2Vk | flg2 | flg2Vk | ftanh | ftanhVk | pnot | pmov | kmov | qnot | asrt
  | movi | kmovi | br | brv | bcast | vote | lsum | lscan | rqmove | ldacq | launch | jmp | call | ret | jmpk | lcadv | cede | rqset
  | fclr | icinv | halt | mkj | mdset | jn | exitI | nop | xfrw | fenceSys | rfe | objfence | mdget | lcrd | mfence | xfrq | fstat
  | tscrd | ldk | stk | pf | strel | objw | waita | bar | bara | barw | mma | mmaz | mwait | acczero | accrd | accwr | accdrain | xfr
  | trap | brkp | csrr | csrw =>
    exact ⟨_, _, rfl⟩
  | unassignedFirstByte w => exact absurd rfl (hassigned w)
  | _ => exact absurd hlen (Nat.ne_of_beq_eq_false rfl)

/-- The check that fails in an illegal word: its names, else its codes (R54). -/
theorem illegalCode_of_not_wellFormed {i : Instr} (h : wellFormed i = false) : illegalCode i = some (if namesOk i then 5 else 3) := by
  unfold illegalCode
  unfold wellFormed at h
  cases hn : namesOk i with
  | false => rfl
  | true =>
    rw [hn, Bool.true_and] at h
    simp [h]

theorem exec_illegal {i : Instr} {s : State} (h : OneWord i) (hwf : wellFormed i = false) :
    ∃ t, exec i s = .next t ∧ TakesTrap (wordOf i) none (atPc s.cpu.grp 1 (if namesOk i then 5 else 3)) 0 s t := by
  obtain ⟨pre, k, hexec⟩ := exec_eq_issue h s
  refine ⟨_, hexec, ?_⟩
  rw [issueCpu_illegal (illegalCode_of_not_wellFormed hwf)]
  exact takesTrap _ _ _ _ s

theorem litOp_unassigned {l : BitVec 24} {w : Word} (h : unassigned (w.extractLsb' 24 8).toNat = true) (m : Cells) (c : Cpu) :
    litOp l w m c = c.trapWith w (some l) (illegalTrap c.grp 1) 0 := by
  simp only [litOp, h, if_true]

/-- A `lit` before a word that takes none, and one that is wider than the immediate of a W word (R49). -/
theorem litOp_wrongLit {l : BitVec 24} {w : Word} (h : unassigned (w.extractLsb' 24 8).toNat = false)
    (hform : litForm (w.extractLsb' 24 8).toNat = none ∨ litForm (w.extractLsb' 24 8).toNat = some .w ∧ l.extractLsb' 16 8 ≠ 0)
    (m : Cells) (c : Cpu) : litOp l w m c = c.trapWith w (some l) (illegalTrap c.grp 2) 0 := by
  simp only [litOp, h, Bool.false_eq_true, if_false]
  obtain hnone | ⟨hw, hl⟩ := hform
  · rw [hnone]
  · rw [hw]
    exact if_pos (by simpa using hl)

/-- Settles O18: each of the five answers is the shared trap; an illegal word is refused at issue whatever the word is. -/
theorem illegalWordsAndFetchTrap : Obligations.IllegalWordsAndFetchTrap := by
  unfold Obligations.IllegalWordsAndFetchTrap
  intro i l ol w s
  refine ⟨exec_illegal, ⟨_, rfl, takesTrap _ _ _ _ s⟩, ⟨_, rfl, takesTrap _ _ _ _ s⟩, fun hun => ⟨_, rfl, ?_⟩, fun hun hform => ⟨_, rfl, ?_⟩⟩
  · rw [litOp_unassigned hun]
    exact takesTrap _ _ _ _ s
  · rw [litOp_wrongLit hun hform]
    exact takesTrap _ _ _ _ s

/-! ### `xfr` in the trap window -/

/-- A group at user level in the trap window, with k0 = 0, and a template 0 at PA 0 whose DIR is 2, a system copy (R223). -/
def userSystemCopy : State where
  cpu := { grp := { Group.none with inWin := true }, ctx := { Ctx.none with tmplb := 1 }, hw := Module.reset }
  others := []
  mem := [(3, 0x40)]
  inputs := []

/-- `xfr` with its parameters from k40 on, which the window lacks: the privilege check of its template comes first (R238, R249). -/
theorem exec_xfr_userSystemCopy : exec (.xfr 0 0 40) userSystemCopy =
    .next { userSystemCopy with cpu := userSystemCopy.cpu.trap ⟨.xfr 0 0 40, none⟩ (privTrap userSystemCopy.cpu.grp) } := by
  have hpre : xfrPre 0 userSystemCopy.mem userSystemCopy.cpu.ctx userSystemCopy.cpu.grp = some (privTrap userSystemCopy.cpu.grp) := by decide
  exact congrArg (fun c => Host.Outcome.next { userSystemCopy with cpu := c }) (issueCpu_pre (w := ⟨.xfr 0 0 40, none⟩) rfl hpre)

/-- Refutes O19: the list of words that need system level leaves out `xfr` of a system copy (R249). One that names k40 in the trap window,
at user level, raises the privilege fault, so the nested trap is logged with class 7, where the statement has class 6. -/
theorem not_privilegeWindowAndModeFaults : ¬ Obligations.PrivilegeWindowAndModeFaults := by
  unfold Obligations.PrivilegeWindowAndModeFaults
  intro h
  obtain ⟨-, hwindow, -⟩ := h (.xfr 0 0 40) 0 0 (.v 0) userSystemCopy
  obtain ⟨t, hexec, -, -, hlog⟩ := hwindow rfl rfl rfl id
  obtain rfl : _ = t := Host.Outcome.next.inj (exec_xfr_userSystemCopy.symm.trans hexec)
  obtain ⟨⟨-, hpriv⟩, -⟩ := (takesTrap (wordOf (.xfr 0 0 40)) none (privTrap userSystemCopy.cpu.grp) 0 userSystemCopy).nested rfl
  have hsame := hpriv.symm.trans hlog
  simp [privTrap, pcTrap] at hsame

end Sys2Proof.Machine

/-! SUPPORT. `ld`: what the shared operation leaves where every lane passes its checks (R119, R174, R176, R303, R347), with a `lit` or without
(O27, O40). -/

namespace Sys2Proof.Machine

/-! ### The word -/

/-- The five loads are one operation. -/
theorem exec_loadWord {size : Nat} (h : size ∈ sizes) (d a b : BitVec 8) (s : State) :
    exec (loadWord size d a b) s = issue noPre (ldOp size d a b) (loadWord size d a b) s := by
  simp only [sizes, List.mem_cons, List.not_mem_nil, or_false] at h
  obtain rfl | rfl | rfl | rfl | rfl := h <;> rfl

theorem weight_loadWord {size : Nat} (h : size ∈ sizes) (d a b : BitVec 8) : weight (loadWord size d a b) = 2 := by
  simp only [sizes, List.mem_cons, List.not_mem_nil, or_false] at h
  obtain rfl | rfl | rfl | rfl | rfl := h <;> rfl

/-- The destination of a legal load is a run of registers that may be written (R36, R176, R300). -/
theorem runOk_of_issues {size : Nat} (h : size ∈ sizes) {d a b : BitVec 8} {g : Group} (hi : Issues (loadWord size d a b) g) :
    RunOk g d (regsOf size) := by
  obtain ⟨hwf, hwin⟩ := hi
  simp only [sizes, List.mem_cons, List.not_mem_nil, or_false] at h
  intro i hlt
  obtain rfl | rfl | rfl | rfl | rfl := h
  all_goals
    simp only [loadWord, wellFormed, namesOk, windowOk, vWrite, vDstD, vDstQ, vIn, Bool.and_eq_true, Bool.or_eq_true,
      decide_eq_true_eq] at hwf hwin
    simp only [regsOf, Nat.reduceEqDiff, if_true, if_false] at hlt
    exact ⟨by omega, fun h => by have := hwin h; omega⟩

/-! ### The operation -/

/-- The values of the lanes: all ones where an answer was lost (R347). -/
def loadVal (byte : Nat → Byte) (size : Nat) (lost : Bool) (addr : Nat → Nat) (j : Nat) : Nat :=
  if lost then 2 ^ (32 * regsOf size) - 1 else leNat byte (addr j) size

/-- The registers after a load depend on the values of its lanes alone. -/
theorem Loaded.congr {size : Nat} {d : BitVec 8} {lanes : List Nat} {val val' : Nat → Nat} {g h : Group}
    (hv : ∀ j ∈ lanes, val j = val' j) (hl : Loaded size d lanes val g h) : Loaded size d lanes val' g h := by
  obtain ⟨hlanes, hlast⟩ := hl
  refine ⟨fun i hi j => ?_, hlast⟩
  rw [hlanes i hi j]
  by_cases hj : j.val ∈ lanes
  · rw [if_pos hj, if_pos hj, hv j hj]
  · rw [if_neg hj, if_neg hj]

theorem Loaded.retire {size : Nat} {d : BitVec 8} {lanes : List Nat} {val : Nat → Nat} {g h : Group} (hl : Loaded size d lanes val g h)
    (w : Iss) : Loaded size d lanes val g (h.retire w) := hl

theorem retired_retire (w : Iss) {g h : Group} (hpc : h.pc = g.pc) (hlc : h.lc = g.lc) :
    Retired (weight w.i) (g.pc + BitVec.ofNat 64 (issLen w)) g (h.retire w) where
  pc := by rw [Group.retire_pc, hpc]
  lc := by rw [Group.retire_lc, hlc]
  running := rfl
  cmask := rfl

section
variable {size : Nat} {d a b : BitVec 8} {w : Iss} {s : State}

/-! The object that the base names, a lane's offset and address in it, and the bytes that the lanes still to execute read (R119). -/

def loadObj (s : State) (a : BitVec 8) : Nat := baseObj (s.cpu.grp.readKK a)
def loadOff (s : State) (a b : BitVec 8) (w : Iss) : Nat → Int := laneOff s.cpu.grp (s.cpu.grp.readKK a) b (dispOf w)
def loadAddr (s : State) (a b : BitVec 8) (w : Iss) (j : Nat) : Nat := vaOf (loadObj s a) (loadOff s a b w j)
def loadBytes (s : State) (size : Nat) (a b : BitVec 8) (w : Iss) : List Nat :=
  (pendingLanes s.cpu.grp).flatMap fun j => span (loadAddr s a b w j) size
/-- An answer was lost (R347). -/
def loadLost (s : State) (size : Nat) (a b : BitVec 8) (w : Iss) : Bool :=
  (loadBytes s size a b w).any fun x => get? s.cpu.grp.fills (lineOf x) == some none

/-- The values of the lanes in the group's own image (R303). -/
def imageVal (s : State) (size : Nat) (a b : BitVec 8) (w : Iss) (j : Nat) : Nat :=
  leNat (windowByte s.cpu.grp) ((loadOff s a b w j).toNat - imageOff s.cpu.grp) size

/-- The context with the tags of the bytes that are homed here (R104). -/
def loadTags (s : State) (size : Nat) (a b : BitVec 8) (w : Iss) (r : Record) : Ctx :=
  ((loadBytes s size a b w).filter fun x => (homedAway s.cpu.hw r (vaOff x)).isNone).foldl
    (fun x y => tagLine x r s.cpu.grp.gid false y) s.cpu.ctx

theorem mem_loadBytes (x : Nat) : x ∈ loadBytes s size a b w ↔ lanesBytes (pendingLanes s.cpu.grp) (loadAddr s a b w) size x := by
  simp only [loadBytes, List.mem_flatMap, mem_span, lanesBytes]

theorem loadLost_eq_true : loadLost s size a b w = true ↔
    ∃ x, lanesBytes (pendingLanes s.cpu.grp) (loadAddr s a b w) size x ∧ get? s.cpu.grp.fills (lineOf x) = some none := by
  simp only [loadLost, List.any_eq_true, mem_loadBytes, beq_iff_eq]

/-- No record, and so no lane: the last-result file shifts all the same. -/
theorem ldOp_noRecord (hrec : s.cpu.record s.mem (loadObj s a) = none)
    (hsort : sortLanes s.cpu s.mem none (loadObj s a) size .load (pendingLanes s.cpu.grp) (loadOff s a b w) =
      ⟨none, pendingLanes s.cpu.grp, []⟩) :
    ldOp size d a b s.mem w s.cpu = s.cpu.retire w (shiftLoaded s.cpu.grp d size) := by
  unfold loadObj at hrec hsort
  unfold loadOff at hsort
  simp only [ldOp, hrec, hsort, malformedWait, List.find?_nil, closeAccess]

/-- Every lane reads its bytes, tags their lines, and the word retires. -/
theorem ldOp_record {r : Record} (hobj : loadObj s a ≠ 1) (hrec : s.cpu.record s.mem (loadObj s a) = some r)
    (hsort : sortLanes s.cpu s.mem (some r) (loadObj s a) size .load (pendingLanes s.cpu.grp) (loadOff s a b w) =
      ⟨none, pendingLanes s.cpu.grp, []⟩)
    (hhere : missingLines s.cpu r (loadBytes s size a b w) = []) :
    ∃ offs, ldOp size d a b s.mem w s.cpu = (touchLines s.mem { s.cpu with ctx := loadTags s size a b w r } r offs).retire w
      (shiftLoaded (placeLoaded s.cpu.grp d size (pendingLanes s.cpu.grp)
        (loadVal (loadByte s.cpu s.mem r) size (loadLost s size a b w) (loadAddr s a b w))) d size) := by
  refine ⟨Sorted.offs ⟨none, pendingLanes s.cpu.grp, []⟩ (loadOff s a b w), ?_⟩
  unfold loadObj at hrec hsort hobj
  unfold loadOff at hsort
  unfold loadBytes loadAddr loadObj loadOff at hhere
  simp only [ldOp, hrec, hsort, malformedWait, List.find?_nil, closeAccess, if_neg hobj, hhere]
  rfl

/-- Every lane reads the group's own image, whatever the record of object 1 is. -/
theorem ldOp_own {r : Record} (hobj : loadObj s a = 1) (hrec : s.cpu.record s.mem 1 = some r)
    (hsort : sortLanes s.cpu s.mem (some r) 1 size .load (pendingLanes s.cpu.grp) (loadOff s a b w) =
      ⟨none, pendingLanes s.cpu.grp, []⟩) :
    ldOp size d a b s.mem w s.cpu = s.cpu.retire w
      (shiftLoaded (placeLoaded s.cpu.grp d size (pendingLanes s.cpu.grp) (imageVal s size a b w)) d size) := by
  unfold loadObj at hobj
  unfold loadOff at hsort
  simp only [ldOp, hobj, hrec, hsort, malformedWait, List.find?_nil, closeAccess, if_true]
  rfl

theorem loadTags_spec {r : Record} (hrec : s.cpu.record s.mem (loadObj s a) = some r) :
    loadTags s size a b w r = { s.cpu.ctx with ptags := (loadTags s size a b w r).ptags } ∧
      ∀ k, k ∈ (loadTags s size a b w r).ptags ↔ k ∈ s.cpu.ctx.ptags ∨
        tagsOf s (loadObj s a) false (lanesBytes (pendingLanes s.cpu.grp) (loadAddr s a b w) size) k := by
  obtain ⟨hctx, htags⟩ := tagLine_foldl r s.cpu.grp.gid false
    ((loadBytes s size a b w).filter fun x => (homedAway s.cpu.hw r (vaOff x)).isNone) s.cpu.ctx
  refine ⟨hctx, fun k => (htags k).trans (or_congr_right ⟨?_, ?_⟩)⟩
  · rintro ⟨hmode, x, hx, rfl⟩
    obtain ⟨hin, hhome⟩ := List.mem_filter.1 hx
    exact ⟨r, x, hrec, hmode, (mem_loadBytes x).1 hin, Option.isNone_iff_eq_none.1 hhome, rfl⟩
  · rintro ⟨r', x, hrec', hmode, hin, hhome, rfl⟩
    cases hrec.symm.trans hrec'
    exact ⟨hmode, x, List.mem_filter.2 ⟨(mem_loadBytes x).2 hin, Option.isNone_iff_eq_none.2 hhome⟩, rfl⟩

/-- A load of memory where every lane passes its checks and no line is missing (R174, R347). -/
theorem ldOp_reaches (hrun : RunOk s.cpu.grp d (regsOf size)) (hobj : loadObj s a ≠ 1)
    (hreach : ∀ j ∈ pendingLanes s.cpu.grp, Reach s .load size size (loadObj s a) (loadOff s a b w j))
    (hpresent : ∀ x, lanesBytes (pendingLanes s.cpu.grp) (loadAddr s a b w) size x → Present s x) :
    let g := s.cpu.grp
    let t : State := { s with cpu := ldOp size d a b s.mem w s.cpu }
    SameGroup (loadDst size d) g t.cpu.grp ∧ Retired (weight w.i) (g.pc + BitVec.ofNat 64 (issLen w)) g t.cpu.grp ∧
      MemoryOnly (fun _ => False) (tagsOf s (loadObj s a) false (lanesBytes (pendingLanes g) (loadAddr s a b w) size)) s t ∧
      t.cpu.ctx.parcel = s.cpu.ctx.parcel ∧
      Loaded size d (pendingLanes g) (loadVal (seenByte s) size (loadLost s size a b w) (loadAddr s a b w)) g t.cpu.grp := by
  have hsort := sortLanes_pass hobj (fun _ => rfl) hreach
  dsimp only
  cases hrec : s.cpu.record s.mem (loadObj s a) with
  | none =>
    rw [hrec] at hsort
    have hnil : pendingLanes s.cpu.grp = [] := List.eq_nil_iff_forall_not_mem.2 fun j hj => by
      obtain ⟨r, hr, -⟩ := (hreach j hj).record
      cases hrec.symm.trans hr
    obtain ⟨hsame, hpc, hlc, hload⟩ := shifted_spec s.cpu.grp d size hrun
    rw [ldOp_noRecord hrec hsort, hnil]
    refine ⟨(hsame.trans (Group.sameGroup_retire _ w)).mono (by simp), retired_retire w hpc hlc, ?_, rfl, hload _⟩
    refine ⟨rfl, rfl, fun k => by simp, fun k => ?_, rfl, rfl, fun _ => rfl⟩
    simp [tagsOf, lanesBytes]
  | some r =>
    rw [hrec] at hsort
    have hva : ∀ j ∈ pendingLanes s.cpu.grp, ∀ k < size, vaObj (loadAddr s a b w j + k) = loadObj s a := fun j hj k hk =>
      ((hreach j hj).va (baseObj_lt _) hk).1
    have hobjOf : ∀ x ∈ loadBytes s size a b w, s.cpu.record s.mem (vaObj x) = some r := by
      intro x hx
      obtain ⟨j, hj, hlo, hhi⟩ := (mem_loadBytes x).1 hx
      rw [← hrec, ← hva j hj (x - loadAddr s a b w j) (by omega), Nat.add_sub_cancel' hlo]
    have hhere : missingLines s.cpu r (loadBytes s size a b w) = [] := missingLines_nil fun x hx =>
      (hpresent x ((mem_loadBytes x).1 hx)).imp_left fun hlocal => hlocal r (hobjOf x hx)
    obtain ⟨offs, hop⟩ := ldOp_record (d := d) hobj hrec hsort hhere
    obtain ⟨hsame, hpc, hlc, hload⟩ := loaded_spec s.cpu.grp d size (pendingLanes s.cpu.grp) 
      (loadVal (loadByte s.cpu s.mem r) size (loadLost s size a b w) (loadAddr s a b w)) hrun
    obtain ⟨hctx, htags⟩ := loadTags_spec (size := size) (b := b) (w := w) hrec
    have hmarks : (loadTags s size a b w r).marks = s.cpu.ctx.marks := by rw [hctx]
    have hparcel : (loadTags s size a b w r).parcel = s.cpu.ctx.parcel := by rw [hctx]
    have hrest : loadTags s size a b w r = { s.cpu.ctx with
        ptags := (loadTags s size a b w r).ptags, marks := (loadTags s size a b w r).marks, parcel := (loadTags s size a b w r).parcel } := by
      rw [hmarks, hparcel]
      exact hctx
    rw [hop]
    refine ⟨(hsame.trans (Group.sameGroup_retire _ w)).mono (by simp), retired_retire w hpc hlc, ?_, hparcel,
      Loaded.retire (hload.congr fun j hj => ?_) w⟩
    · exact ⟨rfl, hrest, fun k => by rw [or_false]; exact iff_of_eq (congrArg (k ∈ ·) hmarks), htags, rfl, rfl, fun _ => rfl⟩
    · have hseen : ∀ k < size, seenByte s (loadAddr s a b w j + k) = loadByte s.cpu s.mem r (loadAddr s a b w j + k) := fun k hk =>
        seenByte_eq ((congrArg (s.cpu.record s.mem) (hva j hj k hk)).trans hrec)
      simp only [loadVal, leNat_congr hseen]

/-- A load of the group's own image through the trap window (R303). -/
theorem ldOp_window (hrun : RunOk s.cpu.grp d (regsOf size)) (hobj : loadObj s a = 1)
    (hown : ∀ j ∈ pendingLanes s.cpu.grp, (s.cpu.record s.mem 1).isSome = true ∧ loadOff s a b w j % size = 0 ∧
      ownImage s.cpu.grp (loadOff s a b w j) size = true) :
    let g := s.cpu.grp
    let t : State := { s with cpu := ldOp size d a b s.mem w s.cpu }
    GroupOnly s t ∧ SameGroup (loadDst size d) g t.cpu.grp ∧ Retired (weight w.i) (g.pc + BitVec.ofNat 64 (issLen w)) g t.cpu.grp ∧
      Loaded size d (pendingLanes g) (imageVal s size a b w) g t.cpu.grp := by
  have hsort := sortLanes_own (kind := .load) hown
  dsimp only
  cases hrec : s.cpu.record s.mem 1 with
  | none =>
    rw [hrec] at hsort
    have hnil : pendingLanes s.cpu.grp = [] := List.eq_nil_iff_forall_not_mem.2 fun j hj => by simpa [hrec] using (hown j hj).1
    obtain ⟨hsame, hpc, hlc, hload⟩ := shifted_spec s.cpu.grp d size hrun
    rw [ldOp_noRecord (hobj ▸ hrec) (hobj.symm ▸ hsort), hnil]
    exact ⟨⟨rfl, rfl, rfl, rfl, fun _ => rfl⟩, (hsame.trans (Group.sameGroup_retire _ w)).mono (by simp), retired_retire w hpc hlc,
      hload (imageVal s size a b w)⟩
  | some r =>
    rw [hrec] at hsort
    obtain ⟨hsame, hpc, hlc, hload⟩ := loaded_spec s.cpu.grp d size (pendingLanes s.cpu.grp)
      (imageVal s size a b w) hrun
    rw [ldOp_own hobj hrec hsort]
    exact ⟨⟨rfl, rfl, rfl, rfl, fun _ => rfl⟩, (hsame.trans (Group.sameGroup_retire _ w)).mono (by simp), retired_retire w hpc hlc,
      hload⟩

end

/-- Settles O27: the five loads are one operation, which reads memory, or the group's own image through the trap window. -/
theorem plainLoads : Obligations.PlainLoads := by
  unfold Obligations.PlainLoads
  intro size d a b s hsize i g obj off addr lanes hissues
  have hrun := runOk_of_issues hsize hissues
  have hexec : exec i s = .next { s with cpu := ldOp size d a b s.mem ⟨i, none⟩ s.cpu } :=
    (exec_loadWord hsize d a b s).trans (issue_of_issues hissues rfl)
  refine ⟨fun hobj hreach hpresent => ?_, fun hobj hown => ?_⟩
  · obtain ⟨hsame, hretired, hmem, hparcel, hload⟩ := ldOp_reaches (w := ⟨i, none⟩) hrun hobj hreach hpresent
    rw [weight_loadWord hsize] at hretired
    refine ⟨_, hexec, hsame, hretired, hmem, hparcel, fun hkept => ?_, fun hlost => ?_⟩
    · have hfalse : loadLost s size a b ⟨i, none⟩ = false := Bool.eq_false_iff.2 fun h => by
        obtain ⟨x, hx, hfill⟩ := loadLost_eq_true.1 h
        exact hkept x hx hfill
      rw [hfalse] at hload
      exact hload
    · rw [loadLost_eq_true.2 hlost] at hload
      exact hload
  · obtain ⟨honly, hsame, hretired, hload⟩ := ldOp_window (w := ⟨i, none⟩) hrun hobj hown
    rw [weight_loadWord hsize] at hretired
    exact ⟨_, hexec, honly, hsame, hretired, hload⟩

end Sys2Proof.Machine

/-! SUPPORT. A `lit` and the word after it (R49, R50, R52; O40). -/

namespace Sys2Proof.Machine

/-- A legal word that takes a `lit`, with one that fits it, has its meaning (R49, R52). -/
theorem exec_lit_of_issues {i : Instr} {l : BitVec 24} {op : Byte} {f : Form} {s : State} (hone : OneWord i)
    (hop : (wordOf i).extractLsb' 24 8 = op) (hform : litForm op.toNat = some f) (hun : unassigned op.toNat = false)
    (hl : f = .w → l.extractLsb' 16 8 = 0) (h : Issues i s.cpu.grp) :
    exec (.lit l (wordOf i)) s = .next { s with cpu := litMeaning i s.mem ⟨i, some l⟩ s.cpu } := by
  have hfit : ¬ (decide (f = .w) && l.extractLsb' 16 8 != 0) = true := by simpa using hl
  have hlit : litOp l (wordOf i) s.mem s.cpu = litMeaning i s.mem ⟨i, some l⟩ s.cpu := by
    simp only [litOp, hop, hun, hform, if_neg hfit, decodeWord_wordOf hone, Bool.false_eq_true, if_false]
    exact issueCpu_of_issues h rfl
  exact congrArg (fun c => Host.Outcome.next { s with cpu := c }) hlit

/-- Two moves of a code address are one. -/
theorem CodeAt.trans {pc p q : Dword} {m n : Int} (h : CodeAt pc m p) (h' : CodeAt p n q) : CodeAt pc (m + n) q := by
  obtain ⟨hobj, hoff⟩ := h
  obtain ⟨hobj', hoff'⟩ := h'
  refine ⟨hobj'.trans hobj, ?_⟩
  rw [hoff', hoff, Int.emod_add_emod, Int.add_assoc]

/-! ### The words -/

theorem firstByte_wForm (op d : Byte) (imm : BitVec 16) : (op ++ d ++ imm).extractLsb' 24 8 = op := by
  simp (disch := decide) only [BitVec.extractLsb'_append_eq_of_le, BitVec.extractLsb'_eq_self, Nat.reduceSub]

theorem firstByte_t3Form (op d a b : Byte) : (op ++ d ++ a ++ b).extractLsb' 24 8 = op := by
  simp (disch := decide) only [BitVec.extractLsb'_append_eq_of_le, BitVec.extractLsb'_eq_self, Nat.reduceSub]

/-- A pair that retires goes on 8 bytes further (R49). -/
theorem didTo_retire_lit {i : Instr} {l : BitVec 24} {s : State} {dst : List Loc} {g' : Group} (h : SameGroup dst s.cpu.grp g')
    (hpc : g'.pc = s.cpu.grp.pc) (hlc : g'.lc = s.cpu.grp.lc) :
    DidTo i dst (s.cpu.grp.pc + 8) s { s with cpu := s.cpu.retire ⟨i, some l⟩ g' } :=
  hpc ▸ didTo_of h hlc

section
variable {l : BitVec 24} {d : BitVec 8} {imm : BitVec 16} {s : State}

/-- `kmovi` with 32 bits. -/
theorem exec_lit_kmovi (hl : l.extractLsb' 16 8 = 0) (h : Issues (.kmovi d imm) s.cpu.grp) :
    ∃ t, exec (.lit l (wordOf (.kmovi d imm))) s = .next t ∧ DidTo (.kmovi d imm) [.k d.toNat] (s.cpu.grp.pc + 8) s t ∧
      t.cpu.grp.readK d = l.extractLsb' 0 16 ++ imm := by
  obtain ⟨hlt, hwin⟩ := kDst_reached (namesOk_of_issues h) h.2
  exact ⟨_, exec_lit_of_issues ⟨rfl, nofun⟩ (firstByte_wForm _ d imm) rfl rfl (fun _ => hl) h,
    didTo_retire_lit (Group.sameGroup_writeK _ d _) (by simp) (by simp), Group.readK_writeK_self _ _ hlt hwin⟩

/-- `movi` with 32 bits. -/
theorem exec_lit_movi (hl : l.extractLsb' 16 8 = 0) (h : Issues (.movi d imm) s.cpu.grp) :
    ∃ t, exec (.lit l (wordOf (.movi d imm))) s = .next t ∧ DidTo (.movi d imm) (vecDst false d) (s.cpu.grp.pc + 8) s t ∧
      Shifted false d s.cpu.grp t.cpu.grp ∧ ∀ j : Fin 32, laneAt (t.cpu.grp.readV d) j =
        if s.cpu.grp.active.getLsbD j then l.extractLsb' 0 16 ++ imm else laneAt (s.cpu.grp.readV d) j := by
  obtain ⟨hlt, hwin⟩ := writable_of (namesOk_of_issues h) h.2
  refine ⟨_, exec_lit_of_issues ⟨rfl, nofun⟩ (firstByte_wForm _ d imm) rfl rfl (fun _ => hl) h,
    didTo_retire_lit (Group.sameGroup_writeV _ _ _ hlt) (by simp) (by simp), ?_, fun j => ?_⟩
  · obtain ⟨hlast, hrest⟩ := Group.readV_writeV_last s.cpu.grp d s.cpu.grp.active (allLanes (l.extractLsb' 0 16 ++ imm)) hlt
    exact ⟨hlast.trans (Group.readV_writeV_self _ _ _ hlt hwin).symm, hrest⟩
  · refine (congrArg (laneAt · j) (Group.readV_writeV_self s.cpu.grp _ _ hlt hwin)).trans ?_
    rw [Group.laneAt_merged]
    simp [wImm, allLanes]

/-- `br` over 32 bits, from the word itself (R35, R49). -/
theorem exec_lit_br (hl : l.extractLsb' 16 8 = 0) (h : Issues (.br d imm) s.cpu.grp) :
    ∃ t p, exec (.lit l (wordOf (.br d imm))) s = .next t ∧ DidTo (.br d imm) [] p s t ∧
      if s.cpu.grp.readQ d.toNat then CodeAt s.cpu.grp.pc (4 + 4 * (l.extractLsb' 0 16 ++ imm).toInt) p else p = s.cpu.grp.pc + 8 := by
  have hexec := exec_lit_of_issues (i := .br d imm) ⟨rfl, nofun⟩ (firstByte_wForm _ d imm) rfl rfl (fun _ => hl) h
  by_cases hq : s.cpu.grp.readQ d.toNat = true
  · simp only [litMeaning, brOp, if_pos hq] at hexec
    refine ⟨_, _, hexec, didTo_of (SameGroup.refl _) rfl, ?_⟩
    rw [if_pos hq]
    exact (pcMove_codeAt _ 4).trans (pcMove_codeAt _ _)
  · simp only [litMeaning, brOp, if_neg hq] at hexec
    exact ⟨_, _, hexec, didTo_retire_lit (SameGroup.refl _) rfl rfl, by rw [if_neg hq]⟩

/-- A trap on a pair: `mkj` with a full stack (R50, R159). -/
theorem exec_lit_mkj_full (hl : l.extractLsb' 16 8 = 0) (h : Issues (.mkj imm) s.cpu.grp)
    (hfull : (if s.cpu.grp.inWin then 4 else 32) ≤ s.cpu.grp.joins.length) :
    ∃ t, exec (.lit l (wordOf (.mkj imm))) s = .next t ∧ TakesTrap (wordOf (.mkj imm)) (some l) (atPc s.cpu.grp 6 2) 0 s t := by
  have htrap : litMeaning (.mkj imm) s.mem ⟨.mkj imm, some l⟩ s.cpu = s.cpu.trap ⟨.mkj imm, some l⟩ (modeTrap s.cpu.grp 2) :=
    if_pos hfull
  refine ⟨_, exec_lit_of_issues ⟨rfl, nofun⟩ (firstByte_wForm _ 0 imm) rfl rfl (fun _ => hl) h, ?_⟩
  rw [htrap]
  exact takesTrap _ _ _ _ s

end

/-- The loads take a `lit`, as their displacement (R49). -/
theorem exec_lit_loadWord {size : Nat} (hsize : size ∈ sizes) {l : BitVec 24} {d a b : BitVec 8} {s : State}
    (h : Issues (loadWord size d a b) s.cpu.grp) : exec (.lit l (wordOf (loadWord size d a b))) s =
      .next { s with cpu := ldOp size d a b s.mem ⟨loadWord size d a b, some l⟩ s.cpu } := by
  simp only [sizes, List.mem_cons, List.not_mem_nil, or_false] at hsize
  obtain rfl | rfl | rfl | rfl | rfl := hsize
  all_goals exact exec_lit_of_issues ⟨rfl, nofun⟩ (firstByte_t3Form _ d a b) rfl rfl nofun h

/-- Settles O40: each pair is decoded as its word, and runs with the literal as the high half of the immediate, or as the displacement. -/
theorem litPairs : Obligations.LitPairs := by
  unfold Obligations.LitPairs
  intro l size d a b imm s hsize g x
  refine ⟨fun hl => ⟨exec_lit_kmovi hl, exec_lit_movi hl, exec_lit_br hl, exec_lit_mkj_full hl⟩, ?_⟩
  intro i obj off addr lanes hissues hobj hreach hbytes
  obtain ⟨hsame, hretired, -, -, hload⟩ := ldOp_reaches (w := ⟨i, some l⟩) (runOk_of_issues hsize hissues) hobj hreach
    fun y hy => (hbytes y hy).1
  have hkept : loadLost s size a b ⟨i, some l⟩ = false := Bool.eq_false_iff.2 fun hlost => by
    obtain ⟨y, hy, hfill⟩ := loadLost_eq_true.1 hlost
    exact (hbytes y hy).2 hfill
  rw [weight_loadWord hsize] at hretired
  rw [hkept] at hload
  exact ⟨_, exec_lit_loadWord hsize hissues, hsame, hretired, hload⟩

end Sys2Proof.Machine

/-! SUPPORT. Starting a context (R43, R250, R260, R369; O50): the refusals, and what the placement of the first program's blocks keeps. -/

namespace Sys2Proof.Machine

/-! ### A group at its start -/

theorem Bank.readK_writeK {nv nk : Nat} (b : Bank nv nk) {n : Nat} (m : Nat) (x : Word) (hn : n < nk) :
    (b.writeK m x).readK n = if m = n then x else b.readK n := by
  unfold Bank.readK Bank.writeK
  rw [Vector.getElem?_setIfInBounds]
  split
  · rename_i h; subst h; simp [hn]
  · rfl

/-- Registers that no value of R260 fills keep their content. -/
theorem Bank.readK_startK_ge (l : LRec) (lord blk gix : Nat) (b : Bank 232 160) {n : Nat} (hlo : 11 ≤ n) (hn : n < 160) :
    (startK l lord blk gix b).readK n = b.readK n := by
  have hne : ∀ m < 11, m ≠ n := fun m hm => by omega
  simp (disch := omega) only [startK, List.zipIdx_cons, List.zipIdx_nil, List.foldl_cons, List.foldl_nil, Bank.readK_writeK,
    Nat.reduceAdd, if_neg (hne _ _)]

/-- The parameter, the ordinal and the size of a block (R260). -/
theorem Bank.readK_startK (l : LRec) (lord blk gix : Nat) (b : Bank 232 160) :
    (startK l lord blk gix b).readK 0 = BitVec.ofNat 32 (l.param.toNat % 2 ^ 32) ∧
      (startK l lord blk gix b).readK 1 = BitVec.ofNat 32 (l.param.toNat / 2 ^ 32) ∧
      (startK l lord blk gix b).readK 9 = BitVec.ofNat 32 lord ∧ (startK l lord blk gix b).readK 10 = BitVec.ofNat 32 l.g := by
  simp (disch := decide) only [startK, List.zipIdx_cons, List.zipIdx_nil, List.foldl_cons, List.foldl_nil, Bank.readK_writeK,
    Nat.reduceAdd, Nat.reduceEqDiff, if_true, if_false, and_self]

/-- The registers and the place of a group of the first program, as R43 and R260 give them. -/
def AtStart (l : LRec) (trapv : Dword) (g : Group) : Prop :=
  g.status = .running ∧ g.lc = 0 ∧ g.pc = l.entry ∧ g.trapv = trapv ∧ g.sketch = [] ∧ g.view = none ∧
    g.inWin = false ∧ g.fpflags = 0 ∧ g.md = 7 ∧ g.lanes = 0xFFFFFFFF ∧ g.joins = [] ∧ g.readK 0 = BitVec.ofNat 32 l.param.toNat ∧
    g.readK 1 = BitVec.ofNat 32 (l.param.toNat / 2 ^ 32) ∧ g.readK 9 = 0 ∧ g.readK 10 = BitVec.ofNat 32 l.g ∧
    (∀ r : BitVec 8, 11 ≤ r.toNat → r.toNat < 160 → g.readK r = 0) ∧ (∀ r < 7, g.readP r = 0 ∧ g.readQ r = false) ∧
    ∀ r : BitVec 8, r.toNat < 244 → g.readV r = Vector.replicate 32 0

/-- A group as placement puts it on its slot. -/
def placedGroup (x : Ctx) (l : LRec) (lord blk lc gid core part slot role gix : Nat) : Group :=
  { Group.start gid core part slot role l.sys l.entry lc (l.quota x.dq) x.trapv0 with main := startK l lord blk gix (Bank.start 232 160) }

theorem Bank.readReg_start {n : Nat} (hn : n < 244) : (Bank.start 232 160).readReg n = Vector.replicate 32 0 := by
  unfold Bank.readReg Bank.start
  split_ifs
  · simp [*]
  · simp [show n - 232 < 8 by omega]
  · simp [show n - 240 < 4 by omega]

theorem placedGroup_atStart (x : Ctx) (l : LRec) (blk gid core part slot role gix : Nat) :
    AtStart l x.trapv0 (placedGroup x l 0 blk 0 gid core part slot role gix) := by
  have hk : ∀ r : BitVec 8, r.toNat < 160 → (placedGroup x l 0 blk 0 gid core part slot role gix).readK r =
      (startK l 0 blk gix (Bank.start 232 160)).readK r.toNat := fun r hr => if_pos hr
  obtain ⟨hk0, hk1, hk9, hk10⟩ := Bank.readK_startK l 0 blk gix (Bank.start 232 160)
  refine ⟨rfl, rfl, rfl, rfl, rfl, rfl, rfl, rfl, rfl, rfl, rfl, ?_, (hk 1 (by decide)).trans hk1, (hk 9 (by decide)).trans hk9,
    (hk 10 (by decide)).trans hk10, fun r hlo hhi => ?_, fun r hr => ?_, fun r hr => ?_⟩
  · refine (hk 0 (by decide)).trans (hk0.trans (BitVec.eq_of_toNat_eq ?_))
    simp
  · rw [hk r hhi, Bank.readK_startK_ge l 0 blk gix _ hlo hhi]
    simp [Bank.readK, Bank.start, hhi]
  · interval_cases r <;> exact ⟨rfl, rfl⟩
  · exact (if_pos hr).trans (Bank.readReg_start hr)

/-! ### Placement -/

theorem eq_or_mem_of_mem_putGroup {l : List Group} {g h : Group} (hh : h ∈ putGroup l g) : h = g ∨ h ∈ l := by
  induction l with
  | nil => simpa [putGroup] using hh
  | cons k t ih =>
    unfold putGroup at hh
    split at hh
    · exact List.mem_cons.1 hh
    · split at hh
      · exact (List.mem_cons.1 hh).imp_right (List.mem_cons_of_mem _)
      · obtain rfl | hh := List.mem_cons.1 hh
        · exact .inr (by simp)
        · exact (ih hh).imp_right (List.mem_cons_of_mem _)

/-- What holds of the groups there are and of every group that is put on a slot holds after a block's groups are placed. -/
theorem startGroups_forall {P : Group → Prop} {x : Ctx} {l : LRec} {lord blk n c lc : Nat} (hold : ∀ g ∈ x.groups, P g)
    (hnew : ∀ gid core part slot role gix, P (placedGroup x l lord blk lc gid core part slot role gix)) :
    ∀ g ∈ startGroups x l lord blk n c lc, P g := by
  unfold startGroups
  refine List.foldlRecOn (motive := fun gs => ∀ g ∈ gs, P g) _ _ hold fun gs hgs gix _ g hg => ?_
  obtain rfl | hg := eq_or_mem_of_mem_putGroup hg
  · exact hnew _ _ _ _ _ _
  · exact hgs g hg

/-- The head of a queue is a launch of the context. -/
theorem mem_of_headOf {x : Ctx} {q : Nat} {l : Launch} (h : headOf x q = some l) : l ∈ x.launches := by
  unfold headOf at h
  revert h
  refine List.foldlRecOn (motive := fun best => best = some l → l ∈ x.launches) _ _ nofun fun best hbest k hk h => ?_
  have hk : k ∈ x.launches := (List.mem_filter.1 hk).1
  cases best with
  | none => exact Option.some.inj h ▸ hk
  | some b =>
    simp only at h
    split at h
    · exact Option.some.inj h ▸ hk
    · exact hbest h

/-- What placement keeps of a context `x` whose one launch is the first program `w`: it adds groups as they start, and blocks. -/
structure FirstPlaced (x : Ctx) (w : List Word) (y : Ctx) : Prop where
  rest : y = { x with groups := y.groups, blocks := y.blocks, launches := y.launches }
  launches : ∀ l ∈ y.launches, l.rcd = w ∧ l.ord = 0
  groups : ∀ g ∈ y.groups, AtStart (lrecOf w) x.trapv0 g

theorem FirstPlaced.trapv0 {x y : Ctx} {w : List Word} (h : FirstPlaced x w y) : y.trapv0 = x.trapv0 := by rw [h.rest]

theorem FirstPlaced.atStart {x y : Ctx} {w : List Word} (h : FirstPlaced x w y) : ∀ g ∈ y.groups, AtStart (lrecOf w) y.trapv0 g :=
  h.trapv0.symm ▸ h.groups

theorem FirstPlaced.placeBlock {x y : Ctx} {w : List Word} (h : FirstPlaced x w y) {l : Launch} (hl : l ∈ y.launches) (c : Nat) :
    FirstPlaced x w (placeBlock y l c 0) where
  rest := by
    have hrest := h.rest
    unfold Machine.placeBlock
    rw [hrest]
  launches := by
    intro k hk
    obtain ⟨j, hj, rfl⟩ := List.mem_map.1 hk
    split
    · exact h.launches j hj
    · exact h.launches j hj
  groups := by
    obtain ⟨hrcd, hord⟩ := h.launches l hl
    refine startGroups_forall h.groups fun gid core part slot role gix => ?_
    rw [hrcd, hord, ← h.trapv0]
    exact placedGroup_atStart _ _ _ _ _ _ _ _ _

theorem FirstPlaced.placeQueue {x : Ctx} {w : List Word} (q n : Nat) {y : Ctx} (h : FirstPlaced x w y) :
    FirstPlaced x w (placeQueue 0 q n y) := by
  induction n generalizing y with
  | zero => exact h
  | succ n ih =>
    unfold Machine.placeQueue
    split
    · exact h
    · rename_i l hhead
      split
      · exact h
      · exact ih (h.placeBlock (mem_of_headOf hhead) _)

theorem FirstPlaced.placeBlocks {x : Ctx} {w : List Word} {y : Ctx} (h : FirstPlaced x w y) : FirstPlaced x w (placeBlocks 0 0 y) :=
  List.foldlRecOn (motive := FirstPlaced x w) _ _ h fun _ hz q _ => hz.placeQueue q _

/-- The first program has one launch, of ordinal 0, and no group yet. -/
theorem firstLaunch_placed (h : Module) (span : Bool) (w : List Word) (k : Nat) (x : Ctx) (hx : x.groups = []) :
    FirstPlaced (firstLaunch h span w k x) w (placeBlocks 0 0 (firstLaunch h span w k x)) :=
  FirstPlaced.placeBlocks ⟨rfl, fun l hl => by rw [List.mem_singleton.1 hl]; exact ⟨rfl, rfl⟩, fun g hg => by
    rw [show (firstLaunch h span w k x).groups = [] from hx] at hg
    cases hg⟩

/-! ### The command -/

theorem leNat_lt (f : Nat → Byte) (a n : Nat) : leNat f a n < 256 ^ n := by
  induction n generalizing a with
  | zero => exact Nat.one_pos
  | succ n ih =>
    have hbyte := (f a).isLt
    have hrest := ih (a + 1)
    rw [leNat, Nat.pow_succ]
    omega

theorem memNat_lt (m : Cells) (a n : Nat) : memNat m a n < 256 ^ n := leNat_lt _ a n

/-- A command's result is written to CTXSTAT, and nothing else changes. -/
theorem result_hw {d : BitVec 4} {q : Part} {s : State} (hq : s.cpu.hw.parts[d.toNat]? = some q) (cmd : Dword) (r : Nat) :
    HwOnly s (result d.toNat cmd r s) ∧ (result d.toNat cmd r s).cpu.hw = withStat s.cpu.hw d q r (cmd.toNat % 2 ^ 24) := by
  refine ⟨⟨rfl, rfl, rfl, rfl, rfl⟩, ?_⟩
  simp only [result, State.onHw, onPart, hq, withStat, cmdCtx]

/-- The owner's command on a partition that is there is looked at (R363, R368). -/
theorem exec_contextStart {m : Master} {d : BitVec 4} {s : State} (cmd : Dword) (span : Bool) (hown : s.cpu.hw.own = ownCode m)
    (herr : s.cpu.hw.err = 0) (hpart : d.toNat < 2 ^ s.cpu.hw.dpcfg) (hstage : s.cpu.hw.stage = 5) :
    exec (.contextStart m d cmd span) s = .next (startContext d.toNat cmd span s) := by
  have hwin : (mayWindow s.cpu.hw m && decide (d.toNat < partCount s.cpu.hw)) = true := by
    have hcode : ownCode m = masterCode m := by cases m <;> rfl
    simp [mayWindow, partCount, hown, herr, hpart, hcode]
  exact congrArg Host.Outcome.next ((if_pos hwin).trans (if_pos hstage))

/-- Where no packet is held, none is delivered. -/
theorem deliverHeld_of_nil {s : State} (h : s.cpu.hw.held = []) : deliverHeld s = s := by
  have honce : deliverOnce s = s := by
    have hsame : (s.onHw fun m => { m with held := [] }) = s := by
      unfold State.onHw
      rw [← h]
    rw [deliverOnce, hsame, h]
    rfl
  rw [deliverHeld, honce, honce]

@[simp] theorem State.parkCtx_hw (s : State) : s.parkCtx.cpu.hw = s.cpu.hw := by unfold State.parkCtx; dsimp only; split <;> simp
theorem State.parkCtx_mem (s : State) : s.parkCtx.mem = s.mem := by unfold State.parkCtx; dsimp only; split <;> rfl
theorem State.parkCtx_inputs (s : State) : s.parkCtx.inputs = s.inputs := by unfold State.parkCtx; dsimp only; split <;> rfl

/-- The context in hand goes among the others, the new one comes to hand, and the farewells under its number are forgotten. -/
def startedState (x : Ctx) (s : State) : State :=
  { s.parkCtx with cpu := { s.parkCtx.cpu with
      grp := Group.none, ctx := x, hw := { s.parkCtx.cpu.hw with farewells := s.parkCtx.cpu.hw.farewells.filter fun f => f.ctx != x.key } } }

theorem result_startedState_hw {d : BitVec 4} {q : Part} {s : State} (hq : s.cpu.hw.parts[d.toNat]? = some q) {x y : Ctx}
    (hkey : y.key = x.key) (cmd : Dword) : (result d.toNat cmd 0 (startedState y s)).cpu.hw =
      { withStat s.cpu.hw d q 0 (cmd.toNat % 2 ^ 24) with farewells := s.cpu.hw.farewells.filter fun e => e.ctx != x.key } := by
  have hq' : (startedState y s).cpu.hw.parts[d.toNat]? = some q := by simpa [startedState] using hq
  rw [(result_hw hq' cmd 0).2]
  simp only [startedState, State.parkCtx_hw, hkey]
  rfl

section
variable {d : BitVec 4} {cmd : Dword} {span : Bool} {q : Part} {s : State} {w : List Word} {k : Nat}

/-- The number is in use on the device partition. -/
def numberUsed (s : State) (d : BitVec 4) (cmd : Dword) : Bool :=
  s.contexts.any fun x => x.number.toNat == cmdCtx cmd && x.dpart.toNat == d.toNat

theorem numberUsed_eq_false : numberUsed s d cmd = false ↔ ∀ y ∈ s.contexts, ¬ (y.number.toNat = cmd.toNat % 2 ^ 24 ∧ y.dpart = d) := by
  simp only [numberUsed, List.any_eq_false, Bool.and_eq_true, beq_iff_eq, cmdCtx, BitVec.toNat_inj]

theorem ctxArg_of_part (hq : s.cpu.hw.parts[d.toNat]? = some q) : ctxArg s d.toNat = q.ctxarg := by
  simp only [ctxArg, hq, Option.map_some, Option.getD_some]

theorem rectangle_or_not_span (h : span = true → domainOk s.cpu.hw = true) : (span && !domainOk s.cpu.hw) = false := by
  cases span with
  | false => rfl
  | true => simp [h rfl]

theorem startContext_numberUsed (h : numberUsed s d cmd = true) : startContext d.toNat cmd span s = result d.toNat cmd 4 s := if_pos h

theorem startContext_noRectangle (h : numberUsed s d cmd = false) (hspan : span = true) (hdomain : domainOk s.cpu.hw = false) :
    startContext d.toNat cmd span s = result d.toNat cmd 6 s := by
  unfold numberUsed at h
  simp only [startContext, h, hspan, hdomain, Bool.not_false, Bool.and_self, if_true, Bool.false_eq_true, if_false]

section
variable (hfree : numberUsed s d cmd = false) (hshape : span = true → domainOk s.cpu.hw = true) (hq : s.cpu.hw.parts[d.toNat]? = some q)
include hfree hshape hq

theorem startContext_noDescriptor (h : descriptorOk s d.toNat q.ctxarg.toNat = false) :
    startContext d.toNat cmd span s = result d.toNat cmd 1 s := by
  unfold numberUsed at hfree
  have hform := rectangle_or_not_span hshape
  simp only [startContext, hfree, hform, ctxArg_of_part hq, h, Bool.not_false, if_true, Bool.false_eq_true, if_false]

theorem startContext_noRecord (h : descriptorOk s d.toNat q.ctxarg.toNat = true)
    (hrec : firstRecord s (describedCtx s d.toNat (cmdCtx cmd) q.ctxarg.toNat span (cmdQuads cmd)) q.ctxarg.toNat = none) :
    startContext d.toNat cmd span s = result d.toNat cmd 2 s := by
  unfold numberUsed at hfree
  have hform := rectangle_or_not_span hshape
  simp only [startContext, hfree, hform, ctxArg_of_part hq, h, hrec, Bool.not_true, Bool.false_eq_true, if_false]

section
variable (hok : descriptorOk s d.toNat q.ctxarg.toNat = true)
  (hrec : firstRecord s (describedCtx s d.toNat (cmdCtx cmd) q.ctxarg.toNat span (cmdQuads cmd)) q.ctxarg.toNat = some w)
  (hcores : coresFor (lrecOf w) (memNat s.mem (q.ctxarg.toNat + 54) 1) = some k)
include hok hrec hcores

theorem startContext_noQuads
    (h : quadsOk s d.toNat (cmdCtx cmd) (memNat s.mem (q.ctxarg.toNat + 55) 1) (cmdQuads cmd) = false) :
    startContext d.toNat cmd span s = result d.toNat cmd 3 s := by
  unfold numberUsed at hfree
  have hform := rectangle_or_not_span hshape
  have hcores' : coresFor (lrecOf w) (describedCtx s d.toNat (cmdCtx cmd) q.ctxarg.toNat span (cmdQuads cmd)).dq = some k := hcores
  have hquads : quadsOk s d.toNat (cmdCtx cmd) (describedCtx s d.toNat (cmdCtx cmd) q.ctxarg.toNat span (cmdQuads cmd)).ncore8
    (cmdQuads cmd) = false := h
  simp only [startContext, hfree, hform, ctxArg_of_part hq, hok, hrec, hcores', hquads, Bool.not_true, Bool.not_false, if_true,
    Bool.false_eq_true, if_false]

/-- A start that passes every check puts the context, with the first program's blocks placed, in hand (R250, R261). -/
theorem startContext_starts (hheld : s.cpu.hw.held = [])
    (h : quadsOk s d.toNat (cmdCtx cmd) (memNat s.mem (q.ctxarg.toNat + 55) 1) (cmdQuads cmd) = true) :
    startContext d.toNat cmd span s = result d.toNat cmd 0 (startedState (placeBlocks 0 0 (firstLaunch s.cpu.hw span w k
      (describedCtx s d.toNat (cmdCtx cmd) q.ctxarg.toNat span (cmdQuads cmd)))) s) := by
  unfold numberUsed at hfree
  have hform := rectangle_or_not_span hshape
  have hcores' : coresFor (lrecOf w) (describedCtx s d.toNat (cmdCtx cmd) q.ctxarg.toNat span (cmdQuads cmd)).dq = some k := hcores
  have hquads : quadsOk s d.toNat (cmdCtx cmd) (describedCtx s d.toNat (cmdCtx cmd) q.ctxarg.toNat span (cmdQuads cmd)).ncore8
    (cmdQuads cmd) = true := h
  have hdeliver := deliverHeld_of_nil (s := startedState (placeBlocks 0 0 (firstLaunch s.cpu.hw span w k
      (describedCtx s d.toNat (cmdCtx cmd) q.ctxarg.toNat span (cmdQuads cmd)))) s) (by simpa [startedState] using hheld)
  unfold startedState at hdeliver ⊢
  simp only [startContext, hfree, hform, ctxArg_of_part hq, hok, hrec, hcores', hquads, Bool.not_true, Bool.false_eq_true, if_false, hdeliver]

end

end

/-- A descriptor that R250 refuses. -/
theorem descriptorOk_eq_false {pa : Nat}
    (h : let f := fun a c => memNat s.mem (pa + a) c
      namesMemory pa = false ∨ f 0 8 / 2 ^ 52 ≠ 0 ∨ f 0 8 / 32 % 128 ≠ 0 ∨ f 24 8 % 4096 ≠ 0 ∨ f 53 1 / 8 ≠ 0 ∨ f 56 8 ≠ 0 ∨
        f 52 1 ≠ 0 ∧ (f 52 1 < 12 ∨ 24 < f 52 1) ∨ f 0 8 % 32 = 0 ∨ 29 < f 54 1 ∨ f 16 8 % 64 < 16 ∨ 40 < f 16 8 % 64 ∨ f 55 1 = 0 ∨
        (partQuads s.cpu.hw d.toNat).length < f 55 1) : descriptorOk s d.toNat pa = false := by
  rw [Bool.eq_false_iff]
  intro hok
  simp only [descriptorOk, Bool.and_eq_true, Bool.or_eq_true, beq_iff_eq, bne_iff_ne, decide_eq_true_eq, and_assoc] at hok
  obtain ⟨hpa, -, hobj, hrsv, -, -, -, -, hscr, -, -, hflags, hzero, hlegq, hlog, hquota, hlo, hhi, hone, hmost⟩ := hok
  dsimp only at h
  obtain h | h := h
  · exact absurd hpa (by simp [h])
  · omega

end

/-- Settles O50: the refusals are the branches of the start in their order; the start itself keeps, through the placement of the first
program's blocks, that every group is as R43 and R260 have it at its start. -/
theorem contextStart : Obligations.ContextStart := by
  unfold Obligations.ContextStart
  intro m d cmd span q w k s h n i pa f free shape x hq hown herr hpart hstage hheld
  have hanswers : ∀ r, startContext d.toNat cmd span s = result d.toNat cmd r s → Answers i d q r n s := fun r hr => by
    obtain ⟨honly, hstat⟩ := result_hw hq cmd r
    exact ⟨_, (exec_contextStart cmd span hown herr hpart hstage).trans (congrArg _ hr), honly, hstat⟩
  refine ⟨fun hused => hanswers 4 (startContext_numberUsed ?_), fun hfree hform => hanswers 6 ?_, fun hfree hshape hbad => hanswers 1 ?_,
    fun hfree hshape hok hrec => hanswers 2 ?_, fun hfree hshape hok hrec hcores => ⟨fun hquads => hanswers 3 ?_, fun hquads => ?_⟩⟩
  · exact Bool.not_eq_false _ ▸ mt numberUsed_eq_false.1 hused
  · obtain ⟨hspan, hdomain⟩ := Classical.not_imp.1 hform
    exact startContext_noRectangle (numberUsed_eq_false.2 hfree) hspan (Bool.not_eq_true _ ▸ hdomain)
  · exact startContext_noDescriptor (numberUsed_eq_false.2 hfree) hshape hq (descriptorOk_eq_false hbad)
  · exact startContext_noRecord (numberUsed_eq_false.2 hfree) hshape hq hok hrec
  · exact startContext_noQuads (numberUsed_eq_false.2 hfree) hshape hq hok hrec hcores hquads
  · have hstart : startContext d.toNat cmd span s = result d.toNat cmd 0 (startedState (placeBlocks 0 0 (firstLaunch h span w k x)) s) :=
      startContext_starts (numberUsed_eq_false.2 hfree) hshape hq hok hrec hcores hheld hquads
    have hplaced := firstLaunch_placed h span w k x rfl
    generalize placeBlocks 0 0 (firstLaunch h span w k x) = y at hstart hplaced
    have hkey : y.key = x.key := (congrArg Ctx.key hplaced.rest).trans rfl
    have hexec : exec i s = .next (result d.toNat cmd 0 (startedState y s)) :=
      (exec_contextStart cmd span hown herr hpart hstage).trans (congrArg Host.Outcome.next hstart)
    refine ⟨_, hexec, State.parkCtx_mem s, State.parkCtx_inputs s, rfl, ?_, State.mem_parkCtx_others s, ?_⟩
    · exact result_startedState_hw hq hkey cmd
    · have hrest := hplaced.rest
      have h64 : ∀ o, (BitVec.ofNat 64 (f o 8)).toNat = f o 8 := fun o => Nat.mod_eq_of_lt (memNat_lt s.mem (pa + o) 8)
      have hnondet : f 53 1 % 2 < 2 ^ 32 := by omega
      refine ⟨(congrArg (·.number.toNat) hrest).trans (Nat.mod_eq_of_lt (Nat.mod_lt _ (by decide))),
        (congrArg Ctx.dpart hrest).trans ((BitVec.ofNat_toNat 4 d).trans (BitVec.setWidth_eq d)), congrArg Ctx.status hrest,
        congrArg Ctx.leg hrest, congrArg Ctx.legq hrest,
        (congrArg (·.seed.toNat) hrest).trans (Nat.mod_eq_of_lt (memNat_lt s.mem (pa + 48) 4)),
        (congrArg (·.nondet.toNat) hrest).trans (Nat.mod_eq_of_lt hnondet), congrArg Ctx.dq hrest,
        (congrArg (·.objtb.toNat) hrest).trans (h64 0), (congrArg (·.tmplb.toNat) hrest).trans (h64 8),
        (congrArg (·.ovlb.toNat) hrest).trans (h64 16), (congrArg (·.scrb.toNat) hrest).trans (h64 24),
        (congrArg (·.trapv0.toNat) hrest).trans (h64 32), congrArg Ctx.dbg hrest, congrArg Ctx.ncore8 hrest, congrArg Ctx.quads hrest,
        congrArg Ctx.span hrest, congrArg Ctx.nextOrd hrest, fun g hg => ?_⟩
      exact hplaced.atStart g hg

end Sys2Proof.Machine

/-! SUPPORT. The matrix unit's product with a context in hand that is absent (R208, R287); the refutation of O44. -/

namespace Sys2Proof.Machine

/-- The unit completes a product of a running group: its batches alone change (R208). -/
theorem completeOldest_product {b : Block} {g : Group} {num : Option Nat} {clear : Bool} {tile : Nat} {desc : List Word} {slot : Option Cells}
    {rest : List Member} {l : List Batch} (hb : g.batches = ⟨num, .product clear tile desc slot :: rest⟩ :: l) (hs : g.status = .running) :
    (completeOldest b g).2 = { g with batches := dropComplete (⟨num, rest⟩ :: l) } := by
  unfold completeOldest
  rw [hb]
  have hd : dropComplete (⟨num, .product clear tile desc slot :: rest⟩ :: l) = ⟨num, .product clear tile desc slot :: rest⟩ :: l := by
    cases num <;> rfl
  simp only [hd, completeMember, hs]

/-- A pre-empted group with one product pending. -/
def strayMember : Group :=
  { Group.none with status := .running, preempted := true, batches := [⟨none, [.product true 0 [] none]⟩] }

/-- The block of the group, with its share of the unit at rest. -/
def strayBlock : Block :=
  ⟨0, 0, 1, 1, 0, 0, [], 0, 1, [], [], [], [], [], [], [], [], [], [], Vector.replicate 16 ⟨0, 0, [], []⟩, 0, false, false⟩

/-- A module whose absent context in hand places that group, with a translation mark in the line of the group's saved image. -/
def strayUnit : State := { State.reset with
  mem := strayImages
  cpu := { State.reset.cpu with
    grp := strayMember
    hw := { Module.reset with tmarks := [0x1000000] }
    ctx := { Ctx.none with objtb := 0x10001, blocks := [strayBlock] } } }

theorem strayUnit_noneSaved : NoneSaved strayUnit := fun x hx => by
  rw [State.contexts_of_absent rfl] at hx
  exact absurd hx List.not_mem_nil

theorem strayUnit_groups : strayUnit.cpu.groups = [strayMember] := by rfl

theorem strayUnit_record : (recordOf strayUnit.cpu.hw strayImages 0x10001 1).map (fun r => translate strayImages r (imageOff strayMember)) =
    some (.at 0x1000000) := by decide +kernel

/-- The unit's step, where the group has its block: the completion, and what it writes for a saved group. -/
theorem productStep_of_block {gid : Nat} {s : State} {g : Group} {b : Block} (hg : s.cpu.find gid = some g) (hb : s.cpu.ctx.block g = some b) :
    productStep gid s = s.keepSaved fun _ => s.onCpu fun c =>
      ({ c with ctx := c.ctx.setBlock (completeOldest b g).1 } : Cpu).onGid gid fun _ => (completeOldest b g).2 := by
  unfold productStep State.keepSaved
  simp only [State.onCpu, hg, hb]

/-- The group after its member: nothing is pending. -/
def doneMember : Group := { strayMember with batches := [⟨none, []⟩] }

theorem strayUnit_done : (completeOldest strayBlock strayMember).2 = doneMember :=
  (completeOldest_product (num := none) (rest := []) (l := []) rfl rfl).trans rfl

/-- The completion writes the image of the group, whose line has a mark. -/
theorem strayUnit_logs : (productStep 0 strayUnit).cpu.hw.log ≠ strayUnit.cpu.hw.log := by
  obtain ⟨r, hr, hpa⟩ := Option.map_eq_some_iff.1 strayUnit_record
  rw [productStep_of_block (g := strayMember) (b := strayBlock) rfl rfl, strayUnit_done]
  refine keepSaved_log_ne (g := doneMember) (pa := 0x1000000) (List.mem_singleton.2 rfl) rfl ?_ rfl hr hpa (List.mem_singleton.2 rfl)
  rw [strayUnit_groups, List.mem_singleton]
  exact fun h => absurd (congrArg Group.batches h) (by decide)

/-- Refutes O44 by `strayUnit`: an absent context is none of the module's contexts, so that `NoneSaved` holds whatever its groups are, and
the completion of the member writes the group's image into a marked line, which the log records; the statement has the log unchanged. -/
theorem not_engineSteps : ¬ Obligations.EngineSteps := by
  unfold Obligations.EngineSteps
  rintro ⟨hunit, -⟩
  obtain ⟨t, _, _, hexec, hhw, -⟩ := hunit strayUnit strayBlock none (.product true 0 [] none) [] [] strayUnit_noneSaved (by decide)
    (fun h hh => absurd hh List.not_mem_nil) rfl rfl
  obtain rfl : productStep 0 strayUnit = t := Host.Outcome.next.inj hexec
  exact strayUnit_logs (congrArg Module.log hhw)

end Sys2Proof.Machine

/-! SUPPORT. The words of R134 and R135 on INT: one shared operation, and its results as exact numbers wrapped or clamped (R68; O1). -/

namespace Sys2Proof.Machine

/-- The element operation of each word of R134 and R135 that takes INT. -/
def IntOp.elem : IntOp → Nat → Bool → Bool → Nat → Nat → Nat → Nat
  | .add => eAdd
  | .sub => eSub
  | .mul => eMul
  | .mulh => eMulh
  | .mad => eMad
  | .min => eMin
  | .max => eMax
  | .abs => eAbs
  | .neg => eNeg
  | .shl => eShl
  | .shr => eShr
  | .sar => eSar
  | .rot => eRot
  | .clz => eClz
  | .popc => ePopc
  | .brev => eBrev

/-- The register that the operation reads as a: a word of one source reads v252, whose value it ignores. -/
def IntOp.srcA (o : IntOp) (a : BitVec 8) : BitVec 8 := if o.unary then 252 else a

theorem exec_intOp (o : IntOp) (d a : BitVec 8) (b : Src) (s : State) :
    exec (o.word d a b) s = issue noPre (vecOp isInt d (o.srcA a) b (intLane o.elem)) (o.word d a b) s := by
  cases o <;> cases b <;> rfl

theorem writable_of_intOp {o : IntOp} {d a : BitVec 8} {b : Src} {g : Group} (h : Issues (o.word d a b) g) : g.Writable d := by
  have hn := namesOk_of_issues h
  obtain ⟨-, hw⟩ := h
  refine writable_of ?_ fun hin => ?_
  · cases o <;> cases b <;> simp_all [IntOp.word, namesOk]
  · specialize hw hin
    cases o <;> cases b <;> simp_all [IntOp.word, windowOk]

theorem IntOp.elem_of_unary {o : IntOp} (h : o.unary = true) (n : Nat) (sg sat : Bool) (x x' y z : Nat) :
    o.elem n sg sat x y z = o.elem n sg sat x' y z := by
  cases o
  case abs | neg | clz | popc | brev => rfl
  all_goals exact Bool.noConfusion h

theorem IntOp.elem_srcA (o : IntOp) (n : Nat) (sg sat : Bool) (f : BitVec 8 → Nat) (a : BitVec 8) (y z : Nat) :
    o.elem n sg sat (f (o.srcA a)) y z = o.elem n sg sat (f a) y z := by
  unfold srcA
  split
  · next h => exact elem_of_unary h n sg sat _ _ y z
  · rfl

theorem vecMode_srcA {o : IntOp} {d a : BitVec 8} {b : Src} {g : Group} (h : VecMode isInt g [d] (if o.unary then [] else [a]) [b]) :
    VecMode isInt g [d] [o.srcA a] [b] := by
  refine ⟨h.1, fun hw => ?_⟩
  obtain ⟨hd, ha, hb⟩ := h.2 hw
  refine ⟨hd, fun n hn => ?_, hb⟩
  rw [List.mem_singleton.1 hn]
  unfold IntOp.srcA
  split
  · decide
  · next hu => exact ha a (by simp [hu])

/-- A word of R134 or R135 retires with its element operation in every element. -/
theorem intOp_did {o : IntOp} {d a : BitVec 8} {b : Src} {s : State} (hi : Issues (o.word d a b) s.cpu.grp)
    (hm : VecMode isInt s.cpu.grp [d] (if o.unary then [] else [a]) [b]) :
    let g := s.cpu.grp
    let wide := isWide g.ety
    let n := etyBits g.ety
    ∃ t, exec (o.word d a b) s = .next t ∧ Did (o.word d a b) (vecDst wide d) s t ∧ Shifted wide d g t.cpu.grp ∧
      ElemResults d g t.cpu.grp fun j e r => r = o.elem n (etySigned g.ety) g.sat (elemIn g (g.laneV wide a j) e)
        (elemIn g (srcLane g wide b j) e) (elemIn g (g.laneV wide d j) e) % 2 ^ n := by
  intro g wide n
  obtain ⟨hdid, hshift, hlane⟩ := vecOp_did (f := intLane o.elem) (i := o.word d a b) (vecMode_srcA hm) (writable_of_intOp hi)
  refine ⟨_, (exec_intOp o d a b s).trans (issue_of_issues hi rfl), hdid, hshift, elemResults_of_lanes hlane (fun j => rfl) fun j hj e he => ?_⟩
  exact congrArg (· % 2 ^ n) (o.elem_srcA n _ _ (fun x => elemIn g (g.laneV wide x j) e) a _ _)

/-! ### Arithmetic results (R68, R134) -/

theorem toI_mod (n : Nat) (sg : Bool) (x : Nat) : toI n sg (x % 2 ^ n) = toI n sg x := by
  unfold toI; rw [Nat.mod_mod]

theorem mulh_emod {n : Nat} (x : Int) : ((wrapI n x % 2 ^ n : Nat) : Int) = x % 2 ^ n := by
  rw [Nat.mod_eq_of_lt (wrapI_lt n x), wrapI_cast]

theorem fits_mod {n : Nat} (hn : 0 < n) (sg sat : Bool) (x : Int) : Fits n sg sat x (fitI n sg sat x % 2 ^ n) := by
  rw [Nat.mod_eq_of_lt (fitI_lt n sg sat x)]
  exact fits_fitI hn sg sat x

/-- The words of R134 that compute a number; the others move bits (R135). -/
theorem IntOp.result_elem {o : IntOp} (h : o ∈ [.add, .sub, .mul, .mulh, .mad, .min, .max, .abs, .neg]) {n : Nat} (hn : 0 < n)
    (sg sat : Bool) (a b d : Nat) : o.Result n sg sat a b d (o.elem n sg sat a b d % 2 ^ n) := by
  cases o
  case add | sub | mul | mad | neg => exact fits_mod hn sg sat _
  case abs =>
    show Fits n sg sat |toI n sg b| (fitI n sg sat ((toI n sg b).natAbs : Int) % 2 ^ n)
    rw [Int.natCast_natAbs]
    exact fits_mod hn sg sat _
  case mulh => exact mulh_emod _
  case min =>
    show toI n sg (eMin n sg sat a b d % 2 ^ n) = _
    rw [toI_mod]
    unfold eMin
    split
    · next h => exact (min_eq_left h).symm
    · next h => exact (min_eq_right (not_le.1 h).le).symm
  case max =>
    show toI n sg (eMax n sg sat a b d % 2 ^ n) = _
    rw [toI_mod]
    unfold eMax
    split
    · next h => exact (max_eq_right h).symm
    · next h => exact (max_eq_left (not_le.1 h).le).symm
  all_goals simp at h

theorem ElemResults.mono {d : BitVec 8} {g h : Group} {R R' : Nat → Nat → Nat → Prop} (hr : ElemResults d g h R)
    (himp : ∀ j e r, R j e r → R' j e r) : ElemResults d g h R' := fun j => by
  have hj := hr j
  split
  · next ha => rw [if_pos ha] at hj; exact fun e he => himp _ _ _ (hj e he)
  · next ha => rwa [if_neg ha] at hj

theorem etyBits_pos (t : Nat) : 0 < etyBits t := by
  rcases etyBits_width t with h | h | h | h <;> omega

/-- Settles O1: each word is its element operation in every element of the shared operation, and the operation's result is that of R134. -/
theorem vectorArithmetic : Obligations.VectorArithmetic := by
  unfold Obligations.VectorArithmetic
  intro o d a b s ho i g wide hi hm
  obtain ⟨t, ht, hdid, hshift, hres⟩ := intOp_did hi hm
  exact ⟨t, ht, hdid, hshift, hres.mono fun j e r hr => hr ▸ IntOp.result_elem ho (etyBits_pos _) _ _ _ _ _⟩

end Sys2Proof.Machine

/-! SUPPORT. Rounding a magnitude to a multiple of a power of two, and to a format (R58, R64, R69, R387; O10). -/

namespace Sys2Proof.Machine

/-! ### Rounding on a grid (R64) -/

/-- The factor that a sign bit stands for. -/
def sgn (neg : Bool) : Int := if neg then -1 else 1

@[simp] theorem sgn_true : sgn true = -1 := rfl
@[simp] theorem sgn_false : sgn false = 1 := rfl
@[simp] theorem abs_sgn_mul (neg : Bool) (q : ℚ) : |(sgn neg : ℚ) * q| = |q| := by cases neg <;> simp
@[simp] theorem abs_sgn_mul_int (neg : Bool) (k : Int) : |sgn neg * k| = |k| := by cases neg <;> simp
theorem sgn_mul_mul (neg : Bool) (a b : ℚ) : (sgn neg : ℚ) * a * (sgn neg * b) = a * b := by cases neg <;> simp
theorem cast_sgn (neg : Bool) : ((sgn neg : Int) : ℚ) = if neg then -1 else 1 := by cases neg <;> simp

/-- Whether a mode of RND goes on to the next multiple from one that lies a fraction φ below a value (R64). -/
def roundsUp (mode : Nat) (w : Word) (neg : Bool) (lo : Nat) (φ : ℚ) : Bool :=
  match mode with
  | 1 => false
  | 2 => !neg
  | 3 => neg
  | 4 => decide (2 ^ 32 ≤ ⌊φ * 2 ^ 32⌋ + w.toNat)
  | _ => decide (1 / 2 < φ) || (decide (φ = 1 / 2) && lo % 2 == 1)

/-- A multiple of the grid is its own rounding. -/
theorem roundsBy_exact (mode : Nat) (w : Word) (neg : Bool) (n : Nat) : RoundsBy mode w (sgn neg * n) (sgn neg * n) := by
  have hint : ((sgn neg : ℚ) * n) = ((sgn neg * n : Int) : ℚ) := by push_cast; rfl
  unfold RoundsBy
  split
  · have := w.isLt
    refine ⟨?_, ?_⟩
    · rw [abs_sgn_mul, abs_sgn_mul_int, Nat.abs_cast, Nat.abs_cast, Int.floor_natCast, Int.cast_natCast, sub_self, zero_mul, Int.floor_zero,
        if_neg (by omega)]
    · rw [hint]; exact mul_self_nonneg _
  · rw [hint]
    unfold RoundsToInt
    split
    · rw [Int.ceil_intCast, Int.floor_intCast, ite_self]
    · rw [Int.ceil_intCast]
    · rw [Int.floor_intCast]
    · norm_num

section
variable {lo : Nat} {φ : ℚ} (h0 : 0 < φ) (h1 : φ < 1)
include h0 h1

theorem floor_sgn_mul (neg : Bool) : ⌊(sgn neg : ℚ) * (lo + φ)⌋ = if neg then -(lo + 1 : Int) else lo := by
  cases neg <;> rw [Int.floor_eq_iff] <;> push_cast <;> constructor <;> simp <;> linarith

theorem ceil_sgn_mul (neg : Bool) : ⌈(sgn neg : ℚ) * (lo + φ)⌉ = if neg then -(lo : Int) else lo + 1 := by
  cases neg <;> rw [Int.ceil_eq_iff] <;> push_cast <;> constructor <;> simp <;> linarith

/-- To nearest even: the nearer of the two multiples. -/
theorem nearest_between (lo' : Nat) (hlo : lo' = if decide (1 / 2 < φ) || (decide (φ = 1 / 2) && lo % 2 == 1) then lo + 1 else lo) :
    |(lo : ℚ) + φ - lo'| ≤ 1 / 2 ∧ (|(lo : ℚ) + φ - lo'| = 1 / 2 → lo' % 2 = 0) := by
  split at hlo
  · next h =>
    have hφ : 1 / 2 ≤ φ := by
      simp only [Bool.or_eq_true, Bool.and_eq_true, decide_eq_true_eq] at h
      rcases h with h | h
      · exact h.le
      · exact h.1.ge
    have habs : |(lo : ℚ) + φ - lo'| = 1 - φ := by
      rw [hlo, abs_of_nonpos (by push_cast; linarith)]; push_cast; ring
    rw [habs]
    refine ⟨by linarith, fun ht => ?_⟩
    have hφ2 : φ = 1 / 2 := by linarith
    simp [hφ2] at h
    omega
  · next h =>
    simp only [Bool.or_eq_true, Bool.and_eq_true, decide_eq_true_eq, not_or, not_lt, beq_iff_eq] at h
    have habs : |(lo : ℚ) + φ - lo'| = φ := by
      rw [hlo, add_sub_cancel_left, abs_of_pos h0]
    rw [habs]
    refine ⟨h.1, fun ht => ?_⟩
    have := h.2
    simp only [ht, true_and] at this
    omega

/-- The multiple below, or the next one, is the rounding of a value between them. -/
theorem roundsBy_between (mode : Nat) (w : Word) (neg : Bool) :
    RoundsBy mode w (sgn neg * (lo + φ)) (sgn neg * (if roundsUp mode w neg lo φ then lo + 1 else lo : Nat)) := by
  have hfl := floor_sgn_mul (lo := lo) h0 h1
  have hce := ceil_sgn_mul (lo := lo) h0 h1
  have hpos : (0 : ℚ) < lo + φ := by positivity
  unfold RoundsBy
  split
  next h4 =>
    subst h4
    have hfloor : ⌊(lo : ℚ) + φ⌋ = lo := by simpa using hfl false
    refine ⟨?_, ?_⟩
    · rw [abs_sgn_mul, abs_sgn_mul_int, abs_of_pos hpos, hfloor, Nat.abs_cast]
      simp only [roundsUp, Int.cast_natCast, add_sub_cancel_left, decide_eq_true_eq]
      split <;> push_cast <;> rfl
    · push_cast
      rw [sgn_mul_mul]
      positivity
  next h4 =>
    unfold RoundsToInt
    split
    · have hlt : (sgn neg : ℚ) * (lo + φ) < 0 ↔ neg = true := by cases neg <;> simp <;> linarith
      rw [hfl, hce]
      simp only [hlt]
      cases neg <;> simp [roundsUp]
    · rw [hce]; cases neg <;> simp [roundsUp]
    · rw [hfl]; cases neg <;> simp [roundsUp]
    · next h1' h2' h3' =>
      have hup : roundsUp mode w neg lo φ = (decide (1 / 2 < φ) || (decide (φ = 1 / 2) && lo % 2 == 1)) := by
        unfold roundsUp
        split
        · exact absurd rfl h1'
        · exact absurd rfl h2'
        · exact absurd rfl h3'
        · exact absurd rfl h4
        · rfl
      rw [hup]
      generalize hk : (if (decide (1 / 2 < φ) || (decide (φ = 1 / 2) && lo % 2 == 1)) = true then lo + 1 else lo) = k
      obtain ⟨hle, htie⟩ := nearest_between h0 h1 k hk.symm
      have habs : |(sgn neg : ℚ) * (lo + φ) - ((sgn neg * (k : Int) : Int) : ℚ)| = |(lo : ℚ) + φ - k| := by
        push_cast
        rw [← mul_sub, abs_sgn_mul]
      rw [habs]
      refine ⟨hle, fun ht => ?_⟩
      have := htie ht
      cases neg <;> simp <;> omega
end

/-! ### Magnitudes -/

/-- The number that a magnitude is. -/
def Mag.val (x : Mag) : ℚ := (x.n : ℚ) / x.d * 2 ^ x.e

theorem Mag.val_nonneg (x : Mag) : 0 ≤ x.val := by unfold val; positivity

theorem Mag.scale_ne_zero {x : Mag} (hd : x.d ≠ 0) (t : Int) : (x.scale t).2 ≠ 0 := by
  unfold scale
  dsimp only
  split
  · exact hd
  · positivity

/-- The fraction that a magnitude is in units of 2^t. -/
theorem Mag.scale_div (x : Mag) (t : Int) : ((x.scale t).1 : ℚ) / (x.scale t).2 = x.val / 2 ^ t := by
  have hpow : (2 : ℚ) ^ x.e / 2 ^ t = 2 ^ (x.e - t) := (zpow_sub₀ two_ne_zero _ _).symm
  unfold scale val
  rw [mul_div_assoc, hpow]
  dsimp only
  split
  · next h =>
    lift x.e - t to ℕ using h with k
    push_cast
    rw [zpow_natCast, Int.toNat_natCast]
    ring
  · next h =>
    obtain ⟨k, hk⟩ : ∃ k : ℕ, x.e - t = -k := ⟨(-(x.e - t)).toNat, by omega⟩
    rw [hk]
    push_cast
    rw [zpow_neg, zpow_natCast, neg_neg, Int.toNat_natCast, div_mul_eq_div_div]
    ring

/-- What `round` makes of the fraction: the multiple below where nothing is left, else one of the two about it. -/
theorem Mag.round_spec {x : Mag} (hd : x.d ≠ 0) (t : Int) (mode : Nat) (w : Word) (neg : Bool) :
    ∃ (lo : ℕ) (φ : ℚ), x.val / 2 ^ t = lo + φ ∧
      (φ = 0 ∧ x.round t mode w neg = (lo, false) ∨
        0 < φ ∧ φ < 1 ∧ x.round t mode w neg = (if roundsUp mode w neg lo φ then lo + 1 else lo, true)) := by
  have hdiv := x.scale_div t
  have hd' := Mag.scale_ne_zero hd t
  unfold round
  dsimp only
  generalize (x.scale t).1 = n, (x.scale t).2 = d at hdiv hd' ⊢
  have hpos : (0 : ℚ) < d := by positivity
  refine ⟨n / d, (n % d : ℕ) / d, ?_, ?_⟩
  · rw [← hdiv, div_eq_iff hpos.ne', add_mul, div_mul_cancel₀ _ hpos.ne']
    exact_mod_cast (Nat.div_add_mod' n d).symm
  · by_cases hr : n % d = 0
    · exact Or.inl ⟨by simp [hr], if_pos hr⟩
    · refine Or.inr ⟨by positivity, (div_lt_one hpos).2 (by exact_mod_cast Nat.mod_lt n (Nat.pos_of_ne_zero hd')), ?_⟩
      rw [if_neg hr]
      have hlt : (1 : ℚ) / 2 < (n % d : ℕ) / d ↔ d < 2 * (n % d) := by
        rw [div_lt_div_iff₀ two_pos hpos]; norm_cast; omega
      have heq : ((n % d : ℕ) : ℚ) / d = 1 / 2 ↔ d = 2 * (n % d) := by
        rw [div_eq_div_iff hpos.ne' two_ne_zero]; norm_cast; omega
      have hsr : ⌊((n % d : ℕ) : ℚ) / d * 2 ^ 32⌋ = (n % d * 2 ^ 32 / d : ℕ) := by
        rw [div_mul_eq_mul_div]; exact_mod_cast Rat.floor_natCast_div_natCast _ _
      obtain _ | _ | _ | _ | _ | mode := mode
      case succ.succ.succ.succ.zero =>
        have h4 : (2 : Int) ^ 32 ≤ (n % d * 2 ^ 32 / d : ℕ) + w.toNat ↔ 2 ^ 32 ≤ n % d * 2 ^ 32 / d + w.toNat := by norm_cast
        simp only [roundsUp, hsr, h4]
      case succ.zero | succ.succ.zero | succ.succ.succ.zero => rfl
      all_goals simp only [roundsUp, hlt, heq]

section
variable {x : Mag} (hd : x.d ≠ 0) (t : Int) (mode : Nat) (w : Word) (neg : Bool)
include hd

/-- `round` rounds by the mode. -/
theorem Mag.round_roundsBy : RoundsBy mode w (sgn neg * x.val / 2 ^ t) (sgn neg * (x.round t mode w neg).1) := by
  obtain ⟨lo, φ, hval, ⟨rfl, hr⟩ | ⟨h0, h1, hr⟩⟩ := x.round_spec hd t mode w neg
  · rw [mul_div_assoc, hval, hr, add_zero]
    exact roundsBy_exact mode w neg lo
  · rw [mul_div_assoc, hval, hr]
    exact roundsBy_between h0 h1 mode w neg

/-- It tells whether the multiple differs from the value. -/
theorem Mag.round_inexact : (x.round t mode w neg).2 = true ↔ ((x.round t mode w neg).1 : ℚ) ≠ x.val / 2 ^ t := by
  obtain ⟨lo, φ, hval, ⟨rfl, hr⟩ | ⟨h0, h1, hr⟩⟩ := x.round_spec hd t mode w neg
  · simp [hval, hr]
  · rw [hval, hr]
    dsimp only
    refine iff_of_true rfl ?_
    split <;> push_cast <;> intro h <;> linarith

/-- Rounding never goes past a multiple of the grid. -/
theorem Mag.le_round {n : Nat} (h : (n : ℚ) ≤ x.val / 2 ^ t) : n ≤ (x.round t mode w neg).1 := by
  obtain ⟨lo, φ, hval, ⟨rfl, hr⟩ | ⟨h0, h1, hr⟩⟩ := x.round_spec hd t mode w neg
  · rw [hr]; rw [hval, add_zero] at h; exact_mod_cast h
  · rw [hr]
    have hlo : n ≤ lo := by
      have : (n : ℚ) < (lo + 1 : ℕ) := by push_cast; linarith
      exact Nat.lt_succ_iff.1 (by exact_mod_cast this)
    dsimp only
    split <;> omega

theorem Mag.round_le {n : Nat} (h : x.val / 2 ^ t ≤ n) : (x.round t mode w neg).1 ≤ n := by
  obtain ⟨lo, φ, hval, ⟨rfl, hr⟩ | ⟨h0, h1, hr⟩⟩ := x.round_spec hd t mode w neg
  · rw [hr]; rw [hval, add_zero] at h; exact_mod_cast h
  · rw [hr]
    have hlo : lo < n := by
      have : (lo : ℚ) < n := by linarith
      exact_mod_cast this
    dsimp only
    split <;> omega
end

/-- A mode rounds a value to one magnitude. -/
theorem RoundsBy.abs_unique {mode : Nat} {w : Word} {q : ℚ} {k k' : Int} (h : RoundsBy mode w q k) (h' : RoundsBy mode w q k') : |k| = |k'| := by
  unfold RoundsBy at h h'
  split at h
  · rw [if_pos ‹_›] at h'
    exact h.1.trans h'.1.symm
  · rw [if_neg ‹_›] at h'
    unfold RoundsToInt at h h'
    split at h
    case h_1 | h_2 | h_3 => exact congrArg _ (h.trans h'.symm)
    case h_4 h1 h2 h3 =>
      split at h'
      · exact absurd rfl h1
      · exact absurd rfl h2
      · exact absurd rfl h3
      · obtain ⟨hk, hkt⟩ := h
        obtain ⟨hk', hkt'⟩ := h'
        by_contra hne
        have hne' : k ≠ k' := fun e => hne (congrArg _ e)
        have hdist : (1 : ℚ) ≤ |(k : ℚ) - k'| := by
          exact_mod_cast Int.one_le_abs (sub_ne_zero.2 hne')
        have htri : |(k : ℚ) - k'| ≤ |q - k| + |q - k'| := by
          rw [abs_sub_comm q k]
          simpa using abs_sub_le (k : ℚ) q k'
        have hek := hkt (by linarith)
        have hek' := hkt' (by linarith)
        have hle : |k - k'| ≤ 1 := by
          have : |(k : ℚ) - k'| ≤ 1 := by linarith
          exact_mod_cast this
        rw [abs_le] at hle
        omega

/-- The floor of the logarithm of a magnitude that is not zero. -/
theorem Mag.log_spec {x : Mag} (hn : x.n ≠ 0) (hd : x.d ≠ 0) : (2 : ℚ) ^ x.log ≤ x.val ∧ x.val < 2 ^ (x.log + 1) := by
  have hscale := Mag.scale_div ⟨x.n, x.d, 0⟩ ((x.n.log2 : Int) - x.d.log2)
  have hd' := Mag.scale_ne_zero (x := ⟨x.n, x.d, 0⟩) hd ((x.n.log2 : Int) - x.d.log2)
  unfold log
  dsimp only
  generalize ((⟨x.n, x.d, 0⟩ : Mag).scale ((x.n.log2 : Int) - x.d.log2)).1 = n,
    ((⟨x.n, x.d, 0⟩ : Mag).scale ((x.n.log2 : Int) - x.d.log2)).2 = d at hscale hd' ⊢
  have hdpos : (0 : ℚ) < d := by positivity
  have hxd : (0 : ℚ) < x.d := by positivity
  have hn1 : (2 : ℚ) ^ (x.n.log2 : Int) ≤ x.n := by exact_mod_cast Nat.log2_self_le hn
  have hn2 : (x.n : ℚ) < 2 ^ ((x.n.log2 : Int) + 1) := by exact_mod_cast Nat.lt_log2_self
  have hd1 : (2 : ℚ) ^ (x.d.log2 : Int) ≤ x.d := by exact_mod_cast Nat.log2_self_le hd
  have hd2 : (x.d : ℚ) < 2 ^ ((x.d.log2 : Int) + 1) := by exact_mod_cast Nat.lt_log2_self
  generalize (x.n.log2 : Int) = a at *
  generalize (x.d.log2 : Int) = b at *
  have hq : x.val = (x.n : ℚ) / x.d * 2 ^ x.e := rfl
  have hs : (n : ℚ) / d = x.n / x.d / 2 ^ (a - b) := by rw [hscale]; simp [val]
  have hlow : (2 : ℚ) ^ (a - b - 1) ≤ x.n / x.d := by
    rw [le_div_iff₀ hxd]
    calc (2 : ℚ) ^ (a - b - 1) * x.d ≤ 2 ^ (a - b - 1) * 2 ^ (b + 1) := by gcongr
      _ = 2 ^ a := by rw [← zpow_add₀ two_ne_zero]; congr 1; ring
      _ ≤ x.n := hn1
  have hhigh : (x.n : ℚ) / x.d < 2 ^ (a - b + 1) := by
    rw [div_lt_iff₀ hxd]
    calc (x.n : ℚ) < 2 ^ (a + 1) := hn2
      _ = 2 ^ (a - b + 1) * 2 ^ b := by rw [← zpow_add₀ two_ne_zero]; congr 1; ring
      _ ≤ 2 ^ (a - b + 1) * x.d := by gcongr
  have hcmp : n < d ↔ (x.n : ℚ) / x.d < 2 ^ (a - b) := by
    rw [← div_lt_one (by positivity : (0 : ℚ) < 2 ^ (a - b)), ← hs, div_lt_one hdpos]
    norm_cast
  have he : (0 : ℚ) < 2 ^ x.e := by positivity
  rw [hq]
  split
  · next h =>
    rw [show a - b - 1 + x.e + 1 = a - b + x.e by ring, zpow_add₀ two_ne_zero, zpow_add₀ two_ne_zero]
    exact ⟨by gcongr, by gcongr; exact hcmp.1 h⟩
  · next h =>
    rw [show a - b + x.e + 1 = a - b + 1 + x.e by ring, zpow_add₀ two_ne_zero, zpow_add₀ two_ne_zero]
    exact ⟨by gcongr; exact not_lt.1 fun hl => h (hcmp.2 hl), by gcongr⟩

/-! ### Encodings and their values (R58) -/

/-- The exponent field of the top binade, and the largest significand in it. -/
def Fmt.topEx (f : Fmt) : Nat := if f.top = .ieee then 2 ^ f.ebits - 2 else 2 ^ f.ebits - 1
def Fmt.maxSig (f : Fmt) : Nat := if f.top = .e4m3 then 2 ^ (f.fbits + 1) - 2 else 2 ^ (f.fbits + 1) - 1

theorem topExp_eq (f : Fmt) : topExp f = f.topEx - f.bias := rfl

/-- What the formats of R58 have in common. -/
structure FmtOk (f : Fmt) : Prop where
  fbits : 0 < f.fbits
  bias : 0 < f.bias
  top : 1 < f.topEx

theorem fmtOf_ok {c : Nat} (hc : c < 6) : FmtOk (fmtOf c) := by
  interval_cases c <;> exact ⟨by decide, by decide, by decide⟩

theorem fmtOf_bits {c : Nat} (hc : c < 6) : (fmtOf c).ebits + (fmtOf c).fbits + 1 = fmtBits c := by
  interval_cases c <;> rfl

theorem fmtOf_top {c : Nat} (hc : c < 6) :
    ((fmtOf c).top = .none ↔ c = 5) ∧ ((fmtOf c).top = .e4m3 ↔ c = 3) ∧ ((fmtOf c).flush = true ↔ c < 3) := by
  interval_cases c <;> decide

section
variable {f : Fmt}

theorem pow_succ_fbits (f : Fmt) : 2 ^ (f.fbits + 1) = 2 * 2 ^ f.fbits := by rw [pow_succ, mul_comm]

theorem FmtOk.two_le (hf : FmtOk f) : 2 ≤ 2 ^ f.fbits := by
  calc 2 = 2 ^ 1 := rfl
    _ ≤ 2 ^ f.fbits := Nat.pow_le_pow_right (by decide) hf.fbits

theorem FmtOk.maxSig_bounds (hf : FmtOk f) : 2 ^ f.fbits ≤ f.maxSig ∧ f.maxSig < 2 * 2 ^ f.fbits := by
  have := hf.two_le
  unfold Fmt.maxSig
  rw [pow_succ_fbits]
  split <;> omega

theorem FmtOk.topEx_lt (hf : FmtOk f) : f.topEx < 2 ^ f.ebits := by
  have h := hf.top
  unfold Fmt.topEx at h ⊢
  split at h
  · next ht => rw [if_pos ht]; omega
  · next ht => rw [if_neg ht]; omega

/-- The largest finite encoding is the largest significand of the top binade. -/
theorem FmtOk.maxF_eq (hf : FmtOk f) (neg : Bool) : maxF f neg + 2 ^ f.fbits = signF f neg + (f.topEx * 2 ^ f.fbits + f.maxSig) := by
  have h2 := hf.two_le
  have ht := hf.top
  have hlt := hf.topEx_lt
  have hmul : f.topEx * 2 ^ f.fbits + 2 ^ f.fbits ≤ 2 ^ f.ebits * 2 ^ f.fbits := by
    rw [← Nat.succ_mul]; exact Nat.mul_le_mul_right _ hlt
  unfold maxF Fmt.maxSig
  unfold Fmt.topEx at ht hmul ⊢
  rw [pow_succ_fbits, pow_add]
  cases h : f.top with
  | ieee =>
    rw [h] at ht hmul
    simp only [if_true, reduceCtorEq, if_false] at ht hmul ⊢
    have : (2 ^ f.ebits - 1) * 2 ^ f.fbits = (2 ^ f.ebits - 2) * 2 ^ f.fbits + 2 ^ f.fbits := by
      rw [← Nat.succ_mul]; congr 1; omega
    omega
  | e4m3 =>
    rw [h] at ht hmul
    simp only [if_true, reduceCtorEq, if_false] at ht hmul ⊢
    have : 2 ^ f.ebits * 2 ^ f.fbits = (2 ^ f.ebits - 1) * 2 ^ f.fbits + 2 ^ f.fbits := by
      rw [← Nat.succ_mul]; congr 1; omega
    omega
  | none =>
    rw [h] at ht hmul
    simp only [reduceCtorEq, if_false] at ht hmul ⊢
    have : 2 ^ f.ebits * 2 ^ f.fbits = (2 ^ f.ebits - 1) * 2 ^ f.fbits + 2 ^ f.fbits := by
      rw [← Nat.succ_mul]; congr 1; omega
    omega

@[simp] theorem signF_false (f : Fmt) : signF f false = 0 := rfl

theorem FmtOk.maxF_lt (hf : FmtOk f) : maxF f false < 2 ^ (f.ebits + f.fbits) := by
  have h := hf.maxF_eq false
  have hs := hf.maxSig_bounds
  have hmul : f.topEx * 2 ^ f.fbits + 2 ^ f.fbits ≤ 2 ^ f.ebits * 2 ^ f.fbits := by
    rw [← Nat.succ_mul]; exact Nat.mul_le_mul_right _ hf.topEx_lt
  rw [pow_add]
  rw [signF_false] at h
  omega

/-- The value of an encoding without its sign. -/
def valF (f : Fmt) (b : Nat) : ℚ :=
  if b / 2 ^ f.fbits = 0 then (b % 2 ^ f.fbits : ℕ) * 2 ^ (1 - (f.bias : Int) - f.fbits)
  else (b % 2 ^ f.fbits + 2 ^ f.fbits : ℕ) * 2 ^ ((b / 2 ^ f.fbits : ℕ) - (f.bias : Int) - f.fbits)

/-- The fields of an encoding with a sign. -/
theorem fields_signF {neg : Bool} {b : Nat} (hb : b < 2 ^ (f.ebits + f.fbits)) :
    (signF f neg + b) % 2 ^ f.fbits = b % 2 ^ f.fbits ∧ (signF f neg + b) / 2 ^ f.fbits % 2 ^ f.ebits = b / 2 ^ f.fbits ∧
      ((signF f neg + b) / 2 ^ (f.fbits + f.ebits) % 2 == 1) = neg := by
  have hpos : 0 < 2 ^ f.fbits := by positivity
  have hdiv : b / 2 ^ f.fbits < 2 ^ f.ebits := by rw [Nat.div_lt_iff_lt_mul hpos, ← pow_add]; exact hb
  have hmod : b / 2 ^ f.fbits % 2 ^ f.ebits = b / 2 ^ f.fbits := Nat.mod_eq_of_lt hdiv
  rw [add_comm f.fbits f.ebits]
  cases neg
  · simp [signF, hmod, Nat.div_eq_of_lt hb]
  · have hsign : signF f true = 2 ^ f.fbits * 2 ^ f.ebits := by rw [← pow_add, add_comm]; rfl
    refine ⟨?_, ?_, ?_⟩
    · rw [hsign, Nat.mul_add_mod]
    · rw [hsign, Nat.mul_add_div hpos, Nat.add_mod_left, hmod]
    · have : (signF f true + b) / 2 ^ (f.ebits + f.fbits) = 1 := by
        show (2 ^ (f.ebits + f.fbits) + b) / _ = 1
        rw [Nat.add_div_left _ (by positivity), Nat.div_eq_of_lt hb]
      rw [this]; rfl

/-- Every encoding is a sign and the bits below it. -/
theorem exists_signF {u : Nat} (hu : u < 2 ^ (f.ebits + f.fbits + 1)) : ∃ neg b, u = signF f neg + b ∧ b < 2 ^ (f.ebits + f.fbits) := by
  rw [pow_succ] at hu
  by_cases h : u < 2 ^ (f.ebits + f.fbits)
  · exact ⟨false, u, by simp, h⟩
  · exact ⟨true, u - 2 ^ (f.ebits + f.fbits), by simp only [signF, if_true]; omega, by omega⟩

/-- The encodings above the largest finite one are those that the highest exponent keeps for infinities and NaNs. -/
theorem le_maxF_iff (hf : FmtOk f) {b : Nat} (hb : b < 2 ^ (f.ebits + f.fbits)) : b ≤ maxF f false ↔
    ¬ (f.top = .ieee ∧ b / 2 ^ f.fbits = 2 ^ f.ebits - 1) ∧
      ¬ (f.top = .e4m3 ∧ b / 2 ^ f.fbits = 2 ^ f.ebits - 1 ∧ b % 2 ^ f.fbits = 2 ^ f.fbits - 1) := by
  have h2 := hf.two_le
  have hx : 0 < 2 ^ f.fbits := by omega
  have hy : 0 < 2 ^ f.ebits := by positivity
  have hlt : b / 2 ^ f.fbits < 2 ^ f.ebits := by rw [Nat.div_lt_iff_lt_mul hx, ← pow_add]; exact hb
  unfold maxF
  rw [signF_false, zero_add]
  rw [pow_add] at hb ⊢
  cases h : f.top with
  | ieee =>
    have hdiv : b / 2 ^ f.fbits < 2 ^ f.ebits - 1 ↔ b < (2 ^ f.ebits - 1) * 2 ^ f.fbits := Nat.div_lt_iff_lt_mul hx
    have hone : 1 < 2 ^ f.ebits := by
      have := hf.top
      rw [Fmt.topEx, if_pos h] at this
      omega
    have hpos : 0 < (2 ^ f.ebits - 1) * 2 ^ f.fbits := Nat.mul_pos (by omega) hx
    simp only [true_and, reduceCtorEq, false_and, not_false_eq_true, and_true]
    omega
  | e4m3 =>
    have hlast : b = 2 ^ f.ebits * 2 ^ f.fbits - 1 ↔ b / 2 ^ f.fbits = 2 ^ f.ebits - 1 ∧ b % 2 ^ f.fbits = 2 ^ f.fbits - 1 := by
      have hdm := Nat.div_add_mod b (2 ^ f.fbits)
      have hmul : 2 ^ f.fbits * (2 ^ f.ebits - 1) + 2 ^ f.fbits = 2 ^ f.ebits * 2 ^ f.fbits := by
        rw [← Nat.mul_succ, mul_comm]; congr 1; omega
      constructor
      · intro hbe
        have hd : b / 2 ^ f.fbits = 2 ^ f.ebits - 1 := by
          refine le_antisymm (by omega) ((Nat.le_div_iff_mul_le hx).2 ?_)
          rw [mul_comm]; omega
        rw [hd] at hdm
        exact ⟨hd, by omega⟩
      · rintro ⟨hd, hm⟩
        rw [hd, hm] at hdm
        omega
    simp only [reduceCtorEq, false_and, not_false_eq_true, true_and]
    rw [← hlast]
    have htwo : 1 * 2 ≤ 2 ^ f.ebits * 2 ^ f.fbits := Nat.mul_le_mul hy h2
    generalize 2 ^ f.ebits * 2 ^ f.fbits = n at hb htwo ⊢
    omega
  | none =>
    simp only [reduceCtorEq, false_and, not_false_eq_true, true_and, iff_true]
    exact Nat.le_sub_one_of_lt hb

/-- An encoding up to the largest finite one has its value; one above has none. -/
theorem rat_decodeF (hf : FmtOk f) {neg : Bool} {b : Nat} (hb : b < 2 ^ (f.ebits + f.fbits)) :
    (decodeF f false (signF f neg + b)).rat = if b ≤ maxF f false then some (sgn neg * valF f b) else none := by
  obtain ⟨hfr, hex, hneg⟩ := fields_signF (f := f) (neg := neg) hb
  have hiff := le_maxF_iff hf hb
  unfold decodeF valF
  simp only [hfr, hex, hneg]
  split
  · next h => rw [if_neg fun hle => (hiff.1 hle).1 h]; split <;> rfl
  · next h1 =>
    split
    · next h => rw [if_neg fun hle => (hiff.1 hle).2 h]; rfl
    · next h2 =>
      rw [if_pos (hiff.2 ⟨h1, h2⟩), cast_sgn]
      split
      · next h0 =>
        have he : (1 : Int) - (f.bias + f.fbits : ℕ) = 1 - f.bias - f.fbits := by push_cast; ring
        simp only [FV.rat, Bool.false_and, Bool.false_eq_true, if_false, he, mul_assoc]
      · next h0 =>
        have he : ((b / 2 ^ f.fbits : ℕ) : Int) - (f.bias + f.fbits : ℕ) = (b / 2 ^ f.fbits : ℕ) - f.bias - f.fbits := by push_cast; ring
        simp only [FV.rat, he, mul_assoc]

/-- The encoding of a significand of up to F + 1 bits in a binade, F of them stored: a carry goes into the exponent (R58). -/
def packF (f : Fmt) (ex m : Nat) : Nat := ex * 2 ^ f.fbits + m - 2 ^ f.fbits

/-- A significand without its first bit is subnormal, and stands in the lowest binade. -/
def SigOk (f : Fmt) (ex m : Nat) : Prop := m ≤ 2 * 2 ^ f.fbits ∧ 1 ≤ ex ∧ (2 ^ f.fbits ≤ m ∨ ex = 1)

theorem packF_add {ex m : Nat} (h : SigOk f ex m) : packF f ex m + 2 ^ f.fbits = ex * 2 ^ f.fbits + m := by
  have : 1 * 2 ^ f.fbits ≤ ex * 2 ^ f.fbits := Nat.mul_le_mul_right _ h.2.1
  unfold packF
  omega

theorem valF_packF {ex m : Nat} (h : SigOk f ex m) : valF f (packF f ex m) = m * 2 ^ ((ex : Int) - f.bias - f.fbits) := by
  have hpack := packF_add h
  obtain ⟨hm, hex, hnorm⟩ := h
  have hX : 0 < 2 ^ f.fbits := by positivity
  obtain ⟨ex, rfl⟩ : ∃ n, ex = n + 1 := ⟨ex - 1, by omega⟩
  have hb : packF f (ex + 1) m = m + 2 ^ f.fbits * ex := by
    rw [Nat.succ_mul, mul_comm ex] at hpack
    omega
  rw [hb]
  unfold valF
  rw [Nat.add_mul_div_left _ _ hX, Nat.add_mul_mod_self_left]
  by_cases hsub : m < 2 ^ f.fbits
  · obtain rfl : ex = 0 := by omega
    rw [Nat.div_eq_of_lt hsub, Nat.mod_eq_of_lt hsub, if_pos rfl]
    rfl
  · by_cases hcarry : m = 2 * 2 ^ f.fbits
    · rw [hcarry, Nat.mul_div_cancel _ hX, Nat.mul_mod_left, if_neg (by omega), zero_add]
      push_cast
      rw [show (2 : Int) + ex - f.bias - f.fbits = 1 + (ex + 1 - f.bias - f.fbits) by ring, zpow_add₀ two_ne_zero, zpow_one]
      ring
    · have hdiv : m / 2 ^ f.fbits = 1 := by rw [Nat.div_eq_iff hX]; omega
      have hmod : m % 2 ^ f.fbits + 2 ^ f.fbits = m := by
        have := Nat.div_add_mod m (2 ^ f.fbits)
        rw [hdiv] at this
        omega
      rw [hdiv, hmod, if_neg (by omega)]
      push_cast
      rw [add_comm (1 : Int)]

/-- Every encoding's value is a significand of F + 1 bits on a grid that is no finer than that of the lowest binade. -/
theorem valF_spaced (b : Nat) : ∃ (m : ℕ) (t : Int), m < 2 * 2 ^ f.fbits ∧ 1 - (f.bias : Int) - f.fbits ≤ t ∧ valF f b = m * 2 ^ t := by
  have hlt : b % 2 ^ f.fbits < 2 ^ f.fbits := Nat.mod_lt _ (by positivity)
  unfold valF
  split
  · exact ⟨_, _, by omega, le_rfl, rfl⟩
  · next h =>
    have : 1 ≤ b / 2 ^ f.fbits := Nat.one_le_iff_ne_zero.2 h
    generalize b / 2 ^ f.fbits = ex at *
    exact ⟨_, _, by omega, by omega, rfl⟩

end

/-! ### The rounding function (R64, R69) -/

section
variable {x : Mag} (hd : x.d ≠ 0) {t : Int} {k : Nat} (mode : Nat) (w : Word) (neg : Bool)
include hd

/-- Rounding keeps to the powers of two about a magnitude. -/
theorem Mag.pow_le_round (h : (2 : ℚ) ^ (t + k) ≤ x.val) : 2 ^ k ≤ (x.round t mode w neg).1 := by
  refine x.le_round hd t mode w neg ?_
  rw [le_div_iff₀ (by positivity)]
  push_cast
  rwa [← zpow_natCast, ← zpow_add₀ two_ne_zero, add_comm]

theorem Mag.round_le_pow (h : x.val ≤ 2 ^ (t + k)) : (x.round t mode w neg).1 ≤ 2 ^ k := by
  refine x.round_le hd t mode w neg ?_
  rw [div_le_iff₀ (by positivity)]
  push_cast
  rwa [← zpow_natCast, ← zpow_add₀ two_ne_zero, add_comm]
end

/-- The exponent of the binade in which a magnitude is rounded, as its encoding has it, and that binade's grid (R58, R64). -/
def roundEx (f : Fmt) (x : Mag) : Nat := (max x.log (1 - f.bias) + f.bias).toNat
def roundGrid (f : Fmt) (x : Mag) : Int := (roundEx f x : Int) - f.bias - f.fbits

section
variable {f : Fmt} (hf : FmtOk f) {x : Mag} (hn : x.n ≠ 0) (hd : x.d ≠ 0) (mode : Nat) (w : Word) (neg : Bool)

theorem roundEx_eq (f : Fmt) (x : Mag) : (roundEx f x : Int) = max x.log (1 - f.bias) + f.bias :=
  Int.toNat_of_nonneg (by omega)

theorem roundGrid_eq (f : Fmt) (x : Mag) : max x.log (1 - f.bias) - f.fbits = roundGrid f x := by
  unfold roundGrid; rw [roundEx_eq]; ring

include hd hn

theorem Mag.val_pos : 0 < x.val := by unfold val; positivity

/-- A magnitude from the lowest normal binade on fills the significand. -/
theorem round_normal (he : 1 - (f.bias : Int) ≤ x.log) : 2 ^ f.fbits ≤ (x.round (roundGrid f x) mode w neg).1 := by
  refine Mag.pow_le_round hd mode w neg (le_trans (zpow_le_zpow_right₀ one_le_two ?_) (Mag.log_spec hn hd).1)
  rw [← roundGrid_eq]
  omega

theorem round_le_carry : (x.round (roundGrid f x) mode w neg).1 ≤ 2 * 2 ^ f.fbits := by
  rw [← pow_succ_fbits]
  refine Mag.round_le_pow hd mode w neg ((Mag.log_spec hn hd).2.le.trans (zpow_le_zpow_right₀ one_le_two ?_))
  rw [← roundGrid_eq]
  push_cast
  omega

theorem round_subnormal (he : x.log < 1 - (f.bias : Int)) : (x.round (roundGrid f x) mode w neg).1 ≤ 2 ^ f.fbits := by
  refine Mag.round_le_pow hd mode w neg ((Mag.log_spec hn hd).2.le.trans (zpow_le_zpow_right₀ one_le_two ?_))
  rw [← roundGrid_eq]
  omega

theorem sigOk_round : SigOk f (roundEx f x) (x.round (roundGrid f x) mode w neg).1 := by
  have hex := roundEx_eq f x
  refine ⟨round_le_carry hn hd mode w neg, by omega, ?_⟩
  by_cases he : 1 - (f.bias : Int) ≤ x.log
  · exact Or.inl (round_normal hn hd mode w neg he)
  · exact Or.inr (by omega)

theorem not_tiny_of_normal (he : 1 - (f.bias : Int) ≤ x.log) : 2 * 2 ^ f.fbits ≤ (x.round (-(f.bias : Int) - f.fbits) mode w neg).1 := by
  rw [← pow_succ_fbits]
  refine Mag.pow_le_round hd mode w neg (le_trans (zpow_le_zpow_right₀ one_le_two ?_) (Mag.log_spec hn hd).1)
  push_cast
  omega

theorem spacing_roundGrid : Spacing f (sgn neg * x.val) (roundGrid f x) := by
  have hlog := Mag.log_spec hn hd
  have hgrid := roundGrid_eq f x
  unfold Spacing
  rw [abs_sgn_mul, abs_of_nonneg x.val_nonneg]
  refine ⟨by omega, hlog.2.trans_le (zpow_le_zpow_right₀ one_le_two (by omega)), ?_⟩
  by_cases he : 1 - (f.bias : Int) ≤ x.log
  · exact Or.inr ((zpow_le_zpow_right₀ one_le_two (by omega)).trans hlog.1)
  · exact Or.inl (by omega)

include hf

/-- The test for overflow: on the grid of the top binade, continued above it, the magnitude goes beyond the largest significand (R64). -/
theorem overflow_iff : (topExp f < x.log ∨
      (if roundGrid f x < topExp f - f.fbits then 2 ^ (f.fbits + 1) else f.maxSig) < (x.round (roundGrid f x) mode w neg).1) ↔
    f.maxSig < (x.round (topExp f - f.fbits) mode w neg).1 := by
  have hlog := Mag.log_spec hn hd
  have hcarry := round_le_carry (f := f) hn hd mode w neg
  have hsig := hf.maxSig_bounds
  have htop : 1 - (f.bias : Int) < topExp f := by
    have := hf.top
    rw [topExp_eq]; omega
  rcases lt_trichotomy (topExp f) x.log with h | h | h
  · refine iff_of_true (Or.inl h) (lt_of_lt_of_le hsig.2 ?_)
    rw [← pow_succ_fbits]
    refine Mag.pow_le_round hd mode w neg (le_trans (zpow_le_zpow_right₀ one_le_two ?_) hlog.1)
    push_cast
    omega
  · have hgrid : roundGrid f x = topExp f - f.fbits := by rw [← roundGrid_eq]; omega
    rw [hgrid, if_neg (lt_irrefl _), ← h]
    simp
  · have hgrid : roundGrid f x < topExp f - f.fbits := by rw [← roundGrid_eq]; omega
    rw [if_pos hgrid, pow_succ_fbits]
    refine iff_of_false (fun hor => hor.elim (fun h' => by omega) (fun h' => by omega)) (not_lt.2 (le_trans ?_ hsig.1))
    refine Mag.round_le_pow hd mode w neg (hlog.2.le.trans (zpow_le_zpow_right₀ one_le_two ?_))
    omega

/-- The test for a tiny value: rounded on the grid of the binade below the normal ones, it stays below them (R69). -/
theorem tiny_iff_of_low (he : x.log < 1 - (f.bias : Int)) :
    (x.log < 1 - (f.bias : Int) - 1 ∨ (x.round (x.log - f.fbits) mode w neg).1 < 2 ^ (f.fbits + 1)) ↔
      (x.round (-(f.bias : Int) - f.fbits) mode w neg).1 < 2 * 2 ^ f.fbits := by
  rcases (show x.log = -(f.bias : Int) ∨ x.log < -(f.bias : Int) by omega) with h | h
  · rw [h, pow_succ_fbits]
    simp
  · refine iff_of_true (Or.inl (by omega)) (lt_of_le_of_lt (b := 2 ^ f.fbits) ?_ (by have := hf.two_le; omega))
    refine Mag.round_le_pow hd mode w neg ((Mag.log_spec hn hd).2.le.trans (zpow_le_zpow_right₀ one_le_two ?_))
    omega

/-- A magnitude that rounds to zero is inexact and tiny. -/
theorem round_eq_zero (h0 : (x.round (roundGrid f x) mode w neg).1 = 0) :
    (x.round (roundGrid f x) mode w neg).2 = true ∧ (x.round (-(f.bias : Int) - f.fbits) mode w neg).1 < 2 * 2 ^ f.fbits := by
  have hpos := Mag.val_pos hn hd
  have he : x.log < 1 - (f.bias : Int) - f.fbits := by
    by_contra he
    have hone : 2 ^ 0 ≤ (x.round (roundGrid f x) mode w neg).1 :=
      Mag.pow_le_round hd mode w neg (le_trans (zpow_le_zpow_right₀ one_le_two (by rw [← roundGrid_eq]; push_cast; omega)) (Mag.log_spec hn hd).1)
    omega
  refine ⟨(Mag.round_inexact hd _ _ _ _).2 ?_, (tiny_iff_of_low hf hn hd mode w neg (by omega)).1 (Or.inl (by have := hf.fbits; omega))⟩
  rw [h0, Nat.cast_zero]
  exact (div_pos hpos (by positivity)).ne

/-- The rounding function on a magnitude that is not zero. -/
theorem roundMag_eq (sat ftz : Bool) : roundMag f mode sat ftz w neg x =
    let m := (x.round (roundGrid f x) mode w neg).1
    if f.maxSig < (x.round (topExp f - f.fbits) mode w neg).1 then (overflowF f mode sat neg, flagOF ||| flagNX)
    else if (ftz && f.flush) = true ∧ m ≠ 0 ∧ m < 2 ^ f.fbits then (signF f neg, flagUF ||| flagNX)
    else (signF f neg + packF f (roundEx f x) m,
      if (x.round (roundGrid f x) mode w neg).2 then
        if (x.round (-(f.bias : Int) - f.fbits) mode w neg).1 < 2 * 2 ^ f.fbits then flagUF ||| flagNX else flagNX
      else 0) := by
  have hover := overflow_iff hf hn hd mode w neg
  have hzero := round_eq_zero hf hn hd mode w neg
  have hok := sigOk_round (f := f) hn hd mode w neg
  have hnorm := round_normal (f := f) hn hd mode w neg
  have hsub := round_subnormal (f := f) hn hd mode w neg
  have htiny := tiny_iff_of_low hf hn hd mode w neg
  have hnot := not_tiny_of_normal (f := f) hn hd mode w neg
  have hex := roundEx_eq f x
  unfold roundMag
  rw [if_neg hn]
  simp only [roundGrid_eq]
  generalize hm : x.round (roundGrid f x) mode w neg = p at *
  obtain ⟨m, nx⟩ := p
  dsimp only at *
  refine if_congr ?_ rfl ?_
  · rw [← hover]
    unfold topExp Fmt.maxSig
    cases f.top <;> rfl
  have hpack := packF_add hok
  by_cases hlt : m < 2 ^ f.fbits
  · have he : x.log < 1 - (f.bias : Int) := not_le.1 fun he => absurd (hnorm he) (not_le.2 hlt)
    obtain h1 : roundEx f x = 1 := by omega
    have hpm : packF f (roundEx f x) m = m := by rw [h1] at hpack ⊢; omega
    simp only [hlt, if_true, and_true, hpm, Bool.and_eq_true, bne_iff_ne, Bool.or_eq_true, decide_eq_true_eq, htiny he]
    by_cases h0 : m = 0
    · obtain ⟨hnx, ht⟩ := hzero h0
      simp [h0, hnx, ht]
    · by_cases hfl : ftz = true ∧ f.flush = true
      · simp [h0, hfl]
      · simp [h0, hfl]
  · simp only [hlt, and_false, if_false]
    have hbits : (if m = 2 ^ (f.fbits + 1) then (roundGrid f x + f.fbits + 1 + f.bias).toNat * 2 ^ f.fbits
        else (roundGrid f x + f.fbits + f.bias).toNat * 2 ^ f.fbits + (m - 2 ^ f.fbits)) = packF f (roundEx f x) m := by
      have h1 : (roundGrid f x + f.fbits + 1 + f.bias).toNat = roundEx f x + 1 := by unfold roundGrid; omega
      have h2 : (roundGrid f x + f.fbits + f.bias).toNat = roundEx f x := by unfold roundGrid; omega
      rw [h1, h2, pow_succ_fbits, Nat.succ_mul (roundEx f x)]
      split <;> omega
    rw [hbits]
    by_cases he : x.log < 1 - (f.bias : Int)
    · simp only [he, decide_true, Bool.true_and, Bool.or_eq_true, decide_eq_true_eq, htiny he]
    · simp only [he, decide_false, Bool.false_and, Bool.false_eq_true, if_false, not_lt.2 (hnot (not_lt.1 he))]

end

/-! ### Rounding with its outcomes -/

/-- An encoding without its sign that a value rounds to (R64): a significand on the grid about it, and no encoding above the finite ones. -/
structure RoundsIn (f : Fmt) (mode : Nat) (w : Word) (neg : Bool) (q : ℚ) (ex m : Nat) : Prop where
  sig : SigOk f ex m
  fits : packF f ex m ≤ maxF f false
  spacing : Spacing f q (ex - f.bias - f.fbits)
  rounds : RoundsBy mode w (q / 2 ^ ((ex : Int) - f.bias - f.fbits)) (sgn neg * m)

section
variable {f : Fmt} (hf : FmtOk f) {x : Mag} (hd : x.d ≠ 0) (mode : Nat) (w : Word) (neg : Bool)

include hf

theorem packF_le_maxF (hn : x.n ≠ 0) (hd : x.d ≠ 0) (h : ¬ f.maxSig < (x.round (topExp f - f.fbits) mode w neg).1) :
    packF f (roundEx f x) (x.round (roundGrid f x) mode w neg).1 ≤ maxF f false := by
  have hok := sigOk_round (f := f) hn hd mode w neg
  have hpack := packF_add hok
  have hmax := hf.maxF_eq false
  have hsig := hf.maxSig_bounds
  have htop := hf.top
  have hex := roundEx_eq f x
  rw [← overflow_iff hf hn hd mode w neg, not_or, topExp_eq] at h
  obtain ⟨hlog, hm⟩ := h
  rw [signF_false, zero_add] at hmax
  generalize (x.round (roundGrid f x) mode w neg).1 = m at hpack hok hm ⊢
  have hcarry := hok.1
  unfold roundGrid at hm
  split at hm
  · next hlt =>
    have hmul : (roundEx f x + 1) * 2 ^ f.fbits ≤ f.topEx * 2 ^ f.fbits := Nat.mul_le_mul_right _ (by omega)
    rw [Nat.succ_mul (roundEx f x)] at hmul
    omega
  · next hge =>
    have hmul : roundEx f x * 2 ^ f.fbits ≤ f.topEx * 2 ^ f.fbits := Nat.mul_le_mul_right _ (by omega)
    omega

include hd

/-- The rounding function gives the overflow value, or the encoding that the value rounds to; FTZ replaces a subnormal one by a zero. -/
theorem roundMag_cases (sat : Bool) :
    (f.maxSig < (x.round (topExp f - f.fbits) mode w neg).1 ∧
      ∀ ftz, roundMag f mode sat ftz w neg x = (overflowF f mode sat neg, flagOF ||| flagNX)) ∨
    ((x.round (topExp f - f.fbits) mode w neg).1 ≤ f.maxSig ∧ ∃ ex m, RoundsIn f mode w neg (sgn neg * x.val) ex m ∧
      ∀ ftz, roundMag f mode sat ftz w neg x =
        if (ftz && f.flush) = true ∧ m ≠ 0 ∧ m < 2 ^ f.fbits then (signF f neg, flagUF ||| flagNX)
        else (signF f neg + packF f ex m,
          if (m : ℚ) * 2 ^ ((ex : Int) - f.bias - f.fbits) ≠ x.val then
            if (x.round (-(f.bias : Int) - f.fbits) mode w neg).1 < 2 * 2 ^ f.fbits then flagUF ||| flagNX else flagNX
          else 0)) := by
  by_cases hn : x.n = 0
  · have hval : x.val = 0 := by simp [Mag.val, hn]
    refine Or.inr ⟨?_, 1, 0, ⟨⟨Nat.zero_le _, le_rfl, Or.inr rfl⟩, by simp [packF], ?_, ?_⟩, fun ftz => ?_⟩
    · refine (x.round_le hd _ mode w neg (n := 0) ?_).trans (Nat.zero_le _)
      simp [hval]
    · rw [hval, mul_zero]
      exact ⟨le_rfl, by rw [abs_zero]; positivity, Or.inl (by push_cast; ring)⟩
    · simpa [hval] using roundsBy_exact mode w neg 0
    · simp [roundMag, hn, hval, packF]
  · have heq := roundMag_eq hf hn hd mode w neg sat
    have hnx := Mag.round_inexact hd (roundGrid f x) mode w neg
    by_cases hover : f.maxSig < (x.round (topExp f - f.fbits) mode w neg).1
    · exact Or.inl ⟨hover, fun ftz => (heq ftz).trans (if_pos hover)⟩
    · refine Or.inr ⟨not_lt.1 hover, _, _, ⟨sigOk_round hn hd mode w neg, packF_le_maxF hf mode w neg hn hd hover, spacing_roundGrid hn hd neg,
        Mag.round_roundsBy hd _ mode w neg⟩, fun ftz => ?_⟩
      rw [heq ftz, if_neg hover]
      have hpos : (0 : ℚ) < 2 ^ roundGrid f x := by positivity
      have hiff : (x.round (roundGrid f x) mode w neg).2 = true ↔
          ((x.round (roundGrid f x) mode w neg).1 : ℚ) * 2 ^ ((roundEx f x : Int) - f.bias - f.fbits) ≠ x.val := by
        rw [hnx, ne_eq, ne_eq, eq_div_iff hpos.ne']
        rfl
      simp only [hiff]

/-! ### The statement's terms -/

omit hd in
/-- The largest finite value. -/
theorem rat_maxF : (decodeF f false (maxF f false)).rat = some ((f.maxSig : ℚ) * 2 ^ (topExp f - f.fbits)) := by
  have hsig := hf.maxSig_bounds
  have hok : SigOk f f.topEx f.maxSig := ⟨hsig.2.le, hf.top.le, Or.inl hsig.1⟩
  have hmax : maxF f false = packF f f.topEx f.maxSig := by
    have h1 := hf.maxF_eq false
    have h2 := packF_add hok
    rw [signF_false] at h1
    omega
  have hrat := rat_decodeF hf (neg := false) hf.maxF_lt
  rw [signF_false, zero_add, if_pos le_rfl] at hrat
  rw [hrat, hmax, valF_packF hok, topExp_eq]
  simp

theorem overflows_iff : Overflows f mode w (sgn neg * x.val) ↔ f.maxSig < (x.round (topExp f - f.fbits) mode w neg).1 := by
  have hr := Mag.round_roundsBy hd (topExp f - f.fbits) mode w neg
  have hpos : (0 : ℚ) < 2 ^ (topExp f - f.fbits) := by positivity
  constructor
  · rintro ⟨k, M, hk, hM, hlt⟩
    rw [rat_maxF hf, Option.some.injEq] at hM
    rw [← hM, mul_lt_mul_iff_left₀ hpos] at hlt
    have habs := hk.abs_unique hr
    rw [abs_sgn_mul_int, Nat.abs_cast] at habs
    rw [← Int.cast_abs, habs] at hlt
    exact_mod_cast hlt
  · intro h
    refine ⟨_, _, hr, rat_maxF hf, ?_⟩
    rw [mul_lt_mul_iff_left₀ hpos, ← Int.cast_abs, abs_sgn_mul_int, Nat.abs_cast]
    exact_mod_cast h

omit hf in
theorem tiny_iff : Tiny f mode w (sgn neg * x.val) ↔ (x.round (-(f.bias : Int) - f.fbits) mode w neg).1 < 2 * 2 ^ f.fbits := by
  have hr := Mag.round_roundsBy hd (-(f.bias : Int) - f.fbits) mode w neg
  unfold Tiny
  constructor
  · rintro ⟨k, hk, hlt⟩
    rw [hk.abs_unique hr, abs_sgn_mul_int, Nat.abs_cast] at hlt
    rw [← pow_succ_fbits]
    exact_mod_cast hlt
  · intro h
    refine ⟨_, hr, ?_⟩
    rw [abs_sgn_mul_int, Nat.abs_cast]
    rw [← pow_succ_fbits] at h
    exact_mod_cast h

end

/-! ### Widths and flags -/

/-- Overflow gives the largest finite value or an infinity. -/
theorem overflowF_or (f : Fmt) (mode : Nat) (sat neg : Bool) : overflowF f mode sat neg = maxF f neg ∨ overflowF f mode sat neg = infF f neg := by
  unfold overflowF
  split
  · exact Or.inl rfl
  · split
    · exact Or.inl rfl
    · split <;> simp
    · split <;> simp
    · exact Or.inr rfl

section
variable {c : Nat} (hc : c < 6) (neg : Bool)
include hc

theorem signF_lt : signF (fmtOf c) neg < 2 ^ fmtBits c := by interval_cases c <;> cases neg <;> decide
theorem maxF_lt : maxF (fmtOf c) neg < 2 ^ fmtBits c := by interval_cases c <;> cases neg <;> decide
theorem infF_lt : infF (fmtOf c) neg < 2 ^ fmtBits c := by interval_cases c <;> cases neg <;> decide
theorem nanF_lt : nanF (fmtOf c) < 2 ^ fmtBits c := by interval_cases c <;> decide

theorem overflowF_lt (mode : Nat) (sat : Bool) : overflowF (fmtOf c) mode sat neg < 2 ^ fmtBits c := by
  rcases overflowF_or (fmtOf c) mode sat neg with h | h <;> rw [h]
  · exact maxF_lt hc neg
  · exact infF_lt hc neg

theorem signF_add_lt {b : Nat} (hb : b ≤ maxF (fmtOf c) false) : signF (fmtOf c) neg + b < 2 ^ fmtBits c := by
  have hlt := (fmtOf_ok hc).maxF_lt
  rw [← fmtOf_bits hc, pow_succ]
  cases neg
  · rw [signF_false]; omega
  · show 2 ^ _ + b < _
    omega

/-- A rounded value fits its format. -/
theorem roundMag_lt {x : Mag} (hd : x.d ≠ 0) (mode : Nat) (sat ftz : Bool) (w : Word) :
    (roundMag (fmtOf c) mode sat ftz w neg x).1 < 2 ^ fmtBits c := by
  rcases roundMag_cases (fmtOf_ok hc) hd mode w neg sat with ⟨-, heq⟩ | ⟨-, ex, m, hin, heq⟩ <;> rw [heq ftz]
  · exact overflowF_lt hc neg mode sat
  · split
    · exact signF_lt hc neg
    · exact signF_add_lt hc neg hin.fits

theorem toFormat_lt (mode : Nat) (sat ftz : Bool) (w : Word) (v : FV) : (toFormat (fmtOf c) mode sat ftz w v).1 < 2 ^ fmtBits c := by
  unfold toFormat
  split
  · exact nanF_lt hc
  · split
    · exact infF_lt hc _
    · dsimp only
      split
      · exact maxF_lt hc _
      · exact infF_lt hc _
    · exact maxF_lt hc _
  · exact roundMag_lt hc _ (by simp) _ _ _ _
end

/-- The flags of a result that does not overflow. -/
theorem inexact_flags {A B : Prop} [Decidable A] [Decidable B] :
    let fl : FFlags := if A then if B then flagUF ||| flagNX else flagNX else 0
    (fl.getLsbD 0 = true ↔ A) ∧ (fl.getLsbD 1 = true ↔ A ∧ B) ∧ fl.getLsbD 2 = false ∧ fl.getLsbD 3 = false ∧ fl.getLsbD 4 = false := by
  by_cases hA : A <;> by_cases hB : B <;> simp [hA, hB]

/-! ### What lies between neighbours (R58, R64) -/

/-- A value of the format is on a grid about q, or below it. -/
theorem grid_gap {f : Fmt} {q : ℚ} {t : Int} (hs : Spacing f q t) (neg : Bool) (b : Nat) :
    (sgn neg * valF f b) / 2 ^ t ≤ ⌊q / 2 ^ t⌋ ∨ (⌈q / 2 ^ t⌉ : ℚ) ≤ (sgn neg * valF f b) / 2 ^ t := by
  obtain ⟨m, s, hm, hlow, hval⟩ := valF_spaced (f := f) b
  obtain ⟨hlow', -, hbin⟩ := hs
  have hT : (0 : ℚ) < 2 ^ t := by positivity
  rw [hval]
  by_cases hst : t ≤ s
  · obtain ⟨k, rfl⟩ : ∃ k : ℕ, s = t + k := ⟨(s - t).toNat, by omega⟩
    have hint : (sgn neg : ℚ) * (m * 2 ^ (t + k)) / 2 ^ t = ((sgn neg * (m * 2 ^ k) : Int) : ℚ) := by
      rw [zpow_add₀ two_ne_zero, zpow_natCast, div_eq_iff hT.ne']
      push_cast
      ring
    rw [hint]
    norm_cast
    have := Int.ceil_le_floor_add_one (q / 2 ^ t)
    omega
  · have hbin' : (2 : ℚ) ^ (t + f.fbits) ≤ |q| := hbin.resolve_left (by omega)
    have hp : ((2 ^ f.fbits : ℕ) : ℚ) ≤ |q / 2 ^ t| := by
      rw [abs_div, abs_of_pos hT, le_div_iff₀ hT]
      push_cast
      rwa [← zpow_natCast, ← zpow_add₀ two_ne_zero, add_comm]
    have hz : |(sgn neg : ℚ) * (m * 2 ^ s) / 2 ^ t| ≤ (2 ^ f.fbits : ℕ) := by
      have hm' : (m : ℚ) ≤ 2 * 2 ^ f.fbits := by exact_mod_cast hm.le
      rw [abs_div, abs_of_pos hT, abs_sgn_mul, abs_of_nonneg (by positivity), div_le_iff₀ hT]
      calc (m : ℚ) * 2 ^ s ≤ 2 * 2 ^ f.fbits * 2 ^ s := by gcongr
        _ = 2 ^ f.fbits * 2 ^ (s + 1) := by rw [zpow_add_one₀ two_ne_zero]; ring
        _ ≤ 2 ^ f.fbits * 2 ^ t := by gcongr; exacts [one_le_two, by omega]
        _ = _ := by push_cast; rfl
    rw [abs_le] at hz
    rcases le_abs.1 hp with h | h
    · left
      have hfl : ((2 ^ f.fbits : ℕ) : Int) ≤ ⌊q / 2 ^ t⌋ := Int.le_floor.2 (by exact_mod_cast h)
      exact hz.2.trans (by exact_mod_cast hfl)
    · right
      have hce : ⌈q / 2 ^ t⌉ ≤ -((2 ^ f.fbits : ℕ) : Int) := Int.ceil_le.2 (by push_cast at h ⊢; linarith)
      exact le_trans (by exact_mod_cast hce) hz.1

section
variable {p ζ : ℚ} {k : Int} (hgap : ζ ≤ ⌊p⌋ ∨ (⌈p⌉ : ℚ) ≤ ζ)

theorem nearest_int (hk : |p - k| ≤ 1 / 2) (n : Int) : |p - k| ≤ |p - n| := by
  by_cases h : n = k
  · rw [h]
  · have hdist : (1 : ℚ) ≤ |(n : ℚ) - k| := by exact_mod_cast Int.one_le_abs (sub_ne_zero.2 h)
    have htri : |(n : ℚ) - k| ≤ |p - n| + |p - k| := by
      rw [abs_sub_comm p n]
      exact abs_sub_le (n : ℚ) p k
    linarith

include hgap

/-- No value between the neighbours of p: the nearer neighbour is the nearest value. -/
theorem nearest_of_gap (hk : |p - k| ≤ 1 / 2) : |p - k| ≤ |p - ζ| := by
  rcases hgap with h | h
  · have hfl := Int.floor_le p
    calc |p - k| ≤ |p - ⌊p⌋| := nearest_int hk _
      _ = p - ⌊p⌋ := abs_of_nonneg (by linarith)
      _ ≤ p - ζ := by linarith
      _ ≤ |p - ζ| := le_abs_self _
  · have hce := Int.le_ceil p
    calc |p - k| ≤ |p - ⌈p⌉| := nearest_int hk _
      _ = ⌈p⌉ - p := by rw [abs_sub_comm, abs_of_nonneg (by linarith)]
      _ ≤ ζ - p := by linarith
      _ ≤ |p - ζ| := by rw [abs_sub_comm]; exact le_abs_self _

/-- Another value as near as the nearest is a tie. -/
theorem tie_of_gap (hk : |p - k| ≤ 1 / 2) (heq : |p - k| = |p - ζ|) (hne : ζ ≠ k) : |p - k| = 1 / 2 := by
  obtain ⟨n, hn⟩ : ∃ n : Int, ζ = n := by
    rcases hgap with h | h
    · refine ⟨⌊p⌋, le_antisymm h ?_⟩
      have hfl := Int.floor_le p
      have hint := nearest_int hk ⌊p⌋
      rw [heq, abs_of_nonneg (by linarith), abs_of_nonneg (by linarith)] at hint
      linarith
    · refine ⟨⌈p⌉, le_antisymm ?_ h⟩
      have hce := Int.le_ceil p
      have hint := nearest_int hk ⌈p⌉
      rw [heq, abs_sub_comm p ζ, abs_sub_comm p, abs_of_nonneg (by linarith), abs_of_nonneg (by linarith)] at hint
      linarith
  rw [hn] at heq hne
  have hdist : (1 : ℚ) ≤ |(n : ℚ) - k| := by exact_mod_cast Int.one_le_abs (sub_ne_zero.2 fun e => hne (by rw [e]))
  have htri : |(n : ℚ) - k| ≤ |p - n| + |p - k| := by
    rw [abs_sub_comm p n]
    exact abs_sub_le (n : ℚ) p k
  linarith

theorem ceil_le_of_gap (h : p ≤ ζ) : (⌈p⌉ : ℚ) ≤ ζ := by
  rcases hgap with h' | h'
  · have hp : p ≤ ⌊p⌋ := h.trans h'
    have hce : ⌈p⌉ ≤ ⌊p⌋ := Int.ceil_le.2 hp
    exact le_trans (by exact_mod_cast hce) ((Int.floor_le p).trans h)
  · exact h'

theorem le_floor_of_gap (h : ζ ≤ p) : ζ ≤ ⌊p⌋ := by
  rcases hgap with h' | h'
  · exact h'
  · have hce : ⌈p⌉ ≤ ⌊p⌋ := Int.le_floor.2 (h'.trans h)
    exact (h.trans (Int.le_ceil p)).trans (by exact_mod_cast hce)

omit hgap in
/-- Toward zero: the value is not exceeded, and no value about zero lies beyond the result. -/
theorem trunc_of_gap (hgap : ∀ ζ' ∈ [ζ, -ζ], ζ' ≤ ⌊p⌋ ∨ (⌈p⌉ : ℚ) ≤ ζ') (hk : k = if p < 0 then ⌈p⌉ else ⌊p⌋) :
    |(k : ℚ)| ≤ |p| ∧ 0 ≤ k * p ∧ (|ζ| ≤ |p| → |ζ| ≤ |(k : ℚ)|) := by
  have hz := hgap ζ (by simp)
  have hz' := hgap (-ζ) (by simp)
  split at hk
  · next hneg =>
    have hce : (k : ℚ) ≤ 0 := by rw [hk]; exact_mod_cast Int.ceil_le.2 (by simpa using hneg.le)
    have hle : p ≤ k := by rw [hk]; exact Int.le_ceil p
    rw [abs_of_nonpos hce, abs_of_neg hneg]
    refine ⟨by linarith, mul_nonneg_of_nonpos_of_nonpos hce hneg.le, fun h => ?_⟩
    obtain ⟨h1, h2⟩ := abs_le.1 h
    have c1 := ceil_le_of_gap hz (by linarith)
    have c2 := ceil_le_of_gap hz' (by linarith)
    rw [← hk] at c1 c2
    exact abs_le.2 ⟨by linarith, by linarith⟩
  · next hpos =>
    have hpos := not_lt.1 hpos
    have hfl : (0 : ℚ) ≤ k := by rw [hk]; exact_mod_cast Int.le_floor.2 (by simpa using hpos)
    have hle : (k : ℚ) ≤ p := by rw [hk]; exact Int.floor_le p
    rw [abs_of_nonneg hfl, abs_of_nonneg hpos]
    refine ⟨hle, mul_nonneg hfl hpos, fun h => ?_⟩
    obtain ⟨h1, h2⟩ := abs_le.1 h
    have c1 := le_floor_of_gap hz (by linarith)
    have c2 := le_floor_of_gap hz' (by linarith)
    rw [← hk] at c1 c2
    exact abs_le.2 ⟨by linarith, by linarith⟩

end

/-! ### The nearest value in the direction of the mode (R64) -/

/-- The value of an encoding on the grid of its binade. -/
def gridVal (f : Fmt) (neg : Bool) (ex m : Nat) : ℚ := ((sgn neg * m : Int) : ℚ) * 2 ^ ((ex : Int) - f.bias - f.fbits)

theorem gridVal_eq {f : Fmt} {ex m : Nat} (neg : Bool) (h : SigOk f ex m) : gridVal f neg ex m = sgn neg * valF f (packF f ex m) := by
  rw [valF_packF h, gridVal]
  push_cast
  ring

section
variable {f : Fmt} {mode : Nat} {w : Word} {neg : Bool} {q z : ℚ} {ex m : Nat}

/-- z is the value of an encoding of the format. -/
def FmtValue (f : Fmt) (z : ℚ) : Prop := ∃ neg b, z = sgn neg * valF f b

theorem FmtValue.opposite (hz : FmtValue f z) : FmtValue f (-z) := by
  obtain ⟨n, b, rfl⟩ := hz
  exact ⟨!n, b, by cases n <;> simp⟩

theorem RoundsIn.gap (h : RoundsIn f mode w neg q ex m) (hz : FmtValue f z) :
    z / 2 ^ ((ex : Int) - f.bias - f.fbits) ≤ ⌊q / 2 ^ ((ex : Int) - f.bias - f.fbits)⌋ ∨
      (⌈q / 2 ^ ((ex : Int) - f.bias - f.fbits)⌉ : ℚ) ≤ z / 2 ^ ((ex : Int) - f.bias - f.fbits) := by
  obtain ⟨n, b, rfl⟩ := hz
  exact grid_gap h.spacing n b

theorem grid_pos (f : Fmt) (ex : Nat) : (0 : ℚ) < 2 ^ ((ex : Int) - f.bias - f.fbits) := by positivity

theorem abs_sub_eq_mul {T : ℚ} (hT : 0 < T) (q r : ℚ) : |q - r| = |q / T - r / T| * T := by
  rw [← sub_div, abs_div, abs_of_pos hT, div_mul_cancel₀ _ hT.ne']

theorem gridVal_div (f : Fmt) (neg : Bool) (ex m : Nat) :
    gridVal f neg ex m / 2 ^ ((ex : Int) - f.bias - f.fbits) = (sgn neg * m : Int) := by
  rw [gridVal, mul_div_cancel_right₀ _ (grid_pos f ex).ne']

theorem RoundsIn.nearest (h : RoundsIn f 0 w neg q ex m) (hz : FmtValue f z) :
    |q - gridVal f neg ex m| ≤ |q - z| ∧ (|q - gridVal f neg ex m| = |q - z| → z ≠ gridVal f neg ex m → m % 2 = 0) := by
  have hT := grid_pos f ex
  have hg := h.gap hz
  obtain ⟨hk, htie⟩ : RoundsToInt 0 _ _ := h.rounds
  rw [abs_sub_eq_mul hT q (gridVal f neg ex m), abs_sub_eq_mul hT q z, gridVal_div]
  refine ⟨mul_le_mul_of_nonneg_right (nearest_of_gap hg hk) hT.le, fun he hne => ?_⟩
  have heven := htie (tie_of_gap hg hk (mul_right_cancel₀ hT.ne' he) fun e => hne ?_)
  · cases neg <;> simp at heven <;> omega
  · rw [div_eq_iff hT.ne'] at e
    exact e

theorem RoundsIn.towardZero (h : RoundsIn f 1 w neg q ex m) (hz : FmtValue f z) :
    |gridVal f neg ex m| ≤ |q| ∧ 0 ≤ gridVal f neg ex m * q ∧ (|z| ≤ |q| → |z| ≤ |gridVal f neg ex m|) := by
  have hT := grid_pos f ex
  have hk : RoundsToInt 1 _ _ := h.rounds
  have hgap := h.gap hz
  have hgap' := h.gap hz.opposite
  rw [neg_div] at hgap'
  obtain ⟨h1, h2, h3⟩ := trunc_of_gap (List.forall_mem_cons.2 ⟨hgap, List.forall_mem_singleton.2 hgap'⟩) hk
  rw [← gridVal_div, abs_div, abs_of_pos hT, abs_div, abs_of_pos hT, div_le_div_iff_of_pos_right hT] at h1
  rw [← gridVal_div, div_mul_div_comm, le_div_iff₀ (mul_pos hT hT), zero_mul] at h2
  rw [abs_div, abs_of_pos hT, abs_div, abs_of_pos hT, ← gridVal_div, abs_div, abs_of_pos hT, div_le_div_iff_of_pos_right hT,
    div_le_div_iff_of_pos_right hT] at h3
  exact ⟨h1, h2, h3⟩

theorem RoundsIn.upward (h : RoundsIn f 2 w neg q ex m) (hz : FmtValue f z) :
    q ≤ gridVal f neg ex m ∧ (q ≤ z → gridVal f neg ex m ≤ z) := by
  have hT := grid_pos f ex
  have hk : RoundsToInt 2 _ _ := h.rounds
  have hk' : (sgn neg * m : Int) = ⌈q / 2 ^ ((ex : Int) - f.bias - f.fbits)⌉ := hk
  rw [← div_le_div_iff_of_pos_right hT, gridVal_div, hk']
  refine ⟨Int.le_ceil _, fun hle => ?_⟩
  rw [← div_le_div_iff_of_pos_right hT, gridVal_div, hk']
  exact ceil_le_of_gap (h.gap hz) ((div_le_div_iff_of_pos_right hT).2 hle)

theorem RoundsIn.downward (h : RoundsIn f 3 w neg q ex m) (hz : FmtValue f z) :
    gridVal f neg ex m ≤ q ∧ (z ≤ q → z ≤ gridVal f neg ex m) := by
  have hT := grid_pos f ex
  have hk : RoundsToInt 3 _ _ := h.rounds
  have hk' : (sgn neg * m : Int) = ⌊q / 2 ^ ((ex : Int) - f.bias - f.fbits)⌋ := hk
  rw [← div_le_div_iff_of_pos_right hT, gridVal_div, hk']
  refine ⟨Int.floor_le _, fun hle => ?_⟩
  rw [← div_le_div_iff_of_pos_right hT, gridVal_div, hk']
  exact le_floor_of_gap (h.gap hz) ((div_le_div_iff_of_pos_right hT).2 hle)
end

/-! ### Encodings of rounded values -/

section
variable {f : Fmt} (hf : FmtOk f) {ex m : Nat} (hok : SigOk f ex m)
include hok

theorem packF_eq_zero (h0 : m = 0) : packF f ex m = 0 := by
  have hpack := packF_add hok
  obtain ⟨-, -, h | h⟩ := hok
  · have : 0 < 2 ^ f.fbits := by positivity
    omega
  · rw [h, h0] at hpack ⊢; omega

include hf

theorem subnormal_packF (neg : Bool) (hfit : packF f ex m ≤ maxF f false) :
    subnormal f (signF f neg + packF f ex m) ↔ m ≠ 0 ∧ m < 2 ^ f.fbits := by
  have hlt := hf.maxF_lt
  have hlow : lowBits f (signF f neg + packF f ex m) = packF f ex m := by
    unfold lowBits signF
    split
    · rw [Nat.add_mod_left, Nat.mod_eq_of_lt (by omega)]
    · rw [zero_add, Nat.mod_eq_of_lt (by omega)]
  have hpack := packF_add hok
  unfold subnormal
  rw [hlow]
  by_cases hm : m < 2 ^ f.fbits
  · obtain rfl : ex = 1 := hok.2.2.resolve_left (by omega)
    omega
  · have hmul : 1 * 2 ^ f.fbits ≤ ex * 2 ^ f.fbits := Nat.mul_le_mul_right _ hok.2.1
    omega

theorem packF_mod_two (neg : Bool) : (signF f neg + packF f ex m) % 2 = m % 2 := by
  have hpack := packF_add hok
  obtain ⟨k, hk⟩ : ∃ k, 2 ^ f.fbits = 2 * k := ⟨2 ^ (f.fbits - 1), by rw [← pow_succ']; congr 1; have := hf.fbits; omega⟩
  have hs : signF f neg % 2 = 0 := by
    unfold signF
    split
    · rw [pow_add, hk, Nat.mul_left_comm, Nat.mul_mod_right]
    · rfl
  have he : ex * 2 ^ f.fbits = 2 * (ex * k) := by rw [hk, Nat.mul_left_comm]
  omega
end

theorem not_subnormal_overflowF {c : Nat} (hc : c < 6) (mode : Nat) (sat neg : Bool) : ¬ subnormal (fmtOf c) (overflowF (fmtOf c) mode sat neg) := by
  rcases overflowF_or (fmtOf c) mode sat neg with h | h <;> rw [h] <;> unfold subnormal lowBits <;> interval_cases c <;> cases neg <;> decide

/-- A value that overflows is not tiny. -/
theorem not_tiny_of_overflow {f : Fmt} (hf : FmtOk f) {x : Mag} (hd : x.d ≠ 0) (mode : Nat) (w : Word) (neg : Bool)
    (h : f.maxSig < (x.round (topExp f - f.fbits) mode w neg).1) : 2 * 2 ^ f.fbits ≤ (x.round (-(f.bias : Int) - f.fbits) mode w neg).1 := by
  have hbig : (2 : ℚ) ^ topExp f < x.val := by
    by_contra hle
    have := Mag.round_le_pow (t := topExp f - f.fbits) (k := f.fbits) hd mode w neg (by rw [sub_add_cancel]; exact not_lt.1 hle)
    have := hf.maxSig_bounds
    omega
  rw [← pow_succ_fbits]
  refine Mag.pow_le_round hd mode w neg (le_trans (zpow_le_zpow_right₀ one_le_two ?_) hbig.le)
  have := hf.top
  rw [topExp_eq]
  push_cast
  omega

/-! ### The statement (O10) -/

/-- The encodings of a format that have a value are those of `FmtValue`. -/
theorem fmtValue_of_rat {c : Nat} (hc : c < 6) {u : Nat} (hu : u < 2 ^ fmtBits c) {z : ℚ} (hz : (decodeF (fmtOf c) false u).rat = some z) :
    FmtValue (fmtOf c) z := by
  rw [← fmtOf_bits hc] at hu
  obtain ⟨n, b, rfl, hb⟩ := exists_signF hu
  rw [rat_decodeF (fmtOf_ok hc) hb] at hz
  split at hz
  · exact ⟨n, b, (Option.some.inj hz).symm⟩
  · exact absurd hz (by simp)

theorem rat_packF {f : Fmt} (hf : FmtOk f) {ex m : Nat} (hok : SigOk f ex m) (hfit : packF f ex m ≤ maxF f false) (neg : Bool) :
    (decodeF f false (signF f neg + packF f ex m)).rat = some (gridVal f neg ex m) := by
  rw [rat_decodeF hf (hfit.trans_lt hf.maxF_lt), if_pos hfit, gridVal_eq neg hok]

theorem gridVal_eq_iff (f : Fmt) (neg : Bool) (ex m : Nat) (v : ℚ) :
    gridVal f neg ex m = sgn neg * v ↔ (m : ℚ) * 2 ^ ((ex : Int) - f.bias - f.fbits) = v := by
  unfold gridVal
  cases neg <;> simp

theorem gridVal_eq_zero {f : Fmt} {neg : Bool} {ex m : Nat} (h : gridVal f neg ex m = 0) : m = 0 := by
  have h0 := (gridVal_eq_iff f neg ex m 0).1 (by rw [h, mul_zero])
  exact Nat.cast_eq_zero.1 ((mul_eq_zero.1 h0).resolve_right (grid_pos f ex).ne')

/-- Settles O10: a rounded magnitude is the overflow value, or the encoding of a multiple of its binade's grid next to the value
(`roundMag_cases`), and no value of the format lies between the two multiples (`grid_gap`). -/
theorem roundingIsCorrect : Obligations.RoundingIsCorrect := by
  unfold Obligations.RoundingIsCorrect
  refine ⟨fun c mode sat neg w x hc hmode hd => ?_, fun c mode sat n hc => ?_⟩
  · have hf := fmtOf_ok hc
    obtain ⟨htopn, -, hflush⟩ := fmtOf_top hc
    have hq : (if neg then -1 else 1) * ((x.n : ℚ) / x.d * 2 ^ x.e) = sgn neg * x.val := by rw [cast_sgn]; rfl
    simp only [hq, overflows_iff hf hd, tiny_iff hd]
    rcases roundMag_cases hf hd mode w neg sat with ⟨hover, heq⟩ | ⟨hover, ex, m, hin, heq⟩
    · have hnot := not_tiny_of_overflow hf hd mode w neg hover
      have hsub := not_subnormal_overflowF hc mode sat neg
      rw [heq false, heq true]
      dsimp only
      refine ⟨fun h => ?_, iff_of_true (by decide) hover, fun _ => ⟨rfl, ?_⟩, ?_, by decide, by decide,
        fun _ h => absurd h hsub, fun _ => rfl⟩
      · exact absurd h (by decide)
      · unfold overflowF
        simp only [Bool.or_eq_true, decide_eq_true_eq, htopn]
        interval_cases mode <;> cases neg <;> rfl
      · exact iff_of_false (by decide) fun h => hnot.not_gt h.2
    · obtain ⟨hNX, hUF, hOF, hDZ, hNV⟩ := inexact_flags (A := (m : ℚ) * 2 ^ ((ex : Int) - (fmtOf c).bias - (fmtOf c).fbits) ≠ x.val)
        (B := (x.round (-((fmtOf c).bias : Int) - (fmtOf c).fbits) mode w neg).1 < 2 * 2 ^ (fmtOf c).fbits)
      have hsub := subnormal_packF hf hin.sig neg hin.fits
      have hr := heq false
      rw [Bool.false_and, if_neg (by simp)] at hr
      rw [heq true, hr, Bool.true_and]
      dsimp only
      have hval := rat_packF hf hin.sig hin.fits neg
      refine ⟨fun _ => ⟨_, hval, signF_add_lt hc neg hin.fits, ?_, fun h => ?_, fun h4 => ?_, fun u z hu hz => ?_⟩, ?_, fun h => ?_, ?_, hDZ,
        hNV, fun h hs => ?_, fun h => ?_⟩
      · rw [hNX, ne_eq, ne_eq, gridVal_eq_iff]
      · rw [packF_eq_zero hin.sig (gridVal_eq_zero h), add_zero]
      · have hround := hin.rounds
        rw [RoundsBy, if_pos h4] at hround
        exact ⟨_, _, hin.spacing, hround, rfl⟩
      · have hz := fmtValue_of_rat hc hu hz
        interval_cases mode
        · rw [packF_mod_two hf hin.sig]; exact hin.nearest hz
        · exact hin.towardZero hz
        · exact hin.upward hz
        · exact hin.downward hz
        · trivial
      · exact iff_of_false (Bool.eq_false_iff.1 hOF) (by omega)
      · exact absurd h (Bool.eq_false_iff.1 hOF)
      · rw [hUF, hNX]
      · exact if_pos ⟨hflush.2 h, hsub.1 hs⟩
      · exact if_neg fun hs => h ⟨hflush.1 hs.1, hsub.2 hs.2⟩
  · obtain ⟨hnone, he4m3, -⟩ := fmtOf_top hc
    refine ⟨fun ftz w m e => rfl, ?_, ?_⟩
    · interval_cases c <;> rfl
    · interval_cases c <;> rfl

end Sys2Proof.Machine

/-! SUPPORT. The sums across lanes (R77, R78, R154; O13), and what a word leaves that writes lanes and sets flags. -/

namespace Sys2Proof.Machine

/-! ### Lanes and flags of a result -/

/-- Lanes written and flags set by a word that retires (R41, R69). -/
theorem flagged_did {wide : Bool} {d : BitVec 8} {i : Instr} {s : State} (F : Nat → Dword) (fl : FFlags) (hd : s.cpu.grp.Writable d)
    (hp : wide = true → pairOk true d = true) :
    let g := s.cpu.grp
    let t : State := { s with cpu := s.cpu.retire ⟨i, none⟩ ((g.writeLanes wide d g.active (Vector.ofFn fun (j : Fin 32) => F j)).orFlags fl) }
    Did i (.fpflags :: vecDst wide d) s t ∧ Shifted wide d g t.cpu.grp ∧ LaneResults wide g.active d g t.cpu.grp F ∧
      t.cpu.grp.fpflags = g.fpflags ||| fl := by
  intro g t
  have hsame := g.sameGroup_writeLanes wide g.active (Vector.ofFn fun (j : Fin 32) => F j) hd hp
  refine ⟨did_retire ((hsame.trans (Group.sameGroup_orFlags _ _)).mono fun x hx => by simp at hx ⊢; tauto) ?_ ?_,
    g.shifted_writeLanes wide g.active _ hd hp, g.laneResults_writeLanes wide g.active F hd hp, ?_⟩
  · exact Group.writeLanes_pc _ _ _ _ _
  · exact Group.writeLanes_lc _ _ _ _ _
  · exact congrArg (· ||| fl) (hsame.regs.fpflags (by cases wide <;> simp [vecDst]))

/-! ### The orders of R77 and R78 -/

section
variable {α : Type} (add : α → α → α × FFlags)

/-- The sums of an addition that also gives flags. -/
def sumOf (u v : α) : α := (add u v).1

theorem treeLevel_fst (n : Nat) (x : Nat → α) :
    (treeLevel add ((List.range (2 * n)).map x)).1 = (List.range n).map fun i => sumOf add (x (2 * i)) (x (2 * i + 1)) := by
  induction n generalizing x with
  | zero => rfl
  | succ n ih =>
    have hl : (List.range (2 * (n + 1))).map x = x 0 :: x 1 :: (List.range (2 * n)).map fun i => x (i + 2) := by
      simp only [Nat.mul_succ, List.range_succ_eq_map, List.map_cons, List.map_map]
      rfl
    rw [hl, List.range_succ_eq_map, List.map_cons, List.map_map]
    exact congrArg _ (ih _)

/-- The tree may be built from its leaves. -/
theorem treeOf_succ (op : α → α → α) (n : Nat) (x : Nat → α) (i : Nat) :
    treeOf op (n + 1) x i = treeOf op n (fun i => op (x (2 * i)) (x (2 * i + 1))) i := by
  induction n generalizing i with
  | zero => rfl
  | succ n ih =>
    show op (treeOf op (n + 1) x (2 * i)) (treeOf op (n + 1) x (2 * i + 1)) = _
    rw [ih, ih]
    rfl

theorem treeSum_fst (n : Nat) (x : Nat → α) : (treeSum add n ((List.range (2 ^ n)).map x)).1 = [treeOf (sumOf add) n x 0] := by
  induction n generalizing x with
  | zero => rfl
  | succ n ih =>
    rw [treeOf_succ, ← ih, pow_succ', ← treeLevel_fst]
    rfl

/-- The sequence may be begun one lane later. -/
theorem prefixOf_succ (op : α → α → α) (zero : α) (x : Nat → α) (j : Nat) :
    prefixOf op zero x (j + 1) = prefixOf op (op zero (x 0)) (fun i => x (i + 1)) j := by
  induction j with
  | zero => rfl
  | succ j ih => exact congrArg (op · _) ih

theorem prefixSums_fst {n j : Nat} (hj : j < n) (zero : α) (x : Nat → α) :
    (prefixSums add zero ((List.range n).map x)).1[j]? = some (prefixOf (sumOf add) zero x j) := by
  induction n generalizing j zero x with
  | zero => exact absurd hj (Nat.not_lt_zero j)
  | succ n ih =>
    rw [List.range_succ_eq_map, List.map_cons, List.map_map]
    cases j with
    | zero => rfl
    | succ j => exact (ih (Nat.lt_of_succ_lt_succ hj) _ _).trans (congrArg some (prefixOf_succ _ _ _ _).symm)

theorem crossSums_fst {j : Nat} (hj : j < 32) (scan : Bool) (zero : α) (x : Nat → α) :
    (crossSums scan add zero ((List.range 32).map x)).1[j]? = some (crossOf scan (sumOf add) zero x j) := by
  cases scan
  · have hsum : (treeSum add 5 ((List.range 32).map x)).1 = [treeOf (sumOf add) 5 x 0] := treeSum_fst add 5 x
    simp only [crossSums, Bool.false_eq_true, if_false, hsum]
    rw [List.getElem?_replicate_of_lt hj]
    rfl
  · exact prefixSums_fst add hj zero x

/-! ### Additions without flags -/

section
variable (h0 : ∀ u v, (add u v).2 = 0)
include h0

theorem treeLevel_snd : ∀ l, (treeLevel add l).2 = 0
  | x :: y :: l => by rw [treeLevel, h0, treeLevel_snd l]; rfl
  | [] => rfl
  | [_] => rfl

theorem treeSum_snd (n : Nat) (l : List α) : (treeSum add n l).2 = 0 := by
  induction n generalizing l with
  | zero => rfl
  | succ n ih => rw [treeSum, treeLevel_snd add h0, ih]; rfl

theorem prefixSums_snd (l : List α) (zero : α) : (prefixSums add zero l).2 = 0 := by
  induction l generalizing zero with
  | nil => rfl
  | cons x l ih => rw [prefixSums, h0, ih]; rfl

theorem crossSums_snd (scan : Bool) (zero : α) (l : List α) : (crossSums scan add zero l).2 = 0 := by
  cases scan
  · exact treeSum_snd add h0 5 l
  · exact prefixSums_snd add h0 l zero
end
end

section
variable {α β : Type} {op : α → α → α} {op' : β → β → β} {φ : α → β} (hφ : ∀ u v, φ (op u v) = op' (φ u) (φ v))
include hφ

theorem treeOf_map (n : Nat) (x : Nat → α) (i : Nat) : φ (treeOf op n x i) = treeOf op' n (fun l => φ (x l)) i := by
  induction n generalizing i with
  | zero => rfl
  | succ n ih => rw [treeOf, hφ, ih, ih]; rfl

theorem prefixOf_map (zero : α) (x : Nat → α) (j : Nat) : φ (prefixOf op zero x j) = prefixOf op' (φ zero) (fun l => φ (x l)) j := by
  induction j with
  | zero => exact hφ _ _
  | succ j ih => rw [prefixOf, hφ, ih]; rfl

/-- The orders are the same through a map that keeps the addition. -/
theorem crossOf_map (scan : Bool) (zero : α) (x : Nat → α) (j : Nat) :
    φ (crossOf scan op zero x j) = crossOf scan op' (φ zero) (fun l => φ (x l)) j := by
  cases scan
  · exact treeOf_map hφ 5 x 0
  · exact prefixOf_map hφ zero x j
end

/-- Every result is a sum. -/
theorem crossOf_add {α : Type} (scan : Bool) (op : α → α → α) (zero : α) (x : Nat → α) (j : Nat) :
    ∃ u v, crossOf scan op zero x j = op u v := by
  cases scan
  · exact ⟨_, _, rfl⟩
  · cases j <;> exact ⟨_, _, rfl⟩

/-! ### The words (R154) -/

/-- The result of a lane for one element. -/
def crossValue (g : Group) (flt scan : Bool) (b : BitVec 8) (e j : Nat) : Nat :=
  let x := fun l => elemIn g (g.laneV (isWide g.ety) b l) e
  let f := etyFmt g.ety
  let n := etyBits g.ety
  let sg := etySigned g.ety
  if flt then
    (plainF f (crossOf scan (sumOf (addF g f)) (.fin true 0 0) (fun l => if g.active.getLsbD l then decodeF f g.ftz (x l) else .fin true 0 0) j)).1
  else crossOf scan (fun u v => fitI n sg g.sat (toI n sg u + toI n sg v)) 0 (fun l => if g.active.getLsbD l then x l else 0) j

theorem crossElem_fst (g : Group) (flt scan : Bool) (b : BitVec 8) (e : Nat) {j : Nat} (hj : j < 32) :
    (crossElem g flt scan b e).1[j]? = some (crossValue g flt scan b e j) := by
  cases flt
  · exact crossSums_fst _ hj scan _ _
  · show (List.map _ (crossSums _ _ _ _).1)[j]? = _
    rw [List.getElem?_map, crossSums_fst _ hj]
    rfl

theorem crossElem_snd (g : Group) (scan : Bool) (b : BitVec 8) (e : Nat) : (crossElem g false scan b e).2 = 0 :=
  crossSums_snd _ (fun _ _ => rfl) _ _ _

/-- The formats of the floating element types (R45). -/
theorem etyFmt_code {t : Nat} (h : isFlt t = true) : ∃ c < 6, etyFmt t = fmtOf c ∧ fmtBits c = etyBits t := by
  simp only [isFlt, Bool.or_eq_true, beq_iff_eq] at h
  rcases h with (rfl | rfl) | rfl
  · exact ⟨0, by decide, rfl, rfl⟩
  · exact ⟨2, by decide, rfl, rfl⟩
  · exact ⟨1, by decide, rfl, rfl⟩

theorem crossValue_lt {g : Group} {flt : Bool} (h : flt = true → isFlt g.ety = true) (scan : Bool) (b : BitVec 8) (e j : Nat) :
    crossValue g flt scan b e j < 2 ^ etyBits g.ety := by
  unfold crossValue
  dsimp only
  split
  · next hf =>
    obtain ⟨c, hc, hfmt, hbits⟩ := etyFmt_code (h hf)
    rw [hfmt, ← hbits]
    exact toFormat_lt hc _ _ _ _ _
  · obtain ⟨u, v, huv⟩ := crossOf_add scan (fun u v => fitI (etyBits g.ety) (etySigned g.ety) g.sat (toI (etyBits g.ety) (etySigned g.ety) u +
      toI (etyBits g.ety) (etySigned g.ety) v)) 0 (fun l => if g.active.getLsbD l then elemIn g (g.laneV (isWide g.ety) b l) e else 0) j
    rw [huv]
    exact fitI_lt _ _ _ _

theorem exec_crossWord (scan : Bool) (d : BitVec 8) (f : BitVec 1) (b : BitVec 8) (s : State) :
    exec (crossWord scan d f b) s = issue noPre (crossOp scan d f b) (crossWord scan d f b) s := by
  cases scan <;> rfl

theorem writable_of_crossWord {scan : Bool} {d : BitVec 8} {f : BitVec 1} {b : BitVec 8} {g : Group} (h : Issues (crossWord scan d f b) g) :
    g.Writable d := by
  have hn := namesOk_of_issues h
  obtain ⟨-, hw⟩ := h
  refine writable_of ?_ fun hin => ?_
  · cases scan <;> simp_all [crossWord, namesOk]
  · specialize hw hin
    cases scan <;> simp_all [crossWord, windowOk]

/-- The lanes that the shared operation writes. -/
def crossLane (g : Group) (flt scan : Bool) (b : BitVec 8) (j : Nat) : Dword :=
  (perElem (etyBits g.ety) fun e => (crossValue g flt scan b e j, 0)).1

/-- The flags of every element's additions together. -/
def crossFlags (g : Group) (flt scan : Bool) (b : BitVec 8) : FFlags :=
  ((List.range (elems g)).map fun e => (crossElem g flt scan b e, e)).foldl (fun s r => s ||| r.1.2) 0

theorem crossFlags_int (g : Group) (scan : Bool) (b : BitVec 8) : crossFlags g false scan b = 0 := by
  unfold crossFlags
  rw [List.foldl_map]
  simp only [crossElem_snd, show ∀ x : FFlags, x ||| 0 = x from fun x => BitVec.or_zero]
  exact List.foldl_fixed _

theorem crossLane_eq {g : Group} {flt : Bool} (h : flt = true → isFlt g.ety = true) (scan : Bool) (b : BitVec 8) {j : Nat} (hj : j < 32) :
    ((List.range (elems g)).map fun e => (crossElem g flt scan b e, e)).foldl
      (fun s r => s ||| BitVec.ofNat 64 ((r.1.1[j]?).getD 0 * 2 ^ (etyBits g.ety * r.2))) 0 = crossLane g flt scan b j := by
  unfold crossLane
  rw [perElem_value, List.foldl_map, List.foldl_map]
  congr 1
  funext x e
  rw [crossElem_fst g flt scan b e hj, placed, Nat.mod_eq_of_lt (crossValue_lt h scan b e j)]
  rfl

theorem crossOp_eq {scan : Bool} {d : BitVec 8} {f : BitVec 1} {b : BitVec 8} {m : Cells} {w : Iss} {c : Cpu}
    (hm : VecMode (if f = 1 then isFlt else isInt) c.grp [d] [b] []) : crossOp scan d f b m w c =
      c.retire w ((c.grp.writeLanes (isWide c.grp.ety) d c.grp.active
        (Vector.ofFn fun (j : Fin 32) => crossLane c.grp (f == 1) scan b j)).orFlags (crossFlags c.grp (f == 1) scan b)) := by
  obtain ⟨hok, hpairs⟩ := hm
  have hmode : modeOk c.grp (if f == 1 then isFlt else isInt) (pairOk true d && pairOk false b) = true :=
    modeOk_of (by simpa using hok) fun h => by
      obtain ⟨h1, h2, -⟩ := hpairs h
      simp [h1 d (by simp), h2 b (by simp)]
  have hflt : (f == 1) = true → isFlt c.grp.ety = true := fun h => by rw [if_pos (beq_iff_eq.1 h)] at hok; exact hok
  have hlanes := congrArg Vector.ofFn (funext fun j : Fin 32 => crossLane_eq hflt scan b j.isLt)
  unfold crossOp
  rw [if_pos hmode]
  exact congrArg (fun x => c.retire w ((c.grp.writeLanes (isWide c.grp.ety) d c.grp.active x).orFlags _)) hlanes

theorem crossOp_did {scan : Bool} {d : BitVec 8} {f : BitVec 1} {b : BitVec 8} {i : Instr} {s : State}
    (hm : VecMode (if f = 1 then isFlt else isInt) s.cpu.grp [d] [b] []) (hd : s.cpu.grp.Writable d) :
    let g := s.cpu.grp
    let wide := isWide g.ety
    let t : State := { s with cpu := crossOp scan d f b s.mem ⟨i, none⟩ s.cpu }
    Did i (.fpflags :: vecDst wide d) s t ∧ Shifted wide d g t.cpu.grp ∧
      LaneResults wide g.active d g t.cpu.grp (crossLane g (f == 1) scan b) ∧
      t.cpu.grp.fpflags = g.fpflags ||| crossFlags g (f == 1) scan b := by
  intro g wide t
  have ht : t = { s with cpu := _ } := congrArg (fun c => { s with cpu := c }) (crossOp_eq hm)
  rw [ht]
  exact flagged_did _ _ hd fun h => (hm.2 h).1 d (by simp)

theorem toI_zero (n : Nat) (sg : Bool) : toI n sg 0 = 0 := by simp [toI]

/-- Settles O13: the trees and the prefixes of the lists are those of the rules, and each lane's elements are put together as for any word;
the integers are followed through what the encodings read as. -/
theorem crossLaneSums : Obligations.CrossLaneSums := by
  unfold Obligations.CrossLaneSums
  intro scan d f b s i g wide n sg fmt hi hm
  have hflt : (f == 1) = true → isFlt g.ety = true := fun h => by have h1 := hm.1; rw [if_pos (beq_iff_eq.1 h)] at h1; exact h1
  obtain ⟨hdid, hshift, hlane, hflags⟩ := crossOp_did (scan := scan) (i := i) hm (writable_of_crossWord hi)
  refine ⟨_, (exec_crossWord scan d f b s).trans (issue_of_issues hi rfl), hdid, hshift, fun h0 => ?_,
    elemResults_of_lanes hlane (fun j => rfl) fun j hj e he => ?_⟩
  · rw [hflags, h0]
    exact (congrArg (g.fpflags ||| ·) (crossFlags_int g scan b)).trans BitVec.or_zero
  · intro x
    dsimp only
    rw [Nat.mod_eq_of_lt (crossValue_lt hflt scan b e j)]
    by_cases h1 : f = 1
    · subst h1
      rfl
    · rw [if_neg h1]
      rw [show (f == 1) = false by simpa using h1]
      refine (crossOf_map (φ := toI n sg) (op' := fun u v => toI n sg (fitI n sg g.sat (u + v))) (fun u v => rfl) scan 0 _ j).trans ?_
      have hzero : toI n sg 0 = 0 := toI_zero n sg
      simp only [hzero, apply_ite (toI n sg)]
      rfl

end Sys2Proof.Machine

/-! SUPPORT. Conversion between the formats (R60, R64 to R66, R70 to R72; O7): the hash of R66, the integer results, and what a lane holds. -/

namespace Sys2Proof.Machine

/-! ### Flags of lanes (R69) -/

theorem foldl_or_flag {l : List Nat} {f : Nat → FFlags} {a : FFlags} {k : Nat} :
    (l.foldl (fun s j => s ||| f j) a).getLsbD k = true ↔ a.getLsbD k = true ∨ ∃ j ∈ l, (f j).getLsbD k = true := by
  induction l generalizing a with
  | nil => simp
  | cons x l ih => simp [ih, or_assoc]

theorem laneFlags_getLsbD (act : Word) (f : Nat → FFlags) (k : Nat) :
    (laneFlags act f).getLsbD k = true ↔ ∃ j < 32, act.getLsbD j = true ∧ (f j).getLsbD k = true := by
  unfold laneFlags
  rw [foldl_or_flag]
  simp [mem_lanesOf, and_assoc]

/-- Results of whole lanes, with the flags of the active ones. -/
theorem flagLanes_of {wide : Bool} {d : BitVec 8} {g h : Group} {F : Nat → Dword} {fl : Nat → FFlags} (hl : LaneResults wide g.active d g h F)
    (hf : h.fpflags = g.fpflags ||| laneFlags g.active fl) {R : Nat → Dword → FFlags → Prop}
    (hR : ∀ j < 32, R j (if wide then F j else ((F j).setWidth 32).setWidth 64) (fl j)) : FlagLanes wide d g h R := by
  refine ⟨fl, fun j => ?_, fun k _ => ?_⟩
  · rw [hl j]
    by_cases hj : g.active.getLsbD j = true
    · simp only [hj, if_true]; exact hR j j.isLt
    · simp only [hj]; rfl
  · rw [hf, BitVec.getLsbD_or, Bool.or_eq_true, laneFlags_getLsbD]

/-! ### The hash of R66 -/

/-- One round of the hash: a product, and its high bits put over its low ones. -/
theorem mixRound_toNat (x c : Word) (k : Nat) :
    ((x * c) ^^^ ((x * c) >>> k)).toNat = (x.toNat * c.toNat % 2 ^ 32) ^^^ (x.toNat * c.toNat % 2 ^ 32 / 2 ^ k) := by
  rw [BitVec.toNat_xor, BitVec.toNat_ushiftRight, BitVec.toNat_mul, Nat.shiftRight_eq_div_pow]

theorem mixStep_toNat (h w : Word) : (mixStep h w).toNat = mixed h.toNat w.toNat := by
  have h1 : (0xA54FF53B : Word).toNat = 0xA54FF53B := by decide
  have h2 : (0x2C1B3C6D : Word).toNat = 0x2C1B3C6D := by decide
  unfold mixStep mixed
  rw [mixRound_toNat, mixRound_toNat, h1, h2, BitVec.toNat_xor]

theorem foldl_mixStep_toNat (ws : List Word) (h : Word) : (ws.foldl mixStep h).toNat = (ws.map BitVec.toNat).foldl mixed h.toNat := by
  induction ws generalizing h with
  | nil => rfl
  | cons w ws ih => rw [List.foldl_cons, ih, mixStep_toNat]; rfl

theorem mix32_toNat {ws : List Word} (hw : ws.length < 2 ^ 32) : (mix32 ws).toNat = mix (ws.map BitVec.toNat) := by
  have h1 : (0x297A2D39 : Word).toNat = 0x297A2D39 := by decide
  have h2 : (0x3C6EF372 : Word).toNat = 0x3C6EF372 := by decide
  unfold mix32 mix
  rw [mixRound_toNat, h1, BitVec.toNat_xor, foldl_mixStep_toNat, h2, BitVec.toNat_ofNat, Nat.mod_eq_of_lt hw, List.length_map]

/-- The random word of a lane (R65). -/
theorem cvtRandom_eq (seed : Word) (g : Group) {j : Nat} (hj : j < 32) :
    cvtRandom seed g j = BitVec.ofNat 32 (mix (seed.toNat :: halves g.gid ++ halves g.lc ++ [j])) := by
  have hj' : j % 2 ^ 32 = j := Nat.mod_eq_of_lt (by omega)
  have hmix := mix32_toNat (ws := [seed, BitVec.ofNat 32 g.gid, BitVec.ofNat 32 (g.gid / 2 ^ 32), BitVec.ofNat 32 g.lc,
    BitVec.ofNat 32 (g.lc / 2 ^ 32), BitVec.ofNat 32 j]) (by simp)
  simp only [List.map_cons, List.map_nil, BitVec.toNat_ofNat, hj'] at hmix
  refine BitVec.eq_of_toNat_eq ?_
  rw [BitVec.toNat_ofNat]
  exact (Nat.mod_eq_of_lt (BitVec.isLt _)).symm.trans (congrArg (· % 2 ^ 32) hmix)

/-! ### Conversion to an integer (R72) -/

theorem wrapI_minI {n : Nat} (hn : 0 < n) (sg : Bool) : wrapI n (minI n sg) = if sg then 2 ^ (n - 1) else 0 := by
  cases sg
  · simp [minI, wrapI]
  · have hp : (2 : Int) ^ n = 2 * 2 ^ (n - 1) := by rw [← pow_succ']; congr 1; omega
    have hpos : (0 : Int) < 2 ^ (n - 1) := by positivity
    have hcast : (wrapI n (minI n true) : Int) = 2 ^ (n - 1) := by
      rw [wrapI_cast, ← Int.add_emod_right, minI, if_pos rfl, Int.emod_eq_of_lt] <;> omega
    exact_mod_cast hcast

theorem minI_le_maxI (n : Nat) (sg : Bool) : minI n sg ≤ maxI n sg := by
  have : (0 : Int) < 2 ^ (n - 1) := by positivity
  have : (0 : Int) < 2 ^ n := by positivity
  unfold minI maxI
  split <;> omega

/-- A value rounded to an integer, under the modes that R72 has. -/
theorem toInteger_spec (mode : Nat) (neg : Bool) (m : Nat) (e : Int) : ∃ q, (FV.fin neg m e).rat = some q ∧
    RoundsToInt (if mode = 4 then 0 else mode) q ((FV.fin neg m e).toInteger mode).1 ∧
      (((FV.fin neg m e).toInteger mode).2 = true ↔ (((FV.fin neg m e).toInteger mode).1 : ℚ) ≠ q) := by
  have hd : (⟨m, 1, e⟩ : Mag).d ≠ 0 := one_ne_zero
  have hq : (if neg then -1 else 1) * (m : ℚ) * 2 ^ e = sgn neg * (⟨m, 1, e⟩ : Mag).val := by
    rw [← cast_sgn, Mag.val, Nat.cast_one, div_one, mul_assoc]
  have hr := Mag.round_roundsBy hd 0 (if mode = 4 then 0 else mode) 0 neg
  have hx := Mag.round_inexact hd 0 (if mode = 4 then 0 else mode) 0 neg
  rw [zpow_zero, div_one] at hr hx
  rw [RoundsBy, if_neg (by split <;> omega)] at hr
  have hk : ((FV.fin neg m e).toInteger mode).1 = sgn neg * ((⟨m, 1, e⟩ : Mag).round 0 (if mode = 4 then 0 else mode) 0 neg).1 := by
    cases neg <;> simp [FV.toInteger]
  refine ⟨_, rfl, ?_, ?_⟩
  · rw [hk, hq]; exact hr
  · rw [hk, hq]
    refine hx.trans ?_
    cases neg <;> simp

theorem floatToInt_spec {n : Nat} (hn : 0 < n) (sg : Bool) (mode : Nat) (sat : Bool) (x : FV) :
    ToInt n sg (if mode = 4 then 0 else mode) sat x (floatToInt n sg mode sat x).1 (floatToInt n sg mode sat x).2 := by
  have hodd := wrapI_minI hn sg
  have hmin := toI_wrapI_fit hn sg (minI n sg) le_rfl (minI_le_maxI n sg)
  have hmax := toI_wrapI_fit hn sg (maxI n sg) (minI_le_maxI n sg) le_rfl
  cases x with
  | nan => exact ⟨by simp only [floatToInt, hodd], rfl⟩
  | inf neg => 
    refine ⟨?_, rfl⟩
    cases sat
    · exact hodd
    · cases neg
      · exact hmax
      · exact hmin
  | fin neg m e =>
    obtain ⟨q, hq, hround, hnx⟩ := toInteger_spec mode neg m e
    refine ⟨q, _, hq, hround, ?_⟩
    unfold floatToInt
    dsimp only
    generalize (FV.fin neg m e).toInteger mode = p at *
    obtain ⟨k, nx⟩ := p
    dsimp only at *
    split
    · refine ⟨?_, rfl⟩
      cases sat
      · exact hodd
      · exact hmax
    · split
      · refine ⟨?_, rfl⟩
        cases sat
        · exact hodd
        · exact hmin
      · next h1 h2 =>
        refine ⟨toI_wrapI_fit hn sg k (not_lt.1 h2) (not_lt.1 h1), ?_⟩
        by_cases h : (k : ℚ) = q
        · have : nx = false := by simpa [h] using hnx
          simp [h, this]
        · have : nx = true := hnx.2 h
          simp [h, this]

theorem floatToInt_lt (n : Nat) (sg : Bool) (mode : Nat) (sat : Bool) (x : FV) : (floatToInt n sg mode sat x).1 < 2 ^ n := by
  have hpos : 0 < 2 ^ n := by positivity
  have hite : ∀ (p : Prop) [Decidable p] (u v : Nat), u < 2 ^ n → v < 2 ^ n → (if p then u else v) < 2 ^ n := fun p _ u v hu hv => by
    split
    · exact hu
    · exact hv
  unfold floatToInt
  cases x with
  | nan => exact hite _ _ _ hpos (wrapI_lt _ _)
  | inf neg => exact hite _ _ _ (wrapI_lt _ _) (wrapI_lt _ _)
  | fin neg m e =>
    dsimp only
    split
    · exact hite _ _ _ (wrapI_lt _ _) (wrapI_lt _ _)
    · split
      · exact hite _ _ _ (wrapI_lt _ _) (wrapI_lt _ _)
      · exact wrapI_lt _ _

/-! ### A converted lane (R70, R71) -/

theorem encodeCode_lt (c mode : Nat) (sat ftz : Bool) (w : Word) (x : FV) : (encodeCode c mode sat ftz w x).1 < 2 ^ fmtBits c := by
  unfold encodeCode
  split
  · next hc => exact toFormat_lt hc mode sat ftz w x
  · exact floatToInt_lt _ _ _ _ _

/-- A result by its format: rounded once, or converted by R72. -/
theorem encodeCode_result {c : Nat} (hpos : 0 < fmtBits c) (mode : Nat) (sat ftz : Bool) (w : Word) (x : FV) :
    let r := encodeCode c mode sat ftz w x
    if c < 6 then (r.1, r.2) = toFormat (fmtOf c) mode sat ftz w x
    else ToInt (fmtBits c) (fmtSigned c) (if mode = 4 then 0 else mode) sat x r.1 r.2 := by
  intro r
  by_cases hc : c < 6
  · rw [if_pos hc]
    exact if_pos hc
  · have hr : r = floatToInt (fmtBits c) (fmtSigned c) mode sat x := if_neg hc
    rw [if_neg hc, hr]
    exact floatToInt_spec hpos _ _ _ _

theorem toI_emod {n x : Nat} (hx : x < 2 ^ n) (sg : Bool) : toI n sg x % 2 ^ n = x := by
  unfold toI
  rw [Nat.mod_eq_of_lt hx]
  dsimp only
  split
  · rw [Int.sub_emod_right]; exact Int.emod_eq_of_lt (by omega) (by exact_mod_cast hx)
  · exact Int.emod_eq_of_lt (by omega) (by exact_mod_cast hx)

/-- The lane holds the result, extended by its sign where it is signed and short. -/
theorem cvtPlace_toNat {dst x : Nat} (hdst : dst < 14) (hx : x < 2 ^ fmtBits dst) :
    let lane := if fmtBits dst == 64 then cvtPlace dst x else ((cvtPlace dst x).setWidth 32).setWidth 64
    lane.toNat % 2 ^ fmtBits dst = x ∧
      lane.toNat = if fmtSigned dst = true ∧ fmtBits dst < 32 then (toI (fmtBits dst) true x % 2 ^ 32).toNat else x := by
  intro lane
  have hwidth : fmtBits dst = 64 ∨ fmtBits dst ≤ 32 := by interval_cases dst <;> decide
  by_cases hs : fmtSigned dst = true ∧ fmtBits dst < 32
  · have h32 := wrapI_lt 32 (toI (fmtBits dst) true x)
    have hlane : lane.toNat = wrapI 32 (toI (fmtBits dst) true x) := by
      have hne : (fmtBits dst == 64) = false := by rw [beq_eq_false_iff_ne]; omega
      simp only [lane, cvtPlace, hne, hs, decide_true, Bool.and_self, if_true, Bool.false_eq_true, if_false, BitVec.toNat_setWidth,
        BitVec.toNat_ofNat]
      omega
    rw [hlane, if_pos hs]
    refine ⟨?_, rfl⟩
    have hmod : ((wrapI 32 (toI (fmtBits dst) true x) % 2 ^ fmtBits dst : ℕ) : Int) = x := by
      push_cast
      rw [wrapI_cast, Int.emod_emod_of_dvd _ (pow_dvd_pow 2 hs.2.le), toI_emod hx]
    exact_mod_cast hmod
  · have hlane : lane.toNat = x := by
      have hplace : cvtPlace dst x = BitVec.ofNat 64 x := if_neg (by simpa using hs)
      rcases hwidth with h | h
      · rw [h] at hx
        simp only [lane, hplace, h, beq_self_eq_true, if_true, BitVec.toNat_ofNat]
        exact Nat.mod_eq_of_lt hx
      · have hne : (fmtBits dst == 64) = false := by rw [beq_eq_false_iff_ne]; omega
        have hx32 : x < 2 ^ 32 := hx.trans_le (Nat.pow_le_pow_right (by decide) h)
        simp only [lane, hplace, hne, Bool.false_eq_true, if_false, BitVec.toNat_setWidth, BitVec.toNat_ofNat]
        omega
    rw [hlane, if_neg hs]
    exact ⟨Nat.mod_eq_of_lt hx, rfl⟩

/-! ### The word -/

theorem fcvtCode_dst {a : BitVec 8} (h : fcvtCode a = true) : a.toNat / 16 < 14 := by
  simp only [fcvtCode, Bool.and_eq_true, decide_eq_true_eq] at h
  obtain ⟨⟨⟨⟨⟨-, hdst⟩, -⟩, -⟩, -⟩, -⟩ := h
  exact hdst

theorem fmtBits_pos {c : Nat} (hc : c < 14) : 0 < fmtBits c := by interval_cases c <;> decide

theorem code64_iff {c : Nat} (hc : c < 14) : code64 c = true ↔ (fmtBits c == 64) = true := by interval_cases c <;> decide

/-- The destination of a d access is a pair that names reach. -/
theorem pair_of_vDstD {d : BitVec 8} (h : vDstD d = true) : vWrite d = true ∧ pairOk true d = true := by
  simp only [vDstD, vWrite, pairOk, Bool.and_eq_true, Bool.or_eq_true, decide_eq_true_eq, beq_iff_eq] at h ⊢
  omega

/-- The result of a lane with its flags. -/
def cvtResult (seed : Word) (g : Group) (a : BitVec 8) (b : Src) (j : Nat) : Nat × FFlags :=
  encodeCode (a.toNat / 16) g.rnd g.sat g.ftz (cvtRandom seed g j)
    (decodeCode (a.toNat % 16) g.ftz (srcLane g (fmtBits (a.toNat % 16) == 64) b j).toNat)

/-- What a converted lane holds, and the flags it sets (R64 to R66, R70 to R72). -/
def Converted (seed : Word) (g : Group) (a : BitVec 8) (b : Src) (j : Nat) (lane : Dword) (fl : FFlags) : Prop :=
  let dst := a.toNat / 16
  let src := a.toNat % 16
  let n := fmtBits dst
  let x := decodeCode src g.ftz (srcLane g (fmtBits src == 64) b j).toNat
  let r := lane.toNat % 2 ^ n
  let w := BitVec.ofNat 32 (mix (seed.toNat :: halves g.gid ++ halves g.lc ++ [j]))
  (lane.toNat = if fmtSigned dst = true ∧ n < 32 then (toI n true r % 2 ^ 32).toNat else r) ∧
    if dst < 6 then (r, fl) = toFormat (fmtOf dst) g.rnd g.sat g.ftz w x else ToInt n (fmtSigned dst) (rndNoSr g) g.sat x r fl

theorem converted_cvtResult {a : BitVec 8} (hcode : fcvtCode a = true) (seed : Word) (g : Group) (b : Src) {j : Nat} (hj : j < 32) :
    let r := cvtResult seed g a b j
    let lane := cvtPlace (a.toNat / 16) r.1
    Converted seed g a b j (if fmtBits (a.toNat / 16) == 64 then lane else (lane.setWidth 32).setWidth 64) r.2 := by
  intro r lane
  have hdst := fcvtCode_dst hcode
  obtain ⟨hlow, hext⟩ := cvtPlace_toNat hdst (x := r.1) (encodeCode_lt _ _ _ _ _ _)
  unfold Converted
  dsimp only at hlow hext ⊢
  rw [hlow, ← cvtRandom_eq seed g hj]
  exact ⟨hext, encodeCode_result (fmtBits_pos hdst) _ _ _ _ _⟩

/-- `fcvt` leaves every active lane its result, and the flags of all. -/
theorem fcvtOp_did {d a : BitVec 8} {b : Src} {i : Instr} {s : State} (hd : s.cpu.grp.Writable d)
    (hp : (fmtBits (a.toNat / 16) == 64) = true → pairOk true d = true) (hcode : fcvtCode a = true) :
    let g := s.cpu.grp
    let wide := fmtBits (a.toNat / 16) == 64
    let t : State := { s with cpu := fcvtOp d a b s.mem ⟨i, none⟩ s.cpu }
    Did i (.fpflags :: vecDst wide d) s t ∧ Shifted wide d g t.cpu.grp ∧ FlagLanes wide d g t.cpu.grp (Converted s.cpu.ctx.seed g a b) := by
  intro g wide t
  obtain ⟨hdid, hshift, hlane, hflags⟩ := flagged_did (i := i) (fun j => cvtPlace (a.toNat / 16) (cvtResult s.cpu.ctx.seed g a b j).1)
    (laneFlags g.active fun j => (cvtResult s.cpu.ctx.seed g a b j).2) hd hp
  exact ⟨hdid, hshift, flagLanes_of hlane hflags fun j hj => converted_cvtResult hcode _ g b hj⟩

/-- Settles O7: both forms are one operation, whose result by format is `encodeCode_result`, and whose lane is `cvtPlace_toNat`. -/
theorem floatConversion : Obligations.FloatConversion := by
  unfold Obligations.FloatConversion
  intro d a b s g i dst src n hi
  have hexec : exec i s = issue noPre (fcvtOp d a b) i s := by cases b <;> rfl
  have hnames : (if code64 dst then vDstD d else vWrite d) = true := by
    have h := namesOk_of_issues hi
    cases b <;> exact (Bool.and_eq_true_iff.1 h).1
  have hcode : fcvtCode a = true := by
    have h := (Bool.and_eq_true_iff.1 hi.1).2
    cases b <;> exact h
  have hwin : s.cpu.grp.inWin = true → vIn d = true := fun hin => by
    have h := hi.2 hin
    cases b <;> exact (Bool.and_eq_true_iff.1 h).1
  have hpair : (n == 64) = true → pairOk true d = true := fun h64 => by
    rw [if_pos ((code64_iff (fcvtCode_dst hcode)).2 h64)] at hnames
    exact (pair_of_vDstD hnames).2
  have hwrite : vWrite d = true := by
    split at hnames
    · exact (pair_of_vDstD hnames).1
    · exact hnames
  obtain ⟨hdid, hshift, hflags⟩ := fcvtOp_did (i := i) (b := b) (writable_of hwrite hwin) hpair hcode
  exact ⟨_, hexec.trans (issue_of_issues hi rfl), hdid, hshift, hflags⟩

end Sys2Proof.Machine

/-! SUPPORT. `st`: what the shared operation leaves where every lane passes its checks (R88, R89, R103, R106, R175, R303; O28, O29). -/

namespace Sys2Proof.Machine

/-! ### The word -/

/-- The five stores are one operation. -/
theorem exec_storeWord {size : Nat} (h : size ∈ sizes) (d a b : BitVec 8) (s : State) :
    exec (storeWord size d a b) s = issue noPre (stOp size d a b) (storeWord size d a b) s := by
  simp only [sizes, List.mem_cons, List.not_mem_nil, or_false] at h
  obtain rfl | rfl | rfl | rfl | rfl := h <;> rfl

theorem weight_storeWord {size : Nat} (h : size ∈ sizes) (d a b : BitVec 8) : weight (storeWord size d a b) = 2 := by
  simp only [sizes, List.mem_cons, List.not_mem_nil, or_false] at h
  obtain rfl | rfl | rfl | rfl | rfl := h <;> rfl

/-! ### Stores through the trap window (R303) -/

@[simp] theorem windowPut_pc (g : Group) (a : Nat) (x : Byte) : (windowPut g a x).pc = g.pc := by
  simp only [windowPut, apply_ite Group.pc, ite_self]

@[simp] theorem windowStore_pc (g : Group) (cs : Cells) : (windowStore g cs).pc = g.pc := by
  have hfold : ∀ h : Group, (cs.foldl (fun g e => windowPut g e.1 e.2) h).pc = h.pc := by
    induction cs with
    | nil => exact fun _ => rfl
    | cons e cs ih => exact fun h => (ih _).trans (windowPut_pc h e.1 e.2)
  unfold windowStore
  dsimp only
  split
  · exact hfold g
  · exact hfold g

/-- A store of no bytes leaves MD as it is. -/
theorem windowStore_nil (g : Group) : windowStore g [] = g := by
  have hmd : g.main.md.extractLsb' 8 8 ++ g.main.md.extractLsb' 0 8 = g.main.md := by
    apply BitVec.eq_of_getLsbD_eq
    intro i hi
    rw [BitVec.getLsbD_append]
    split
    · simp [*]
    · simp [show i - 8 < 8 by omega, show 8 + (i - 8) = i by omega]
  unfold windowStore
  simp only [get?, Option.getD_none, hmd, List.foldl_nil, ite_self]

/-! ### The operation -/

section
variable {size : Nat} {d a b : BitVec 8} {w : Iss} {s : State}

/-- The cells that a store of the lanes still to execute writes, higher lanes over lower (R175). -/
def storedCells (s : State) (size : Nat) (d a b : BitVec 8) (w : Iss) : Cells :=
  storeCells (pendingLanes s.cpu.grp) (loadAddr s a b w) (srcData s.cpu.grp d size) size

theorem storedCells_keys (x : Nat) : (∃ e ∈ storedCells s size d a b w, e.1 = x) ↔
    lanesBytes (pendingLanes s.cpu.grp) (loadAddr s a b w) size x := mem_storeCells _ _ size x

theorem rising_storedCells : rising (storedCells s size d a b w) = true := rising_storeCells _ _ _ _

theorem storedCells_spec : StoredBytes some (pendingLanes s.cpu.grp) (loadAddr s a b w) (srcData s.cpu.grp d size) size (fun _ => none)
    (get? (storedCells s size d a b w)) := storeCells_spec _ _ size (lanesOf_rising _)

/-- No lane stores anything. -/
theorem stOp_idle (hobj : loadObj s a ≠ 1) (hnil : pendingLanes s.cpu.grp = []) :
    ∃ dir, stOp size d a b s.mem w s.cpu = (s.withDir dir).cpu.retire w s.cpu.grp := by
  unfold loadObj at hobj
  cases hrec : s.cpu.record s.mem (baseObj (s.cpu.grp.readKK a)) with
  | none =>
    refine ⟨s.cpu.hw.dir, ?_⟩
    simp [stOp, hrec, hnil, sortLanes, firstFailure, malformedWait, closeAccess]
    rfl
  | some r =>
    refine ⟨(touchLines s.mem s.cpu r []).hw.dir, ?_⟩
    simp [stOp, hrec, hnil, sortLanes, firstFailure, malformedWait, closeAccess, hobj, Sorted.offs]
    rfl

/-- Every lane stores its bytes at once, and the word retires. -/
theorem stOp_stores {r : Record} (hobj : loadObj s a ≠ 1) (hrec : s.cpu.record s.mem (loadObj s a) = some r)
    (hsome : pendingLanes s.cpu.grp ≠ [])
    (hreach : ∀ j ∈ pendingLanes s.cpu.grp, Reach s .store size size (loadObj s a) (loadOff s a b w j)) :
    ∃ dir, stOp size d a b s.mem w s.cpu =
      let c := plainStore s.mem r (s.withDir dir).cpu (storedCells s size d a b w) []
      c.retire w c.grp := by
  have hsort := sortLanes_pass hobj (fun _ => rfl) hreach
  rw [hrec] at hsort
  refine ⟨(touchLines s.mem s.cpu r (Sorted.offs ⟨none, pendingLanes s.cpu.grp, []⟩ (loadOff s a b w))).hw.dir, ?_⟩
  unfold loadObj at hobj hrec hsort
  unfold loadOff at hsort
  simp only [stOp, hrec, hsort, malformedWait, List.find?_nil, if_neg hobj, if_neg hsome, closeAccess, id]
  rfl

/-- Every lane stores into the group's own image, whatever the record of object 1 is. -/
theorem stOp_own (hobj : loadObj s a = 1)
    (hown : ∀ j ∈ pendingLanes s.cpu.grp, (s.cpu.record s.mem 1).isSome = true ∧ loadOff s a b w j % size = 0 ∧
      ownImage s.cpu.grp (loadOff s a b w j) size = true) :
    stOp size d a b s.mem w s.cpu = s.cpu.retire w (windowStore s.cpu.grp (storeCells (pendingLanes s.cpu.grp)
      (fun j => (loadOff s a b w j).toNat - imageOff s.cpu.grp) (srcData s.cpu.grp d size) size)) := by
  have hsort := sortLanes_own (kind := .store) hown
  unfold loadObj at hobj
  unfold loadOff at hsort
  cases hrec : s.cpu.record s.mem 1 with
  | none =>
    have hnil : pendingLanes s.cpu.grp = [] := List.eq_nil_iff_forall_not_mem.2 fun j hj => by simpa [hrec] using (hown j hj).1
    rw [hrec, hnil] at hsort
    simp only [stOp, hobj, hrec, hnil, hsort, malformedWait, List.find?_nil, closeAccess, storeCells, List.foldl_nil, windowStore_nil, id]
  | some r =>
    rw [hrec] at hsort
    simp only [stOp, hobj, hrec, hsort, malformedWait, List.find?_nil, closeAccess, if_true, id]
    rfl

/-- The record of an object in effect depends on the table and the module's place in the domain alone. -/
theorem record_congr {c k : Cpu} {m : Cells} {obj : Nat} (ht : k.ctx.objtb = c.ctx.objtb) (hs : k.ctx.span = c.ctx.span)
    (hh : k.hw = { c.hw with dir := k.hw.dir }) : k.record m obj = c.record m obj := by
  unfold Cpu.record
  rw [ht, hs, hh]
  rfl

/-- The bytes of a store that passes its checks are bytes of its object. -/
theorem stored_object (hreach : ∀ j ∈ pendingLanes s.cpu.grp, Reach s .store size size (loadObj s a) (loadOff s a b w j)) {x : Nat}
    (hx : lanesBytes (pendingLanes s.cpu.grp) (loadAddr s a b w) size x) : vaObj x = loadObj s a := by
  obtain ⟨j, hj, hlo, hhi⟩ := hx
  have h := ((hreach j hj).va (baseObj_lt _) (k := x - loadAddr s a b w j) (by omega)).1
  rwa [show vaOf (loadObj s a) (loadOff s a b w j) = loadAddr s a b w j from rfl, Nat.add_sub_cancel' hlo] at h

theorem sameButSketch_retire {g h : Group} (heq : h = { g with sketch := h.sketch }) (w : Iss) : SameButSketch [] g (h.retire w) := by
  have h' := Group.sameGroup_retire h w
  rw [heq] at h' ⊢
  exact h'

/-- A store at this module whose lines fit beside those of the sketch (R88, R103, R104, R106, R175). -/
theorem stOp_fits {ls : List Nat} (hobj : loadObj s a ≠ 1)
    (hreach : ∀ j ∈ pendingLanes s.cpu.grp, Reach s .store size size (loadObj s a) (loadOff s a b w j))
    (hlines : LinesOf (lanesBytes (pendingLanes s.cpu.grp) (loadAddr s a b w) size) ls)
    (hfit : ∀ r, s.cpu.record s.mem (loadObj s a) = some r →
      PlainTarget s r (lanesBytes (pendingLanes s.cpu.grp) (loadAddr s a b w) size) ∧
        (storesThrough r = false → sketchWith s.cpu.grp ls ≤ Config.sketchLines)) :
    let g := s.cpu.grp
    let P := lanesBytes (pendingLanes g) (loadAddr s a b w) size
    let t : State := { s with cpu := stOp size d a b s.mem w s.cpu }
    SameButSketch [] g t.cpu.grp ∧ Retired (weight w.i) (g.pc + BitVec.ofNat 64 (issLen w)) g t.cpu.grp ∧
      MemoryOnly (plainMarks s P) (tagsOf s (loadObj s a) true P) s t ∧ OthersSee s t ∧
      StoredBytes id (pendingLanes g) (loadAddr s a b w) (srcData g d size) size (seenByte s.forget) (seenByte t) := by
  dsimp only
  by_cases hnil : pendingLanes s.cpu.grp = []
  · obtain ⟨dir, hop⟩ := stOp_idle (size := size) (d := d) (b := b) (w := w) hobj hnil
    have hnone : ∀ x, ¬ lanesBytes (pendingLanes s.cpu.grp) (loadAddr s a b w) size x := by simp [lanesBytes, hnil]
    rw [hop]
    refine ⟨Group.sameGroup_retire _ w, retired_retire w rfl rfl,
      ⟨rfl, rfl, fun k => ?_, fun k => ?_, rfl, rfl, fun _ => rfl⟩, fun _ _ _ _ _ => rfl, by simp [hnil], fun _ _ => rfl⟩
    · simp [plainMarks, hnone, State.withDir]
    · simp [tagsOf, hnone, State.withDir]
  · obtain ⟨j, hj⟩ := List.exists_mem_of_ne_nil _ hnil
    obtain ⟨r, hrec, -⟩ := (hreach j hj).record
    obtain ⟨dir, hop⟩ := stOp_stores (d := d) hobj hrec hnil hreach
    obtain ⟨hplain, hsketch⟩ := hfit r hrec
    have hspec := plainStore_spec (s := s) (c := (s.withDir dir).cpu) (cs := storedCells s size d a b w) ⟨rfl, rfl, rfl⟩ hrec
      rising_storedCells storedCells_keys (fun x hx => stored_object hreach hx) hplain hlines hsketch
    rw [hop]
    generalize plainStore s.mem r (s.withDir dir).cpu (storedCells s size d a b w) [] = k at hspec ⊢
    obtain ⟨hgrp, hhw, hctx, hmarks, htags, hparcel, hseen⟩ := hspec
    have hread : ∀ x, seenByte { s with cpu := k.retire w k.grp } x = (get? (storedCells s size d a b w) x).getD (seenByte s.forget x) :=
      fun x => by
        rw [← hseen s.mem rfl x, ← record_congr (k := k) (congrArg Ctx.objtb hctx :) (congrArg Ctx.span hctx :) hhw]
        rfl
    refine ⟨sameButSketch_retire hgrp w, retired_retire w (congrArg Group.pc hgrp :) (congrArg Group.lc hgrp :),
      ⟨hhw, hctx, hmarks, htags, rfl, rfl, fun _ => rfl⟩, fun q gid view x hne => ?_, ?_⟩
    · exact homeByte_congr (hparcel gid hne) (congrArg Ctx.versions hctx :) (congrArg (fun x => ownFlight gid x.flight) hctx :)
        (congrArg Module.number hhw :)
    · rw [funext hread]
      exact storedCells_spec.over

end

/-- Settles O28: the five stores are one operation, which stores beside the sketch's bytes or through, or into the group's own image. -/
theorem plainStores : Obligations.PlainStores := by
  unfold Obligations.PlainStores
  intro size d a b s hsize i g obj off addr lanes P hissues
  have hexec : exec i s = .next { s with cpu := stOp size d a b s.mem ⟨i, none⟩ s.cpu } :=
    (exec_storeWord hsize d a b s).trans (issue_of_issues hissues rfl)
  refine ⟨fun ls hobj hreach hlines hfit => ?_, fun hobj hown => ⟨_, hexec, ?_⟩⟩
  · obtain ⟨hsame, hretired, hmem, hothers, hbytes⟩ := stOp_fits (d := d) (w := ⟨i, none⟩) hobj hreach hlines hfit
    rw [weight_storeWord hsize] at hretired
    exact ⟨_, hexec, hsame, hretired, hmem, hothers, hbytes⟩
  · rw [stOp_own (w := ⟨i, none⟩) hobj hown]
    refine ⟨⟨rfl, rfl, rfl, rfl, fun _ => rfl⟩, ?_⟩
    simp only [Cpu.retire_grp, Group.retire, Group.after, windowStore_pc]
    rfl

end Sys2Proof.Machine

/-! SUPPORT. The implicit release of a store that overflows the sketch (R81, R89; O29). -/

namespace Sys2Proof.Machine

/-! ### Lines of the sketch -/

theorem mem_sketchMerge {sk : List (Nat × Cells)} {cs : Cells} {l : Nat × Cells} (h : l ∈ sketchMerge sk cs) :
    l.1 ∈ sk.map Prod.fst ∨ ∃ e ∈ cs, lineOf e.1 = l.1 := by
  have hfold : ∀ (ls sk : List (Nat × Cells)),
      l ∈ ls.foldl (fun k e => put k e.1 (putAll ((get? k e.1).getD []) e.2)) sk → l.1 ∈ sk.map Prod.fst ∨ l.1 ∈ ls.map Prod.fst := by
    intro ls
    induction ls with
    | nil => exact fun sk hl => .inl (List.mem_map_of_mem hl)
    | cons e ls ih =>
      intro sk hl
      rcases ih _ hl with hkey | hkey
      · obtain ⟨f, hf, hfl⟩ := List.mem_map.1 hkey
        rcases mem_put hf with rfl | hf
        · exact .inr (List.mem_cons.2 (.inl hfl.symm))
        · exact .inl (hfl ▸ List.mem_map_of_mem hf)
      · exact .inr (List.mem_cons_of_mem _ hkey)
  exact (hfold (byLine cs) sk h).imp_right (byLine_mem_iff cs l.1).1

/-- A byte homed here, whatever else the processor holds. -/
theorem bytesHere_of_local {s : State} {c : Cpu} {l : Nat} (hl : LocalByte s l) (ht : c.ctx.objtb = s.cpu.ctx.objtb)
    (hs : c.ctx.span = s.cpu.ctx.span) (hh : c.hw = { s.cpu.hw with dir := c.hw.dir }) :
    bytesHere c.hw (c.record s.mem (vaObj l)) l = none := by
  rw [record_congr ht hs hh]
  unfold bytesHere
  cases hrec : s.cpu.record s.mem (vaObj l) with
  | none => rfl
  | some r =>
    rw [← hl r hrec]
    exact homedAway_congr _ _ _ _ (congrArg Module.rows hh :) (congrArg Module.cols hh :) (congrArg Module.number hh :)

/-! ### The release -/

section
variable {m : Cells} {c : Cpu} {cs : Cells} {ls : List Nat} {P : Nat → Prop}

/-- A store of more lines than the sketch has, or the rest of one of which lanes were published, is published with what the sketch held. -/
theorem sketchStore_bulk (hP : ∀ a, (∃ e ∈ cs, e.1 = a) ↔ P a) (hl : LinesOf P ls) (hbig : c.grp.bulk = true ∨ Config.sketchLines < ls.length)
    (hhere : ∀ l ∈ sketchMerge c.grp.sketch cs, bytesHere c.hw (c.record m (vaObj l.1)) l.1 = none) :
    sketchStore m c cs [] = { c with
      grp := { c.grp with sketch := [], bulk := false }
      ctx := { c.ctx with flight := c.ctx.flight ++ published c.grp.stamp (sketchMerge c.grp.sketch cs) } } := by
  obtain ⟨hlen, -⟩ := byLine_length P hP hl
  unfold sketchStore
  dsimp only
  rw [if_pos (by rw [hlen]; simpa using hbig), publishAll_here _ hhere]
  rfl

/-- A store whose lines do not fit beside those of the sketch: the sketch is released, and then holds the store alone. -/
theorem sketchStore_over (hP : ∀ a, (∃ e ∈ cs, e.1 = a) ↔ P a) (hl : LinesOf P ls) (hb : c.grp.bulk = false)
    (hsmall : ls.length ≤ Config.sketchLines) (hover : Config.sketchLines < sketchWith c.grp ls)
    (hhere : ∀ l ∈ c.grp.sketch, bytesHere c.hw (c.record m (vaObj l.1)) l.1 = none) :
    sketchStore m c cs [] = { c with
      grp := { c.grp with sketch := byLine cs }
      ctx := { c.ctx with flight := c.ctx.flight ++ published c.grp.stamp c.grp.sketch } } := by
  obtain ⟨hlen, hnew⟩ := byLine_length P hP hl
  have hfresh := hnew fun l => (get? c.grp.sketch l).isNone
  unfold sketchWith at hover
  unfold sketchStore
  dsimp only
  rw [if_neg (by rw [hlen, hb]; simpa using hsmall), if_pos (by rw [hfresh]; simpa using hover), release, publishAll_here _ hhere]

end

/-- What a store leaves over bytes that a sketch held. -/
theorem StoredBytes.orElse {lanes : List Nat} {addr val : Nat → Nat} {size : Nat} {f : Nat → Option Byte} (old : Nat → Option Byte)
    (h : StoredBytes some lanes addr val size (fun _ => none) f) : StoredBytes some lanes addr val size old fun a => (f a).or (old a) where
  left j hj k hk hno := by simp only [h.1 j hj k hk hno, Option.some_or]
  right a ha := by simp only [h.2 a ha, Option.none_or]

/-! ### The operation -/

section
variable {size : Nat} {d a b : BitVec 8} {w : Iss} {s : State}

/-- The processor that a store to the sketch starts from: the directory, and the words marked plain (R106, R284). -/
def markedCpu (s : State) (dir : Directory) (cs : Cells) : Cpu :=
  { (s.withDir dir).cpu with ctx := markPlain s.cpu.ctx s.cpu.grp.gid s.cpu.hw.number cs }

/-- A store that the sketch cannot hold beside its lines (R89). -/
theorem stOp_overflows {r : Record} {ls : List Nat} (hobj : loadObj s a ≠ 1) (hsome : pendingLanes s.cpu.grp ≠ [])
    (hreach : ∀ j ∈ pendingLanes s.cpu.grp, Reach s .store size size (loadObj s a) (loadOff s a b w j))
    (hrec : s.cpu.record s.mem (loadObj s a) = some r) (hsketch : storesThrough r = false)
    (hhome : ∀ x, lanesBytes (pendingLanes s.cpu.grp) (loadAddr s a b w) size x → homedAway s.cpu.hw r (vaOff x) = none)
    (hlines : LinesOf (lanesBytes (pendingLanes s.cpu.grp) (loadAddr s a b w) size) ls)
    (hlocal : ∀ l, l ∈ ls ∨ l ∈ s.cpu.grp.sketch.map Prod.fst → LocalByte s l)
    (hover : Config.sketchLines < sketchWith s.cpu.grp ls ∨ s.cpu.grp.bulk = true) :
    let g := s.cpu.grp
    let t : State := { s with cpu := stOp size d a b s.mem w s.cpu }
    SameButSketch [] g t.cpu.grp ∧ Retired (weight w.i) (g.pc + BitVec.ofNat 64 (issLen w)) g t.cpu.grp ∧
      if ls.length ≤ Config.sketchLines ∧ g.bulk = false then
        t.cpu.ctx.flight = s.cpu.ctx.flight ++ published g.stamp g.sketch ∧
          StoredBytes some (pendingLanes g) (loadAddr s a b w) (srcData g d size) size (fun _ => none) (sketchByte t.cpu.grp.sketch)
      else
        t.cpu.grp.sketch = [] ∧ ∃ sk, t.cpu.ctx.flight = s.cpu.ctx.flight ++ published g.stamp sk ∧
          StoredBytes some (pendingLanes g) (loadAddr s a b w) (srcData g d size) size (sketchByte g.sketch) (sketchByte sk) := by
  obtain ⟨dir, hop⟩ := stOp_stores (d := d) hobj hrec hsome hreach
  obtain ⟨hmark, -⟩ := markPlain_spec s.cpu.grp.gid s.cpu.hw.number (storedCells s size d a b w) s.cpu.ctx
  have hhere : ∀ l, l ∈ ls ∨ l ∈ s.cpu.grp.sketch.map Prod.fst →
      bytesHere (markedCpu s dir (storedCells s size d a b w)).hw
        ((markedCpu s dir (storedCells s size d a b w)).record s.mem (vaObj l)) l = none := fun l hl =>
    bytesHere_of_local (hlocal l hl) (congrArg Ctx.objtb hmark :) (congrArg Ctx.span hmark :) rfl
  have hstore : plainStore s.mem r (s.withDir dir).cpu (storedCells s size d a b w) [] =
      sketchStore s.mem (markedCpu s dir (storedCells s size d a b w)) (storedCells s size d a b w) [] :=
    plainStore_sketch (fun e he => hhome e.1 ((storedCells_keys e.1).1 ⟨e, he, rfl⟩)) hsketch
  rw [hop, hstore]
  dsimp only
  by_cases hfits : ls.length ≤ Config.sketchLines ∧ s.cpu.grp.bulk = false
  · rw [if_pos hfits, sketchStore_over (c := markedCpu s dir (storedCells s size d a b w)) storedCells_keys hlines hfits.2 hfits.1 (hover.resolve_right (by simp [hfits.2]))
      fun l hl => hhere l.1 (.inr (List.mem_map_of_mem hl))]
    refine ⟨sameButSketch_retire rfl w, retired_retire w rfl rfl, congrArg (·.flight ++ _) hmark, ?_⟩
    have hread : sketchByte (byLine (storedCells s size d a b w)) = get? (storedCells s size d a b w) :=
      funext (sketchByte_byLine _ rising_storedCells)
    exact hread.symm ▸ storedCells_spec
  · have hbig : s.cpu.grp.bulk = true ∨ Config.sketchLines < ls.length := by
      by_cases hb : s.cpu.grp.bulk = true
      · exact .inl hb
      · exact .inr (Nat.lt_of_not_le fun h => hfits ⟨h, by simpa using hb⟩)
    rw [if_neg hfits, sketchStore_bulk (c := markedCpu s dir (storedCells s size d a b w)) storedCells_keys hlines hbig fun l hl => hhere l.1 ?_]
    · refine ⟨Group.sameGroup_retire _ w, retired_retire w rfl rfl, rfl, _, congrArg (·.flight ++ _) hmark, ?_⟩
      have hread : sketchByte (sketchMerge s.cpu.grp.sketch (storedCells s size d a b w)) =
          fun x => (get? (storedCells s size d a b w) x).or (sketchByte s.cpu.grp.sketch x) :=
        funext (sketchByte_sketchMerge _ _ rising_storedCells)
      exact hread.symm ▸ storedCells_spec.orElse _
    · refine (mem_sketchMerge hl).symm.imp_left fun ⟨e, he, hline⟩ => (hlines.2 _).2 ⟨e.1, (storedCells_keys e.1).1 ⟨e, he, rfl⟩, hline⟩

end

/-- Settles O29: the sketch's two overflows are the first two branches of the sketch's store. -/
theorem sketchOverflow : Obligations.SketchOverflow := by
  unfold Obligations.SketchOverflow
  intro size d a b s r ls hsize i g obj off addr lanes P hissues hreach hrec hsketch hhome hlines hlocal hobj hsome hover
  have hexec : exec i s = .next { s with cpu := stOp size d a b s.mem ⟨i, none⟩ s.cpu } :=
    (exec_storeWord hsize d a b s).trans (issue_of_issues hissues rfl)
  obtain ⟨hsame, hretired, hleft⟩ := stOp_overflows (d := d) (w := ⟨i, none⟩) hobj hsome hreach hrec hsketch hhome hlines hlocal hover
  rw [weight_storeWord hsize] at hretired
  exact ⟨_, hexec, hsame, hretired, hleft⟩

end Sys2Proof.Machine

/-! SUPPORT. The ordering operations at issue (R81, R173, R182 to R185; O34). -/

namespace Sys2Proof.Machine

/-! ### The words -/

/-- The condition that an entry carries: only `waita` has one (R185). -/
def orderCond (op : AOp) (cond : BitVec 4) : BitVec 4 :=
  match op with
  | .waita => cond
  | _ => 0

/-- The eleven words are one operation, with a mode check that VecMode passes and the operands of the statement's entry. -/
theorem exec_orderWord (op : AOp) (cond : BitVec 4) (d a b : BitVec 8) (s : State) : ∃ modes src cmp,
    exec (orderWord op cond d a b) s =
      issue noPre (orderOp op (orderCond op cond) a (orderDst op d) modes src cmp) (orderWord op cond d a b) s ∧
    (VecMode (orderTypes op cond) s.cpu.grp (orderDst op d).toList (orderSrcs op b) [] → modes s.cpu.grp = true) ∧
    ∀ addr lam, orderEntry op cond d b s.cpu.grp addr lam = .atomic op (orderCond op cond) addr (isWide s.cpu.grp.ety)
      (etySigned s.cpu.grp.ety) (src s.cpu.grp lam) (cmp s.cpu.grp lam) := by
  have hboth : ∀ ok, VecMode ok s.cpu.grp [d] [b] [] → modeOk s.cpu.grp ok (pairOk true d && pairOk false b) = true := fun ok h =>
    modeOk_of h.1 fun hw => by simp [(h.2 hw).1 d (by simp), (h.2 hw).2.1 b (by simp)]
  have hsrc : ∀ ok, VecMode ok s.cpu.grp [] [b] [] → modeOk s.cpu.grp ok (pairOk false b) = true := fun ok h =>
    modeOk_of h.1 fun hw => (h.2 hw).2.1 b (by simp)
  have hdst : ∀ ok, VecMode ok s.cpu.grp [d] [] [] → modeOk s.cpu.grp ok (pairOk true d) = true := fun ok h =>
    modeOk_of h.1 fun hw => (h.2 hw).1 d (by simp)
  cases op
  case ldacq => exact ⟨_, _, _, rfl, hdst _, fun _ _ => rfl⟩
  case strel => exact ⟨_, _, _, rfl, hsrc _, fun _ _ => rfl⟩
  case waita => exact ⟨_, _, _, rfl, hsrc _, fun _ _ => rfl⟩
  all_goals exact ⟨_, _, _, rfl, hboth _, fun _ _ => rfl⟩

theorem opReleases_atomic (op : AOp) (cond : BitVec 4) (addr : Nat) (wide sgn : Bool) (x y : Dword) :
    opReleases (.atomic op cond addr wide sgn x y) = orderReleases op := by
  cases op <;> rfl

theorem issLen_word (i : Instr) : issLen ⟨i, none⟩ = 4 := rfl

/-! ### Where the operation acts (R173) -/

theorem spaceBase_lt (g : Group) (a : BitVec 8) : spaceBase g a < 2 ^ 32 := by
  unfold spaceBase
  split
  · omega
  · exact (g.readK (a &&& 63)).isLt

theorem spaceScope_block {a : BitVec 8} : spaceScope a = .block ↔ a.toNat / 64 = 0 := by
  unfold spaceScope
  split <;> simp_all

theorem spaceScope_device {a : BitVec 8} (h : spaceScope a = .device) : a.toNat / 64 = 1 := by
  unfold spaceScope at h
  split at h
  · cases h
  · assumption
  · cases h

/-- A word without a displacement names the scratchpad place of its base. -/
theorem aimOf_block {g : Group} {i : Instr} {a : BitVec 8} (h : a.toNat / 64 = 0) : aimOf g ⟨i, none⟩ a = ⟨.block, 0, (spaceOff g a : Int)⟩ := by
  unfold aimOf spaceOff
  rw [spaceScope_block.2 h, if_pos h]
  simp [dispOf]

/-- Else it names the object and the offset of its base. -/
theorem aimOf_memory {g : Group} {i : Instr} {a : BitVec 8} (h : a.toNat / 64 ≠ 0) :
    aimOf g ⟨i, none⟩ a = ⟨spaceScope a, baseObj (g.readKK (a &&& 63)), (spaceOff g a : Int)⟩ := by
  have hs : spaceScope a ≠ .block := fun hb => h (spaceScope_block.1 hb)
  unfold aimOf spaceOff
  rw [if_neg h]
  split
  · exact absurd ‹_› hs
  · simp [dispOf]

theorem vaOf_base (x : Dword) : vaOf (baseObj x) (baseOff x : Int) = x.toNat := by
  have hx := x.isLt
  unfold vaOf wrapI baseObj baseOff
  omega

/-- Its address is that of the base. -/
theorem aimOf_addr (g : Group) (i : Instr) (a : BitVec 8) : (aimOf g ⟨i, none⟩ a).addr = spaceAddr g a := by
  by_cases h : a.toNat / 64 = 0
  · have hlt := spaceBase_lt g a
    rw [aimOf_block h]
    simp only [Aim.addr, if_true, padFaddr, wrapI, spaceOff, spaceAddr, if_pos h]
    omega
  · have hs : spaceScope a ≠ .block := fun hb => h (spaceScope_block.1 hb)
    rw [aimOf_memory h]
    simp only [Aim.addr, if_neg hs, spaceOff, spaceAddr, if_neg h, vaOf_base]

theorem aimOf_scope (g : Group) (i : Instr) (a : BitVec 8) : (aimOf g ⟨i, none⟩ a).scope = spaceScope a := by
  by_cases h : a.toNat / 64 = 0
  · rw [aimOf_block h, spaceScope_block.2 h]
  · rw [aimOf_memory h]

/-! ### The checks (R184) -/

theorem checkPad_of_valid {p : Block} {off size : Nat} (halign : off % size = 0) (hvalid : padValid p off size = true) :
    checkPad (some p) off size size = none := by
  unfold checkPad
  rw [if_neg (not_not.2 (by exact_mod_cast halign))]
  exact if_pos hvalid

/-- Where the checks pass nothing traps, nothing waits, and the entry's home is this module. -/
theorem aim_of_aimOk {s : State} {i : Instr} {a : BitVec 8} {size : Nat} (h : AimOk s a size) :
    let t := aimOf s.cpu.grp ⟨i, none⟩ a
    aimTrap s.cpu s.mem t size = none ∧ ∃ dir, aimTouch s.cpu s.mem t = (s.withDir dir).cpu ∧
      aimBlock (s.withDir dir).cpu s.mem t size = none ∧ aimHome (s.withDir dir).cpu s.mem t = s.cpu.hw.number := by
  intro t
  by_cases hblk : a.toNat / 64 = 0
  · have ht : t = ⟨.block, 0, (spaceOff s.cpu.grp a : Int)⟩ := aimOf_block hblk
    rw [ht]
    unfold AimOk at h
    simp only [if_pos hblk] at h
    obtain ⟨halign, p, hp, hvalid⟩ := h
    refine ⟨?_, s.cpu.hw.dir, ?_, by simp [aimBlock], by simp [aimHome, State.withDir]⟩
    · simp only [aimTrap, hp, checkPad_of_valid halign hvalid, Option.map_none]
    · unfold aimTouch
      split
      · rfl
      · rfl
  · have hs : spaceScope a ≠ .block := fun hb => hblk (spaceScope_block.1 hb)
    have ht : t = ⟨spaceScope a, baseObj (s.cpu.grp.readKK (a &&& 63)), (spaceOff s.cpu.grp a : Int)⟩ := aimOf_memory hblk
    rw [ht]
    unfold AimOk at h
    simp only [if_neg hblk] at h
    obtain ⟨hreach, hhome⟩ := h
    obtain ⟨r, hrec, -, -, hblock⟩ := hreach.record
    obtain ⟨haway, hhere⟩ := hhome r hrec
    refine ⟨?_, (touchLines s.mem s.cpu r [spaceOff s.cpu.grp a]).hw.dir, ?_, ?_, ?_⟩
    · have hcheck := hreach.check
      rw [hrec] at hcheck
      cases hsc : spaceScope a with
      | block => exact absurd hsc hs
      | device =>
        have hhome := hhere (spaceScope_device hsc)
        simp only [aimTrap, hrec, hcheck, Int.toNat_natCast, hhome, Bool.not_true, Bool.and_false, Bool.false_eq_true, if_false]
      | system =>
        simp only [aimTrap, hrec, hcheck, reduceCtorEq, decide_false, Bool.false_and, Bool.false_eq_true, if_false]
    · simp only [aimTouch, hrec, if_neg hs]
      rfl
    · have hrec' : (s.withDir (touchLines s.mem s.cpu r [spaceOff s.cpu.grp a]).hw.dir).cpu.record s.mem
          (baseObj (s.cpu.grp.readKK (a &&& 63))) = some r := hrec
      simp only [aimBlock, if_neg hs, hrec']
      exact hblock
    · have hrec' : (s.withDir (touchLines s.mem s.cpu r [spaceOff s.cpu.grp a]).hw.dir).cpu.record s.mem
          (baseObj (s.cpu.grp.readKK (a &&& 63))) = some r := hrec
      have haway' : homedAway (s.withDir (touchLines s.mem s.cpu r [spaceOff s.cpu.grp a]).hw.dir).cpu.hw r
          (spaceOff s.cpu.grp a) = none := haway
      simp only [aimHome, if_neg hs, hrec', Int.toNat_natCast, haway']
      rfl

/-! ### The operation -/

theorem lanesOf_eq_nil {x : Word} (h : x = 0) : lanesOf x = [] := by
  subst h
  decide

/-- The lowest active lane comes first. -/
theorem lanesOf_head {x : Word} {lam : Nat} (hlt : lam < 32) (hset : x.getLsbD lam = true) (hlow : ∀ j < lam, x.getLsbD j = false) :
    ∃ l, lanesOf x = lam :: l := by
  have hrise := lanesOf_rising x
  have hmem : lam ∈ lanesOf x := (mem_lanesOf x lam).2 ⟨hlt, hset⟩
  cases hl : lanesOf x with
  | nil => simp [hl] at hmem
  | cons j l =>
    rw [hl, List.pairwise_cons] at hrise
    have hj : x.getLsbD j = true := ((mem_lanesOf x j).1 (hl ▸ List.mem_cons_self)).2
    rw [hl] at hmem
    rcases List.mem_cons.1 hmem with rfl | hin
    · exact ⟨l, rfl⟩
    · rw [hlow j (hrise.1 lam hin)] at hj
      cases hj

section
variable {op : AOp} {cond : BitVec 4} {a : BitVec 8} {vdst : Option (BitVec 8)} {modes : Group → Bool} {src cmp : Group → Nat → Dword}
  {i : Instr} {s : State}

theorem orderOp_idle (h : s.cpu.grp.active = 0) :
    orderOp op cond a vdst modes src cmp s.mem ⟨i, none⟩ s.cpu = s.cpu.retire ⟨i, none⟩ s.cpu.grp := by
  unfold orderOp
  simp only [lanesOf_eq_nil h]

/-- The entry goes to its queue with the operands of the lowest active lane. -/
theorem orderOp_sends {lam : Nat} {l : List Nat} (hlanes : lanesOf s.cpu.grp.active = lam :: l) (hmodes : modes s.cpu.grp = true)
    (haim : AimOk s a (if isWide s.cpu.grp.ety then 8 else 4)) :
    ∃ dir, orderOp op cond a vdst modes src cmp s.mem ⟨i, none⟩ s.cpu = sendEntry s.mem (s.withDir dir).cpu
      ⟨s.cpu.grp.stamp, 64, spaceScope a, .atomic op cond (spaceAddr s.cpu.grp a) (isWide s.cpu.grp.ety) (etySigned s.cpu.grp.ety)
        (src s.cpu.grp lam) (cmp s.cpu.grp lam), s.cpu.hw.number, s.cpu.hw.number, 0⟩
      ⟨vdst, none, isWide s.cpu.grp.ety, s.cpu.grp.active, 64, 4⟩ := by
  obtain ⟨htrap, dir, htouch, hblock, hhome⟩ := aim_of_aimOk (i := i) haim
  refine ⟨dir, ?_⟩
  unfold orderOp
  simp only [hlanes, hmodes, if_true, htrap, htouch, hblock, hhome, aimOf_addr, aimOf_scope, issLen_word]
  rfl

end

/-- Settles O34: the eleven words are one operation, which sends its entry after the publications of a release. -/
theorem orderingSends : Obligations.OrderingSends := by
  unfold Obligations.OrderingSends
  intro op cond d a b s i g wide hissues
  obtain ⟨modes, src, cmp, hexec, hmodes, hentry⟩ := exec_orderWord op cond d a b s
  have hissue := hexec.trans (issue_of_issues hissues rfl)
  refine ⟨fun hidle => ⟨_, hissue, ?_⟩, fun lam hlt hset hlow hmode haim hlocal => ⟨_, hissue, ?_⟩⟩
  · rw [orderOp_idle hidle]
    exact did_retire (SameGroup.refl _) rfl rfl
  · obtain ⟨l, hlanes⟩ := lanesOf_head hlt hset hlow
    obtain ⟨dir, hop⟩ := orderOp_sends (op := op) (cond := orderCond op cond) (vdst := orderDst op d) (src := src) (cmp := cmp)
      (i := orderWord op cond d a b) hlanes (hmodes hmode) haim
    have hhere : ∀ l ∈ (s.withDir dir).cpu.grp.sketch,
        bytesHere (s.withDir dir).cpu.hw ((s.withDir dir).cpu.record s.mem (vaObj l.1)) l.1 = none := fun l hl =>
      bytesHere_of_local (hlocal l hl) rfl rfl rfl
    rw [hop, hentry]
    by_cases hrel : orderReleases op = true
    · rw [sendEntry_releases (by rw [opReleases_atomic, hrel]) rfl hhere, if_pos hrel]
      exact ⟨⟨rfl, rfl, rfl, rfl, fun _ => rfl⟩, rfl, rfl, rfl⟩
    · rw [sendEntry_quiet (by rw [opReleases_atomic]; simpa using hrel) rfl, if_neg hrel]
      exact ⟨⟨rfl, rfl, rfl, rfl, fun _ => rfl⟩, rfl, rfl, (List.append_nil _).symm⟩

end Sys2Proof.Machine

/-! SUPPORT. Barrier arrivals, `barw` and `cede` at issue (R169, R190, R191; O35). -/

namespace Sys2Proof.Machine

section
variable {n : BitVec 4} {cnt : BitVec 10} {waits : Bool} {i : Instr} {s : State} {p : Block}

/-- An arrival goes to the block's queue with its weight; count 0 is the launched group count (R190). -/
theorem arriveOp_sends (hp : s.cpu.ctx.block s.cpu.grp = some p) :
    Sends ⟨s.cpu.grp.stamp, weight i, .block, .arrive n.toNat (if cnt = 0 then p.g else cnt.toNat) waits, s.cpu.hw.number,
      s.cpu.hw.number, 0⟩ ⟨none, none, false, 0, weight i, 4⟩ s { s with cpu := arriveOp n cnt waits s.mem ⟨i, none⟩ s.cpu } := by
  have hop : arriveOp n cnt waits s.mem ⟨i, none⟩ s.cpu = sendEntry s.mem s.cpu
      ⟨s.cpu.grp.stamp, weight i, .block, .arrive n.toNat (if cnt = 0 then p.g else cnt.toNat) waits, s.cpu.hw.number,
        s.cpu.hw.number, 0⟩ ⟨none, none, false, 0, weight i, 4⟩ := by
    unfold arriveOp
    simp only [hp, Option.map_some, Option.getD_some]
    rfl
  rw [hop, sendEntry_quiet rfl rfl]
  exact ⟨⟨rfl, rfl, rfl, fun _ => rfl⟩, rfl, rfl⟩

/-- `barw` of a group that arrived at no generation. -/
theorem barwOp_none (h : get? s.cpu.grp.baras n.toNat = none) :
    barwOp n s.mem ⟨i, none⟩ s.cpu = s.cpu.retire ⟨i, none⟩ s.cpu.grp := by
  unfold barwOp
  simp only [h]

/-- `barw` of a generation that has completed. -/
theorem barwOp_done {gen : Nat} {f : Stamp} (hp : s.cpu.ctx.block s.cpu.grp = some p) (h : get? s.cpu.grp.baras n.toNat = some gen)
    (hdone : genDone p n.toNat gen = some f) : barwOp n s.mem ⟨i, none⟩ s.cpu =
      s.cpu.retire ⟨i, none⟩ { s.cpu.grp with baras := del s.cpu.grp.baras n.toNat, lc := max s.cpu.grp.lc f.lc } := by
  unfold barwOp
  simp only [h, hp, Option.bind_some, hdone]

/-- `barw` of a generation that has not. -/
theorem barwOp_open {gen : Nat} (hp : s.cpu.ctx.block s.cpu.grp = some p) (h : get? s.cpu.grp.baras n.toNat = some gen)
    (hopen : genDone p n.toNat gen = none) : barwOp n s.mem ⟨i, none⟩ s.cpu =
      { s.cpu with grp := { s.cpu.grp with status := .ceded (weight i) (.barrier n.toNat gen) none } } := by
  unfold barwOp
  simp only [h, hp, Option.bind_some, hopen]

/-- `cede` of a line homed on this module. -/
theorem cedeOp_cedes {a : BitVec 8} {r : Record} (hrec : s.cpu.record s.mem (baseObj (s.cpu.grp.readKK a)) = some r)
    (hreach : Reach s .load 1 1 (baseObj (s.cpu.grp.readKK a)) (baseOff (s.cpu.grp.readKK a)))
    (haway : homedAway s.cpu.hw r (baseOff (s.cpu.grp.readKK a)) = none) :
    ∃ dir, cedeOp a s.mem ⟨i, none⟩ s.cpu = { (s.withDir dir).cpu with
      grp := { s.cpu.grp with
        status := .ceded (weight i)
          (.line (if homedHere s.cpu.hw r (baseOff (s.cpu.grp.readKK a)) then .device else .system) (s.cpu.grp.readKK a).toNat) none } } := by
  have hcheck := hreach.check
  obtain ⟨r', hrec', -, -, hblock⟩ := hreach.record
  cases hrec.symm.trans hrec'
  have hblock' : accessBlock s.mem r false (baseOff (s.cpu.grp.readKK a)) 1 = none := hblock
  have haway' : homedAway (touchLines s.mem s.cpu r [baseOff (s.cpu.grp.readKK a)]).hw r (baseOff (s.cpu.grp.readKK a)) = none := haway
  refine ⟨(touchLines s.mem s.cpu r [baseOff (s.cpu.grp.readKK a)]).hw.dir, ?_⟩
  rw [hrec] at hcheck
  unfold cedeOp
  simp only [hrec, hcheck, hblock', haway']
  rfl

end

/-- Settles O35: an arrival is an entry that releases nothing; `barw` and `cede` are given by their cases. -/
theorem barriersAndCede : Obligations.BarriersAndCede := by
  unfold Obligations.BarriersAndCede
  intro n cnt a s p g self count hp
  refine ⟨fun hi => ⟨_, issue_of_issues hi rfl, arriveOp_sends hp⟩, fun hi => ⟨_, issue_of_issues hi rfl, arriveOp_sends hp⟩,
    fun hi => ⟨_, issue_of_issues hi rfl, ?_⟩, ?_⟩
  · cases hgen : get? g.baras n.toNat with
    | none =>
      rw [barwOp_none hgen]
      exact did_retire (SameGroup.refl _) rfl rfl
    | some gen =>
      cases hdone : genDone p n.toNat gen with
      | none =>
        rw [barwOp_open hp hgen hdone]
        refine ⟨⟨rfl, rfl, rfl, rfl, fun _ => rfl⟩, ?_⟩
        unfold genDone at hdone
        simp only [hdone]
        rfl
      | some f =>
        rw [barwOp_done hp hgen hdone]
        refine ⟨⟨rfl, rfl, rfl, rfl, fun _ => rfl⟩, ?_⟩
        unfold genDone at hdone
        simp only [hdone]
        rfl
  · intro r hi va hrec hreach haway
    obtain ⟨dir, hop⟩ := cedeOp_cedes (i := .cede a) hrec hreach haway
    refine ⟨_, issue_of_issues hi rfl, ?_⟩
    rw [hop]
    exact ⟨⟨rfl, rfl, rfl, rfl, fun _ => rfl⟩, rfl⟩

end Sys2Proof.Machine

/-! SUPPORT. Arrivals at the overlay, and its exhaustion (R90, R95, R98, R106, R295; O43). -/

namespace Sys2Proof.Machine

/-! ### A group brought to hand and put back -/

theorem Cpu.take_hw (c : Cpu) (gid : Nat) : (c.take gid).hw = c.hw := by
  unfold Cpu.take
  split
  · rfl
  · split
    · exact Cpu.park_hw c
    · rfl

theorem Cpu.take_ctxId (c : Cpu) (gid : Nat) : ctxId (c.take gid).ctx = ctxId c.ctx := by
  unfold Cpu.take
  split
  · rfl
  · split
    · simp [ctxId]
    · rfl

theorem Cpu.park_ctxId (c : Cpu) : ctxId c.park.ctx = ctxId c.ctx := by simp [ctxId]

/-- Of the module a trap changes the log alone, and of the context neither its number nor its partition. -/
theorem trapWith_logs (c : Cpu) (word : Word) (lit : Option (BitVec 24)) (t : Trap) (n : Nat) :
    ctxId (c.trapWith word lit t n).ctx = ctxId c.ctx ∧ ∃ l, (c.trapWith word lit t n).hw = { c.hw with log := c.hw.log ++ l } := by
  by_cases hw : c.grp.inWin = true
  · rw [trapWith_nested word lit t n hw]
    exact ⟨rfl, _, rfl⟩
  · by_cases hv : c.grp.trapv >>> 2 = 0
    · rw [trapWith_unhandled word lit t n (by simpa using hw) hv]
      exact ⟨rfl, _, rfl⟩
    · rw [trapWith_enters word lit t n (by simpa using hw) hv]
      exact ⟨rfl, [], by simp⟩

/-- With its groups in order of gid, a group is found by its gid. -/
theorem find_of_rising {l : List Group} {k : Group} (hl : (l.map Group.gid).Pairwise (· < ·)) (hk : k ∈ l) :
    l.find? (fun g => g.gid == k.gid) = some k := by
  induction l with
  | nil => cases hk
  | cons g l ih =>
    rw [List.map_cons, List.pairwise_cons] at hl
    rcases List.mem_cons.1 hk with rfl | hk
    · simp
    · have hlt := hl.1 k.gid (List.mem_map_of_mem hk)
      rw [List.find?_cons_of_neg (by simp; omega), ih hl.2 hk]

/-- Any group of a context can be brought to hand. -/
theorem Cpu.take_grp {c : Cpu} {k : Group} (hrise : (c.groups.map Group.gid).Pairwise (· < ·)) (hk : k ∈ c.groups) :
    (c.take k.gid).grp = k := by
  have hfind := find_of_rising hrise hk
  unfold Cpu.take
  split
  · next h =>
    simp only [Bool.and_eq_true, decide_eq_true_eq, bne_iff_ne, ne_eq] at h
    have hself : c.grp ∈ c.groups := Cpu.groups_of_present h.2 ▸ mem_putGroup_self _ _
    have hgrp := find_of_rising hrise hself
    rw [h.1] at hgrp
    exact Option.some.inj (hgrp.symm.trans hfind)
  · rw [show c.park.ctx.groups.find? (fun g => g.gid == k.gid) = some k from hfind]

/-! ### Whose frame the fault of class 15 writes (R97) -/

/-- In a rising list the least member comes first. -/
theorem head_of_least {l : List Nat} {a : Nat} (hl : l.Pairwise (· < ·)) (ha : a ∈ l) (hleast : ∀ b ∈ l, a ≤ b) : ∃ t, l = a :: t := by
  cases l with
  | nil => cases ha
  | cons b t =>
    rw [List.pairwise_cons] at hl
    rcases List.mem_cons.1 ha with rfl | hat
    · exact ⟨t, rfl⟩
    · have hlt := hl.1 a hat
      have hle := hleast b (by simp)
      omega

/-- A fault that names no group goes to the lowest of the live ones. -/
theorem faultTarget_unnamed {a : Nat} {l : List Nat} (hl : (a :: l).Pairwise (· < ·)) : faultTarget (a :: l) [] = some a := by
  by_cases h0 : a / 2 ^ 40 = 0
  · have hfirst : (a :: l).find? (fun j => j / 2 ^ 40 == 0) = some a := List.find?_cons_of_pos (by simpa using h0)
    simp only [faultTarget, hfirst]
    rfl
  · have hnone : (a :: l).find? (fun j => j / 2 ^ 40 == 0) = none := by
      rw [List.find?_eq_none]
      intro j hj
      have hle : a ≤ j := by
        rcases List.mem_cons.1 hj with rfl | hj
        · exact le_rfl
        · exact ((List.pairwise_cons.1 hl).1 j hj).le
      have hdiv := Nat.div_le_div_right (c := 2 ^ 40) hle
      simp only [beq_iff_eq]
      omega
    simp only [faultTarget, hnone]
    rfl

theorem faultTarget_lowest {gs : List Group} {k : Group} (hrise : (gs.map Group.gid).Pairwise (· < ·)) (hk : k ∈ gs) (hlive : k.live = true)
    (hleast : ∀ h ∈ gs, h.live = true → k.gid ≤ h.gid) : faultTarget (liveGids gs) [] = some k.gid := by
  have hsub : (liveGids gs).Pairwise (· < ·) := hrise.sublist (List.filter_sublist.map _)
  have hmem : k.gid ∈ liveGids gs := List.mem_map_of_mem (List.mem_filter.2 ⟨hk, hlive⟩)
  obtain ⟨l, hl⟩ := head_of_least hsub hmem fun b hb => by
    obtain ⟨h, hh, rfl⟩ := List.mem_map.1 hb
    exact hleast h (List.mem_filter.1 hh).1 (List.mem_filter.1 hh).2
  rw [hl] at hsub ⊢
  exact faultTarget_unnamed hsub

/-! ### Exhaustion (R98) -/

theorem exhausted_of_stopped {c : Cpu} (h : c.ctx.status ≠ .running) : c.exhausted = c := by
  unfold Cpu.exhausted
  rw [if_pos h]

/-- The first time the context is suspended. -/
theorem exhausts {s : State} (hrun : s.cpu.ctx.status = .running) (hfirst : s.cpu.ctx.ovlFull = false) :
    Exhausts s (s.onCpu Cpu.exhausted) := by
  have hop : s.cpu.exhausted = { (s.cpu.logs 37 0 (BitVec.ofNat 64 s.cpu.ctx.leg)).suspend with
      ctx := { s.cpu.suspend.ctx with ovlFull := true } } := by
    unfold Cpu.exhausted
    rw [if_neg (not_not.2 hrun), if_neg (by simp [hfirst])]
  unfold State.onCpu
  rw [hop]
  exact ⟨⟨rfl, rfl, rfl, rfl, fun _ => rfl⟩, rfl⟩

/-- The fault of class 15, and the processor once it has been taken by the group that R97 names. -/
def fullTrap (leg : Nat) : Trap := ⟨15, 1, 0, 0, BitVec.ofNat 64 leg, 0⟩
def tookFull (c : Cpu) : Cpu :=
  match faultTarget (liveGids c.groups) [] with
  | some gid => ((c.take gid).trapWith 0 none (fullTrap c.ctx.leg) 0).park
  | none => c

theorem tookFull_logs (c : Cpu) : ctxId (tookFull c).ctx = ctxId c.ctx ∧ ∃ l, (tookFull c).hw = { c.hw with log := c.hw.log ++ l } := by
  unfold tookFull
  split
  · next gid _ =>
    obtain ⟨hid, l, hhw⟩ := trapWith_logs (c.take gid) 0 none (fullTrap c.ctx.leg) 0
    exact ⟨by rw [Cpu.park_ctxId, hid, Cpu.take_ctxId], l, by rw [Cpu.park_hw, hhw, Cpu.take_hw]⟩
  · exact ⟨rfl, [], by simp⟩

theorem tookFull_leg (c : Cpu) : (tookFull c).ctx.leg = c.ctx.leg := by
  have hpark : ∀ c : Cpu, c.park.ctx.leg = c.ctx.leg := fun c => by unfold Cpu.park; split <;> rfl
  have htake : ∀ gid, (c.take gid).ctx.leg = c.ctx.leg := fun gid => by
    unfold Cpu.take
    split
    · rfl
    · split
      · exact hpark c
      · rfl
  have htrap : ∀ (c : Cpu) t, (c.trapWith 0 none t 0).ctx.leg = c.ctx.leg := fun c t => by
    unfold Cpu.trapWith
    dsimp only
    split
    · rfl
    · split <;> rfl
  unfold tookFull
  split
  · rw [hpark, htrap, htake]
  · rfl

/-- The group that has taken it through its trap window. -/
def fullWindow (leg : Nat) (k : Group) : Group :=
  let g : Group := { k with fills := [], status := .running, bulk := false }
  g.enterWindow (trapFrame g 0 none (fullTrap leg) 0)

/-- The lowest live group enters its window with the frame of the fault. -/
theorem tookFull_frame {c : Cpu} (hrise : (c.groups.map Group.gid).Pairwise (· < ·)) {k : Group} (hk : k ∈ c.groups) (hlive : k.live = true)
    (hleast : ∀ h ∈ c.groups, h.live = true → k.gid ≤ h.gid) (hwin : k.inWin = false) (hv : k.trapv.toNat / 4 ≠ 0) :
    (tookFull c).grp.status = .absent ∧ fullWindow c.ctx.leg k ∈ (tookFull c).ctx.groups := by
  have hgrp := Cpu.take_grp hrise hk
  unfold tookFull
  rw [faultTarget_lowest hrise hk hlive hleast]
  dsimp only
  rw [trapWith_enters _ _ _ _ (by rw [hgrp]; exact hwin) (by rw [hgrp]; exact fun h => hv ((shr2_zero _).1 h)), hgrp]
  refine ⟨by simp [Group.none], ?_⟩
  unfold Cpu.park
  rw [if_neg (by simp)]
  exact mem_putGroup_self _ _

theorem Cpu.groups_of_absent {c : Cpu} (h : c.grp.status = .absent) : c.groups = c.ctx.groups := by
  unfold Cpu.groups Cpu.park
  rw [if_pos h]

/-- The second time the context ends, and the fault is taken. -/
theorem endsFull {s : State} (hrun : s.cpu.ctx.status = .running) (hagain : s.cpu.ctx.ovlFull = true) :
    EndsFull s (s.onCpu Cpu.exhausted) := by
  have hop : s.cpu.exhausted = { (tookFull s.cpu).logs 15 1 (BitVec.ofNat 64 s.cpu.ctx.leg) with
      ctx := { (tookFull s.cpu).ctx with status := .ended } } := by
    have hleg := tookFull_leg s.cpu
    rw [← hleg]
    unfold Cpu.exhausted
    rw [if_neg (not_not.2 hrun), if_pos hagain]
    rfl
  obtain ⟨hid, l, hhw⟩ := tookFull_logs s.cpu
  have hmodule : (s.onCpu Cpu.exhausted).cpu.hw = { s.cpu.hw with
      log := s.cpu.hw.log ++ l ++ [⟨sourceOf s.cpu.hw 15, 15, 1, ctxId s.cpu.ctx, BitVec.ofNat 64 s.cpu.ctx.leg⟩] } := by
    simp only [State.onCpu_cpu, hop, Cpu.logs, hhw, hid]
    rfl
  refine ⟨rfl, rfl, rfl, by simp [hop], by rw [hmodule], ⟨l, by rw [hmodule]⟩, fun hrise k hk hlive hleast hwin hv => ?_⟩
  obtain ⟨habsent, hmem⟩ := tookFull_frame hrise hk hlive hleast hwin hv
  refine ⟨fullWindow s.cpu.ctx.leg k, ?_, rfl, rfl, and_not3 _, trapFrame_eq _ 0 none _ 0⟩
  rw [State.onCpu_cpu, hop, Cpu.groups_of_absent (by exact habsent)]
  exact hmem

/-! ### Arrivals (R90, R95) -/

theorem exec_publicationApply (n : Nat) (s : State) : exec (.publicationApply n) s = .next (publicationStep n s) := by rfl

theorem exec_contributionArrive (n : Nat) (s : State) : exec (.reductionContributionArrive n) s = .next (contributionStep n s) := by rfl

theorem publicationStep_eq {n : Nat} {s : State} {st : Stamp} {cells : Cells} (h : s.cpu.ctx.flight[n]? = some (.publication st cells)) :
    publicationStep n s = if overlayFull s.cpu.hw s.mem s.cpu.ctx (lineOf ((cells.head?.map Prod.fst).getD 0)) then s.onCpu Cpu.exhausted
      else s.onCtx fun x => { x with
        flight := x.flight.eraseIdx n, versions := x.versions ++ [⟨st, s.cpu.hw.number, none, cells⟩], ovlFull := false } := by
  unfold publicationStep State.onCpu
  simp only [h]
  split <;> rfl

theorem contributionStep_eq {n : Nat} {s : State} {k : Contrib} (h : s.cpu.ctx.flight[n]? = some (.contribution k)) :
    contributionStep n s = if noAccumulator s.cpu.hw s.mem s.cpu.ctx k then s.onCpu Cpu.exhausted
      else s.onCtx fun x => acceptContrib { x with flight := x.flight.eraseIdx n } s.cpu.hw.number k := by
  unfold contributionStep State.onCpu
  simp only [h]
  split <;> rfl

/-- The words of a contribution are marked with its kind (R106). -/
theorem acceptContrib_spec (x : Ctx) (module : Nat) (k : Contrib) :
    acceptContrib x module k = { x with reds := x.reds ++ [k], marks := (acceptContrib x module k).marks, ovlFull := false } ∧
      ∀ m, m ∈ (acceptContrib x module k).marks ↔ m ∈ x.marks ∨
        ∃ a, (a = k.addr - k.addr % 4 ∨ k.bits = 64 ∧ a = k.addr - k.addr % 4 + 4) ∧ m = ⟨a, 3, contribKind k, none, k.gid, module⟩ := by
  have hword : (k.addr - k.addr % 4) % 4 = 0 := by omega
  by_cases hb : k.bits = 64
  · simp [acceptContrib, contribWords, hb, markWord, mem_insertNew, or_assoc, hword]
  · simp [acceptContrib, contribWords, hb, markWord, mem_insertNew, hword]

theorem noAccumulator_iff {h : Module} {m : Cells} {x : Ctx} {k : Contrib} : noAccumulator h m x k = true ↔
    (∀ c ∈ x.reds, ¬ (c.addr = k.addr ∧ contribKind c = contribKind k)) ∧ overlayFull h m x (lineOf k.addr) = true := by
  simp [noAccumulator, hasAccumulator]

/-- Settles O43: each arrival has room, or is an exhaustion of the overlay, or waits. -/
theorem overlayArrivals : Obligations.OverlayArrivals := by
  unfold Obligations.OverlayArrivals
  intro n s x
  refine ⟨fun st cells hfly => ⟨_, exec_publicationApply n s, ?_⟩, fun k hfly => ⟨_, exec_contributionArrive n s, ?_⟩⟩
  · rw [publicationStep_eq hfly]
    refine ⟨fun hroom => ?_, fun hfull hrun hfirst => ?_, fun hfull hrun hagain => ?_, fun hfull hstop => ?_⟩
    · rw [if_neg (by rw [hroom]; simp)]
      exact ⟨⟨rfl, rfl, rfl, rfl, fun _ => rfl⟩, rfl⟩
    · rw [if_pos hfull]
      exact exhausts hrun hfirst
    · rw [if_pos hfull]
      exact endsFull hrun hagain
    · rw [if_pos hfull, State.onCpu, exhausted_of_stopped hstop]
  · rw [contributionStep_eq hfly]
    refine ⟨fun hroom => ?_, fun hfull hrun hfirst => ?_, fun hfull hrun hagain => ?_, fun hfull hstop => ?_⟩
    · rw [if_neg fun h => hroom (noAccumulator_iff.1 h)]
      obtain ⟨hctx, hmarks⟩ := acceptContrib_spec { x with flight := x.flight.eraseIdx n } s.cpu.hw.number k
      exact ⟨⟨rfl, rfl, rfl, rfl, fun _ => rfl⟩, hctx, hmarks⟩
    · rw [if_pos (noAccumulator_iff.2 hfull)]
      exact exhausts hrun hfirst
    · rw [if_pos (noAccumulator_iff.2 hfull)]
      exact endsFull hrun hagain
    · rw [if_pos (noAccumulator_iff.2 hfull), State.onCpu, exhausted_of_stopped hstop]

end Sys2Proof.Machine


/-! SUPPORT. The refutations of O41 and O42: what a step changes of a saved group goes into its image, and a translation mark on the image is
logged (R287, R308), in an absent context too. -/

namespace Sys2Proof.Machine

/-! ### A stray re-entry (R87) -/

/-- A pre-empted group that has ceded, whose wake has fired. -/
def strayCeded : Group := { strayGroup with status := .ceded 16 (.line .device 0) (some ⟨100, 0⟩) }

/-- `strayTurn` with the ceded group in hand: the context is absent, and the group's image has a marked line. -/
def strayReentry : State := { strayTurn with cpu := { strayTurn.cpu with
  grp := strayCeded
  ctx := { strayTurn.cpu.ctx with groups := [], queue := [] } } }

theorem strayReentry_noneSaved : NoneSaved strayReentry := fun x hx => by
  rw [State.contexts_of_absent rfl] at hx
  exact absurd hx List.not_mem_nil

theorem exec_cedeReentry (gid : Nat) (s : State) : exec (.cedeReentry gid) s = .next (reentryStep gid s) := by rfl

theorem strayReentry_logs : (reentryStep strayCeded.gid strayReentry).cpu.hw.log ≠ strayReentry.cpu.hw.log := by decide +kernel

/-- Refutes O41 by `strayReentry`, in the clause of CEDE_REENTRY: an absent context is none of the module's contexts, so that `NoneSaved`
holds whatever its groups are, and `KeepsImages` asks for the log to stay as it was; but the re-entry changes a pre-empted group, and the
write to its image meets a marked line, which is logged. -/
theorem not_orderingTurns : ¬ Obligations.OrderingTurns := by
  unfold Obligations.OrderingTurns
  rintro ⟨-, -, hreentry⟩
  obtain ⟨t, hexec, -, -, -, -, himages, -⟩ := hreentry strayReentry 16 (.line .device 0) ⟨100, 0⟩ rfl
    (fun _ h => absurd h List.not_mem_nil) rfl
  obtain rfl : reentryStep strayCeded.gid strayReentry = t := by
    rw [exec_cedeReentry] at hexec
    exact Host.Outcome.next.inj hexec
  exact strayReentry_logs (himages strayReentry_noneSaved).2

/-! ### A stray arrival (R111, R191) -/

/-- A block of two groups whose barriers no group has reached. -/
def awaitedBlock : Block := { strayBlock with g := 2 }

/-- The first of two arrivals at b0. -/
def strayArrivalEntry : Entry := ⟨⟨100, 0⟩, 16, .block, .arrive 0 2 true, 0, 0, 0⟩

/-- `strayTurn` with the arrival in the queue. -/
def strayArrival : State := { strayTurn with cpu := { strayTurn.cpu with
  ctx := { strayTurn.cpu.ctx with queue := [strayArrivalEntry], blocks := [awaitedBlock] } } }

theorem strayArrival_noneSaved : NoneSaved strayArrival := fun x hx => by
  rw [State.contexts_of_absent rfl] at hx
  exact absurd hx List.not_mem_nil

theorem strayArrival_atTurn : AtTurn strayArrival strayArrivalEntry := by unfold AtTurn; decide +kernel

theorem strayArrival_performable :
    performable strayArrival.cpu.hw strayArrival.cpu.ctx strayArrival.cpu.groups strayArrivalEntry = true := by decide +kernel

theorem strayArrival_arrivesAt : ArrivesAt strayArrival strayArrivalEntry 0 awaitedBlock ⟨0, 0, [], []⟩ := by
  unfold ArrivesAt; decide +kernel

theorem strayArrival_logs : (turnStep strayArrivalEntry.stamp.gid strayArrival).cpu.hw.log ≠ strayArrival.cpu.hw.log := by decide +kernel

/-- Refutes O42 by `strayArrival`, in the clause of an incomplete generation: its context is absent, so that `NoneSaved` holds and
`KeepsImages` asks for the log to stay as it was; but the arrival changes its pre-empted group, which cedes, and the write to the group's
image meets a marked line, which is logged. -/
theorem not_barrierTurns : ¬ Obligations.BarrierTurns := by
  unfold Obligations.BarrierTurns
  intro h
  obtain ⟨harrives, -⟩ := h strayArrival strayArrivalEntry 0 2 true awaitedBlock ⟨0, 0, [], []⟩ rfl strayArrival_atTurn strayArrival_performable
    strayArrival_arrivesAt
  obtain ⟨hincomplete, -⟩ := harrives (by decide) List.not_mem_nil (.inl rfl)
  obtain ⟨t, _, hexec, ⟨-, -, himages⟩, -⟩ := hincomplete (.inl (by decide))
  obtain rfl : turnStep strayArrivalEntry.stamp.gid strayArrival = t := by
    rw [exec_turnPerform] at hexec
    exact Host.Outcome.next.inj hexec
  exact strayArrival_logs (himages strayArrival_noneSaved).2

end Sys2Proof.Machine


/-! SUPPORT. The refutation of O46: an exited group's sketch is published at the end of its leg (R94, R163). -/

namespace Sys2Proof.Machine

theorem exec_legEnd (s : State) : exec .legEnd s = .next (legStep s) := by rfl

theorem localByte_of {s : State} {va : Nat}
    (h : (s.cpu.record s.mem (vaObj va)).all (fun r => (homedAway s.cpu.hw r (vaOff va)).isNone) = true) : LocalByte s va := by
  intro r hr
  rw [hr] at h
  exact Option.isNone_iff_eq_none.1 h

/-- Only groups that go on count as writers by their sketches. -/
theorem not_written_of_survivors_nil {s : State} (hparcel : s.cpu.ctx.parcel = []) (hversions : s.cpu.ctx.versions = [])
    (hnone : survivors s = []) (va : Nat) : ¬ Written s va := by
  rintro (⟨_, -, _, hp, -⟩ | ⟨_, hg, -⟩ | ⟨_, hv, -⟩)
  · rw [hparcel] at hp
    exact List.not_mem_nil hp
  · rw [hnone] at hg
    exact List.not_mem_nil hg
  · rw [hversions] at hv
    exact List.not_mem_nil hv

/-- A byte that no host write or translation write of the leg meets is the one that the fold leaves. -/
theorem Later.eq_of_nil {s : State} {pa : Nat} {b x : Byte} (h : Later s pa b x) (hhost : s.cpu.ctx.hostWrites = [])
    (hxlat : s.cpu.ctx.pendXlat = []) : x = b := by
  obtain ⟨_, ⟨_, _, heq, -⟩, -⟩ | ⟨-, ⟨_, ⟨_, _, heq, -⟩, -⟩ | ⟨-, hx⟩⟩ := h
  · rw [hxlat] at heq
    exact absurd heq.symm (by simp)
  · rw [hhost] at heq
    exact absurd heq.symm (by simp)
  · exact hx

/-! ### A leg whose one group has stored a byte and exited -/

/-- A byte of object 2, with the sketch of the group that has stored 1 there. -/
def exitedVa : Nat := 2 * 2 ^ 40

def exitedGroup : Group := { Group.none with status := .exited, sketch := [(exitedVa, [(exitedVa, 1)])] }

/-- Object 2 is an OPEN object of 4,096 bytes at PA 20000H (R277); the context holds that group alone, and the mark of its store. -/
def exitedStore : State := { State.reset with
  mem := [(0x10100, 0xF1), (0x10101, 0x13), (0x1010A, 0x2), (0x10111, 0x10), (0x10119, 0x10), (0x1012C, 0x1)]
  cpu := { State.reset.cpu with
    ctx := { Ctx.none with status := .running, legq := 16, objtb := 0x10002, groups := [exitedGroup], marks := [⟨exitedVa, 1, 0, none, 0, 0⟩] } } }

theorem exitedStore_groups : exitedStore.cpu.groups = [exitedGroup] := by rfl

theorem exitedStore_not_written (va : Nat) : ¬ Written exitedStore va :=
  not_written_of_survivors_nil rfl rfl (by decide +kernel) va

theorem exitedStore_legEnds : LegEnds exitedStore where
  running := rfl
  phase := rfl
  alone := rfl
  said := rfl
  sent := rfl
  held := rfl
  late := rfl
  queue := rfl
  flight := rfl
  groups := by decide +kernel
  gids := by decide +kernel
  faults := by decide +kernel
  landings := rfl
  watchers := rfl
  moved := ⟨rfl, rfl⟩
  stops := rfl
  suspend := rfl
  tmarks := rfl
  saved x hx := by
    rw [State.contexts_of_present (by decide)] at hx
    obtain rfl := List.mem_singleton.1 hx
    exact ⟨by decide +kernel, by decide +kernel, by decide +kernel⟩
  sketches g hg := by
    obtain rfl := List.mem_singleton.1 (exitedStore_groups ▸ hg)
    refine ⟨by unfold SketchOk; decide +kernel, fun l hl => ?_⟩
    obtain rfl := List.mem_singleton.1 hl
    exact localByte_of (by decide +kernel)
  versions := by decide +kernel
  parcels := fun _ hp => absurd hp List.not_mem_nil
  room := by decide +kernel
  frames va hw := absurd hw (exitedStore_not_written va)
  moves := by decide +kernel
  next := rfl
  mem := by decide +kernel

/-- The leg end publishes the sketch, and memory takes the byte. -/
theorem exitedStore_lands : memByte exitedStore.mem 0x20000 = 0 ∧ memByte (legStep exitedStore).mem 0x20000 = 1 := by decide +kernel

/-- Refutes O46 by `exitedStore`: R163 leaves an exited group's sketch in place for step 1 of the leg end, which publishes it, so that
memory takes the byte; `Folds` and `Written` count the sketches of running groups alone, and the statement has the byte kept. -/
theorem not_legEndFolds : ¬ Obligations.LegEndFolds := by
  unfold Obligations.LegEndFolds
  intro h
  obtain ⟨hplain, -⟩ := h exitedStore exitedStore_legEnds
  obtain ⟨t, ⟨hexec, -, -⟩, -, hkept, -⟩ := hplain ⟨rfl, fun k hk => absurd hk.1 List.not_mem_nil⟩
  obtain rfl : legStep exitedStore = t := by
    rw [exec_legEnd] at hexec
    exact Host.Outcome.next.inj hexec
  have hsame := (hkept 0x20000 fun va hw => absurd hw (exitedStore_not_written va)).eq_of_nil rfl rfl
  obtain ⟨hbefore, hafter⟩ := exitedStore_lands
  rw [hbefore, hafter] at hsame
  exact absurd hsame (by decide)

end Sys2Proof.Machine

/-! SUPPORT. What a plain load selects, byte by byte (R100, R103, R375; O30). -/

namespace Sys2Proof.Machine

/-! ### Where a byte comes from -/

section
variable {c : Cpu} {m : Cells} {r : Record} {a : Nat} {gid : Nat} {view : Option (Stamp × Scope)}

theorem loadByte_of_sketch {x : Byte} (h : sketchByte c.grp.sketch a = some x) : loadByte c m r a = x := by
  unfold loadByte
  rw [h]

theorem loadByte_of_home (hsketch : sketchByte c.grp.sketch a = none) (hfill : get? c.grp.fills (lineOf a) = none) :
    loadByte c m r a = homeByte c m r c.grp.gid c.grp.view a := by
  unfold loadByte
  rw [hsketch, hfill]

/-- A FIXED object has its base image alone (R102). -/
theorem homeByte_fixed (h : r.mode = 2) : homeByte c m r gid view a = baseByte m r (vaOff a) := by
  unfold homeByte homeByteFor
  simp only [h]

/-- A PARCEL or PRIVATE object has the group's own write of the leg over the base image (R103). -/
theorem homeByte_through (h : r.mode = 1 ∨ r.mode = 3) :
    homeByte c m r gid view a = ((get? c.ctx.parcel gid).bind fun p => get? p a).getD (baseByte m r (vaOff a)) := by
  unfold homeByte homeByteFor
  have hread : get? ((get? c.ctx.parcel gid).getD []) a = (get? c.ctx.parcel gid).bind fun p => get? p a := by
    cases get? c.ctx.parcel gid <;> rfl
  obtain h | h := h
  · simp only [h, hread]
  · simp only [h, hread]

/-- The versions of a byte: those at its home, and the group's own publications on their way there (R100, R375). -/
def heldVersions (c : Cpu) (gid : Nat) : List Version := c.ctx.versions ++ ownFlight gid c.ctx.flight

theorem mem_heldVersions (u : Version) : u ∈ heldVersions c gid ↔ u ∈ c.ctx.versions ∨
    ∃ st cs, .publication st cs ∈ c.ctx.flight ∧ st.gid = gid ∧ u = ⟨st, 0, none, cs⟩ := by
  rw [heldVersions, List.mem_append, mem_ownFlight]

/-- An object of any other mode has the newest version that the group sees over the base image (R100). -/
theorem homeByte_versions (h : r.mode = 0 ∨ 4 ≤ r.mode) : homeByte c m r gid view a =
    ((newestByte (seesVersion c.hw.number gid view) (heldVersions c gid) a).map Prod.snd).getD (baseByte m r (vaOff a)) := by
  unfold homeByte homeByteFor
  dsimp only
  split
  · omega
  · omega
  · omega
  · rfl

end

/-! ### Which version it is -/

/-- Its own, or at or below the view, in the view's scope (R100). -/
theorem seesVersion_iff (self gid : Nat) (view : Option (Stamp × Scope)) (u : Version) : seesVersion self gid view u = true ↔
    u.stamp.gid = gid ∨ ∃ v sc, view = some (v, sc) ∧ (sc = .system ∨ u.module = self) ∧
      ¬ (v.lc < u.stamp.lc ∨ v.lc = u.stamp.lc ∧ v.gid < u.stamp.gid) := by
  unfold seesVersion
  cases view with
  | none => simp
  | some p =>
    obtain ⟨v, sc⟩ := p
    simp [Stamp.le, ← Stamp.lt_iff]

/-- The byte that the newest version gives, if a version has one. -/
theorem newestByte_selects (ok : Version → Bool) (us : List Version) (a : Nat) (base : Byte) :
    let got := ((newestByte ok us a).map Prod.snd).getD base
    ((∀ u ∈ us, ok u = true → get? u.cells a = none) → got = base) ∧
    ∀ u ∈ us, ok u = true → get? u.cells a ≠ none → ∃ w ∈ us, ok w = true ∧ get? w.cells a = some got ∧
      ∀ u' ∈ us, ok u' = true → get? u'.cells a ≠ none →
        Stamp.lt w.stamp u'.stamp = false ∧ (u'.stamp = w.stamp → w.ord.isSome = true ∨ u'.ord.isSome = false) := by
  have hspec := newestByte_spec ok us a
  cases hnew : newestByte ok us a with
  | none =>
    rw [hnew] at hspec
    exact ⟨fun _ => rfl, fun u hu hok hx => absurd (hspec u hu hok) hx⟩
  | some p =>
    obtain ⟨st, x⟩ := p
    rw [hnew] at hspec
    obtain ⟨w, hw, hok, rfl, hx, hmax⟩ := hspec
    refine ⟨fun hnone => ?_, fun _ _ _ _ => ⟨w, hw, hok, hx, hmax⟩⟩
    rw [hnone w hw hok] at hx
    cases hx

/-- A stamp that is not above another is at or below it. -/
theorem Stamp.le_of_lt_false {a b : Stamp} (h : Stamp.lt a b = false) : b.lc < a.lc ∨ b.lc = a.lc ∧ b.gid ≤ a.gid := by
  rw [Bool.eq_false_iff, Ne, Stamp.lt_iff] at h
  omega

/-- Settles O30: the sketch, then by the object's mode the base image, the group's own bytes of the leg, or the newest version seen. -/
theorem loadSelection : Obligations.LoadSelection := by
  unfold Obligations.LoadSelection
  intro s r a g base got sees held
  refine ⟨fun x hx => loadByte_of_sketch hx, fun hsketch hfill => ?_⟩
  have hgot : got = homeByte s.cpu s.mem r g.gid g.view a := loadByte_of_home hsketch hfill
  refine ⟨fun hmode => hgot.trans (homeByte_fixed hmode), fun hmode => hgot.trans (homeByte_through hmode), fun hmode => ?_⟩
  rw [homeByte_versions hmode] at hgot
  have hheld : ∀ u, held u ↔ u ∈ heldVersions s.cpu g.gid := fun u => (mem_heldVersions u).symm
  have hsees : ∀ u, sees u ↔ seesVersion s.cpu.hw.number g.gid g.view u = true := fun u => (seesVersion_iff _ _ _ u).symm
  simp only [hheld, hsees]
  obtain ⟨hbase, hnewest⟩ := newestByte_selects (seesVersion s.cpu.hw.number g.gid g.view) (heldVersions s.cpu g.gid) a base
  rw [← hgot] at hbase hnewest
  refine ⟨hbase, fun u x hu hok hx => ?_⟩
  obtain ⟨w, hw, hwok, hwx, hmax⟩ := hnewest u hu hok (hx ▸ Option.some_ne_none x)
  refine ⟨w, hw, hwok, hwx, fun u' hu' hok' hx' => ?_⟩
  obtain ⟨hle, htie⟩ := hmax u' hu' hok' hx'
  exact ⟨Stamp.le_of_lt_false hle, htie⟩

end Sys2Proof.Machine

/-! SUPPORT. The lanes that fail the check whose fault is raised (R128). -/

namespace Sys2Proof.Machine

/-- The place of a fault in the order of R128: alignment, extent, permission, mode. -/
def failOrder (p : Nat × Nat) : Nat := if p.1 = 3 then 64 else 16 * p.1 + p.2

theorem foldl_min_eq {x v : Nat} {xs : List Nat} (hmem : v ∈ x :: xs) (hle : ∀ y ∈ x :: xs, v ≤ y) : xs.foldl min x = v :=
  Option.some.inj ((List.min?_cons' (x := x) (xs := xs)).symm.trans (List.min?_eq_some_iff.2 ⟨hmem, hle⟩))

/-- A lane, with its address and what its checks come to, fails a check of this place. -/
def failsAt (n : Nat) (f : Nat × Nat × Option (Nat × Nat)) : Bool := f.2.2.any fun p => failOrder p == n

/-- The fault is that of the earliest check that fails, with all the lanes that fail it. -/
theorem firstFailure_of_hits {fails fs : List (Nat × Nat × Option (Nat × Nat))} {f : Nat × Nat × Option (Nat × Nat)} {p : Nat × Nat}
    (hp : f.2.2 = some p) (hle : ∀ e ∈ fails, ∀ q, e.2.2 = some q → failOrder p ≤ failOrder q)
    (hhits : fails.filter (failsAt (failOrder p)) = f :: fs) :
    firstFailure fails = some (addrTrap p.1 p.2 f.2.1 (maskOf fun j => decide (j ∈ (f :: fs).map Prod.fst))) := by
  have hf : f ∈ fails := (List.mem_filter.1 (hhits ▸ List.mem_cons_self : f ∈ fails.filter (failsAt (failOrder p)))).1
  have hleast : ∀ {x : Nat} {xs : List Nat}, (fails.filterMap fun e => e.2.2.map failOrder) = x :: xs → xs.foldl min x = failOrder p := by
    intro x xs hxs
    refine foldl_min_eq ?_ fun y hy => ?_
    · rw [← hxs]
      exact List.mem_filterMap.2 ⟨f, hf, by rw [hp]; rfl⟩
    · rw [← hxs] at hy
      obtain ⟨e, he, hq⟩ := List.mem_filterMap.1 hy
      obtain ⟨q, heq, rfl⟩ := Option.map_eq_some_iff.1 hq
      exact hle e he q heq
  have hfilter : ∀ t : Nat × Nat × Option (Nat × Nat) → Bool, (∀ e, t e = failsAt (failOrder p) e) → fails.filter t = f :: fs :=
    fun t ht => (congrArg fails.filter (funext ht)).trans hhits
  unfold firstFailure
  dsimp only
  split
  · next hnone =>
    have hsome := List.filterMap_eq_nil_iff.1 hnone f hf
    rw [hp] at hsome
    cases hsome
  · next x xs hxs =>
    rw [show xs.foldl min x = failOrder p from hleast hxs, hfilter _ fun e => by unfold failsAt; split <;> simp [*, failOrder]]
    have hmask : (fun j => (f :: fs).any fun h => h.1 == j) = fun j => decide (j ∈ (f :: fs).map Prod.fst) :=
      funext fun j => by rw [Bool.eq_iff_iff]; simp [eq_comm (a := j) (b := f.1)]
    simp only [hp, Option.getD_some, hmask]

/-- The fault of an access, from the lanes that fail its earliest check. -/
theorem firstFailure_of_first {lanes l : List Nat} {addr : Nat → Nat} {check : Nat → Option (Nat × Nat)} {p : Nat × Nat} {lam : Nat}
    (hfirst : ∀ j ∈ lanes, ∀ q, check j = some q → q = p ∨ failOrder p < failOrder q)
    (hhit : (lanes.filter fun j => decide (check j = some p)) = lam :: l) :
    firstFailure (lanes.map fun j => (j, addr j, check j)) =
      some (addrTrap p.1 p.2 (addr lam) (maskOf fun j => decide (j ∈ lam :: l))) := by
  have hp : check lam = some p := by
    simpa using (List.mem_filter.1 (hhit.symm ▸ List.mem_cons_self : lam ∈ lanes.filter fun j => decide (check j = some p))).2
  have hhits : (lanes.map fun j => (j, addr j, check j)).filter (failsAt (failOrder p)) =
      (lam :: l).map fun j => (j, addr j, check j) := by
    rw [List.filter_map, ← hhit]
    refine congrArg _ (List.filter_congr fun j hj => ?_)
    cases hq : check j with
    | none => simp [failsAt, hq]
    | some q =>
      obtain rfl | hlt := hfirst j hj q hq
      · simp [failsAt, hq]
      · have hne : q ≠ p := fun h => absurd (h ▸ hlt) (Nat.lt_irrefl _)
        simp [failsAt, hq, hne, Nat.ne_of_gt hlt]
  rw [firstFailure_of_hits hp (fun e he q hq => ?_) hhits]
  · simp only [← List.map_cons (f := fun j => (j, addr j, check j)), List.map_map, Function.comp_def, List.map_id']
  · obtain ⟨j, hj, rfl⟩ := List.mem_map.1 he
    obtain rfl | hlt := hfirst j hj q hq
    · exact Nat.le_refl _
    · exact Nat.le_of_lt hlt

end Sys2Proof.Machine

/-! SUPPORT. `lds` and `sts` (R108, R128, R179 to R181; O33). -/

namespace Sys2Proof.Machine

/-! ### The words -/

theorem exec_padLoadWord {size : Nat} (h : size ∈ sizes) (d a b : BitVec 8) (s : State) :
    exec (padLoadWord size d a b) s = issue noPre (ldsOp size d a b) (padLoadWord size d a b) s := by
  simp only [sizes, List.mem_cons, List.not_mem_nil, or_false] at h
  obtain rfl | rfl | rfl | rfl | rfl := h <;> rfl

theorem exec_padStoreWord {size : Nat} (h : size ∈ sizes) (d a b : BitVec 8) (s : State) :
    exec (padStoreWord size d a b) s = issue noPre (stsOp size d a b) (padStoreWord size d a b) s := by
  simp only [sizes, List.mem_cons, List.not_mem_nil, or_false] at h
  obtain rfl | rfl | rfl | rfl | rfl := h <;> rfl

theorem weight_padLoadWord {size : Nat} (h : size ∈ sizes) (d a b : BitVec 8) : weight (padLoadWord size d a b) = 2 := by
  simp only [sizes, List.mem_cons, List.not_mem_nil, or_false] at h
  obtain rfl | rfl | rfl | rfl | rfl := h <;> rfl

theorem weight_padStoreWord {size : Nat} (h : size ∈ sizes) (d a b : BitVec 8) : weight (padStoreWord size d a b) = 2 := by
  simp only [sizes, List.mem_cons, List.not_mem_nil, or_false] at h
  obtain rfl | rfl | rfl | rfl | rfl := h <;> rfl

/-- The destination of a legal `lds` is that of a legal `ld` (R176). -/
theorem issues_loadWord_of_pad {size : Nat} (h : size ∈ sizes) {d a b : BitVec 8} {g : Group} (hi : Issues (padLoadWord size d a b) g) :
    Issues (loadWord size d 0 0) g := by
  obtain ⟨hwf, hwin⟩ := hi
  simp only [sizes, List.mem_cons, List.not_mem_nil, or_false] at h
  obtain ⟨hpair, hread, hkIn, hvIn⟩ : kPair 0#8 = true ∧ vRead 0#8 = true ∧ kIn 0#8 1 = true ∧ vIn 0#8 = true := by decide
  obtain rfl | rfl | rfl | rfl | rfl := h
  all_goals
    simp only [padLoadWord, wellFormed, namesOk, codesOk, windowOk, Bool.and_eq_true] at hwf hwin
    refine ⟨?_, fun hw => ?_⟩
    · simp [loadWord, wellFormed, namesOk, codesOk, hwf, hpair, hread]
    · simp [loadWord, windowOk, hwin hw, hkIn, hvIn]

/-! ### The pending matrix members (R20, R181) -/

theorem completeMember_inWin (b : Block) (g : Group) (mb : Member) : (completeMember b g mb).2.inWin = g.inWin := by
  cases mb with
  | product clear tile desc slot => rfl
  | drain tile ctl z way =>
    unfold completeMember
    dsimp only
    split <;> rfl

theorem completeOldest_inWin (b : Block) (g : Group) : (completeOldest b g).2.inWin = g.inWin := by
  unfold completeOldest
  dsimp only
  split
  · next num mb rest l _ =>
    rw [← completeMember_inWin b g mb]
    dsimp only
    split
    · split <;> rfl
    · rfl
  · rfl

theorem completeMany_inWin (n : Nat) (b : Block) (g : Group) : (completeMany b g n).2.inWin = g.inWin := by
  induction n generalizing b g with
  | zero => rfl
  | succ n ih => exact (ih _ _).trans (completeOldest_inWin b g)

/-- The group stays where it is, in the trap window or not. -/
theorem settle_inWin (c : Cpu) : c.settle.grp.inWin = c.grp.inWin := by
  unfold Cpu.settle
  split
  · rfl
  · next b _ =>
    split
    · rfl
    · exact completeMany_inWin _ b c.grp

theorem issues_settled {i : Instr} {s : State} (h : Issues i s.cpu.grp) : Issues i (settled s).cpu.grp :=
  ⟨h.1, fun hw => h.2 ((settle_inWin s.cpu).symm.trans hw)⟩

/-! ### The checks (R128, R179) -/

theorem checkPad_of_ok {p : Block} {size : Nat} {x : Int} (h : PadOk p size x) : checkPad (some p) x size size = none := by
  unfold checkPad
  rw [if_neg (not_not.2 h.1)]
  exact if_pos h.2

theorem checkPad_outside {p : Block} {size : Nat} {x : Int} (halign : x % (size : Int) = 0) (hout : padValid p x size = false) :
    checkPad (some p) x size size = some (3, 3) := by
  unfold checkPad
  rw [if_neg (not_not.2 halign)]
  exact if_neg (by simp [hout])

theorem sortPad_pass {p : Block} {size : Nat} {lanes : List Nat} {addr : Nat → Int} (h : ∀ j ∈ lanes, PadOk p size (addr j)) :
    sortPad (some p) size lanes addr = ⟨none, lanes, []⟩ := by
  have hcheck : ∀ j ∈ lanes, checkPad (some p) (addr j) size size = none := fun j hj => checkPad_of_ok (h j hj)
  have htrap : firstFailure (lanes.map fun j => (j, padFaddr (addr j), checkPad (some p) (addr j) size size)) = none := by
    refine firstFailure_none fun x hx => ?_
    obtain ⟨j, hj, rfl⟩ := List.mem_map.1 hx
    exact hcheck j hj
  have hready : (lanes.filter fun j => (checkPad (some p) (addr j) size size).isNone) = lanes :=
    List.filter_eq_self.2 fun j hj => by rw [hcheck j hj]; rfl
  unfold sortPad
  simp only [htrap, hready]

/-- No lane may execute: each lies outside the share. -/
theorem sortPad_outside {p : Block} {size : Nat} {lanes : List Nat} {addr : Nat → Int} {lam : Nat}
    (halign : ∀ j ∈ lanes, addr j % (size : Int) = 0) (hout : ∀ j ∈ lanes, padValid p (addr j) size = false)
    (hlam : lanes.head? = some lam) :
    sortPad (some p) size lanes addr =
      ⟨some (addrTrap 3 3 (padFaddr (addr lam)) (maskOf fun j => decide (j ∈ lanes))), [], []⟩ := by
  obtain ⟨l, rfl⟩ := List.head?_eq_some_iff.1 hlam
  have hcheck : ∀ j ∈ lam :: l, checkPad (some p) (addr j) size size = some (3, 3) := fun j hj =>
    checkPad_outside (halign j hj) (hout j hj)
  have htrap := firstFailure_of_first (addr := fun j => padFaddr (addr j)) (p := (3, 3))
    (fun j hj q hq => .inl (Option.some.inj (hq.symm.trans (hcheck j hj))))
    (List.filter_eq_self.2 fun j hj => decide_eq_true (hcheck j hj))
  have hready : ((lam :: l).filter fun j => (checkPad (some p) (addr j) size size).isNone) = [] :=
    List.filter_eq_nil_iff.2 fun j hj => by simp [hcheck j hj]
  unfold sortPad
  simp only [htrap, hready]

/-- The address of a lane of a word without a displacement. -/
theorem padAddr_word (g : Group) (a b : BitVec 8) (i : Instr) : padAddr g a b (dispOf ⟨i, none⟩) = padLane g a b :=
  funext fun _ => Int.add_zero _

/-! ### Granules (R108) -/

theorem mem_foldl_insertNew {α β : Type} [DecidableEq β] (f : α → β) (l : List α) (t : List β) (k : β) :
    k ∈ l.foldl (fun t a => insertNew t (f a)) t ↔ k ∈ t ∨ ∃ a ∈ l, k = f a := by
  induction l generalizing t with
  | nil => simp
  | cons a l ih =>
    rw [List.foldl_cons, ih, mem_insertNew, or_assoc]
    simp only [List.mem_cons, exists_eq_or_imp]

/-- The tags after an access of some bytes. -/
def tagsAfter (p : Block) (gid : Nat) (wrote : Bool) (as : List Nat) : List Tag := (padTag p gid wrote as).tags

theorem mem_tagsAfter {p : Block} {gid : Nat} {wrote : Bool} {as : List Nat} (k : Tag) :
    k ∈ tagsAfter p gid wrote as ↔ k ∈ p.tags ∨ ∃ a ∈ as, k = ⟨a - a % 256, gid, wrote⟩ :=
  mem_foldl_insertNew (fun a => (⟨granuleOf a, gid, wrote⟩ : Tag)) as p.tags k

/-- An aligned access lies in one granule. -/
theorem granule_of_aligned {size x y : Nat} (hsize : size ∈ sizes) (halign : x % size = 0) (hlo : x ≤ y) (hhi : y < x + size) :
    y - y % 256 = x - x % 256 := by
  simp only [sizes, List.mem_cons, List.not_mem_nil, or_false] at hsize
  obtain rfl | rfl | rfl | rfl | rfl := hsize <;> omega

/-- The granules of the lanes of a load. -/
theorem mem_tagsAfter_lanes {p : Block} {gid : Nat} {lanes : List Nat} {at' : Nat → Nat} (k : Tag) :
    k ∈ tagsAfter p gid false (lanes.map at') ↔ k ∈ p.tags ∨ ∃ j ∈ lanes, k = ⟨at' j - at' j % 256, gid, false⟩ := by
  rw [mem_tagsAfter]
  simp only [List.mem_map, exists_exists_and_eq_and]

/-- The granules of the lanes of a store. -/
theorem mem_tagsAfter_storeCells {p : Block} {gid size : Nat} {lanes : List Nat} {at' val : Nat → Nat} (hsize : size ∈ sizes)
    (halign : ∀ j ∈ lanes, at' j % size = 0) (k : Tag) :
    k ∈ tagsAfter p gid true ((storeCells lanes at' val size).map Prod.fst) ↔
      k ∈ p.tags ∨ ∃ j ∈ lanes, k = ⟨at' j - at' j % 256, gid, true⟩ := by
  have hpos : 0 < size := by
    simp only [sizes, List.mem_cons, List.not_mem_nil, or_false] at hsize
    omega
  rw [mem_tagsAfter]
  refine or_congr_right ⟨?_, ?_⟩
  · rintro ⟨x, hx, rfl⟩
    obtain ⟨j, hj, hlo, hhi⟩ := (mem_storeCells at' val size x).1 (List.mem_map.1 hx)
    exact ⟨j, hj, by rw [granule_of_aligned hsize (halign j hj) hlo hhi]⟩
  · rintro ⟨j, hj, rfl⟩
    exact ⟨at' j, List.mem_map.2 ((mem_storeCells at' val size (at' j)).2 ⟨j, hj, Nat.le_refl _, by omega⟩), rfl⟩

theorem PadOk.toNat {p : Block} {size : Nat} {x : Int} (h : PadOk p size x) : x.toNat % size = 0 := by
  obtain ⟨halign, hvalid⟩ := h
  have hpos : 0 ≤ x := by
    simp only [padValid, Bool.and_eq_true, decide_eq_true_eq] at hvalid
    obtain ⟨⟨⟨hnonneg, -⟩, -⟩, -⟩ := hvalid
    exact hnonneg
  rw [← Int.toNat_of_nonneg hpos] at halign
  exact_mod_cast halign

/-! ### The group's own bytes (R108) -/

/-- What the group has stored in the epoch, after another store. -/
def ownAfter (p : Block) (gid : Nat) (cs : Cells) : List (Nat × Cells) := put p.own gid (putAll ((get? p.own gid).getD []) cs)

/-- The group reads what it stores over what it read before. -/
theorem padByte_own {p : Block} {gid : Nat} {cs : Cells} {tags : List Tag} (hrise : rising cs = true) (x : Nat) :
    padByte (padOwn p (ownAfter p gid cs) tags) gid x = (get? cs x).getD (padByte p gid x) := by
  simp only [padByte, padOwn, ownAfter, get?_put_self, Option.getD_some, get?_putAll _ x hrise]
  cases get? cs x <;> rfl

theorem storedBytes_own {p : Block} {gid size : Nat} {lanes : List Nat} {at' val : Nat → Nat} {tags : List Tag}
    (hrise : lanes.Pairwise (· < ·)) : StoredBytes id lanes at' val size (padByte p gid)
      (padByte (padOwn p (ownAfter p gid (storeCells lanes at' val size)) tags) gid) := by
  rw [funext (padByte_own (rising_storeCells lanes at' val size))]
  exact (storeCells_spec at' val size hrise).over

theorem padByte_other {p : Block} {gid gid' : Nat} {cs : Cells} {tags : List Tag} (hne : gid' ≠ gid) (x : Nat) :
    padByte (padOwn p (ownAfter p gid cs) tags) gid' x = padByte p gid' x := by
  simp only [padByte, padOwn, ownAfter, get?_put_ne _ hne]

/-! ### A load of no lanes -/

theorem setIfInBounds_getD {α : Type} {n : Nat} (v : Vector α n) (i : Nat) (x : α) : v.setIfInBounds i ((v[i]?).getD x) = v := by
  ext j hj
  rw [Vector.getElem_setIfInBounds hj]
  split
  · next h => simp [h, hj]
  · rfl

/-- To write what a register holds changes nothing. -/
theorem Bank.writeReg_readReg {nv nk : Nat} (b : Bank nv nk) {n : Nat} (hn : n < 240) : b.writeReg n (b.readReg n) = b := by
  unfold Bank.writeReg Bank.readReg
  split
  · rw [setIfInBounds_getD]
  · rw [setIfInBounds_getD]

theorem writeReg_readV (g : Group) {n : BitVec 8} (hn : n.toNat < 240) : (g.onBank fun b => b.writeReg n.toNat (g.readV n)) = g := by
  rw [Group.readV_bank g (by omega)]
  unfold Group.onBank Group.fromBank
  dsimp only
  split
  · rw [Bank.writeReg_readReg _ hn]
  · rw [Bank.writeReg_readReg _ hn]

theorem loadLine_nil (val : Nat → Nat) (i : Nat) (old : Line) : loadLine [] val i old = old := by
  ext j hj
  simp [loadLine]

theorem placeLoaded_nil (g : Group) (d : BitVec 8) (size : Nat) (val : Nat → Nat) (h : RunOk g d (regsOf size)) :
    placeLoaded g d size [] val = g := by
  have hfold : ∀ n ≤ regsOf size, (List.range n).foldl (fun g i =>
      g.onBank fun b => b.writeReg (d + BitVec.ofNat 8 i).toNat (loadLine [] val i (g.readV (d + BitVec.ofNat 8 i)))) g = g := by
    intro n
    induction n with
    | zero => exact fun _ => rfl
    | succ n ih =>
      intro hn
      have hreg := (h n hn).1
      rw [List.range_succ, List.foldl_append, ih (by omega), List.foldl_cons, List.foldl_nil, loadLine_nil]
      exact writeReg_readV g (by rw [run_toNat hreg]; exact hreg)
  exact hfold _ (Nat.le_refl _)

/-! ### The operations -/

section
variable {size : Nat} {d a b : BitVec 8} {i : Instr} {s : State} {p : Block}

/-- The state with another context. -/
def State.withCtx (s : State) (x : Ctx) : State := { s with cpu := { s.cpu with ctx := x } }

/-- The cells that a store of the lanes still to execute writes. -/
def padCells (u : State) (size : Nat) (d a b : BitVec 8) : Cells :=
  storeCells (pendingLanes u.cpu.grp) (fun j => (padLane u.cpu.grp a b j).toNat) (srcData u.cpu.grp d size) size

/-- Every lane reads its bytes and tags their granules, and the word retires. -/
theorem ldsOp_reads (hp : (settled s).cpu.ctx.block (settled s).cpu.grp = some p)
    (hok : ∀ j ∈ pendingLanes (settled s).cpu.grp, PadOk p size (padLane (settled s).cpu.grp a b j)) :
    ldsOp size d a b s.mem ⟨i, none⟩ s.cpu =
      let u := settled s
      let g := u.cpu.grp
      let at' := fun j => (padLane g a b j).toNat
      let lanes := pendingLanes g
      (u.withCtx (u.cpu.ctx.setBlock (padTags p (tagsAfter p g.gid false (lanes.map at'))))).cpu.retire ⟨i, none⟩
        (shiftLoaded (placeLoaded g d size lanes fun j => leNat (padByte p g.gid) (at' j) size) d size) := by
  unfold settled at hp hok
  unfold ldsOp
  simp only [hp, padAddr_word, sortPad_pass hok]
  rfl

/-- Every lane stores its bytes, and the word retires. -/
theorem stsOp_stores (hp : (settled s).cpu.ctx.block (settled s).cpu.grp = some p)
    (hok : ∀ j ∈ pendingLanes (settled s).cpu.grp, PadOk p size (padLane (settled s).cpu.grp a b j)) :
    stsOp size d a b s.mem ⟨i, none⟩ s.cpu =
      let u := settled s
      let gid := u.cpu.grp.gid
      let cs := padCells u size d a b
      (u.withCtx (u.cpu.ctx.setBlock (padOwn p (ownAfter p gid cs) (tagsAfter p gid true (cs.map Prod.fst))))).cpu.retire ⟨i, none⟩ u.cpu.grp := by
  unfold settled at hp hok
  unfold stsOp
  simp only [hp, padAddr_word, sortPad_pass hok]
  rfl

/-- Where every lane fails, none is recorded as completed. -/
theorem closeAccess_trap (w : Iss) (c : Cpu) (t : Trap) (done : Group → Group) : closeAccess w c ⟨some t, [], []⟩ done = c.trap w t := by
  have hmask : c.grp.cmask ||| maskOf (fun j => decide (j ∈ ([] : List Nat))) = c.grp.cmask :=
    (congrArg (c.grp.cmask ||| ·) (by decide : maskOf (fun j => decide (j ∈ ([] : List Nat))) = 0)).trans BitVec.or_zero
  unfold closeAccess
  simp only [hmask]

/-- The trap of an access of which every lane lies outside the share. -/
def outsideTrap (g : Group) (a b : BitVec 8) (lam : Nat) : Trap :=
  addrTrap 3 3 (padFaddr (padLane g a b lam)) (maskOf fun j => decide (j ∈ pendingLanes g))

section
variable {lam : Nat} (hp : (settled s).cpu.ctx.block (settled s).cpu.grp = some p)
  (halign : ∀ j ∈ pendingLanes (settled s).cpu.grp, padLane (settled s).cpu.grp a b j % (size : Int) = 0)
  (hout : ∀ j ∈ pendingLanes (settled s).cpu.grp, padValid p (padLane (settled s).cpu.grp a b j) size = false)
  (hlam : (pendingLanes (settled s).cpu.grp).head? = some lam)
include hp halign hout hlam

/-- No register takes a word before the trap. -/
theorem ldsOp_outside (hrun : RunOk (settled s).cpu.grp d (regsOf size)) :
    ldsOp size d a b s.mem ⟨i, none⟩ s.cpu =
      let u := settled s
      (u.withCtx (u.cpu.ctx.setBlock (padTags p p.tags))).cpu.trap ⟨i, none⟩ (outsideTrap u.cpu.grp a b lam) := by
  have hsort := sortPad_outside halign hout hlam
  unfold settled at hp hsort hrun
  unfold ldsOp
  simp only [hp, padAddr_word, hsort, closeAccess_trap, placeLoaded_nil _ d size _ hrun]
  rfl

theorem stsOp_outside : stsOp size d a b s.mem ⟨i, none⟩ s.cpu =
      let u := settled s
      (u.withCtx (u.cpu.ctx.setBlock (padStore p u.cpu.grp.gid []))).cpu.trap ⟨i, none⟩ (outsideTrap u.cpu.grp a b lam) := by
  have hsort := sortPad_outside halign hout hlam
  unfold settled at hp hsort
  unfold stsOp
  simp only [hp, padAddr_word, hsort, closeAccess_trap]
  rfl

end
end

/-- Settles O33: both words run on the state whose matrix members have completed; the group's own bytes of the epoch are a layer over the
block's, and the trap is that of the first lane. -/
theorem scratchpadWords : Obligations.ScratchpadWords := by
  unfold Obligations.ScratchpadWords
  intro size d a b s p hsize u g addr at' lanes tagged hp
  have hload : ∀ {i}, i = padLoadWord size d a b → Issues i s.cpu.grp → RunOk g d (regsOf size) ∧
      exec i s = .next { s with cpu := ldsOp size d a b s.mem ⟨i, none⟩ s.cpu } := by
    rintro i rfl hissues
    exact ⟨runOk_of_issues hsize (issues_loadWord_of_pad hsize (issues_settled hissues)),
      (exec_padLoadWord hsize d a b s).trans (issue_of_issues hissues rfl)⟩
  have hstore : ∀ {i}, i = padStoreWord size d a b → Issues i s.cpu.grp →
      exec i s = .next { s with cpu := stsOp size d a b s.mem ⟨i, none⟩ s.cpu } := by
    rintro i rfl hissues
    exact (exec_padStoreWord hsize d a b s).trans (issue_of_issues hissues rfl)
  refine ⟨?_, ?_, ?_⟩
  · intro i hissues hok
    obtain ⟨hrun, hexec⟩ := hload rfl hissues
    obtain ⟨hsame, hpc, hlc, hloaded⟩ := loaded_spec g d size lanes (fun j => leNat (padByte p g.gid) (at' j) size) hrun
    have hretired := retired_retire ⟨i, none⟩ hpc hlc
    rw [weight_padLoadWord hsize] at hretired
    rw [ldsOp_reads hp hok] at hexec
    exact ⟨_, _, hexec, ⟨rfl, rfl, rfl, fun _ => rfl⟩, (hsame.trans (Group.sameGroup_retire _ _)).mono (by simp), hretired, rfl,
      mem_tagsAfter_lanes, hloaded.retire _⟩
  · intro i hissues hok
    have hexec := hstore rfl hissues
    have hretired := retired_retire ⟨i, none⟩ (rfl : g.pc = g.pc) (rfl : g.lc = g.lc)
    rw [weight_padStoreWord hsize] at hretired
    rw [stsOp_stores hp hok] at hexec
    exact ⟨_, _, _, hexec, ⟨rfl, rfl, rfl, fun _ => rfl⟩, Group.sameGroup_retire _ _, hretired, rfl,
      mem_tagsAfter_storeCells hsize fun j hj => (hok j hj).toNat, storedBytes_own (lanesOf_rising _), fun gid x hne => padByte_other hne x⟩
  · intro i lam hword hissues halign hout hlam
    have htrap : ∃ x, exec i s = .next { s with cpu := ((u.withCtx x).cpu.trap ⟨i, none⟩ (outsideTrap g a b lam)) } := by
      obtain hi | hi := hword
      · obtain ⟨hrun, hexec⟩ := hload hi hissues
        rw [ldsOp_outside hp halign hout hlam hrun] at hexec
        exact ⟨_, hexec⟩
      · have hexec := hstore hi hissues
        rw [stsOp_outside hp halign hout hlam] at hexec
        exact ⟨_, hexec⟩
    obtain ⟨x, hexec⟩ := htrap
    exact ⟨u.withCtx x, _, _, hexec, takesTrap (wordOf i) none _ 0 _, rfl, rfl, fun j hj => by rw [maskOf_bit _ hj, decide_eq_true_eq]⟩

end Sys2Proof.Machine

/-! SUPPORT. The deferred reductions (R106, R128, R187, R188; O36). -/

namespace Sys2Proof.Machine

/-! ### The words -/

/-- The nine words are one operation. -/
theorem exec_reduceWord (op : ROp) (d a b : BitVec 8) (s : State) :
    exec (reduceWord op d a b) s = issue noPre (reduceOp op (reduceTypes op) d a b) (reduceWord op d a b) s := by
  cases op <;> rfl

theorem weight_reduceWord (op : ROp) (d a b : BitVec 8) : weight (reduceWord op d a b) = 4 := by
  cases op <;> rfl

/-- The bytes of a lane's contributions. -/
def reduceSize (g : Group) : Nat := if isWide g.ety then 8 else 4

/-! ### The contributions (R187) -/

/-- The contributions of all active lanes, by the byte address of each lane. -/
def reduceContribs (op : ROp) (g : Group) (d : BitVec 8) (addr : Nat → Nat) : List Contrib :=
  (lanesOf g.active).flatMap fun j => laneContribs op g d (addr j) j

theorem length_laneContribs (op : ROp) (g : Group) (d : BitVec 8) (x j : Nat) : (laneContribs op g d x j).length = elems g := by
  simp only [laneContribs, List.length_map, List.length_range, elems]

theorem mem_reduceContribs {op : ROp} {g : Group} {d : BitVec 8} {addr : Nat → Nat} (c : Contrib) :
    c ∈ reduceContribs op g d addr ↔ ∃ j ∈ lanesOf g.active, ∃ e < elems g,
      c = ⟨addr j + e * etyBits g.ety / 8, op, BitVec.ofNat 4 g.ety, etyBits g.ety, elemIn g (g.laneV (isWide g.ety) d j) e, none, g.gid⟩ := by
  simp only [reduceContribs, laneContribs, List.mem_flatMap, List.mem_map, List.mem_range, eq_comm (b := c)]
  rfl

theorem contributes_reduceContribs (op : ROp) (g : Group) (d : BitVec 8) (addr : Nat → Nat) :
    Contributes op g d addr (reduceContribs op g d addr) := by
  refine ⟨?_, mem_reduceContribs⟩
  simp only [reduceContribs, List.length_flatMap, length_laneContribs, List.map_const', List.sum_replicate, smul_eq_mul]

/-- An element lies in its lane's bytes. -/
theorem elem_in_lane {g : Group} {e : Nat} (he : e < elems g) : e * etyBits g.ety / 8 < reduceSize g := by
  have hwidth := etyBits_width g.ety
  have hsize : 4 ≤ reduceSize g := by unfold reduceSize; split <;> omega
  refine Nat.lt_of_lt_of_le ?_ hsize
  unfold elems at he
  unfold ElemWidth at hwidth
  obtain h | h | h | h := hwidth <;> rw [h] at he ⊢ <;> simp at he <;> omega

/-- More on its way to the homes of this module. -/
def Cpu.addFlight (c : Cpu) (l : List Flying) : Cpu := { c with ctx := { c.ctx with flight := c.ctx.flight ++ l } }

@[simp] theorem Cpu.addFlight_nil (c : Cpu) : c.addFlight [] = c := by simp [Cpu.addFlight]

@[simp] theorem Cpu.addFlight_addFlight (c : Cpu) (l l' : List Flying) : (c.addFlight l).addFlight l' = c.addFlight (l ++ l') := by
  simp [Cpu.addFlight]

theorem sendContribs_here {r : Record} {l : List Contrib} {c : Cpu} (h : ∀ k ∈ l, homedAway c.hw r (vaOff k.addr) = none) :
    l.foldl (sendContrib r) c = c.addFlight (l.map .contribution) := by
  induction l generalizing c with
  | nil => exact c.addFlight_nil.symm
  | cons k l ih =>
    have hsend : sendContrib r c k = c.addFlight [.contribution k] := by
      unfold sendContrib
      rw [h k List.mem_cons_self]
      rfl
    rw [List.foldl_cons, hsend, ih (c := c.addFlight [.contribution k]) fun k hk => h k (List.mem_cons_of_mem _ hk), Cpu.addFlight_addFlight]
    rfl

/-! ### The checks (R128) -/

theorem checkAccess_misaligned {rcd : Option Record} {gid obj size : Nat} {off : Int} {kind : Access} (h : off % (size : Int) ≠ 0) :
    checkAccess rcd gid obj off size size kind = some (2, 1) := if_pos h

/-- An aligned access fails a later check, if any. -/
theorem failOrder_aligned {rcd : Option Record} {gid obj size : Nat} {off : Int} {kind : Access} {q : Nat × Nat}
    (h : off % (size : Int) = 0) (hq : checkAccess rcd gid obj off size size kind = some q) : failOrder (2, 1) < failOrder q := by
  unfold checkAccess at hq
  rw [if_neg (not_not.2 h)] at hq
  split at hq
  · cases hq; decide
  · split_ifs at hq <;> cases hq <;> decide

/-- The misaligned lanes of an access, by a mask that holds them. -/
theorem firstFailure_misaligned {rcd : Option Record} {gid obj size lam : Nat} {kind : Access} {off : Nat → Int} {addr : Nat → Nat}
    {act mask : Word} (hmask : ∀ j < 32, mask.getLsbD j = true ↔ j ∈ lanesOf act ∧ off j % (size : Int) ≠ 0)
    (hlam : mask.getLsbD lam = true) (hlow : ∀ j < lam, mask.getLsbD j = false) :
    firstFailure ((lanesOf act).map fun j => (j, addr j, checkAccess rcd gid obj (off j) size size kind)) =
      some (addrTrap 2 1 (addr lam) mask) := by
  have hcheck : ∀ j, checkAccess rcd gid obj (off j) size size kind = some (2, 1) ↔ off j % (size : Int) ≠ 0 := fun j =>
    ⟨fun h h0 => absurd (failOrder_aligned h0 h) (Nat.lt_irrefl _), checkAccess_misaligned⟩
  have hhits : ((lanesOf act).filter fun j => decide (checkAccess rcd gid obj (off j) size size kind = some (2, 1))) = lanesOf mask := by
    unfold lanesOf
    rw [List.filter_filter]
    refine List.filter_congr fun j hj => ?_
    rw [Bool.eq_iff_iff, Bool.and_eq_true, decide_eq_true_eq, hcheck, hmask j (List.mem_range.1 hj), mem_lanesOf, and_comm,
      and_iff_right (List.mem_range.1 hj)]
  obtain ⟨l, hl⟩ := lanesOf_head (BitVec.lt_of_getLsbD hlam) hlam hlow
  have hself : (maskOf fun j => decide (j ∈ lam :: l)) = mask := by
    apply BitVec.eq_of_getLsbD_eq
    intro j hj
    rw [maskOf_bit _ hj, ← hl, Bool.eq_iff_iff, decide_eq_true_eq, mem_lanesOf]
    simp [hj]
  rw [firstFailure_of_first (p := (2, 1)) (fun j hj q hq => ?_) (hhits.trans hl), hself]
  by_cases h : off j % (size : Int) = 0
  · exact .inr (failOrder_aligned h hq)
  · exact .inl (Option.some.inj (hq.symm.trans (checkAccess_misaligned h)))

/-! ### The operation -/

/-! Where a lane of a word without a displacement contributes: the object, its offset and address there, or its place in the scratchpad. -/

def reduceObj (g : Group) (a : BitVec 8) : Nat := baseObj (g.readKK (a &&& 63))
def reduceOff (g : Group) (a b : BitVec 8) : Nat → Int := laneOff g (g.readKK (a &&& 63)) b 0
def reduceAddr (g : Group) (a b : BitVec 8) (j : Nat) : Nat := vaOf (reduceObj g a) (reduceOff g a b j)
def reducePad (g : Group) (a b : BitVec 8) (j : Nat) : Int := spaceBase g a + (laneAt (g.readV b) j).toInt

theorem redAddr_pad {g : Group} {i : Instr} {a b : BitVec 8} (h : a.toNat / 64 = 0) : redAddr g ⟨i, none⟩ a b = reducePad g a b :=
  funext fun _ => (if_pos h).trans (Int.add_zero _)

theorem redAddr_memory {g : Group} {i : Instr} {a b : BitVec 8} (h : a.toNat / 64 ≠ 0) : redAddr g ⟨i, none⟩ a b = reduceOff g a b :=
  funext fun _ => if_neg h

section
variable {op : ROp} {ok : Nat → Bool} {d a b : BitVec 8} {i : Instr} {s : State}

/-- The contributions of lanes homed here are homed here. -/
theorem contribs_local {r : Record} (hrec : s.cpu.record s.mem (reduceObj s.cpu.grp a) = some r)
    (hreach : ∀ j ∈ lanesOf s.cpu.grp.active,
      Reach s .reduce (reduceSize s.cpu.grp) (reduceSize s.cpu.grp) (reduceObj s.cpu.grp a) (reduceOff s.cpu.grp a b j))
    (hlocal : ∀ j ∈ lanesOf s.cpu.grp.active, ∀ x, reduceAddr s.cpu.grp a b j ≤ x →
      x < reduceAddr s.cpu.grp a b j + reduceSize s.cpu.grp → LocalByte s x) :
    ∀ k ∈ reduceContribs op s.cpu.grp d (reduceAddr s.cpu.grp a b), homedAway s.cpu.hw r (vaOff k.addr) = none := by
  intro k hk
  obtain ⟨j, hj, e, he, rfl⟩ := (mem_reduceContribs k).1 hk
  have hin := elem_in_lane he
  refine hlocal j hj _ (Nat.le_add_right _ _) (Nat.add_lt_add_left hin _) r ?_
  rw [← hrec]
  exact congrArg (s.cpu.record s.mem) ((hreach j hj).va (baseObj_lt _) hin).1

variable (hmode : modeOk s.cpu.grp ok (pairOk false d) = true)
include hmode

/-- In the scratchpad the contributions wait for the block's sync. -/
theorem reduceOp_pad {p : Block} (ha : a.toNat / 64 = 0) (hp : s.cpu.ctx.block s.cpu.grp = some p)
    (hok : ∀ j ∈ lanesOf s.cpu.grp.active, PadOk p (reduceSize s.cpu.grp) (reducePad s.cpu.grp a b j)) :
    reduceOp op ok d a b s.mem ⟨i, none⟩ s.cpu =
      (s.withCtx (s.cpu.ctx.setBlock { p with reds := p.reds ++ reduceContribs op s.cpu.grp d fun j =>
        (reducePad s.cpu.grp a b j).toNat })).cpu.retire ⟨i, none⟩ s.cpu.grp := by
  have htrap : firstFailure ((lanesOf s.cpu.grp.active).map fun j => (j, padFaddr (reducePad s.cpu.grp a b j),
      checkPad (some p) (reducePad s.cpu.grp a b j) (reduceSize s.cpu.grp) (reduceSize s.cpu.grp))) = none := by
    refine firstFailure_none fun x hx => ?_
    obtain ⟨j, hj, rfl⟩ := List.mem_map.1 hx
    exact checkPad_of_ok (hok j hj)
  unfold reduceSize at htrap
  unfold reduceOp
  simp only [hmode, Bool.not_true, Bool.false_eq_true, if_false, if_pos ha, hp, redAddr_pad ha, htrap]
  rfl

/-- In memory they are sent to their homes. -/
theorem reduceOp_memory (ha : a.toNat / 64 ≠ 0)
    (hreach : ∀ j ∈ lanesOf s.cpu.grp.active,
      Reach s .reduce (reduceSize s.cpu.grp) (reduceSize s.cpu.grp) (reduceObj s.cpu.grp a) (reduceOff s.cpu.grp a b j))
    (hlocal : ∀ j ∈ lanesOf s.cpu.grp.active, ∀ x, reduceAddr s.cpu.grp a b j ≤ x →
      x < reduceAddr s.cpu.grp a b j + reduceSize s.cpu.grp → LocalByte s x) :
    ∃ dir, reduceOp op ok d a b s.mem ⟨i, none⟩ s.cpu =
      ((s.withDir dir).cpu.addFlight ((reduceContribs op s.cpu.grp d (reduceAddr s.cpu.grp a b)).map .contribution)).retire ⟨i, none⟩
        s.cpu.grp := by
  have htrap : firstFailure ((lanesOf s.cpu.grp.active).map fun j => (j, reduceAddr s.cpu.grp a b j,
      checkAccess (s.cpu.record s.mem (reduceObj s.cpu.grp a)) s.cpu.grp.gid (reduceObj s.cpu.grp a) (reduceOff s.cpu.grp a b j)
        (reduceSize s.cpu.grp) (reduceSize s.cpu.grp) .reduce)) = none := by
    refine firstFailure_none fun x hx => ?_
    obtain ⟨j, hj, rfl⟩ := List.mem_map.1 hx
    exact (hreach j hj).check
  cases hrec : s.cpu.record s.mem (reduceObj s.cpu.grp a) with
  | none =>
    have hnil : lanesOf s.cpu.grp.active = [] := List.eq_nil_iff_forall_not_mem.2 fun j hj => by
      obtain ⟨r, hr, -⟩ := (hreach j hj).record
      cases hrec.symm.trans hr
    refine ⟨s.cpu.hw.dir, ?_⟩
    unfold reduceObj at hrec
    rw [reduceContribs, hnil, List.flatMap_nil, List.map_nil, Cpu.addFlight_nil]
    unfold reduceOp
    simp only [hmode, Bool.not_true, Bool.false_eq_true, if_false, if_neg ha, redAddr_memory ha, hrec, hnil, List.map_nil,
      firstFailure_none (l := []) fun x hx => absurd hx List.not_mem_nil]
    rfl
  | some r =>
    let k := touchLines s.mem s.cpu r ((lanesOf s.cpu.grp.active).map fun j => (reduceOff s.cpu.grp a b j).toNat)
    have hblock : ((lanesOf s.cpu.grp.active).filterMap fun j =>
        (accessBlock s.mem r true (reduceOff s.cpu.grp a b j).toNat (reduceSize s.cpu.grp)).map
          fun x => (reduceAddr s.cpu.grp a b j, x)) = [] := List.filterMap_eq_nil_iff.2 fun j hj => by
      obtain ⟨r', hr', -, -, hfree⟩ := (hreach j hj).record
      cases hrec.symm.trans hr'
      rw [show accessBlock s.mem r true _ _ = none from hfree]
      rfl
    have hsend := sendContribs_here (c := k) (contribs_local (op := op) (d := d) hrec hreach hlocal)
    rw [hrec] at htrap
    refine ⟨k.hw.dir, ?_⟩
    unfold reduceSize reduceAddr reduceObj at htrap hblock
    unfold reduceObj at hrec
    unfold reduceContribs reduceAddr reduceObj at hsend
    unfold reduceOp
    simp only [hmode, Bool.not_true, Bool.false_eq_true, if_false, if_neg ha, redAddr_memory ha, hrec, htrap, hblock]
    exact congrArg (fun c : Cpu => c.retire ⟨i, none⟩ c.grp) hsend

theorem reduceOp_misaligned {lam : Nat} {mask : Word} (ha : a.toNat / 64 ≠ 0)
    (hmask : ∀ j < 32, mask.getLsbD j = true ↔
      j ∈ lanesOf s.cpu.grp.active ∧ reduceOff s.cpu.grp a b j % (reduceSize s.cpu.grp : Int) ≠ 0)
    (hlam : mask.getLsbD lam = true) (hlow : ∀ j < lam, mask.getLsbD j = false) :
    reduceOp op ok d a b s.mem ⟨i, none⟩ s.cpu = s.cpu.trap ⟨i, none⟩ (addrTrap 2 1 (reduceAddr s.cpu.grp a b lam) mask) := by
  have htrap := firstFailure_misaligned (rcd := s.cpu.record s.mem (reduceObj s.cpu.grp a)) (gid := s.cpu.grp.gid)
    (obj := reduceObj s.cpu.grp a) (kind := .reduce) (addr := reduceAddr s.cpu.grp a b) hmask hlam hlow
  unfold reduceSize reduceAddr reduceObj at htrap
  unfold reduceOp
  simp only [hmode, Bool.not_true, Bool.false_eq_true, if_false, if_neg ha, redAddr_memory ha, htrap]
  rfl

end

/-- Settles O36: the nine words are one operation, whose contributions wait in the block or are sent home, or whose first check traps. -/
theorem reductions : Obligations.Reductions := by
  unfold Obligations.Reductions
  intro op d a b s i g size obj off addr pad hissues hvec
  have hmode : modeOk s.cpu.grp (reduceTypes op) (pairOk false d) = true := by
    obtain ⟨htype, hpairs⟩ := hvec
    refine modeOk_of htype fun hwide => ?_
    obtain ⟨-, hsrcs, -⟩ := hpairs hwide
    exact hsrcs d List.mem_cons_self
  have hexec := (exec_reduceWord op d a b s).trans (issue_of_issues hissues rfl)
  have hretired := retired_retire ⟨i, none⟩ (rfl : g.pc = g.pc) (rfl : g.lc = g.lc)
  rw [weight_reduceWord] at hretired
  refine ⟨fun ha hall => ?_, fun p ha hp hok => ?_, fun lam mask ha hmask hlam hlow => ?_⟩
  · obtain ⟨dir, hop⟩ := reduceOp_memory (op := op) (i := i) hmode ha (fun j hj => (hall j hj).1) fun j hj => (hall j hj).2
    rw [hop] at hexec
    exact ⟨_, _, hexec, ⟨rfl, rfl, rfl, rfl, fun _ => rfl⟩, Group.sameGroup_retire _ _, hretired, rfl, rfl,
      contributes_reduceContribs op g d addr⟩
  · rw [reduceOp_pad hmode ha hp hok] at hexec
    exact ⟨_, _, hexec, ⟨rfl, rfl, rfl, fun _ => rfl⟩, Group.sameGroup_retire _ _, hretired, rfl,
      contributes_reduceContribs op g d fun j => (pad j).toNat⟩
  · rw [reduceOp_misaligned hmode ha hmask hlam hlow] at hexec
    exact ⟨_, hexec, takesTrap (wordOf i) none _ 0 s⟩

end Sys2Proof.Machine

/-! SUPPORT. What a read and a plain store leave beside the group, for any list of bytes or lanes (R88, R100, R103, R104, R106, R284). -/

namespace Sys2Proof.Machine

/-! ### Another group in hand -/

/-- The state with another content of the group in hand. -/
def State.withGrp (s : State) (g : Group) : State := { s with cpu := { s.cpu with grp := g } }

theorem MemoryOnly.withGrp {marks : Mark → Prop} {tags : Tag → Prop} {s t : State} (h : MemoryOnly marks tags s t) (g : Group) :
    MemoryOnly marks tags s (t.withGrp g) := ⟨h.hw, h.ctx, h.marks, h.tags, h.others, h.inputs, h.bytes⟩

theorem OthersSee.withGrp {s t : State} (h : OthersSee s t) (g : Group) : OthersSee s (t.withGrp g) := h

/-! ### Reads -/

/-- The context with the read tags of those of some bytes that are homed here (R104). -/
def readTags (s : State) (r : Record) (bytes : List Nat) : Ctx :=
  (bytes.filter fun x => (homedAway s.cpu.hw r (vaOff x)).isNone).foldl (fun x y => tagLine x r s.cpu.grp.gid false y) s.cpu.ctx

/-- The state once some bytes have been read: the directory and the tags. -/
def State.afterRead (s : State) (dir : Directory) (r : Record) (bytes : List Nat) : State :=
  { s with cpu := { (s.withDir dir).cpu with ctx := readTags s r bytes } }

section
variable {s : State} {r : Record} {obj : Nat} {bytes : List Nat} {P : Nat → Prop} (dir : Directory)

theorem memoryOnly_afterRead (hrec : s.cpu.record s.mem obj = some r) (hP : ∀ x, x ∈ bytes ↔ P x) :
    MemoryOnly (fun _ => False) (tagsOf s obj false P) s (s.afterRead dir r bytes) := by
  obtain ⟨hctx, htags⟩ := tagLine_foldl r s.cpu.grp.gid false
    (bytes.filter fun x => (homedAway s.cpu.hw r (vaOff x)).isNone) s.cpu.ctx
  change readTags s r bytes = { s.cpu.ctx with ptags := (readTags s r bytes).ptags } at hctx
  have hmarks : (readTags s r bytes).marks = s.cpu.ctx.marks := by rw [hctx]
  refine ⟨rfl, ?_, fun k => ?_, fun k => (htags k).trans (or_congr_right ⟨?_, ?_⟩), rfl, rfl, fun _ => rfl⟩
  · have hparcel : (readTags s r bytes).parcel = s.cpu.ctx.parcel := by rw [hctx]
    change readTags s r bytes = { s.cpu.ctx with
      ptags := (readTags s r bytes).ptags, marks := (readTags s r bytes).marks, parcel := (readTags s r bytes).parcel }
    rw [hmarks, hparcel]
    exact hctx
  · rw [or_false]
    exact iff_of_eq (congrArg (k ∈ ·) hmarks)
  · rintro ⟨hmode, x, hx, rfl⟩
    obtain ⟨hin, hhome⟩ := List.mem_filter.1 hx
    exact ⟨r, x, hrec, hmode, (hP x).1 hin, Option.isNone_iff_eq_none.1 hhome, rfl⟩
  · rintro ⟨r', x, hrec', hmode, hin, hhome, rfl⟩
    cases hrec.symm.trans hrec'
    exact ⟨hmode, x, List.mem_filter.2 ⟨(hP x).2 hin, Option.isNone_iff_eq_none.2 hhome⟩, rfl⟩

/-- A read changes nothing that others read. -/
theorem readTags_rest : ∃ l, readTags s r bytes = { s.cpu.ctx with ptags := l } :=
  ⟨_, (tagLine_foldl r s.cpu.grp.gid false (bytes.filter fun x => (homedAway s.cpu.hw r (vaOff x)).isNone) s.cpu.ctx).1⟩

theorem othersSee_afterRead : OthersSee s (s.afterRead dir r bytes) := by
  obtain ⟨l, hl⟩ := readTags_rest (s := s) (r := r) (bytes := bytes)
  exact fun q gid view a _ => homeByte_congr (congrArg (fun x => get? (Ctx.parcel x) gid) hl :) (congrArg Ctx.versions hl :)
    (congrArg (fun x => ownFlight gid (Ctx.flight x)) hl :) rfl

end

/-! ### Stores -/

/-- The state once some lanes have stored, not yet retired. -/
def State.afterStore (s : State) (dir : Directory) (r : Record) (lanes : List Nat) (addr val : Nat → Nat) (size : Nat) : State :=
  { s with cpu := plainStore s.mem r (s.withDir dir).cpu (storeCells lanes addr val size) [] }

/-- A store of some lanes at this module whose lines fit beside those of the sketch (R88, R103, R104, R106, R175). -/
theorem afterStore_fits {s : State} {r : Record} {obj size : Nat} {lanes ls : List Nat} {addr : Nat → Nat} (val : Nat → Nat)
    (dir : Directory) (hrec : s.cpu.record s.mem obj = some r) (hlanes : lanes.Pairwise (· < ·))
    (hobj : ∀ x, lanesBytes lanes addr size x → vaObj x = obj) (hplain : PlainTarget s r (lanesBytes lanes addr size))
    (hlines : LinesOf (lanesBytes lanes addr size) ls) (hfit : storesThrough r = false → sketchWith s.cpu.grp ls ≤ Config.sketchLines) :
    let P := lanesBytes lanes addr size
    let u := s.afterStore dir r lanes addr val size
    u.cpu.grp = { s.cpu.grp with sketch := u.cpu.grp.sketch } ∧ MemoryOnly (plainMarks s P) (tagsOf s obj true P) s u ∧ OthersSee s u ∧
      StoredBytes id lanes addr val size (seenByte s.forget) (seenByte u.forget) := by
  have hspec := plainStore_spec (s := s) (c := (s.withDir dir).cpu) (cs := storeCells lanes addr val size) ⟨rfl, rfl, rfl⟩ hrec
    (rising_storeCells _ _ _ _) (mem_storeCells addr val size) hobj hplain hlines hfit
  unfold State.afterStore
  generalize plainStore s.mem r (s.withDir dir).cpu (storeCells lanes addr val size) [] = k at hspec ⊢
  obtain ⟨hgrp, hhw, hctx, hmarks, htags, hparcel, hseen⟩ := hspec
  have hread : ∀ x, seenByte (State.forget { s with cpu := k }) x =
      (get? (storeCells lanes addr val size) x).getD (seenByte s.forget x) := fun x => by
    rw [← hseen s.mem rfl x, ← record_congr (k := k) (congrArg Ctx.objtb hctx :) (congrArg Ctx.span hctx :) hhw]
    rfl
  refine ⟨hgrp, ⟨hhw, hctx, hmarks, htags, rfl, rfl, fun _ => rfl⟩, fun q gid view x hne => ?_, ?_⟩
  · exact homeByte_congr (hparcel gid hne) (congrArg Ctx.versions hctx :) (congrArg (fun x => ownFlight gid x.flight) hctx :)
      (congrArg Module.number hhw :)
  · rw [funext hread]
    exact (storeCells_spec addr val size hlanes).over

end Sys2Proof.Machine

/-! SUPPORT. `ldk`, `stk` and `pf` (R128, R177, R178, R303; O32). -/

namespace Sys2Proof.Machine

/-! ### The access -/

section
variable {i : Instr} {s : State} {a : BitVec 8} {k : Nat} {kind : Access}

/-! The offset and the address that the base names, for a word without a displacement. -/

def uniOff (s : State) (a : BitVec 8) : Nat := baseOff (s.cpu.grp.readKK a)
def uniVa (s : State) (a : BitVec 8) : Nat := vaOf (loadObj s a) (uniOff s a)

/-- The access lies in the group's own image (R303). -/
def UniOwn (s : State) (a : BitVec 8) (k : Nat) : Prop :=
  loadObj s a = 1 ∧ (s.cpu.record s.mem 1).isSome = true ∧ ownImage s.cpu.grp (uniOff s a) (4 * k) = true

/-- What the checks of R128 come to. -/
def uniCheck (s : State) (a : BitVec 8) (k : Nat) (kind : Access) : Option (Nat × Nat) :=
  checkAccess (s.cpu.record s.mem (loadObj s a)) s.cpu.grp.gid (loadObj s a) (uniOff s a) 4 (4 * k) kind

theorem uniAccess_own (hown : UniOwn s a k) (halign : uniOff s a % 4 = 0) :
    uniAccess s.cpu s.mem ⟨i, none⟩ a k kind = (s.cpu.record s.mem 1, 1, (uniOff s a : Int), none) := by
  obtain ⟨hobj, hrec, himage⟩ := hown
  have halign' : (uniOff s a : Int) % 4 = 0 := by omega
  unfold loadObj at hobj
  unfold uniOff at himage halign' ⊢
  simp [uniAccess, dispOf, hobj, hrec, himage, halign']

theorem uniAccess_memory (hown : ¬ UniOwn s a k) : uniAccess s.cpu s.mem ⟨i, none⟩ a k kind =
    (s.cpu.record s.mem (loadObj s a), loadObj s a, (uniOff s a : Int),
      (uniCheck s a k kind).map fun p => addrTrap p.1 p.2 (uniVa s a) 0) := by
  have hcond : ¬ (decide (loadObj s a = 1) && (s.cpu.record s.mem (loadObj s a)).isSome && decide ((uniOff s a : Int) % 4 = 0) &&
      ownImage s.cpu.grp (uniOff s a) (4 * k)) = true := fun h => by
    simp only [Bool.and_eq_true, decide_eq_true_eq] at h
    obtain ⟨⟨⟨hobj, hrec⟩, -⟩, himage⟩ := h
    exact hown ⟨hobj, hobj ▸ hrec, himage⟩
  unfold uniCheck uniVa
  unfold loadObj uniOff at hcond ⊢
  simp only [uniAccess, dispOf, Int.add_zero, if_neg hcond]

theorem not_uniOwn_of_reach (h : Reach s kind 4 (4 * k) (loadObj s a) (uniOff s a)) : ¬ UniOwn s a k := fun hown => by
  obtain ⟨-, r, -, -, -, hobj, -⟩ := h
  exact hobj hown.1

theorem uniAccess_reach (h : Reach s kind 4 (4 * k) (loadObj s a) (uniOff s a)) :
    uniAccess s.cpu s.mem ⟨i, none⟩ a k kind = (s.cpu.record s.mem (loadObj s a), loadObj s a, (uniOff s a : Int), none) := by
  have hcheck : uniCheck s a k kind = none := h.check
  rw [uniAccess_memory (not_uniOwn_of_reach h), hcheck]
  rfl

/-- The bytes of the words are those of one span. -/
theorem mem_span_words (va k x : Nat) : x ∈ span va (4 * k) ↔ lanesBytes (List.range k) (fun w => va + 4 * w) 4 x := by
  simp only [mem_span, lanesBytes, List.mem_range]
  constructor
  · rintro ⟨hlo, hhi⟩
    exact ⟨(x - va) / 4, by omega, by omega, by omega⟩
  · rintro ⟨j, hj, hlo, hhi⟩
    omega

theorem accessBlocks_of_none {m : Cells} {r : Record} {through : Bool} {off size : Nat} (h : accessBlock m r through off size = none) :
    accessBlocks m r through off size = [] := List.head?_eq_none_iff.1 h

end

/-! ### `ldk` -/

/-- The registers k(d) on after words read at an address. -/
def fillK (g : Group) (d : BitVec 8) (k : Nat) (get : Nat → Byte) (at' : Nat) : Group :=
  (List.range k).foldl (fun g i => g.writeK (d + BitVec.ofNat 8 i) (BitVec.ofNat 32 (leNat get (at' + 4 * i) 4))) g

theorem fillK_spec (g : Group) {d : BitVec 8} {k : Nat} (get : Nat → Byte) (at' : Nat) (hlt : d.toNat + k ≤ 160)
    (hwin : g.inWin = true → d.toNat + k ≤ 32) :
    let h := fillK g d k get at'
    SameGroup ((List.range k).map fun w => .k (d.toNat + w)) g h ∧ h.pc = g.pc ∧ h.lc = g.lc ∧
      ∀ w < k, (h.readK (d + BitVec.ofNat 8 w)).toNat = leNat get (at' + 4 * w) 4 := by
  have hname : ∀ w < k, (d + BitVec.ofNat 8 w).toNat = d.toNat + w := fun w hw => run_toNat (by omega)
  induction k with
  | zero => exact ⟨SameGroup.refl g, rfl, rfl, nofun⟩
  | succ k ih =>
    obtain ⟨hsame, hpc, hlc, hread⟩ := ih (by omega) (fun h => by have := hwin h; omega) fun w hw => hname w (by omega)
    have hk := hname k (by omega)
    have hstep : fillK g d (k + 1) get at' =
        (fillK g d k get at').writeK (d + BitVec.ofNat 8 k) (BitVec.ofNat 32 (leNat get (at' + 4 * k) 4)) := by
      simp only [fillK, List.range_succ, List.foldl_append, List.foldl_cons, List.foldl_nil]
    have hin : (fillK g d k get at').inWin = g.inWin := by rw [hsame.rest]
    dsimp only
    rw [hstep]
    refine ⟨?_, by simpa using hpc, by simpa using hlc, fun w hw => ?_⟩
    · rw [List.range_succ, List.map_append]
      exact hsame.trans (by simpa [hk] using Group.sameGroup_writeK (fillK g d k get at') (d + BitVec.ofNat 8 k) _)
    · by_cases hwk : w = k
      · subst hwk
        rw [Group.readK_writeK_self _ _ (by omega) fun h => by have := hwin (hin ▸ h); omega, BitVec.toNat_ofNat]
        exact Nat.mod_eq_of_lt (leNat_lt _ _ 4)
      · have hne : d + BitVec.ofNat 8 w ≠ d + BitVec.ofNat 8 k := fun h => by
          have := congrArg BitVec.toNat h
          rw [hname w hw, hk] at this
          omega
        rw [Group.readK_writeK_ne _ _ hne]
        exact hread w (by omega)

/-- The destination of a legal `ldk` is a run of registers that names reach (R177, R300). -/
theorem ldk_run {d a : BitVec 8} {n : BitVec 4} {g : Group} (h : Issues (.ldk d a n) g) :
    d.toNat + (n.toNat + 1) ≤ 160 ∧ (g.inWin = true → d.toNat + (n.toNat + 1) ≤ 32) := by
  have hnames := namesOk_of_issues h
  obtain ⟨-, hwin⟩ := h
  simp only [namesOk, kRun, Bool.and_eq_true, decide_eq_true_eq] at hnames
  simp only [windowOk, kIn, Bool.and_eq_true, Bool.or_eq_true, decide_eq_true_eq] at hwin
  exact ⟨by omega, fun hw => by have := hwin hw; omega⟩

section
variable {i : Instr} {s : State} {d a : BitVec 8} {n : BitVec 4}

/-- Every word is read as a plain load reads it, and the lines are tagged. -/
theorem ldkOp_reads {r : Record} (hrec : s.cpu.record s.mem (loadObj s a) = some r)
    (hreach : Reach s .load 4 (4 * (n.toNat + 1)) (loadObj s a) (uniOff s a))
    (hthere : ∀ x ∈ span (uniVa s a) (4 * (n.toNat + 1)), (homedAway s.cpu.hw r (vaOff x) = none ∨
      (get? s.cpu.grp.fills (lineOf x)).isSome = true ∨ (sketchByte s.cpu.grp.sketch x).isSome = true) ∧
      get? s.cpu.grp.fills (lineOf x) ≠ some none) :
    ∃ dir, ldkOp d a n s.mem ⟨i, none⟩ s.cpu = (s.afterRead dir r (span (uniVa s a) (4 * (n.toNat + 1)))).cpu.retire ⟨i, none⟩
      (fillK s.cpu.grp d (n.toNat + 1) (loadByte s.cpu s.mem r) (uniVa s a)) := by
  obtain ⟨-, r', hrec', -, -, hobj, -, -, hblock⟩ := id hreach
  cases hrec.symm.trans hrec'
  have hacc := uniAccess_reach (i := i) hreach
  have hfree : accessBlocks s.mem r false (uniOff s a) (4 * (n.toNat + 1)) = [] := accessBlocks_of_none hblock
  refine ⟨(touchLines s.mem s.cpu r [uniOff s a, uniOff s a + 4 * (n.toNat + 1) - 1]).hw.dir, ?_⟩
  have hmissing : missingLines (touchLines s.mem s.cpu r [uniOff s a, uniOff s a + 4 * (n.toNat + 1) - 1]) r
      (span (uniVa s a) (4 * (n.toNat + 1))) = [] := missingLines_nil fun x hx => (hthere x hx).1
  have hlost : ((span (uniVa s a) (4 * (n.toNat + 1))).any fun x => get? s.cpu.grp.fills (lineOf x) == some none) = false :=
    List.any_eq_false.2 fun x hx => by simpa using (hthere x hx).2
  unfold uniVa at hmissing hlost
  simp only [ldkOp, hacc, hrec, if_neg hobj, Int.toNat_natCast, hfree, hmissing, hlost, Bool.false_eq_true, if_false]
  rfl

theorem ldkOp_own (hown : UniOwn s a (n.toNat + 1)) (halign : uniOff s a % 4 = 0) :
    ldkOp d a n s.mem ⟨i, none⟩ s.cpu = s.cpu.retire ⟨i, none⟩
      (fillK s.cpu.grp d (n.toNat + 1) (windowByte s.cpu.grp) (uniOff s a - imageOff s.cpu.grp)) := by
  have hacc := uniAccess_own (i := i) (kind := .load) hown halign
  obtain ⟨-, hrec, -⟩ := hown
  obtain ⟨r, hr⟩ := Option.isSome_iff_exists.1 hrec
  simp only [ldkOp, hacc, hr, if_true, Int.toNat_natCast]
  rfl

theorem ldkOp_traps {p : Nat × Nat} (hown : ¬ UniOwn s a (n.toNat + 1)) (hcheck : uniCheck s a (n.toNat + 1) .load = some p) :
    ldkOp d a n s.mem ⟨i, none⟩ s.cpu = s.cpu.trap ⟨i, none⟩ (addrTrap p.1 p.2 (uniVa s a) 0) := by
  have hacc := uniAccess_memory (i := i) (kind := .load) hown
  rw [hcheck] at hacc
  simp only [ldkOp, hacc, Option.map_some]

/-! ### `stk` -/

/-- The words that `stk` stores (R177). -/
def stkWords (g : Group) (d : BitVec 8) (w : Nat) : Nat := (g.readK (if d.toNat = 248 then d else d + BitVec.ofNat 8 w)).toNat

theorem stkOp_stores {r : Record} (hrec : s.cpu.record s.mem (loadObj s a) = some r)
    (hreach : Reach s .store 4 (4 * (n.toNat + 1)) (loadObj s a) (uniOff s a)) :
    ∃ dir, stkOp d a n s.mem ⟨i, none⟩ s.cpu =
      let u := s.afterStore dir r (List.range (n.toNat + 1)) (fun w => uniVa s a + 4 * w) (stkWords s.cpu.grp d) 4
      u.cpu.retire ⟨i, none⟩ u.cpu.grp := by
  obtain ⟨-, r', hrec', -, -, hobj, -, -, hblock⟩ := id hreach
  cases hrec.symm.trans hrec'
  have hacc := uniAccess_reach (i := i) hreach
  have hfree : accessBlocks s.mem r (storesThrough r) (uniOff s a) (4 * (n.toNat + 1)) = [] := accessBlocks_of_none hblock
  refine ⟨(touchLines s.mem s.cpu r [uniOff s a, uniOff s a + 4 * (n.toNat + 1) - 1]).hw.dir, ?_⟩
  simp only [stkOp, hacc, hrec, if_neg hobj, Int.toNat_natCast, hfree]
  rfl

theorem stkOp_own (hown : UniOwn s a (n.toNat + 1)) (halign : uniOff s a % 4 = 0) :
    stkOp d a n s.mem ⟨i, none⟩ s.cpu = s.cpu.retire ⟨i, none⟩ (windowStore s.cpu.grp (storeCells (List.range (n.toNat + 1))
      (fun w => uniOff s a - imageOff s.cpu.grp + 4 * w) (stkWords s.cpu.grp d) 4)) := by
  have hacc := uniAccess_own (i := i) (kind := .store) hown halign
  obtain ⟨-, hrec, -⟩ := hown
  obtain ⟨r, hr⟩ := Option.isSome_iff_exists.1 hrec
  simp only [stkOp, hacc, hr, if_true, Int.toNat_natCast]
  rfl

theorem stkOp_traps {p : Nat × Nat} (hown : ¬ UniOwn s a (n.toNat + 1)) (hcheck : uniCheck s a (n.toNat + 1) .store = some p) :
    stkOp d a n s.mem ⟨i, none⟩ s.cpu = s.cpu.trap ⟨i, none⟩ (addrTrap p.1 p.2 (uniVa s a) 0) := by
  have hacc := uniAccess_memory (i := i) (kind := .store) hown
  rw [hcheck] at hacc
  simp only [stkOp, hacc, Option.map_some]

end

/-! ### `pf` -/

theorem pfOp_eq (a b : BitVec 8) (w : Iss) (s : State) : ∃ dir, pfOp a b s.mem w s.cpu = (s.withDir dir).cpu.retire w s.cpu.grp := by
  unfold pfOp
  dsimp only
  split
  · exact ⟨s.cpu.hw.dir, rfl⟩
  · split
    · exact ⟨s.cpu.hw.dir, rfl⟩
    · exact ⟨_, rfl⟩

/-! ### The statement -/

/-- The fault of an access from what its first failing check is (R128). -/
theorem uniCheck_spec {s : State} {a : BitVec 8} {k : Nat} {kind : Access} :
    (uniOff s a % 4 ≠ 0 → uniCheck s a k kind = some (2, 1)) ∧
    (uniOff s a % 4 = 0 → s.cpu.record s.mem (loadObj s a) = none → uniCheck s a k kind = some (3, 2)) ∧
    ∀ r, uniOff s a % 4 = 0 → s.cpu.record s.mem (loadObj s a) = some r →
      (r.ext < uniOff s a + 4 * k → uniCheck s a k kind = some (3, 1)) ∧
      (uniOff s a + 4 * k ≤ r.ext → loadObj s a = 1 ∨ permOk r kind = false → uniCheck s a k kind = some (5, 1)) ∧
      (uniOff s a + 4 * k ≤ r.ext → loadObj s a ≠ 1 → permOk r kind = true → modeRefuses r s.cpu.grp.gid kind = true →
        uniCheck s a k kind = some (5, 2)) := by
  unfold uniCheck checkAccess
  refine ⟨fun h => if_pos (by omega), fun h hrec => ?_, fun r h hrec => ?_⟩
  · rw [if_neg (by omega), hrec]
  · have hinside : ∀ x : Option (Nat × Nat), uniOff s a + 4 * k ≤ r.ext →
        (if (decide ((uniOff s a : Int) < 0) || decide ((r.ext : Int) < uniOff s a + (4 * k : Nat))) = true then some (3, 1) else x) = x :=
      fun x hx => if_neg (by simp; omega)
    rw [if_neg (by omega), hrec]
    dsimp only
    refine ⟨fun hout => if_pos (by simp; omega), fun hin hbar => ?_, fun hin hobj hperm hmode => ?_⟩
    · rw [hinside _ hin]
      by_cases hobj : loadObj s a = 1
      · rw [if_pos hobj]
      · rw [if_neg hobj, hbar.resolve_left hobj]
        rfl
    · rw [hinside _ hin, if_neg hobj, hperm, hmode]
      rfl

/-- Settles O32: the two words are one access that reads or stores like a plain one, or goes to the group's own image; `pf` leaves the
directory alone changed. -/
theorem uniformMemoryWords : Obligations.UniformMemoryWords := by
  unfold Obligations.UniformMemoryWords
  intro d a b n h s g obj off va k addr words P own dst
  have hldk : Issues (.ldk d a n) g → exec (.ldk d a n) s = .next { s with cpu := ldkOp d a n s.mem ⟨.ldk d a n, none⟩ s.cpu } :=
    fun hi => issue_of_issues hi rfl
  have hstk : Issues (.stk d a n) g → exec (.stk d a n) s = .next { s with cpu := stkOp d a n s.mem ⟨.stk d a n, none⟩ s.cpu } :=
    fun hi => issue_of_issues hi rfl
  have hobjOf : ∀ {kind}, Reach s kind 4 (4 * k) obj off → ∀ x, P x → vaObj x = obj := fun hreach x hx => by
    obtain ⟨hlo, hhi⟩ := (mem_span _ _ _).1 ((mem_span_words va k x).2 hx)
    have := (hreach.va (baseObj_lt _) (k := x - va) (by omega)).1
    rwa [show vaOf obj off = va from rfl, Nat.add_sub_cancel' hlo] at this
  refine ⟨fun hi hreach hthere => ?_, fun hi halign hown => ?_, fun ls hi hreach hlines hfit => ?_, fun hi halign hown => ?_,
    fun i kind hword hi hown => ?_, fun hi => ?_⟩
  · obtain ⟨r, hrec, -⟩ := hreach.record
    have hrecOf : ∀ x, P x → s.cpu.record s.mem (vaObj x) = some r := fun x hx => (hobjOf hreach x hx).symm ▸ hrec
    obtain ⟨dir, hop⟩ := ldkOp_reads (i := .ldk d a n) (d := d) hrec hreach fun x hx => by
      have hP := (mem_span_words va k x).1 hx
      obtain ⟨hpresent, hkept⟩ := hthere x hP
      exact ⟨hpresent.imp_left fun hlocal => hlocal r (hrecOf x hP), hkept⟩
    obtain ⟨hlt, hwin⟩ := ldk_run hi
    obtain ⟨hsame, hpc, hlc, hread⟩ := fillK_spec g (loadByte s.cpu s.mem r) va hlt hwin
    have hmem := (memoryOnly_afterRead dir hrec (mem_span_words va k)).withGrp
      ((fillK g d k (loadByte s.cpu s.mem r) va).retire ⟨.ldk d a n, none⟩)
    obtain ⟨l, hctx⟩ := readTags_rest (s := s) (r := r) (bytes := span va (4 * k))
    rw [hldk hi, hop]
    refine ⟨_, rfl, (hsame.trans (Group.sameGroup_retire _ _)).mono fun x hx => ?_, retired_retire ⟨.ldk d a n, none⟩ hpc hlc,
      hmem, (congrArg Ctx.parcel hctx :), fun w hw => (hread w hw).trans (leNat_congr fun c hc => ?_)⟩
    · exact (List.append_nil dst) ▸ hx
    · exact (seenByte_eq (hrecOf _ ⟨w, List.mem_range.2 hw, Nat.le_add_right _ _, Nat.add_lt_add_left hc _⟩)).symm
  · obtain ⟨hlt, hwin⟩ := ldk_run hi
    obtain ⟨hsame, hpc, hlc, hread⟩ := fillK_spec g (windowByte g) (off - imageOff g) hlt hwin
    rw [hldk hi, ldkOp_own hown halign]
    exact ⟨_, rfl, did_retire hsame hpc hlc, hread⟩
  · obtain ⟨r, hrec, -⟩ := hreach.record
    obtain ⟨dir, hop⟩ := stkOp_stores (i := .stk d a n) (d := d) hrec hreach
    obtain ⟨hplain, hsketch⟩ := hfit r hrec
    obtain ⟨hgrp, hmem, hothers, hbytes⟩ := afterStore_fits words dir hrec List.pairwise_lt_range (hobjOf hreach) hplain hlines hsketch
    rw [hstk hi, hop]
    exact ⟨_, rfl, sameButSketch_retire hgrp _,
      retired_retire ⟨.stk d a n, none⟩ (congrArg Group.pc hgrp :) (congrArg Group.lc hgrp :), hmem.withGrp _, hothers, hbytes⟩
  · rw [hstk hi, stkOp_own hown halign]
    refine ⟨_, rfl, ⟨rfl, rfl, rfl, rfl, fun _ => rfl⟩, ?_⟩
    simp only [Cpu.retire_grp, Group.retire, Group.after, windowStore_pc]
    rfl
  · have htrap : ∀ p, uniCheck s a k kind = some p →
        ∃ t, exec i s = .next t ∧ TakesTrap (wordOf i) none (atAddr p.1 p.2 va 0) 0 s t := fun p hp => by
      obtain ⟨rfl, rfl⟩ | ⟨rfl, rfl⟩ := hword
      · rw [hldk hi, ldkOp_traps hown hp]
        exact ⟨_, rfl, takesTrap _ none _ 0 s⟩
      · rw [hstk hi, stkOp_traps hown hp]
        exact ⟨_, rfl, takesTrap _ none _ 0 s⟩
    obtain ⟨hunaligned, hnone, hsome⟩ := uniCheck_spec (s := s) (a := a) (k := k) (kind := kind)
    refine ⟨fun h => htrap _ (hunaligned h), fun h hrec => htrap _ (hnone h hrec), fun r h hrec => ?_⟩
    obtain ⟨hout, hbar, hmode⟩ := hsome r h hrec
    exact ⟨fun hx => htrap _ (hout hx), fun hx hb => htrap _ (hbar hx hb), fun hx ho hp hm => htrap _ (hmode hx ho hp hm)⟩
  · obtain ⟨dir, hop⟩ := pfOp_eq a b ⟨.pf h a b, none⟩ s
    have hexec : exec (.pf h a b) s = .next { s with cpu := pfOp a b s.mem ⟨.pf h a b, none⟩ s.cpu } := issue_of_issues hi rfl
    rw [hexec, hop]
    exact ⟨_, rfl, did_retire (s := s.withDir dir) (SameGroup.refl _) rfl rfl⟩

end Sys2Proof.Machine

/-! SUPPORT. Partial completion of `ld` and `st` (R88, R89, R128, R295, R305; O31). -/

namespace Sys2Proof.Machine

/-! ### The lanes that fail -/

/-- The lanes of an access that fail one check of R128, where every other lane passes all of them. -/
structure OneFails (s : State) (kind : Access) (size obj : Nat) (lanes : List Nat) (offs : Nat → Int) (bad : Nat → Prop) (p : Nat × Nat) :
    Prop where
  rising : lanes.Pairwise (· < ·)
  object : obj ≠ 1
  fails : ∀ j ∈ lanes, bad j → checkAccess (s.cpu.record s.mem obj) s.cpu.grp.gid obj (offs j) size size kind = some p
  passes : ∀ j ∈ lanes, ¬ bad j → Reach s kind size size obj (offs j)

/-- What the sorting of such lanes comes to: the trap of the lowest that fails, and the lanes that pass. -/
structure SortsTo (s : State) (kind : Access) (size obj : Nat) (lanes : List Nat) (offs : Nat → Int) (bad : Nat → Prop) (e : Trap)
    (good : List Nat) : Prop where
  sorted : sortLanes s.cpu s.mem (s.cpu.record s.mem obj) obj size kind lanes offs = ⟨some e, good, []⟩
  good_iff : ∀ j, j ∈ good ↔ j ∈ lanes ∧ ¬ bad j
  rising : good.Pairwise (· < ·)

section
variable {s : State} {kind : Access} {size obj : Nat} {lanes : List Nat} {offs : Nat → Int} {bad : Nat → Prop} {p : Nat × Nat}

theorem OneFails.check_iff (h : OneFails s kind size obj lanes offs bad p) {j : Nat} (hj : j ∈ lanes) :
    (checkAccess (s.cpu.record s.mem obj) s.cpu.grp.gid obj (offs j) size size kind = some p ↔ bad j) ∧
    (checkAccess (s.cpu.record s.mem obj) s.cpu.grp.gid obj (offs j) size size kind = none ↔ ¬ bad j) := by
  by_cases hb : bad j
  · simp [h.fails j hj hb, hb]
  · simp [(h.passes j hj hb).check, hb]

/-- The fault that the lanes raise. -/
theorem OneFails.firstFailure (h : OneFails s kind size obj lanes offs bad p) {lam : Nat} (hlam : lam ∈ lanes) (hbad : bad lam)
    (hlow : ∀ j ∈ lanes, j < lam → ¬ bad j) (addr : Nat → Nat) :
    ∃ mask : Word, (∀ j < 32, mask.getLsbD j = true ↔ j ∈ lanes ∧ bad j) ∧
      Machine.firstFailure (lanes.map fun j => (j, addr j, checkAccess (s.cpu.record s.mem obj) s.cpu.grp.gid obj (offs j) size size kind)) =
        some (addrTrap p.1 p.2 (addr lam) mask) := by
  have hmem : ∀ j, j ∈ (lanes.filter fun j =>
      decide (checkAccess (s.cpu.record s.mem obj) s.cpu.grp.gid obj (offs j) size size kind = some p)) ↔ j ∈ lanes ∧ bad j := fun j => by
    rw [List.mem_filter, decide_eq_true_eq]
    exact and_congr_right fun hj => (h.check_iff hj).1
  obtain ⟨l, hl⟩ := head_of_least (h.rising.filter _) ((hmem lam).2 ⟨hlam, hbad⟩) fun j hj => by
    obtain ⟨hin, hb⟩ := (hmem j).1 hj
    exact Nat.le_of_not_lt fun hlt => hlow j hin hlt hb
  refine ⟨_, fun j hj => ?_, firstFailure_of_first (fun j hj q hq => .inl ?_) hl⟩
  · rw [maskOf_bit _ hj, decide_eq_true_eq, ← hl, hmem]
  · by_cases hb : bad j
    · exact Option.some.inj (hq.symm.trans (h.fails j hj hb))
    · rw [(h.passes j hj hb).check] at hq
      cases hq

theorem OneFails.sortsTo (h : OneFails s kind size obj lanes offs bad p)
    (hkind : ∀ r, waitsOnZero r kind = (kind == Access.store && storesThrough r)) {lam : Nat} (hlam : lam ∈ lanes) (hbad : bad lam)
    (hlow : ∀ j ∈ lanes, j < lam → ¬ bad j) :
    ∃ mask good, (∀ j < 32, mask.getLsbD j = true ↔ j ∈ lanes ∧ bad j) ∧
      SortsTo s kind size obj lanes offs bad (addrTrap p.1 p.2 (vaOf obj (offs lam)) mask) good := by
  obtain ⟨mask, hmask, htrap⟩ := h.firstFailure hlam hbad hlow fun j => vaOf obj (offs j)
  have hpass : ∀ j, j ∈ (lanes.filter fun j =>
      (checkAccess (s.cpu.record s.mem obj) s.cpu.grp.gid obj (offs j) size size kind).isNone) ↔ j ∈ lanes ∧ ¬ bad j := fun j => by
    rw [List.mem_filter, Option.isNone_iff_eq_none]
    exact and_congr_right fun hj => (h.check_iff hj).2
  have hblock : ∀ j ∈ lanes, ¬ bad j → ∀ r, s.cpu.record s.mem obj = some r →
      accessBlock s.mem r (kind == Access.store && storesThrough r) (offs j).toNat size = none := fun j hj hb r hr => by
    obtain ⟨r', hr', -, -, hfree⟩ := (h.passes j hj hb).record
    cases hr.symm.trans hr'
    rwa [hkind] at hfree
  refine ⟨mask, _, hmask, ?_, hpass, h.rising.filter _⟩
  unfold sortLanes
  simp only [h.object, decide_false, Bool.false_and, Bool.false_eq_true, if_false, htrap]
  cases hr : s.cpu.record s.mem obj with
  | none => simp
  | some r =>
    rw [hr] at hpass
    have hfree : ∀ j ∈ (lanes.filter fun j => (checkAccess (some r) s.cpu.grp.gid obj (offs j) size size kind).isNone),
        accessBlock s.mem r (kind == Access.store && storesThrough r) (offs j).toNat size = none := fun j hj => by
      obtain ⟨hin, hb⟩ := (hpass j).1 hj
      exact hblock j hin hb r hr
    congr 1
    · exact List.filter_eq_self.2 fun j hj => Option.isNone_iff_eq_none.2 (hfree j hj)
    · exact List.filterMap_eq_nil_iff.2 fun j hj => Option.map_eq_none_iff.2 (hfree j hj)

end

/-! ### Lanes that have completed (R305) -/

/-- The group with some lanes recorded as completed. -/
def completed (g : Group) (good : List Nat) : Group := { g with cmask := g.cmask ||| maskOf fun j => decide (j ∈ good) }

theorem completed_cmask (g : Group) (good : List Nat) {j : Nat} (hj : j < 32) :
    (completed g good).cmask.getLsbD j = true ↔ g.cmask.getLsbD j = true ∨ j ∈ good := by
  unfold completed
  rw [BitVec.getLsbD_or, maskOf_bit _ hj, Bool.or_eq_true, decide_eq_true_eq]

/-- The completed lanes and a store in parts belong to the instruction in hand alone (R305). -/
theorem sameGroup_inHand (g : Group) (cmask : Word) (bulk : Bool) : SameGroup [] g { g with cmask := cmask, bulk := bulk } where
  regs := ⟨fun _ _ _ => rfl, fun _ _ _ _ => rfl, fun _ _ => rfl, fun _ _ => rfl, fun _ _ => rfl, fun _ => rfl, fun _ => rfl, fun _ => rfl,
    fun _ => rfl⟩
  hidden := by split <;> rfl
  rest := rfl

/-- After the lanes that may execute, an access that none of its lanes waits on traps. -/
theorem closeAccess_partial (w : Iss) (c : Cpu) (e : Trap) (good : List Nat) (done : Group → Group) :
    closeAccess w c ⟨some e, good, []⟩ done = ({ c with grp := completed c.grp good } : Cpu).trap w e := rfl

/-- The state in which a trap finds an access of which some lanes have executed. -/
structure PartlyDone (dst : List Loc) (good : List Nat) (s u : State) : Prop where
  same : SameButSketch dst s.cpu.grp u.cpu.grp
  pc : u.cpu.grp.pc = s.cpu.grp.pc
  lc : u.cpu.grp.lc = s.cpu.grp.lc
  cmask : ∀ j < 32, u.cpu.grp.cmask.getLsbD j = true ↔ s.cpu.grp.cmask.getLsbD j = true ∨ j ∈ good
  others : OthersSee s u

/-- A byte of an access that passes its checks is one of its object. -/
theorem byte_object {s : State} {kind : Access} {size : Nat} {a : BitVec 8} {good : List Nat} {offs : Nat → Int}
    (hreach : ∀ j ∈ good, Reach s kind size size (loadObj s a) (offs j)) {x : Nat}
    (hx : lanesBytes good (fun j => vaOf (loadObj s a) (offs j)) size x) : vaObj x = loadObj s a := by
  obtain ⟨j, hj, hlo, hhi⟩ := hx
  dsimp only at hlo hhi
  have h := ((hreach j hj).va (baseObj_lt _) (k := x - vaOf (loadObj s a) (offs j)) (by omega)).1
  rwa [Nat.add_sub_cancel' hlo] at h

section
variable {size : Nat} {d a b : BitVec 8} {w : Iss} {s : State} {bad : Nat → Prop} {e : Trap} {good : List Nat}

/-! ### `ld` -/

/-- The bytes that the lanes which pass read. -/
def goodBytes (s : State) (size : Nat) (a b : BitVec 8) (w : Iss) (good : List Nat) : List Nat :=
  good.flatMap fun j => span (loadAddr s a b w j) size

theorem mem_goodBytes (x : Nat) : x ∈ goodBytes s size a b w good ↔ lanesBytes good (loadAddr s a b w) size x := by
  simp only [goodBytes, List.mem_flatMap, mem_span, lanesBytes]

/-- An answer that they need was lost (R347). -/
def goodLost (s : State) (size : Nat) (a b : BitVec 8) (w : Iss) (good : List Nat) : Bool :=
  (goodBytes s size a b w good).any fun x => get? s.cpu.grp.fills (lineOf x) == some none

/-- Without a record no lane passes, and the trap finds the state as it was. -/
theorem ldOp_partly_noRecord (hrec : s.cpu.record s.mem (loadObj s a) = none)
    (hsort : SortsTo s .load size (loadObj s a) (pendingLanes s.cpu.grp) (loadOff s a b w) bad e good) :
    ldOp size d a b s.mem w s.cpu = (s.withGrp (completed s.cpu.grp good)).cpu.trap w e := by
  have hsorted := hsort.sorted
  unfold loadObj at hrec hsorted
  unfold loadOff at hsorted
  simp only [hrec] at hsorted
  simp only [ldOp, hrec, hsorted, malformedWait, List.find?_nil, closeAccess_partial]
  rfl

/-- The lanes that pass read their bytes and tag their lines, and the word traps. -/
theorem ldOp_partly {r : Record} (hobj : loadObj s a ≠ 1) (hrec : s.cpu.record s.mem (loadObj s a) = some r)
    (hsort : SortsTo s .load size (loadObj s a) (pendingLanes s.cpu.grp) (loadOff s a b w) bad e good)
    (hhere : missingLines s.cpu r (goodBytes s size a b w good) = []) :
    ∃ dir, ldOp size d a b s.mem w s.cpu =
      ((s.afterRead dir r (goodBytes s size a b w good)).withGrp (completed (placeLoaded s.cpu.grp d size good
        (loadVal (loadByte s.cpu s.mem r) size (goodLost s size a b w good) (loadAddr s a b w))) good)).cpu.trap w e := by
  refine ⟨(touchLines s.mem { s.cpu with ctx := readTags s r (goodBytes s size a b w good) } r
    (Sorted.offs ⟨some e, good, []⟩ (loadOff s a b w))).hw.dir, ?_⟩
  have hsorted := hsort.sorted
  unfold loadObj at hrec hsorted hobj
  unfold loadOff at hsorted
  simp only [hrec] at hsorted
  unfold goodBytes loadAddr loadObj loadOff at hhere
  simp only [ldOp, hrec, hsorted, malformedWait, List.find?_nil, closeAccess_partial, if_neg hobj, hhere]
  rfl

theorem partlyDone_load (hrun : RunOk s.cpu.grp d (regsOf size)) (u : State) (val : Nat → Nat) (hothers : OthersSee s u) :
    let v := u.withGrp (completed (placeLoaded s.cpu.grp d size good val) good)
    PartlyDone (loadRegs size d) good s v ∧ v.cpu.grp.sketch = s.cpu.grp.sketch ∧ LanesLoaded size d good val s.cpu.grp v.cpu.grp := by
  obtain ⟨hsame, hpc, hlc, hcmask, -, -, hplaced, -⟩ := placeLoaded_spec s.cpu.grp d size good val hrun
  have hmark : SameGroup [] (placeLoaded s.cpu.grp d size good val) (completed (placeLoaded s.cpu.grp d size good val) good) :=
    sameGroup_inHand _ _ _
  have hall : SameGroup (loadRegs size d) s.cpu.grp (completed (placeLoaded s.cpu.grp d size good val) good) :=
    (hsame.trans hmark).mono (by simp [loadRegs])
  have hsketch : (placeLoaded s.cpu.grp d size good val).sketch = s.cpu.grp.sketch := by rw [hsame.rest]
  refine ⟨⟨?_, hpc, hlc, fun j hj => ?_, hothers.withGrp _⟩, hsketch, fun i hi j => ?_⟩
  · change SameGroup (loadRegs size d) { s.cpu.grp with sketch := (placeLoaded s.cpu.grp d size good val).sketch } _
    rw [hsketch]
    exact hall
  · rw [← hcmask]
    exact completed_cmask _ good hj
  · exact (congrArg (laneAt · j) (hplaced i hi)).trans (laneAt_loadLine good val i _ j)

/-- A load of memory of which some lanes fail a check and the others are homed here. -/
theorem ldOp_fails (hrun : RunOk s.cpu.grp d (regsOf size)) (hobj : loadObj s a ≠ 1)
    (hreach : ∀ j ∈ good, Reach s .load size size (loadObj s a) (loadOff s a b w j))
    (hlocal : ∀ x, lanesBytes good (loadAddr s a b w) size x → LocalByte s x)
    (hsort : SortsTo s .load size (loadObj s a) (pendingLanes s.cpu.grp) (loadOff s a b w) bad e good) :
    let Q := lanesBytes good (loadAddr s a b w) size
    ∃ c, ldOp size d a b s.mem w s.cpu = c.trap w e ∧ PartlyDone (loadRegs size d) good s { s with cpu := c } ∧
      c.grp.sketch = s.cpu.grp.sketch ∧ MemoryOnly (fun _ => False) (tagsOf s (loadObj s a) false Q) s { s with cpu := c } ∧
      ((∀ x, Q x → get? s.cpu.grp.fills (lineOf x) ≠ some none) →
        LanesLoaded size d good (fun j => leNat (seenByte s) (loadAddr s a b w j) size) s.cpu.grp c.grp) := by
  cases hrec : s.cpu.record s.mem (loadObj s a) with
  | none =>
    have hnil : good = [] := List.eq_nil_iff_forall_not_mem.2 fun j hj => by
      obtain ⟨r, hr, -⟩ := (hreach j hj).record
      cases hrec.symm.trans hr
    have hop := ldOp_partly_noRecord (d := d) hrec hsort
    subst hnil
    rw [← placeLoaded_nil s.cpu.grp d size (fun j => leNat (seenByte s) (loadAddr s a b w j) size) hrun] at hop
    obtain ⟨hdone, hsketch, hloaded⟩ := partlyDone_load (good := []) hrun s _ (fun _ _ _ _ _ => rfl)
    refine ⟨_, hop, hdone, hsketch, ⟨rfl, rfl, fun k => ?_, fun k => ?_, rfl, rfl, fun _ => rfl⟩, fun _ => hloaded⟩
    · simp [State.withGrp]
    · simp [State.withGrp, tagsOf, lanesBytes]
  | some r =>
    have hrecOf : ∀ x, lanesBytes good (loadAddr s a b w) size x → s.cpu.record s.mem (vaObj x) = some r := fun x hx =>
      (byte_object hreach hx).symm ▸ hrec
    have hhere : missingLines s.cpu r (goodBytes s size a b w good) = [] := missingLines_nil fun x hx =>
      .inl (hlocal x ((mem_goodBytes x).1 hx) r (hrecOf x ((mem_goodBytes x).1 hx)))
    obtain ⟨dir, hop⟩ := ldOp_partly (d := d) hobj hrec hsort hhere
    obtain ⟨hdone, hsketch, hloaded⟩ := partlyDone_load (good := good) hrun (s.afterRead dir r (goodBytes s size a b w good))
      (loadVal (loadByte s.cpu s.mem r) size (goodLost s size a b w good) (loadAddr s a b w)) (othersSee_afterRead dir)
    refine ⟨_, hop, hdone, hsketch, (memoryOnly_afterRead dir hrec mem_goodBytes).withGrp _, fun hkept => ?_⟩
    have hlost : goodLost s size a b w good = false :=
      List.any_eq_false.2 fun x hx => by simpa using hkept x ((mem_goodBytes x).1 hx)
    intro i hi j
    rw [hloaded i hi j]
    by_cases hj : j.val ∈ good
    · have hseen : ∀ k < size, loadByte s.cpu s.mem r (loadAddr s a b w j + k) = seenByte s (loadAddr s a b w j + k) := fun k hk =>
        (seenByte_eq (hrecOf _ ⟨j, hj, by omega, by omega⟩)).symm
      rw [if_pos hj, if_pos hj, hlost]
      simp only [loadVal, Bool.false_eq_true, if_false, leNat_congr hseen]
    · rw [if_neg hj, if_neg hj]

end

/-! ### What a store leaves to the other groups (R89, R100, R103) -/

/-- Two processors in which every group but one reads the same at a home. -/
structure SeenAlike (own : Nat) (c k : Cpu) : Prop where
  parcel : ∀ gid, gid ≠ own → get? k.ctx.parcel gid = get? c.ctx.parcel gid
  versions : k.ctx.versions = c.ctx.versions
  flight : ∀ gid, gid ≠ own → ownFlight gid k.ctx.flight = ownFlight gid c.ctx.flight
  number : k.hw.number = c.hw.number

theorem SeenAlike.trans {own : Nat} {c k l : Cpu} (h : SeenAlike own c k) (h' : SeenAlike own k l) : SeenAlike own c l where
  parcel gid hne := (h'.parcel gid hne).trans (h.parcel gid hne)
  versions := h'.versions.trans h.versions
  flight gid hne := (h'.flight gid hne).trans (h.flight gid hne)
  number := h'.number.trans h.number

theorem SeenAlike.othersSee {s u : State} (h : SeenAlike s.cpu.grp.gid s.cpu u.cpu) (hmem : u.mem = s.mem) : OthersSee s u := by
  intro r gid view a hne
  rw [hmem]
  exact homeByte_congr (h.parcel gid hne) h.versions (h.flight gid hne) h.number

theorem ownFlight_publication {gid : Nat} {st : Stamp} (hne : gid ≠ st.gid) (l : List Flying) (cs : Cells) :
    ownFlight gid (l ++ [.publication st cs]) = ownFlight gid l := by
  induction l with
  | nil => simp [ownFlight, Ne.symm hne]
  | cons f l ih => cases f <;> simp [ownFlight, ih]

theorem publishLine_frame (m : Cells) (st : Stamp) (c : Cpu) (l : Nat × Cells) :
    (publishLine m st c l).grp = c.grp ∧ SeenAlike st.gid c (publishLine m st c l) := by
  unfold publishLine
  split
  · exact ⟨rfl, fun _ _ => rfl, rfl, fun _ _ => rfl, rfl⟩
  · exact ⟨rfl, fun _ _ => rfl, rfl, fun gid hne => ownFlight_publication hne _ _, rfl⟩

theorem publishAll_frame (m : Cells) (st : Stamp) (sk : List (Nat × Cells)) (c : Cpu) :
    (publishAll m st sk c).grp = c.grp ∧ SeenAlike st.gid c (publishAll m st sk c) := by
  induction sk generalizing c with
  | nil => exact ⟨rfl, fun _ _ => rfl, rfl, fun _ _ => rfl, rfl⟩
  | cons l sk ih =>
    obtain ⟨hgrp, hseen⟩ := publishLine_frame m st c l
    obtain ⟨hgrp', hseen'⟩ := ih (publishLine m st c l)
    exact ⟨hgrp'.trans hgrp, hseen.trans hseen'⟩

/-- A change of the group in hand alone is not seen by others. -/
theorem SeenAlike.withGrp {own : Nat} {c k : Cpu} (h : SeenAlike own c k) (g : Group) : SeenAlike own c { k with grp := g } :=
  ⟨h.parcel, h.versions, h.flight, h.number⟩

theorem sketchStore_frame (m : Cells) (c : Cpu) (cs : Cells) (more : List Nat) :
    let k := sketchStore m c cs more
    k.grp = { c.grp with sketch := k.grp.sketch, bulk := k.grp.bulk } ∧ SeenAlike c.grp.gid c k := by
  unfold sketchStore
  dsimp only
  split
  · exact ⟨rfl, (publishAll_frame m c.grp.stamp _ c).2.withGrp _⟩
  · split
    · exact ⟨rfl, (publishAll_frame m c.grp.stamp c.grp.sketch c).2.withGrp _⟩
    · exact ⟨rfl, fun _ _ => rfl, rfl, fun _ _ => rfl, rfl⟩

/-- A plain store at this module, whether or not it fits into the sketch: the group keeps all but its sketch, and other groups see nothing
change. -/
theorem plainStore_frame {m : Cells} {r : Record} {c : Cpu} {cs : Cells} {obj : Nat} (hrec : c.record m obj = some r)
    (hhome : ∀ e ∈ cs, homedAway c.hw r (vaOff e.1) = none) :
    let k := plainStore m r c cs []
    k.grp = { c.grp with sketch := k.grp.sketch, bulk := k.grp.bulk } ∧ SeenAlike c.grp.gid c k := by
  obtain ⟨hmark, -⟩ := markPlain_spec c.grp.gid c.hw.number cs c.ctx
  cases hthrough : storesThrough r with
  | false =>
    rw [plainStore_sketch hhome hthrough]
    obtain ⟨hgrp, hseen⟩ := sketchStore_frame m { c with ctx := markPlain c.ctx c.grp.gid c.hw.number cs } cs []
    have hmarked : SeenAlike c.grp.gid c { c with ctx := markPlain c.ctx c.grp.gid c.hw.number cs } := by
      rw [hmark]
      exact ⟨fun _ _ => rfl, rfl, fun _ _ => rfl, rfl⟩
    exact ⟨hgrp, hmarked.trans hseen⟩
  | true =>
    rw [plainStore_through hrec hhome hthrough, tagCells_foldl]
    obtain ⟨htag, -⟩ := tagLine_foldl r c.grp.gid true (cs.map Prod.fst) (markPlain c.ctx c.grp.gid c.hw.number cs)
    generalize markPlain c.ctx c.grp.gid c.hw.number cs = x at hmark htag ⊢
    generalize (cs.map Prod.fst).foldl (fun x a => tagLine x r c.grp.gid true a) x = y at htag ⊢
    rw [htag, hmark]
    exact ⟨rfl, fun gid hne => get?_put_ne _ hne, rfl, fun _ _ => rfl, rfl⟩

/-! ### `st` -/

section
variable {size : Nat} {d a b : BitVec 8} {w : Iss} {s : State} {bad : Nat → Prop} {e : Trap} {good : List Nat}

/-- No lane passes, and the trap finds nothing stored. -/
theorem stOp_partly_none (hobj : loadObj s a ≠ 1)
    (hsort : SortsTo s .store size (loadObj s a) (pendingLanes s.cpu.grp) (loadOff s a b w) bad e []) :
    ∃ dir, stOp size d a b s.mem w s.cpu = ((s.withDir dir).withGrp (completed s.cpu.grp [])).cpu.trap w e := by
  have hsorted := hsort.sorted
  unfold loadObj at hsorted hobj
  unfold loadOff at hsorted
  cases hrec : s.cpu.record s.mem (baseObj (s.cpu.grp.readKK a)) with
  | none =>
    refine ⟨s.cpu.hw.dir, ?_⟩
    simp only [hrec] at hsorted
    simp only [stOp, hrec, hsorted, malformedWait, List.find?_nil, closeAccess_partial]
    rfl
  | some r =>
    refine ⟨(touchLines s.mem s.cpu r []).hw.dir, ?_⟩
    simp only [hrec] at hsorted
    simp only [stOp, hrec, hsorted, malformedWait, List.find?_nil, closeAccess_partial, if_neg hobj, if_true]
    rfl

/-- The lanes that pass store their bytes, and the word traps. -/
theorem stOp_partly {r : Record} (hobj : loadObj s a ≠ 1) (hrec : s.cpu.record s.mem (loadObj s a) = some r) (hsome : good ≠ [])
    (hsort : SortsTo s .store size (loadObj s a) (pendingLanes s.cpu.grp) (loadOff s a b w) bad e good) :
    ∃ dir, stOp size d a b s.mem w s.cpu =
      let u := s.afterStore dir r good (loadAddr s a b w) (srcData s.cpu.grp d size) size
      (u.withGrp (completed u.cpu.grp good)).cpu.trap w e := by
  refine ⟨(touchLines s.mem s.cpu r (Sorted.offs ⟨some e, good, []⟩ (loadOff s a b w))).hw.dir, ?_⟩
  have hsorted := hsort.sorted
  unfold loadObj at hrec hsorted hobj
  unfold loadOff at hsorted
  simp only [hrec] at hsorted
  simp only [stOp, hrec, hsorted, malformedWait, List.find?_nil, closeAccess_partial, if_neg hobj, if_neg hsome]
  rfl

/-- The lines that a store reaches. -/
theorem linesOf_storeCells (lanes : List Nat) (addr val : Nat → Nat) (size : Nat) :
    LinesOf (lanesBytes lanes addr size) ((byLine (storeCells lanes addr val size)).map Prod.fst) := by
  refine ⟨rising_nodup (rising_byLine _), fun l => (byLine_mem_iff _ _).trans ⟨?_, ?_⟩⟩
  · rintro ⟨e, he, rfl⟩
    exact ⟨e.1, (mem_storeCells addr val size e.1).1 ⟨e, he, rfl⟩, rfl⟩
  · rintro ⟨x, hx, rfl⟩
    obtain ⟨e, he, rfl⟩ := (mem_storeCells addr val size x).2 hx
    exact ⟨e, he, rfl⟩

theorem partlyDone_store {u : State} (hgrp : u.cpu.grp = { s.cpu.grp with sketch := u.cpu.grp.sketch, bulk := u.cpu.grp.bulk })
    (hothers : OthersSee s u) : PartlyDone [] good s (u.withGrp (completed u.cpu.grp good)) := by
  refine ⟨?_, (congrArg Group.pc hgrp :), (congrArg Group.lc hgrp :), fun j hj => ?_, hothers.withGrp _⟩
  · change SameGroup [] { s.cpu.grp with sketch := u.cpu.grp.sketch } (completed u.cpu.grp good)
    rw [hgrp]
    exact sameGroup_inHand { s.cpu.grp with sketch := u.cpu.grp.sketch } _ _
  · refine (completed_cmask _ good hj).trans ?_
    rw [hgrp]

/-- A store of which some lanes fail a check and the others are homed here. -/
theorem stOp_fails (hobj : loadObj s a ≠ 1)
    (hreach : ∀ j ∈ good, Reach s .store size size (loadObj s a) (loadOff s a b w j))
    (hlocal : ∀ x, lanesBytes good (loadAddr s a b w) size x → LocalByte s x)
    (hsort : SortsTo s .store size (loadObj s a) (pendingLanes s.cpu.grp) (loadOff s a b w) bad e good) :
    let Q := lanesBytes good (loadAddr s a b w) size
    ∃ c, stOp size d a b s.mem w s.cpu = c.trap w e ∧ PartlyDone [] good s { s with cpu := c } ∧
      ((∀ r, s.cpu.record s.mem (loadObj s a) = some r →
          PlainTarget s r Q ∧ (storesThrough r = false → ∀ ls, LinesOf Q ls → sketchWith s.cpu.grp ls ≤ Config.sketchLines)) →
        MemoryOnly (plainMarks s Q) (tagsOf s (loadObj s a) true Q) s { s with cpu := c } ∧
          StoredBytes id good (loadAddr s a b w) (srcData s.cpu.grp d size) size (seenByte s.forget)
            (seenByte (State.forget { s with cpu := c }))) := by
  by_cases hnil : good = []
  · subst hnil
    obtain ⟨dir, hop⟩ := stOp_partly_none (d := d) hobj hsort
    refine ⟨_, hop, partlyDone_store (u := s.withDir dir) rfl fun _ _ _ _ _ => rfl, fun _ =>
      ⟨⟨rfl, rfl, fun k => ?_, fun k => ?_, rfl, rfl, fun _ => rfl⟩, by simp, fun _ _ => rfl⟩⟩
    · simp [State.withGrp, State.withDir, plainMarks, lanesBytes]
    · simp [State.withGrp, State.withDir, tagsOf, lanesBytes]
  · obtain ⟨j, hj⟩ := List.exists_mem_of_ne_nil _ hnil
    obtain ⟨r, hrec, -⟩ := (hreach j hj).record
    obtain ⟨dir, hop⟩ := stOp_partly (d := d) hobj hrec hnil hsort
    have hobjOf : ∀ x, lanesBytes good (loadAddr s a b w) size x → vaObj x = loadObj s a := fun x hx => byte_object hreach hx
    obtain ⟨hgrp, hseen⟩ := plainStore_frame (c := (s.withDir dir).cpu) (m := s.mem)
      (cs := storeCells good (loadAddr s a b w) (srcData s.cpu.grp d size) size) (r := r) (obj := loadObj s a)
      ((record_congr (c := s.cpu) rfl rfl rfl).trans hrec) fun x hx => by
        have hQ := (mem_storeCells _ _ size x.1).1 ⟨x, hx, rfl⟩
        exact hlocal x.1 hQ r ((hobjOf x.1 hQ).symm ▸ hrec)
    have hdir : SeenAlike s.cpu.grp.gid s.cpu (s.withDir dir).cpu := ⟨fun _ _ => rfl, rfl, fun _ _ => rfl, rfl⟩
    have hothers : OthersSee s (s.afterStore dir r good (loadAddr s a b w) (srcData s.cpu.grp d size) size) :=
      (hdir.trans hseen).othersSee rfl
    refine ⟨_, hop, partlyDone_store hgrp hothers, fun hfit => ?_⟩
    obtain ⟨hplain, hsketch⟩ := hfit r hrec
    have hlines := linesOf_storeCells good (loadAddr s a b w) (srcData s.cpu.grp d size) size
    obtain ⟨-, hmem, -, hbytes⟩ := afterStore_fits (srcData s.cpu.grp d size) dir hrec hsort.rising hobjOf hplain hlines
      fun h => hsketch h _ hlines
    exact ⟨hmem.withGrp _, hbytes⟩

end

/-! ### The statement -/

/-- An aligned access of no object, or past the end of its object, is outside (R128). -/
theorem checkAccess_outside {rcd : Option Record} {gid obj size : Nat} {off : Int} {kind : Access} (haligned : off % (size : Int) = 0)
    (hout : ∀ r, rcd = some r → off < 0 ∨ r.ext < off + size) :
    checkAccess rcd gid obj off size size kind = some (3, if rcd.isSome then 1 else 2) := by
  unfold checkAccess
  rw [if_neg (not_not.2 haligned)]
  cases rcd with
  | none => rfl
  | some r => exact if_pos (by simpa using hout r rfl)

/-- Settles O31: the lanes that fail fail the same check, the others pass them all, execute, and are recorded before the trap. -/
theorem laneFaults : Obligations.LaneFaults := by
  unfold Obligations.LaneFaults
  intro store size d a b s lam hsize i g obj off addr lanes unaligned outside kind code cls bad hclass hissues hobj hlocal hpass hlam hbad hlow
  have hone : OneFails s kind size obj lanes off bad (cls, if cls = 2 then 1 else code) := by
    refine ⟨lanesOf_rising _, hobj, fun j hj hb => ?_, hpass⟩
    obtain ⟨rfl, rfl⟩ | ⟨rfl, rfl, haligned⟩ := hclass
    · exact checkAccess_misaligned hb
    · exact checkAccess_outside (not_not.1 (haligned j hj)) hb
  have hkind : ∀ r, waitsOnZero r kind = (kind == Access.store && storesThrough r) := by
    cases store
    · exact fun _ => rfl
    · exact fun _ => rfl
  obtain ⟨mask, good, hmask, hsort⟩ := hone.sortsTo hkind hlam hbad hlow
  have hreach : ∀ j ∈ good, Reach s kind size size obj (off j) := fun j hj => by
    obtain ⟨hin, hb⟩ := (hsort.good_iff j).1 hj
    exact hpass j hin hb
  have hlocalGood : ∀ x, lanesBytes good addr size x → LocalByte s x := fun x ⟨j, hj, hbyte⟩ =>
    hlocal x ⟨j, ((hsort.good_iff j).1 hj).1, hbyte⟩
  cases store with
  | false =>
    obtain ⟨c, hop, hdone, hsketch, hmem, hload⟩ := ldOp_fails (d := d) (w := ⟨loadWord size d a b, none⟩)
      (runOk_of_issues hsize hissues) hobj hreach hlocalGood hsort
    have hexec : exec i s = .next { s with cpu := ldOp size d a b s.mem ⟨loadWord size d a b, none⟩ s.cpu } :=
      (exec_loadWord hsize d a b s).trans (issue_of_issues hissues rfl)
    rw [hop] at hexec
    exact ⟨{ s with cpu := c }, _, mask, good, hexec, hsort.good_iff, takesTrap (wordOf (loadWord size d a b)) none _ 0 { s with cpu := c },
      hmask, hdone.same, hdone.pc, hdone.lc, hdone.cmask, hdone.others, fun _ => ⟨hsketch, hmem, hload⟩, nofun⟩
  | true =>
    obtain ⟨c, hop, hdone, hstored⟩ := stOp_fails (d := d) (w := ⟨storeWord size d a b, none⟩) hobj hreach hlocalGood hsort
    have hexec : exec i s = .next { s with cpu := stOp size d a b s.mem ⟨storeWord size d a b, none⟩ s.cpu } :=
      (exec_storeWord hsize d a b s).trans (issue_of_issues hissues rfl)
    rw [hop] at hexec
    exact ⟨{ s with cpu := c }, _, mask, good, hexec, hsort.good_iff, takesTrap (wordOf (storeWord size d a b)) none _ 0 { s with cpu := c },
      hmask, hdone.same, hdone.pc, hdone.lc, hdone.cmask, hdone.others, nofun, fun _ => hstored⟩

end Sys2Proof.Machine

/-! SUPPORT. The checks of `xfr` in their order (R122, R223 to R227, R238, R249, R288, R295; O38). -/

namespace Sys2Proof.Machine

/-! ### The state in which a copy is checked (R210) -/

/-- The group is the same but for what the end of a stall on pending members changes. -/
def SameButMembers (g h : Group) : Prop := h = { g with bypass := h.bypass, batches := h.batches, status := h.status }

theorem SameButMembers.trans {g h k : Group} (hg : SameButMembers g h) (hk : SameButMembers h k) : SameButMembers g k := by
  unfold SameButMembers at *
  refine hk.trans ?_
  rw [hg]

theorem SameButMembers.readK {g h : Group} (hg : SameButMembers g h) (n : BitVec 8) : h.readK n = g.readK n := by
  unfold SameButMembers at hg
  rw [hg]
  rfl

theorem SameButMembers.sys {g h : Group} (hg : SameButMembers g h) : h.sys = g.sys := (congrArg Group.sys hg :)

theorem completeMember_same (b : Block) (g : Group) (mb : Member) : SameButMembers g (completeMember b g mb).2 := by
  cases mb with
  | product clear tile desc slot => rfl
  | drain tile ctl z way =>
    unfold completeMember
    dsimp only
    split <;> rfl

theorem completeOldest_same (b : Block) (g : Group) : SameButMembers g (completeOldest b g).2 := by
  unfold completeOldest
  dsimp only
  split
  · next num mb rest l _ =>
    refine (completeMember_same b g mb).trans ?_
    dsimp only
    split
    · split <;> rfl
    · rfl
  · rfl

theorem completeMany_same (n : Nat) (b : Block) (g : Group) : SameButMembers g (completeMany b g n).2 := by
  induction n generalizing b g with
  | zero => rfl
  | succ n ih => exact (completeOldest_same b g).trans (ih _ _)

theorem settle_same (c : Cpu) : SameButMembers c.grp c.settle.grp ∧ c.settle.ctx.tmplb = c.ctx.tmplb := by
  unfold Cpu.settle
  split
  · exact ⟨rfl, rfl⟩
  · split
    · exact ⟨rfl, rfl⟩
    · exact ⟨completeMany_same _ _ c.grp, rfl⟩

theorem xferState_same (s : State) :
    SameButMembers s.cpu.grp (xferState s).cpu.grp ∧ (xferState s).cpu.ctx.tmplb = s.cpu.ctx.tmplb := by
  unfold xferState
  dsimp only
  split
  · exact settle_same s.cpu
  · exact ⟨rfl, rfl⟩

/-! ### The level that a DIR 2 template requires (R249) -/

section
variable {ch : BitVec 2} {a kp : BitVec 8} {s : State}

/-- The template that `xfr` names, and that its index is within the table (R223, R238). -/
def xferTemplate (s : State) (a : BitVec 8) : Template :=
  templateAt s.mem (xferState s).cpu.ctx.tmplb ((xferState s).cpu.grp.readK a).toNat
def XferListed (s : State) (a : BitVec 8) : Prop := ((xferState s).cpu.grp.readK a).toNat < (xferState s).cpu.ctx.tmplb.toNat % 4096

/-- The check before the others, in terms of the state in which those are made. -/
theorem xfrPre_eq (hi : Issues (.xfr ch a kp) s.cpu.grp) :
    (¬ XferListed s a → xfrPre a s.mem s.cpu.ctx s.cpu.grp = none) ∧
    (XferListed s a → xfrPre a s.mem s.cpu.ctx s.cpu.grp =
      if (xferTemplate s a).dir = 2 ∧ (xferState s).cpu.grp.sys = false then some (atPc s.cpu.grp 7 1) else none) := by
  obtain ⟨hsame, htmplb⟩ := xferState_same s
  have hreached : (s.cpu.grp.inWin && decide (31 < a.toNat) && decide (a.toNat < 160)) = false := by
    cases hw : s.cpu.grp.inWin with
    | false => rfl
    | true =>
      have hwin := hi.2 hw
      simp only [windowOk, kIn, Bool.and_eq_true, Bool.or_eq_true, decide_eq_true_eq] at hwin
      simp only [Bool.true_and, Bool.and_eq_false_iff, decide_eq_false_iff_not]
      omega
  unfold XferListed xferTemplate xfrPre sysPre
  rw [hsame.readK, htmplb, hsame.sys, hreached]
  refine ⟨fun h => ?_, fun h => ?_⟩
  · rw [if_neg Bool.false_ne_true, if_pos (Nat.le_of_not_lt h)]
  · rw [if_neg Bool.false_ne_true, if_neg (Nat.not_le_of_lt h)]
    by_cases hdir : (templateAt s.mem s.cpu.ctx.tmplb (s.cpu.grp.readK a).toNat).dir = 2
    · cases hsys : s.cpu.grp.sys with
      | false => simp only [hdir, if_true, Bool.false_eq_true, if_false, and_self]; rfl
      | true => simp only [hdir, if_true, Bool.true_eq_false, and_false, if_false]
    · simp [hdir]

/-- Once the level is no obstacle, the word does what `xfrOp` says. -/
theorem exec_xfr (hi : Issues (.xfr ch a kp) s.cpu.grp)
    (hsys : XferListed s a → (xferTemplate s a).dir = 2 → (xferState s).cpu.grp.sys = true) :
    exec (.xfr ch a kp) s = .next { s with cpu := xfrOp ch a kp s.mem ⟨.xfr ch a kp, none⟩ s.cpu } := by
  have hpre : xfrPre a s.mem s.cpu.ctx s.cpu.grp = none := by
    by_cases hl : XferListed s a
    · rw [(xfrPre_eq hi).2 hl]
      exact if_neg fun h => by simp [hsys hl h.1] at h
    · exact (xfrPre_eq hi).1 hl
  exact issue_of_issues hi hpre

/-- A DIR 2 template at user level (R249, R288). -/
theorem exec_xfr_user (hi : Issues (.xfr ch a kp) s.cpu.grp) (hl : XferListed s a) (hdir : (xferTemplate s a).dir = 2)
    (hsys : (xferState s).cpu.grp.sys = false) :
    exec (.xfr ch a kp) s = .next { s with cpu := s.cpu.trap ⟨.xfr ch a kp, none⟩ (atPc s.cpu.grp 7 1) } := by
  have hpre : xfrPre a s.mem s.cpu.ctx s.cpu.grp = some (atPc s.cpu.grp 7 1) := by
    rw [(xfrPre_eq hi).2 hl, if_pos ⟨hdir, hsys⟩]
  change issue (xfrPre a s.mem s.cpu.ctx) (xfrOp ch a kp) (.xfr ch a kp) s = _
  unfold issue
  rw [issueCpu_pre (illegalCode_eq_none.2 hi.1) hpre]

end

/-! ### The template and the parameters (R223 to R225) -/

/-- What `xfr` reads before its checks: the processor once pending drains have completed, the template, and the parameter words. -/
structure XferReads (s : State) (a kp : BitVec 8) (c : Cpu) (t : Template) (ws : List Word) : Prop where
  state : (if drainPending s.cpu.grp = true then s.cpu.settle else s.cpu) = c
  template : templateAt s.mem c.ctx.tmplb (c.grp.readK a).toNat = t
  words : paramWords c.grp kp (2 * t.rank + if t.stm = 2 then 2 else 1) = ws

/-- The checks of the template and of the parameters pass (R223 to R225). -/
structure XferFormed (s : State) (a kp : BitVec 8) (c : Cpu) (t : Template) (ws : List Word) : Prop extends XferReads s a kp c t ws where
  listed : ¬ c.ctx.tmplb.toNat % 4096 ≤ (c.grp.readK a).toNat
  formed : (templateRaw s.mem c.ctx.tmplb (c.grp.readK a).toNat && templateOk t) = true
  allowed : (decide (160 < kp.toNat + (2 * t.rank + if t.stm = 2 then 2 else 1)) || !paramsOk t ws) = false

/-- The frame coordinate of a copy's origin, and its counts (R225). -/
def xferOrigin (t : Template) (ws : List Word) : List Int := (ws.take t.rank).map BitVec.toInt
def xferCounts (t : Template) (ws : List Word) : List Nat := ((ws.drop t.rank).take t.rank).map BitVec.toNat

section
variable {ch : BitVec 2} {a kp : BitVec 8} {s : State} {w : Iss} {c : Cpu} {t : Template} {ws : List Word}

theorem xfrOp_unlisted (h : XferReads s a kp c t ws) (hlisted : c.ctx.tmplb.toNat % 4096 ≤ (c.grp.readK a).toNat) :
    xfrOp ch a kp s.mem w s.cpu = c.trap w (atPc c.grp 6 8) := by
  simp only [xfrOp, h.state, hlisted, if_true]
  rfl

theorem xfrOp_unformed (h : XferReads s a kp c t ws) (hlisted : ¬ c.ctx.tmplb.toNat % 4096 ≤ (c.grp.readK a).toNat)
    (hformed : (templateRaw s.mem c.ctx.tmplb (c.grp.readK a).toNat && templateOk t) = false) :
    xfrOp ch a kp s.mem w s.cpu = c.trap w (atPc c.grp 6 8) := by
  simp only [xfrOp, h.state, h.template, hlisted, hformed, Bool.not_false, if_true, if_false]
  rfl

theorem xfrOp_unallowed (h : XferReads s a kp c t ws) (hlisted : ¬ c.ctx.tmplb.toNat % 4096 ≤ (c.grp.readK a).toNat)
    (hformed : (templateRaw s.mem c.ctx.tmplb (c.grp.readK a).toNat && templateOk t) = true)
    (hallowed : (decide (160 < kp.toNat + (2 * t.rank + if t.stm = 2 then 2 else 1)) || !paramsOk t ws) = true) :
    xfrOp ch a kp s.mem w s.cpu = c.trap w (atPc c.grp 6 9) := by
  simp only [xfrOp, h.state, h.template, h.words, hlisted, hformed, hallowed, Bool.not_true, Bool.false_eq_true, if_true, if_false]
  rfl

/-! ### System copies (R288) -/

theorem XferFormed.xfrOp_partRange (h : XferFormed s a kp c t ws) (hdir : t.dir = 2)
    (hrange : xferOrigin t ws ≠ [0] ∨ xferCounts t ws ≠ t.shape.take 1) :
    xfrOp ch a kp s.mem w s.cpu = c.trap w (atAddr 5 5 t.src 0) := by
  rw [← decide_eq_true_iff (p := xferOrigin t ws ≠ [0]), ← decide_eq_true_iff (p := xferCounts t ws ≠ t.shape.take 1),
    ← Bool.or_eq_true] at hrange
  unfold xferOrigin xferCounts at hrange
  simp only [xfrOp, h.state, h.template, h.words, h.listed, h.formed, h.allowed, hdir, hrange, Bool.not_true, Bool.false_eq_true, if_true,
    if_false]
  rfl

section
variable (h : XferFormed s a kp c t ws) (hdir : t.dir = 2) (horigin : xferOrigin t ws = [0]) (hcounts : xferCounts t ws = t.shape.take 1)
include h hdir horigin hcounts

theorem XferFormed.xfrOp_rangeTrap {e : Trap} (he : sysCopyTrap t ((xferCounts t ws).headD 0) = some e) :
    xfrOp ch a kp s.mem w s.cpu = c.trap w e := by
  unfold xferOrigin at horigin
  unfold xferCounts at hcounts he
  simp only [xfrOp, h.state, h.template, h.words, h.listed, h.formed, h.allowed, hdir, horigin, hcounts, hcounts ▸ he, ne_eq, not_true,
    decide_false, Bool.or_self, Bool.not_true, Bool.false_eq_true, if_true, if_false]

theorem XferFormed.xfrOp_startsSystem (hnone : sysCopyTrap t ((xferCounts t ws).headD 0) = none) :
    xfrOp ch a kp s.mem w s.cpu = ({ c with ctx := { c.ctx with
        sysCopies := c.ctx.sysCopies ++ [⟨c.ctx.nextCopy, c.grp.gid, t.src, t.dst, (xferCounts t ws).headD 0, false⟩]
        nextCopy := c.ctx.nextCopy + 1 } } : Cpu).retire w { c.grp with sysCopies := c.grp.sysCopies ++ [c.ctx.nextCopy] } := by
  unfold xferOrigin at horigin
  unfold xferCounts at hcounts hnone ⊢
  simp only [xfrOp, h.state, h.template, h.words, h.listed, h.formed, h.allowed, hdir, horigin, hcounts, hcounts ▸ hnone, ne_eq, not_true,
    decide_false, Bool.or_self, Bool.not_true, Bool.false_eq_true, if_true, if_false]

end

/-! ### Copies of DIR 0 and 1 (R225 to R227) -/

theorem XferFormed.xfrOp_noRecord (h : XferFormed s a kp c t ws) (hdir : t.dir ≠ 2)
    (hrec : c.record s.mem (vaObj (if t.dir = 1 then t.dst else t.src)) = none) :
    xfrOp ch a kp s.mem w s.cpu = c.trap w (atAddr 3 2 (if t.dir = 1 then t.dst else t.src) 0) := by
  simp only [xfrOp, h.state, h.template, h.words, h.listed, h.formed, h.allowed, hdir, hrec, Bool.not_true, Bool.false_eq_true, if_false]
  rfl

theorem XferFormed.xfrOp_unfit {r : Record} (h : XferFormed s a kp c t ws) (hdir : t.dir ≠ 2)
    (hrec : c.record s.mem (vaObj (if t.dir = 1 then t.dst else t.src)) = some r) (hfits : recordFits t r = false) :
    xfrOp ch a kp s.mem w s.cpu = c.trap w (atPc c.grp 6 8) := by
  simp only [xfrOp, h.state, h.template, h.words, h.listed, h.formed, h.allowed, hdir, hrec, hfits, Bool.not_true, Bool.not_false,
    Bool.false_eq_true, if_true, if_false]
  rfl

theorem XferFormed.xfrOp_partBlocks {r : Record} (h : XferFormed s a kp c t ws) (hdir : t.dir ≠ 2)
    (hrec : c.record s.mem (vaObj (if t.dir = 1 then t.dst else t.src)) = some r) (hfits : recordFits t r = true)
    (hblocks : wholeBlocks t r (xferOrigin t ws) (xferCounts t ws) = false) :
    xfrOp ch a kp s.mem w s.cpu = c.trap w (atPc c.grp 6 9) := by
  unfold xferOrigin xferCounts at hblocks
  simp only [xfrOp, h.state, h.template, h.words, h.listed, h.formed, h.allowed, hdir, hrec, hfits, hblocks, Bool.not_true, Bool.not_false,
    Bool.false_eq_true, if_true, if_false]
  rfl

/-- The elements of the copy in row-major order, and the scale entries that it uses (R225, R226). -/
def xferElems (t : Template) (r : Record) (ws : List Word) : List Elem := elemsOf t r (xferOrigin t ws) (xferCounts t ws)
def xferEntries (t : Template) (r : Record) (ws : List Word) : List Nat := if memBlk t = 0 then [] else entriesOf t r (xferElems t r ws)

/-- The object of a copy of DIR 0 or 1 fits its template, and the copy covers whole blocks (R225, R227). -/
structure XferFits (s : State) (a kp : BitVec 8) (c : Cpu) (t : Template) (ws : List Word) (r : Record) : Prop
    extends XferFormed s a kp c t ws where
  dir : t.dir ≠ 2
  record : c.record s.mem (vaObj (if t.dir = 1 then t.dst else t.src)) = some r
  fits : recordFits t r = true
  blocks : wholeBlocks t r (xferOrigin t ws) (xferCounts t ws) = true

variable {r : Record} {e : Trap}

theorem XferFits.xfrOp_padTrap (h : XferFits s a kp c t ws r)
    (hpad : padItemsTrap (c.ctx.block c.grp) (padItems t (xferElems t r ws)) = some e) :
    xfrOp ch a kp s.mem w s.cpu = c.trap w e := by
  have hblocks := h.blocks
  unfold xferElems at hpad
  unfold xferOrigin xferCounts at hblocks hpad
  simp only [xfrOp, h.state, h.template, h.words, h.listed, h.formed, h.allowed, h.dir, h.record, h.fits, hblocks, hpad, Bool.not_true,
    Bool.false_eq_true, if_false]

theorem XferFits.xfrOp_elemTrap (h : XferFits s a kp c t ws r)
    (hpad : padItemsTrap (c.ctx.block c.grp) (padItems t (xferElems t r ws)) = none)
    (helems : ((xferElems t r ws).zipIdx.findSome? fun x => elemTrap t r c.grp.gid x.2 x.1) = some e) :
    xfrOp ch a kp s.mem w s.cpu = c.trap w e := by
  have hblocks := h.blocks
  unfold xferElems at hpad helems
  unfold xferOrigin xferCounts at hblocks hpad helems
  simp only [xfrOp, h.state, h.template, h.words, h.listed, h.formed, h.allowed, h.dir, h.record, h.fits, hblocks, hpad, helems,
    Bool.not_true, Bool.false_eq_true, if_false]

theorem XferFits.xfrOp_extrasTrap (h : XferFits s a kp c t ws r)
    (hpad : padItemsTrap (c.ctx.block c.grp) (padItems t (xferElems t r ws)) = none)
    (helems : ((xferElems t r ws).zipIdx.findSome? fun x => elemTrap t r c.grp.gid x.2 x.1) = none)
    (hextras : extrasTrap c s.mem t (xferEntries t r ws) = some e) :
    xfrOp ch a kp s.mem w s.cpu = c.trap w e := by
  have hblocks := h.blocks
  unfold xferEntries at hextras
  unfold xferElems at hpad helems hextras
  unfold xferOrigin xferCounts at hblocks hpad helems hextras
  simp only [xfrOp, h.state, h.template, h.words, h.listed, h.formed, h.allowed, h.dir, h.record, h.fits, hblocks, hpad, helems, hextras,
    Bool.not_true, Bool.false_eq_true, if_false]

/-- Processors that differ in the directory alone. -/
def CachesOnly (c k : Cpu) : Prop := ∃ dir, k = { c with hw := { c.hw with dir := dir } }

theorem CachesOnly.trans {c k l : Cpu} (h : CachesOnly c k) (h' : CachesOnly k l) : CachesOnly c l := by
  obtain ⟨dir, rfl⟩ := h
  obtain ⟨dir', rfl⟩ := h'
  exact ⟨dir', rfl⟩

theorem cachesOnly_touchLines (m : Cells) (c : Cpu) (r : Record) (offs : List Nat) : CachesOnly c (touchLines m c r offs) := ⟨_, rfl⟩

/-- What a copy leaves in the caches of an object that its template may name (R284). -/
def touchUsed (m : Cells) (c : Cpu) (used : Bool) (va : Nat) (offs : List Nat) : Cpu :=
  match if used then c.record m (vaObj va) else none with
  | some q => touchLines m c q offs
  | none => c

theorem cachesOnly_touchUsed (m : Cells) (c : Cpu) (used : Bool) (va : Nat) (offs : List Nat) : CachesOnly c (touchUsed m c used va offs) := by
  unfold touchUsed
  split
  · exact cachesOnly_touchLines m c _ offs
  · exact ⟨c.hw.dir, rfl⟩

/-- A copy past its checks leaves the directory alone changed. -/
theorem cachesOnly_touchCopy (m : Cells) (c : Cpu) (t : Template) (r : Record) (els : List Elem) : CachesOnly c (touchCopy m c t r els) := by
  have hsource := cachesOnly_touchLines m c r ((els.filter fun e => e.bad.isNone).map fun e => e.off.toNat)
  have hentries := hsource.trans
    (cachesOnly_touchUsed m _ (memBlk t != 0) t.scl ((entriesOf t r els).map fun n => vaOff t.scl + entrySize t * n))
  have hamax := hentries.trans (cachesOnly_touchUsed m _ t.amx t.amxa [vaOff t.amxa])
  exact hamax.trans (cachesOnly_touchUsed m _ (t.stm == 1) t.sta [vaOff t.sta])

/-- The pending copy that `xfr` leaves, before its source is read (R225, R233, R238). -/
def issuedCopy (ch : BitVec 2) (c : Cpu) (t : Template) (ws : List Word) (r : Record) : Copy where
  id := c.ctx.nextCopy
  stamp := c.grp.stamp
  lord := c.grp.lord
  blk := c.grp.blk
  ch := ch.toNat
  t := t
  rcd := r
  origin := xferOrigin t ws
  counts := xferCounts t ws
  value := ws.getD (2 * t.rank + 1) 0
  seed := c.ctx.seed
  toPad := t.dir == 0
  landAt := if t.dir = 0 then (((c.ctx.block c.grp).map Block.syncs).getD 0) + (ws.getD (2 * t.rank) 0).toNat
    else c.ctx.leg + (ws.getD (2 * t.rank) 0).toNat - 1
  src := []
  scales := []
  read := false
  payload := []
  nibs := []
  stampCells := []
  amax := none

theorem XferFits.xfrOp_passes (h : XferFits s a kp c t ws r)
    (hpad : padItemsTrap (c.ctx.block c.grp) (padItems t (xferElems t r ws)) = none)
    (helems : ((xferElems t r ws).zipIdx.findSome? fun x => elemTrap t r c.grp.gid x.2 x.1) = none)
    (hextras : extrasTrap c s.mem t (xferEntries t r ws) = none) :
    ∃ dir, let k : Cpu := { c with hw := { c.hw with dir := dir } }
      xfrOp ch a kp s.mem w s.cpu = if t.dir = 1 then xfrOut w k (xferElems t r ws) (issuedCopy ch c t ws r)
        else xfrIn s.mem w k r (xferElems t r ws) (issuedCopy ch c t ws r) := by
  obtain ⟨dir, htouch⟩ := cachesOnly_touchCopy s.mem c t r (xferElems t r ws)
  have hblocks := h.blocks
  refine ⟨dir, ?_⟩
  unfold xferEntries at hextras
  unfold issuedCopy
  unfold xferElems at hpad helems hextras htouch ⊢
  unfold xferOrigin xferCounts at hblocks hpad helems hextras htouch ⊢
  simp only [xfrOp, h.state, h.template, h.words, h.listed, h.formed, h.allowed, h.dir, h.record, h.fits, hblocks, hpad, helems, hextras,
    htouch, Bool.not_true, Bool.false_eq_true, if_false]

end

/-! ### Check 4: the scratchpad items (R128, R179, R238) -/

/-- The first entry that a test admits. -/
theorem find?_of_first {α : Type} {l : List α} {p : α → Bool} {x : α} (h : FirstOf l (fun y => p y = true) x) : l.find? p = some x := by
  obtain ⟨pre, post, rfl, hx, hpre⟩ := h
  exact List.find?_eq_some_iff_append.2 ⟨hx, pre, post, rfl, fun y hy => by simpa using hpre y hy⟩

theorem padItemsTrap_misaligned {b : Option Block} {items : List (Nat × Nat × Nat)} {y : Nat × Nat × Nat}
    (h : FirstOf items (fun y => y.1 % y.2.2 ≠ 0) y) : padItemsTrap b items = some (atAddr 2 1 y.1 0) := by
  have hfind : items.find? (fun y => decide (y.1 % y.2.2 ≠ 0)) = some y := find?_of_first (by simpa only [decide_eq_true_eq] using h)
  unfold padItemsTrap
  rw [hfind]
  rfl

section
variable {p : Block} {items : List (Nat × Nat × Nat)}

theorem padItemsTrap_aligned (h : ∀ y ∈ items, y.1 % y.2.2 = 0) :
    padItemsTrap (some p) items = (items.find? fun y => !padValid p y.1 y.2.1).map fun y => atAddr 3 3 y.1 0 := by
  have hfind : items.find? (fun y => decide (y.1 % y.2.2 ≠ 0)) = none := List.find?_eq_none.2 fun y hy => by simp [h y hy]
  unfold padItemsTrap
  rw [hfind]
  dsimp only
  cases items.find? fun y => !padValid p y.1 y.2.1 <;> rfl

theorem padItemsTrap_outside (h : ∀ y ∈ items, y.1 % y.2.2 = 0) {y : Nat × Nat × Nat}
    (hy : FirstOf items (fun y => padValid p y.1 y.2.1 = false) y) : padItemsTrap (some p) items = some (atAddr 3 3 y.1 0) := by
  have hfind : items.find? (fun y => !padValid p y.1 y.2.1) = some y := find?_of_first (by simpa only [Bool.not_eq_true'] using hy)
  rw [padItemsTrap_aligned h, hfind]
  rfl

theorem padItemsTrap_none (h : ∀ y ∈ items, y.1 % y.2.2 = 0) (hvalid : ∀ y ∈ items, padValid p y.1 y.2.1 = true) :
    padItemsTrap (some p) items = none := by
  have hfind : items.find? (fun y => !padValid p y.1 y.2.1) = none := List.find?_eq_none.2 fun y hy => by simp [hvalid y hy]
  rw [padItemsTrap_aligned h, hfind]
  rfl

end

/-! ### Check 5: the memory side (R123, R124, R295) -/

/-- The first entry of a list, with its place, that a function maps to a value. -/
theorem findSome?_zipIdx_of_first {α β : Type} {l : List α} {f : α × Nat → Option β} {k : Nat} {x : α} {y : β} (hx : l[k]? = some x)
    (hy : f (x, k) = some y) (hpre : ∀ j < k, ∀ z, l[j]? = some z → f (z, j) = none) : l.zipIdx.findSome? f = some y := by
  obtain ⟨hlt, rfl⟩ := List.getElem?_eq_some_iff.1 hx
  have hsplit : l.zipIdx = l.zipIdx.take k ++ (l[k], k) :: l.zipIdx.drop (k + 1) := by
    have hdrop := List.drop_eq_getElem_cons (l := l.zipIdx) (i := k) (by simpa using hlt)
    rw [List.getElem_zipIdx, Nat.zero_add] at hdrop
    rw [← hdrop, List.take_append_drop]
  refine List.findSome?_eq_some_iff.2 ⟨_, _, _, hsplit, hy, fun z hz => ?_⟩
  obtain ⟨j, hj, rfl⟩ := List.mem_take_iff_getElem.1 hz
  rw [List.getElem_zipIdx, Nat.zero_add]
  exact hpre j (by omega) _ (List.getElem?_eq_getElem _)

/-- What bars a copy from an object (R121, R102, R303). -/
theorem copyPerm_eq_some_iff {r : Record} {gid code : Nat} {out : Bool} : copyPerm r gid out = some code ↔ CopyBarred gid out r code := by
  unfold copyPerm CopyBarred
  by_cases hmay : r.obj ≠ 1 ∧ hasPerm r 3 = true ∧ hasPerm r (if out then 1 else 0) = true
  · simp only [hmay, not_true, and_false, false_or, true_and, ne_eq, not_false_iff]
    cases out with
    | false => cases modeRefuses r gid .load <;> simp [eq_comm (a := code)]
    | true =>
      by_cases hparcel : r.mode = 1
      · simp [hparcel]
      · by_cases hprivate : r.mode = 3 <;> cases isOwner r gid <;> simp [hparcel, hprivate, eq_comm (a := code)]
  · have hfail : (decide (r.obj = 1) || !hasPerm r 3 || !hasPerm r (if out then 1 else 0)) = true := by
      by_contra hn
      simp only [Bool.or_eq_true, decide_eq_true_eq, Bool.not_eq_true', not_or, Bool.not_eq_false] at hn
      exact hmay ⟨hn.1.1, hn.1.2, hn.2⟩
    simp only [hfail, hmay, if_true, not_false_iff, and_true, false_and, and_false, or_false, Option.some.injEq, eq_comm (a := code)]

/-- The coordinate of a failing dimension, over its number (R295). -/
theorem shapeInfo (d : Nat) (hd : d < 2 ^ 32) (x : Int) :
    BitVec.ofNat 64 (d + 2 ^ 32 * wrapI 32 x) = BitVec.ofInt 32 x ++ BitVec.ofNat 32 d := by
  apply BitVec.eq_of_toNat_eq
  have hword : wrapI 32 x < 2 ^ 32 := by unfold wrapI; omega
  have hint : (BitVec.ofInt 32 x).toNat = wrapI 32 x := by rw [BitVec.toNat_ofInt]; rfl
  have happend : (BitVec.ofInt 32 x ++ BitVec.ofNat 32 d).toNat = wrapI 32 x * 2 ^ 32 + d := by
    rw [BitVec.toNat_append, hint, BitVec.toNat_ofNat, Nat.mod_eq_of_lt hd, ← Nat.shiftLeft_add_eq_or_of_lt hd, Nat.shiftLeft_eq]
  rw [BitVec.toNat_ofNat, happend]
  omega

section
variable {t : Template} {r : Record} {gid i d : Nat} {e : Elem}

theorem elemTrap_misaligned (h : e.off % (elemSize r : Int) ≠ 0) :
    elemTrap t r gid i e = some ⟨2, 1, BitVec.ofNat 64 (vaOf r.obj e.off), 0, 0, 0⟩ := if_pos h

theorem elemTrap_shape (halign : e.off % (elemSize r : Int) = 0) (hbad : e.bad = some d) (hpmt : ¬ (r.pmt = true ∧ t.pmt = true))
    (hd : d < 2 ^ 32) : elemTrap t r gid i e = some ⟨4, 1, BitVec.ofNat 64 (vaOf r.obj e.off), 0, BitVec.ofNat 64 i,
      if d = 7 then 7 else BitVec.ofInt 32 (e.c.getD d 0) ++ BitVec.ofNat 32 d⟩ := by
  unfold elemTrap
  rw [← Bool.and_eq_true] at hpmt
  simp only [halign, hbad, hpmt, ne_eq, not_true, if_false, Bool.false_eq_true]
  by_cases hseven : d = 7
  · subst hseven
    rfl
  · rw [if_neg hseven, if_neg hseven, shapeInfo d hd]

theorem elemTrap_barred {code : Nat} (halign : e.off % (elemSize r : Int) = 0) (hbad : e.bad = none)
    (hbar : CopyBarred gid (t.dir = 1) r code) : elemTrap t r gid i e = some ⟨5, code, BitVec.ofNat 64 (vaOf r.obj e.off), 0, 0, 0⟩ := by
  unfold elemTrap
  simp only [halign, hbad, copyPerm_eq_some_iff.2 hbar, ne_eq, not_true, if_false, Option.map_some]

/-- A failing dimension is one of the object's, or stands for the extent (R295). -/
theorem elemAt_bad {origin : List Int} {tup : List Nat} (h : (elemAt t r origin tup).bad = some d) : d < r.rank ∨ d = 7 := by
  unfold elemAt at h
  dsimp only at h
  split at h
  · next k hk =>
    cases h
    exact .inl (List.mem_range.1 (List.mem_of_find?_eq_some hk))
  · obtain ⟨-, h⟩ | ⟨-, h⟩ := ite_eq_iff.1 h
    · exact .inr (Option.some.inj h).symm
    · cases h

theorem bad_lt_of_fits {origin : List Int} {counts : List Nat} (hok : templateOk t = true) (hfits : recordFits t r = true)
    (he : e ∈ elemsOf t r origin counts) (hbad : e.bad = some d) : d < 2 ^ 32 := by
  obtain ⟨tup, -, rfl⟩ := List.mem_map.1 he
  simp only [templateOk, Bool.and_eq_true, decide_eq_true_eq] at hok
  simp only [recordFits, Bool.and_eq_true, beq_iff_eq] at hfits
  have hrank := elemAt_bad hbad
  omega

/-- The faults of one element, whatever follows from a trap that it raises (R123, R124, R295). -/
theorem elemTrap_faults {origin : List Int} {counts : List Nat} {raises : Trap → Prop} (hok : templateOk t = true)
    (hfits : recordFits t r = true) (he : e ∈ elemsOf t r origin counts) (htrap : ∀ e', elemTrap t r gid i e = some e' → raises e') :
    let fa := BitVec.ofNat 64 (vaOf r.obj e.off)
    (e.off % (elemSize r : Int) ≠ 0 → raises ⟨2, 1, fa, 0, 0, 0⟩) ∧
    (e.off % (elemSize r : Int) = 0 → ∀ d, e.bad = some d → ¬ (r.pmt = true ∧ t.pmt = true) →
      raises ⟨4, 1, fa, 0, BitVec.ofNat 64 i, if d = 7 then 7 else BitVec.ofInt 32 (e.c.getD d 0) ++ BitVec.ofNat 32 d⟩) ∧
    ∀ code, e.off % (elemSize r : Int) = 0 → e.bad = none → CopyBarred gid (t.dir = 1) r code → raises ⟨5, code, fa, 0, 0, 0⟩ :=
  ⟨fun hunaligned => htrap _ (elemTrap_misaligned hunaligned),
    fun haligned _ hbad hpmt => htrap _ (elemTrap_shape haligned hbad hpmt (bad_lt_of_fits hok hfits he hbad)),
    fun _ haligned hgood hbar => htrap _ (elemTrap_barred haligned hgood hbar)⟩

end

/-! ### Check 6: scale entries, amax word, memory stamp (R122, R231, R235) -/

section
variable {u : State} {t : Template} {gid : Nat} {entries : List Nat}

/-- The permission of a plain or reducing access (R102, R121). -/
theorem accessPerm_eq_some_iff {r : Record} {k : Access} {code : Nat} : accessPerm gid k r = some code ↔
    code = 1 ∧ (r.obj = 1 ∨ permOk r k = false) ∨ code = 2 ∧ r.obj ≠ 1 ∧ permOk r k = true ∧ modeRefuses r gid k = true := by
  unfold accessPerm
  by_cases hobj : r.obj = 1
  · simp [hobj, eq_comm (a := code)]
  · cases permOk r k <;> cases modeRefuses r gid k <;> simp [hobj, eq_comm (a := code)]

/-- An item with the permission that the engine checks (R238). -/
structure ExtraCheck where
  item : MemItem
  perm : Record → Option Nat

/-- The check of one item. -/
def ExtraCheck.trap (x : ExtraCheck) (u : State) : Option Trap := itemTrap u.cpu u.mem x.item.obj x.item.off x.item.size x.item.align x.perm

/-- What the engine checks of an item is what bars it. -/
def ExtraCheck.Sound (x : ExtraCheck) : Prop := ∀ r code, x.perm r = some code ↔ x.item.barred r code

theorem ExtraCheck.trap_eq_some {x : ExtraCheck} (hx : x.Sound) {cls code : Nat} (h : x.item.Fails u cls code) :
    x.trap u = some (atAddr cls code (vaOf x.item.obj x.item.off) 0) := by
  unfold ExtraCheck.trap itemTrap
  dsimp only
  obtain ⟨rfl, rfl, hbad⟩ | ⟨halign, hrest⟩ := h
  · rw [if_pos hbad]
    rfl
  · rw [if_neg (not_not.2 halign)]
    obtain ⟨rfl, rfl, hrec⟩ | ⟨r, hrec, hfail⟩ := hrest
    · rw [hrec]
      rfl
    · rw [hrec]
      dsimp only
      obtain ⟨rfl, rfl, hout⟩ | ⟨rfl, hin, hbar⟩ := hfail
      · rw [if_pos hout]
        rfl
      · rw [if_neg (by omega), (hx r code).2 hbar]
        rfl

theorem ExtraCheck.trap_eq_none {x : ExtraCheck} (hx : x.Sound) (h : ¬ ∃ cls code, x.item.Fails u cls code) : x.trap u = none := by
  unfold ExtraCheck.trap itemTrap
  dsimp only
  have halign : x.item.off % x.item.align = 0 := by
    by_contra hbad
    exact h ⟨2, 1, .inl ⟨rfl, rfl, hbad⟩⟩
  rw [if_neg (not_not.2 halign)]
  cases hrec : u.cpu.record u.mem x.item.obj with
  | none => exact absurd ⟨3, 2, .inr ⟨halign, .inl ⟨rfl, rfl, hrec⟩⟩⟩ h
  | some r =>
    dsimp only
    have hin : ¬ r.ext < x.item.off + x.item.size := fun hout =>
      h ⟨3, 1, .inr ⟨halign, .inr ⟨r, hrec, .inl ⟨rfl, rfl, hout⟩⟩⟩⟩
    rw [if_neg hin]
    cases hperm : x.perm r with
    | none => rfl
    | some code =>
      have hbar := (hx r code).1 hperm
      exact absurd ⟨5, code, .inr ⟨halign, .inr ⟨r, hrec, .inr ⟨rfl, Nat.le_of_not_lt hin, hbar⟩⟩⟩⟩ h

/-- The checks of the scale entries, of the amax word and of a memory stamp, in the engine's order (R238). -/
def scaleChecks (t : Template) (gid : Nat) (entries : List Nat) : List ExtraCheck :=
  entries.map fun n => ⟨⟨vaObj t.scl, vaOff t.scl + entrySize t * n, entrySize t, 4, CopyBarred gid (t.dir == 1)⟩,
    fun r => copyPerm r gid (t.dir == 1)⟩
def amaxCheck (t : Template) (gid : Nat) : ExtraCheck :=
  ⟨⟨vaObj t.amxa, vaOff t.amxa, 4, 4, fun r code => code = 1 ∧ (r.obj = 1 ∨ permOk r .reduce = false) ∨
    code = 2 ∧ r.obj ≠ 1 ∧ permOk r .reduce = true ∧ modeRefuses r gid .reduce = true⟩, accessPerm gid .reduce⟩
def stampCheck (t : Template) (gid : Nat) : ExtraCheck :=
  ⟨⟨vaObj t.sta, vaOff t.sta, 8, 8, CopyBarred gid true⟩, fun r => copyPerm r gid true⟩
def extraChecks (t : Template) (gid : Nat) (entries : List Nat) : List ExtraCheck :=
  scaleChecks t gid entries ++ (if t.amx then [amaxCheck t gid] else []) ++ if t.stm = 1 then [stampCheck t gid] else []

theorem extraChecks_items : (extraChecks t gid entries).map ExtraCheck.item = extraItems t gid entries := by
  unfold extraChecks extraItems
  rw [List.map_append, List.map_append, scaleChecks, List.map_map]
  cases t.amx <;> by_cases hstm : t.stm = 1 <;> simp only [hstm, if_true, if_false, Bool.false_eq_true] <;> rfl

theorem extraChecks_sound : ∀ x ∈ extraChecks t gid entries, x.Sound := by
  intro x hx
  unfold extraChecks at hx
  rw [List.mem_append, List.mem_append] at hx
  obtain (hscale | hamax) | hstamp := hx
  · obtain ⟨n, -, rfl⟩ := List.mem_map.1 hscale
    exact fun r code => copyPerm_eq_some_iff
  · split at hamax
    · cases List.mem_singleton.1 hamax
      exact fun r code => accessPerm_eq_some_iff
    · cases hamax
  · split at hstamp
    · cases List.mem_singleton.1 hstamp
      exact fun r code => copyPerm_eq_some_iff
    · cases hstamp

theorem extrasTrap_eq (u : State) (t : Template) (entries : List Nat) :
    extrasTrap u.cpu u.mem t entries = (extraChecks t u.cpu.grp.gid entries).findSome? fun x => x.trap u := by
  have hscale : (entries.findSome? fun n => itemTrap u.cpu u.mem (vaObj t.scl) (vaOff t.scl + entrySize t * n) (entrySize t) 4 fun r =>
      copyPerm r u.cpu.grp.gid (t.dir == 1)) = (scaleChecks t u.cpu.grp.gid entries).findSome? fun x => x.trap u := by
    rw [scaleChecks, List.findSome?_map]
    rfl
  have hamax : (if t.amx then itemTrap u.cpu u.mem (vaObj t.amxa) (vaOff t.amxa) 4 4 (accessPerm u.cpu.grp.gid .reduce) else none) =
      (if t.amx then [amaxCheck t u.cpu.grp.gid] else []).findSome? fun x => x.trap u := by
    split
    · rw [List.findSome?_singleton]
      rfl
    · rfl
  have hstamp : (if t.stm = 1 then itemTrap u.cpu u.mem (vaObj t.sta) (vaOff t.sta) 8 8 (fun r => copyPerm r u.cpu.grp.gid true) else none) =
      (if t.stm = 1 then [stampCheck t u.cpu.grp.gid] else []).findSome? fun x => x.trap u := by
    split
    · rw [List.findSome?_singleton]
      rfl
    · rfl
  unfold extrasTrap extraChecks
  rw [List.findSome?_append, List.findSome?_append, ← hscale, ← hamax, ← hstamp]
  dsimp only
  split
  · next e he => rw [he]; rfl
  · next he =>
    rw [he]
    split
    · next e' he' => rw [he']; rfl
    · next he' => rw [he']; rfl

/-- The first item that fails gives the trap. -/
theorem extrasTrap_of_first {y : MemItem} {cls code : Nat}
    (hfirst : FirstOf (extraItems t u.cpu.grp.gid entries) (fun y => ∃ a b, y.Fails u a b) y) (hy : y.Fails u cls code) :
    extrasTrap u.cpu u.mem t entries = some (atAddr cls code (vaOf y.obj y.off) 0) := by
  obtain ⟨pre, post, hsplit, -, hpre⟩ := hfirst
  rw [← extraChecks_items] at hsplit
  obtain ⟨pre', rest', hchecks, rfl, hrest⟩ := List.map_eq_append_iff.1 hsplit
  obtain ⟨x, post', rfl, rfl, -⟩ := List.map_eq_cons_iff.1 hrest
  have hsound : ∀ z ∈ pre' ++ x :: post', z.Sound := hchecks ▸ extraChecks_sound
  rw [extrasTrap_eq, hchecks]
  refine List.findSome?_eq_some_iff.2 ⟨pre', x, post', rfl, ExtraCheck.trap_eq_some (hsound x (by simp)) hy, fun z hz => ?_⟩
  exact ExtraCheck.trap_eq_none (hsound z (by simp [hz])) (hpre z.item (List.mem_map_of_mem hz))

/-- An entry that a copy uses has a record, once its checks pass. -/
theorem scaleRecord_of_extras (h : extrasTrap u.cpu u.mem t entries = none) (hne : entries ≠ []) :
    ∃ q, u.cpu.record u.mem (vaObj t.scl) = some q := by
  obtain ⟨n, hn⟩ := List.exists_mem_of_ne_nil _ hne
  rw [extrasTrap_eq] at h
  have hcheck := List.findSome?_eq_none_iff.1 h _ (List.mem_append_left _ (List.mem_append_left _ (List.mem_map_of_mem hn)))
  cases hrec : u.cpu.record u.mem (vaObj t.scl) with
  | some q => exact ⟨q, rfl⟩
  | none =>
    unfold ExtraCheck.trap itemTrap at hcheck
    simp only [hrec] at hcheck
    split at hcheck <;> cases hcheck

end

/-! ### The source of a copy (R228, R230, R281, R343) -/

/-- Bytes of an object that are read now: no sub-tile holds them up, and each is here or answered. -/
structure ReadableIn (u : State) (q : Record) (va size : Nat) : Prop where
  object : ∀ x ∈ span va size, u.cpu.record u.mem (vaObj x) = some q
  free : accessBlocks u.mem q false (vaOff va) size = []
  here : ∀ x ∈ span va size, homedAway u.cpu.hw q (vaOff x) = none ∨ (get? u.cpu.grp.fills (lineOf x)).isSome = true ∨
    (sketchByte u.cpu.grp.sketch x).isSome = true

section
variable {u : State} {q : Record} {va size : Nat}

theorem ReadableIn.of_readable (h : Readable u va size) (hrec : u.cpu.record u.mem (vaObj va) = some q)
    (hobj : ∀ k < size, vaObj (va + k) = vaObj va) : ReadableIn u q va size := by
  obtain ⟨hfree, hhere⟩ := h q hrec
  refine ⟨fun x hx => ?_, accessBlocks_of_none hfree, fun x hx => ?_⟩
  · obtain ⟨hlo, hhi⟩ := (mem_span _ _ _).1 hx
    rw [← hrec, ← hobj (x - va) (by omega), Nat.add_sub_cancel' hlo]
  · obtain ⟨hlo, hhi⟩ := (mem_span _ _ _).1 hx
    exact hhere x hlo hhi

/-- The group loads such bytes as it sees them, whatever the directory holds. -/
theorem ReadableIn.leNat_seen (h : ReadableIn u q va size) (dir : Directory) {off n : Nat} (hn : off + n ≤ size) :
    leNat (loadByte (u.withDir dir).cpu u.mem q) (va + off) n = leNat (seenByte u) (va + off) n :=
  leNat_congr fun k hk => (seenByte_eq (h.object _ ((mem_span _ _ _).2 ⟨by omega, by omega⟩))).symm

theorem sourceWait_nil {spans : List (Nat × Nat)} (h : ∀ x ∈ spans, ReadableIn u q x.1 x.2) : sourceWait u.mem q spans = [] :=
  List.flatMap_eq_nil_iff.2 fun x hx => by rw [(h x hx).free]; rfl

theorem missingLines_spans {spans : List (Nat × Nat)} (h : ∀ x ∈ spans, ReadableIn u q x.1 x.2) (dir : Directory) :
    missingLines (u.withDir dir).cpu q (spans.flatMap fun x => span x.1 x.2) = [] :=
  missingLines_nil fun y hy => by
    obtain ⟨x, hx, hin⟩ := List.mem_flatMap.1 hy
    exact (h x hx).here y hin

end

/-- A scale entry as the group sees it (R226). -/
def seenScale (u : State) (t : Template) (n : Nat) : Nat × Word × Nat :=
  let y := t.scl + entrySize t * n
  (n, BitVec.ofNat 32 (leNat (seenByte u) y 4), if t.slay = 0 then leNat (seenByte u) (y + 4) 1 % 4 else t.tpol)

section
variable {u : State} {w : Iss} {r : Record} {els : List Elem} {k : Copy}

/-- The bits of an element that is read now, as the engine loads them. -/
theorem elemBits_of_readable {e : Elem} (dir : Directory) (h : e.bad = none → ReadableIn u r (vaOf r.obj e.off) (elemSize r)) :
    (if e.bad.isSome then 0
      else
        let x := leNat (loadByte (u.withDir dir).cpu u.mem r) (vaOf r.obj e.off) (elemSize r)
        if r.lay = 1 then x / 16 ^ e.half % 16 else x) = elemBits u r e := by
  unfold elemBits
  split
  · rfl
  · next hbad =>
    have hread := (h (by simpa using hbad)).leNat_seen dir (off := 0) (n := elemSize r) (by omega)
    rw [Nat.add_zero] at hread
    rw [hread]

theorem seenScale_of_readable {t : Template} {q : Record} {n : Nat} (dir : Directory)
    (h : ReadableIn u q (t.scl + entrySize t * n) (entrySize t)) :
    (n, BitVec.ofNat 32 (leNat (loadByte (u.withDir dir).cpu u.mem q) (t.scl + entrySize t * n) 4),
      if t.slay = 0 then leNat (loadByte (u.withDir dir).cpu u.mem q) (t.scl + entrySize t * n + 4) 1 % 4 else t.tpol) = seenScale u t n := by
  have hscale := h.leNat_seen dir (off := 0) (n := 4) (by unfold entrySize; split <;> omega)
  rw [Nat.add_zero] at hscale
  unfold seenScale
  dsimp only
  rw [hscale]
  split
  · next hslay => rw [h.leNat_seen dir (by simp [entrySize, hslay])]
  · rfl

/-- The scale entries that an inbound copy reads (R226, R229). -/
def readEntries (t : Template) (r : Record) (els : List Elem) : List Nat := if t.sblk = 0 then [] else entriesOf t r els

/-- An inbound copy whose source can be read leaves a pending copy with what it read (R228). -/
theorem xfrIn_reads (dir : Directory) (hsource : ∀ e ∈ els, e.bad = none → ReadableIn u r (vaOf r.obj e.off) (elemSize r))
    (hrec : readEntries k.t r els ≠ [] → ∃ q, u.cpu.record u.mem (vaObj k.t.scl) = some q)
    (hscales : ∀ q, u.cpu.record u.mem (vaObj k.t.scl) = some q → ∀ n ∈ readEntries k.t r els,
      ReadableIn u q (k.t.scl + entrySize k.t * n) (entrySize k.t)) :
    xfrIn u.mem w (u.withDir dir).cpu r els k = pendCopy w (u.withDir dir).cpu
      { k with src := els.map (elemBits u r), scales := (readEntries k.t r els).map (seenScale u k.t) } := by
  have hspans : ∀ x ∈ (els.filter fun e => e.bad.isNone).map fun e => (vaOf r.obj e.off, elemSize r), ReadableIn u r x.1 x.2 := by
    intro x hx
    obtain ⟨e, he, rfl⟩ := List.mem_map.1 hx
    obtain ⟨hin, hgood⟩ := List.mem_filter.1 he
    exact hsource e hin (Option.isNone_iff_eq_none.1 hgood)
  have hsrc := List.map_congr_left fun e he => elemBits_of_readable dir (hsource e he)
  have hrecord : (u.withDir dir).cpu.record u.mem (vaObj k.t.scl) = u.cpu.record u.mem (vaObj k.t.scl) := record_congr rfl rfl rfl
  cases hq : u.cpu.record u.mem (vaObj k.t.scl) with
  | none =>
    have hnil : readEntries k.t r els = [] := by
      by_contra hne
      obtain ⟨q, hq'⟩ := hrec hne
      cases hq.symm.trans hq'
    rw [hnil, ← hsrc]
    simp only [xfrIn, hrecord, hq, sourceWait_nil hspans, missingLines_spans hspans dir, Option.map_none, Option.getD_none, List.append_nil]
    rfl
  | some q =>
    have hentries : ∀ x ∈ (readEntries k.t r els).map fun n => (k.t.scl + entrySize k.t * n, entrySize k.t), ReadableIn u q x.1 x.2 := by
      intro x hx
      obtain ⟨n, hn, rfl⟩ := List.mem_map.1 hx
      exact hscales q hq n hn
    have hscl := List.map_congr_left fun n hn => seenScale_of_readable dir (hscales q hq n hn)
    rw [← hsrc, ← hscl]
    unfold readEntries at hentries ⊢
    simp only [xfrIn, hrecord, hq, sourceWait_nil hspans, sourceWait_nil hentries, missingLines_spans hspans dir,
      missingLines_spans hentries dir, Option.map_some, Option.getD_some, List.append_nil]

/-- An outbound copy reads the scratchpad at its place in program order, and tags what it reads (R230). -/
theorem xfrOut_reads {c : Cpu} {p : Block} (hblock : c.ctx.block c.grp = some p) : ∃ tags,
    xfrOut w c els k = pendCopy w { c with ctx := c.ctx.setBlock (padTags p tags) } { k with
      src := els.map fun e => leNat (padByte p c.grp.gid) (padElem k.t e.t (padSize k.t)) (padSize k.t) } := by
  refine ⟨(padTag p c.grp.gid false ((els.map fun e => padElem k.t e.t (padSize k.t)).flatMap fun a => span a (padSize k.t))).tags, ?_⟩
  simp only [xfrOut, hblock, List.map_map]
  rfl

end

/-! ### What may be read of an object (R120, R123, R226) -/

theorem elemSize_pos (r : Record) : 0 < elemSize r := by
  unfold elemSize
  split
  · exact Nat.one_pos
  · exact Nat.two_pow_pos _

/-- An element without a fault of its shape lies in its object (R123). -/
theorem inside_of_elem {t : Template} {r : Record} {origin : List Int} {counts : List Nat} {e : Elem} (he : e ∈ elemsOf t r origin counts)
    (hbad : e.bad = none) : 0 ≤ e.off ∧ e.off + elemSize r ≤ r.ext := by
  obtain ⟨tup, -, rfl⟩ := List.mem_map.1 he
  unfold elemAt at hbad ⊢
  dsimp only at hbad ⊢
  split at hbad
  · cases hbad
  · obtain ⟨-, h⟩ | ⟨hin, -⟩ := ite_eq_iff.1 hbad
    · cases h
    · simpa only [Bool.or_eq_true, decide_eq_true_eq, not_or, Int.not_lt] using hin

section
variable {u : State} {q : Record}

theorem vaObj_lt {va : Nat} (h : va < 2 ^ 64) : vaObj va < 2 ^ 24 := by
  unfold vaObj
  omega

theorem readableIn_elem {va : Nat} (hrec : u.cpu.record u.mem (vaObj va) = some q) (hva : va < 2 ^ 64) {off : Int}
    (hoff : 0 ≤ off ∧ off + elemSize q ≤ q.ext) (h : Readable u (vaOf q.obj off) (elemSize q)) :
    ReadableIn u q (vaOf q.obj off) (elemSize q) := by
  obtain ⟨hext, hobj⟩ := record_ext hrec
  have hlt : q.obj < 2 ^ 24 := hobj.trans_lt (vaObj_lt hva)
  have hobjOf : ∀ k < elemSize q, vaObj (vaOf q.obj off + k) = q.obj := fun k hk => by
    obtain ⟨heq, hin⟩ := vaOf_toNat hlt hoff.1 hoff.2 hext hk
    rw [heq, vaObj_add hin]
  have hbase := hobjOf 0 (elemSize_pos q)
  rw [Nat.add_zero] at hbase
  exact ReadableIn.of_readable h (by rw [hbase, hobj]; exact hrec) fun k hk => (hobjOf k hk).trans hbase.symm

theorem readableIn_scale {scl size n : Nat} (hrec : u.cpu.record u.mem (vaObj scl) = some q) (hin : vaOff scl + size * (n + 1) ≤ 2 ^ 40)
    (hsize : 0 < size) (h : Readable u (scl + size * n) size) : ReadableIn u q (scl + size * n) size := by
  have hobjOf : ∀ k < size, vaObj (scl + size * n + k) = vaObj scl := fun k hk => by
    rw [Nat.mul_add_one] at hin
    unfold vaOff at hin
    unfold vaObj
    omega
  have hbase := hobjOf 0 hsize
  rw [Nat.add_zero] at hbase
  exact ReadableIn.of_readable h (by rw [hbase]; exact hrec) fun k hk => (hobjOf k hk).trans hbase.symm

end

theorem entrySize_pos (t : Template) : 0 < entrySize t := by
  unfold entrySize
  split <;> omega

theorem templateAt_addr_lt (m : Cells) (tmplb : Dword) (n : Nat) :
    (templateAt m tmplb n).src < 2 ^ 64 ∧ (templateAt m tmplb n).dst < 2 ^ 64 := ⟨leNat_lt _ _ 8, leNat_lt _ _ 8⟩

/-! ### A copy that passes its checks (R225, R228, R230, R233, R238) -/

section
variable {ch : BitVec 2} {a kp : BitVec 8} {s : State} {w : Iss} {t : Template} {ws : List Word} {r : Record} {p : Block}

/-- The source bits of a copy. -/
def xferSource (u : State) (p : Block) (t : Template) (r : Record) (ws : List Word) : List Nat :=
  (xferElems t r ws).map (if t.dir = 1 then fun e => leNat (padByte p u.cpu.grp.gid) (padElem t e.t (padSize t)) (padSize t) else elemBits u r)

/-- The scale entries of a copy of DIR 0 can be read, and its elements. -/
def SourceReadable (u : State) (t : Template) (r : Record) (ws : List Word) : Prop :=
  (∀ e ∈ xferElems t r ws, e.bad = none → Readable u (vaOf r.obj e.off) (elemSize r)) ∧
    (t.sblk ≠ 0 → ∀ n ∈ entriesOf t r (xferElems t r ws),
      vaOff t.scl + entrySize t * (n + 1) ≤ 2 ^ 40 ∧ Readable u (t.scl + entrySize t * n) (entrySize t))

theorem readEntries_eq {els : List Elem} (hdir : t.dir ≠ 1) : readEntries t r els = if memBlk t = 0 then [] else entriesOf t r els := by
  unfold readEntries memBlk
  rw [if_neg hdir]

theorem XferFits.xfrIn_pends (h : XferFits s a kp (xferState s).cpu t ws r) (hdir : t.dir ≠ 1) (dir : Directory)
    (hextras : extrasTrap (xferState s).cpu s.mem t (xferEntries t r ws) = none) (hread : SourceReadable (xferState s) t r ws) :
    xfrIn s.mem w ((xferState s).withDir dir).cpu r (xferElems t r ws) (issuedCopy ch (xferState s).cpu t ws r) =
      pendCopy w ((xferState s).withDir dir).cpu { issuedCopy ch (xferState s).cpu t ws r with
        src := (xferElems t r ws).map (elemBits (xferState s) r)
        scales := (readEntries t r (xferElems t r ws)).map (seenScale (xferState s) t) } := by
  obtain ⟨helems, hentries⟩ := hread
  have hrec := h.record
  rw [if_neg hdir] at hrec
  have hsrc : t.src < 2 ^ 64 := h.template ▸ (templateAt_addr_lt _ _ _).1
  refine xfrIn_reads (u := xferState s) dir (fun e he hbad => ?_) (fun hne => ?_) fun q hq n hn => ?_
  · exact readableIn_elem hrec hsrc (inside_of_elem he hbad) (helems e he hbad)
  · rw [show (issuedCopy ch (xferState s).cpu t ws r).t = t from rfl, readEntries_eq hdir] at hne
    exact scaleRecord_of_extras (u := xferState s) hextras hne
  · change n ∈ readEntries t r (xferElems t r ws) at hn
    unfold readEntries at hn
    split at hn
    · cases hn
    · next hsblk =>
      obtain ⟨hin, hreadable⟩ := hentries hsblk n hn
      exact readableIn_scale hq hin (entrySize_pos t) hreadable

theorem XferFits.xfrOp_pends (h : XferFits s a kp (xferState s).cpu t ws r)
    (hblock : (xferState s).cpu.ctx.block (xferState s).cpu.grp = some p)
    (hpad : padItemsTrap (some p) (padItems t (xferElems t r ws)) = none)
    (helems : ((xferElems t r ws).zipIdx.findSome? fun x => elemTrap t r (xferState s).cpu.grp.gid x.2 x.1) = none)
    (hextras : extrasTrap (xferState s).cpu s.mem t (xferEntries t r ws) = none)
    (hread : t.dir = 0 → SourceReadable (xferState s) t r ws) :
    ∃ dir tags scales, xfrOp ch a kp s.mem w s.cpu =
        pendCopy w { ((xferState s).withDir dir).cpu with
          ctx := if t.dir = 1 then (xferState s).cpu.ctx.setBlock (padTags p tags) else (xferState s).cpu.ctx }
          { issuedCopy ch (xferState s).cpu t ws r with src := xferSource (xferState s) p t r ws, scales := scales } ∧
      (t.dir = 0 → t.sblk ≠ 0 → scales = (entriesOf t r (xferElems t r ws)).map (seenScale (xferState s) t)) := by
  obtain ⟨dir, hop⟩ := h.xfrOp_passes (ch := ch) (w := w) (hblock ▸ hpad) helems hextras
  rw [hop]
  unfold xferSource
  by_cases hdir : t.dir = 1
  · obtain ⟨tags, hout⟩ := xfrOut_reads (w := w) (c := ((xferState s).withDir dir).cpu) (els := xferElems t r ws)
      (k := issuedCopy ch (xferState s).cpu t ws r) hblock
    refine ⟨dir, tags, [], ?_, fun h0 => by omega⟩
    rw [if_pos hdir, if_pos hdir, if_pos hdir]
    exact hout
  · have hzero : t.dir = 0 := by
      have hok := (Bool.and_eq_true_iff.1 h.formed).2
      have hne := h.dir
      simp only [templateOk, Bool.and_eq_true, decide_eq_true_eq] at hok
      omega
    refine ⟨dir, [], (readEntries t r (xferElems t r ws)).map (seenScale (xferState s) t), ?_, fun _ hsblk => ?_⟩
    · rw [if_neg hdir, if_neg hdir, if_neg hdir]
      exact h.xfrIn_pends hdir dir hextras (hread hzero)
    · unfold readEntries
      rw [if_neg hsblk]

end

/-! ### `xfrw` and `xfrq` (R239, R240) -/

/-- Nothing of the group is left to wait for. -/
theorem copies_done_iff (x : Ctx) (g : Group) : ((copiesOf x g.gid).isEmpty && !sysCopyGoing x g) = true ↔
    (x.copies.filter fun k => k.stamp.gid == g.gid) = [] ∧ ∀ k ∈ x.sysCopies, k.id ∈ g.sysCopies → k.done = true := by
  unfold copiesOf sysCopyGoing
  rw [Bool.and_eq_true, List.isEmpty_iff, Bool.not_eq_true', List.any_eq_false]
  exact and_congr_right fun _ => forall₂_congr fun k _ => by simp

theorem xfrwOp_done {c : Cpu} {m : Cells} {w : Iss} (h : ((copiesOf c.ctx c.grp.gid).isEmpty && !sysCopyGoing c.ctx c.grp) = true) :
    xfrwOp m w c = c.retire w { c.grp with sysCopies := [] } := if_pos h

theorem xfrwOp_waits {c : Cpu} {m : Cells} {w : Iss} (h : ¬ ((copiesOf c.ctx c.grp.gid).isEmpty && !sysCopyGoing c.ctx c.grp) = true) :
    xfrwOp m w c = { c with grp := { c.grp with status := .ceded (weight w.i) .xfrw none } } := if_neg h

/-! ### The statement -/

/-- What bars a system copy (R288). -/
theorem sysCopyTrap_spec {t : Template} {n : Nat} {e : Trap} (h : sysCopyTrap t n = some e) :
    e.cls = 5 ∧ e.code = 5 ∧ (e.faddr = BitVec.ofNat 64 t.src ∨ e.faddr = BitVec.ofNat 64 t.dst) := by
  unfold sysCopyTrap at h
  dsimp only at h
  split at h
  · cases h
    exact ⟨rfl, rfl, .inl rfl⟩
  · split at h
    · cases h
      exact ⟨rfl, rfl, .inr rfl⟩
    · split at h
      · cases h
        exact ⟨rfl, rfl, .inr rfl⟩
      · cases h

section
variable {ch : BitVec 2} {a kp : BitVec 8} {s : State} {t : Template} {ws : List Word}

/-- A check of `xfr` that fails after the level raises its trap in the state that it checked. -/
theorem xfr_raises (hi : Issues (.xfr ch a kp) s.cpu.grp)
    (hsys : XferListed s a → (xferTemplate s a).dir = 2 → (xferState s).cpu.grp.sys = true) {e : Trap}
    (hop : xfrOp ch a kp s.mem ⟨.xfr ch a kp, none⟩ s.cpu = (xferState s).cpu.trap ⟨.xfr ch a kp, none⟩ e) :
    ∃ v, exec (.xfr ch a kp) s = .next v ∧ TakesTrap (wordOf (.xfr ch a kp)) none e 0 (xferState s) v := by
  rw [exec_xfr hi hsys, hop]
  exact ⟨_, rfl, takesTrap (wordOf (.xfr ch a kp)) none e 0 (xferState s)⟩

end

/-- A pending copy joins those of the context. -/
theorem pendCopy_ctx {w : Iss} {c : Cpu} {k : Copy} {x : Ctx} (hcopies : c.ctx.copies = x.copies) (hnext : c.ctx.nextCopy = x.nextCopy) :
    (pendCopy w c k).ctx = { c.ctx with copies := x.copies ++ [k], nextCopy := x.nextCopy + 1 } := by
  rw [← hcopies, ← hnext]
  rfl

/-- `xfrw` retires when nothing of the group is left, else it cedes. -/
theorem xfrw_did (s : State) : ∃ v, exec .xfrw s = .next v ∧ GroupOnly s v ∧
    if (s.cpu.ctx.copies.filter fun k => k.stamp.gid == s.cpu.grp.gid) = [] ∧
        (∀ k ∈ s.cpu.ctx.sysCopies, k.id ∈ s.cpu.grp.sysCopies → k.done = true) then
      v.cpu.grp = { s.cpu.grp.after .xfrw (s.cpu.grp.pc + 4) with sysCopies := [] }
    else v.cpu.grp = { s.cpu.grp with status := .ceded 1 .xfrw none } := by
  have hexec : exec .xfrw s = .next { s with cpu := xfrwOp s.mem ⟨.xfrw, none⟩ s.cpu } := issue_of_issues ⟨rfl, fun _ => rfl⟩ rfl
  rw [hexec]
  by_cases hdone : ((copiesOf s.cpu.ctx s.cpu.grp.gid).isEmpty && !sysCopyGoing s.cpu.ctx s.cpu.grp) = true
  · rw [xfrwOp_done hdone]
    refine ⟨_, rfl, ⟨rfl, rfl, rfl, rfl, fun _ => rfl⟩, ?_⟩
    rw [if_pos ((copies_done_iff _ _).1 hdone)]
    rfl
  · rw [xfrwOp_waits hdone]
    refine ⟨_, rfl, ⟨rfl, rfl, rfl, rfl, fun _ => rfl⟩, ?_⟩
    rw [if_neg (mt (copies_done_iff _ _).2 hdone)]
    rfl

/-- `xfrq` counts them. -/
theorem xfrq_did {d : BitVec 8} {s : State} (hi : Issues (.xfrq d) s.cpu.grp) : ∃ v, exec (.xfrq d) s = .next v ∧
    Did (.xfrq d) [.k d.toNat] s v ∧
      v.cpu.grp.readK d = BitVec.ofNat 32 ((copiesOf s.cpu.ctx s.cpu.grp.gid).length + s.cpu.grp.sysCopies.length) :=
  uniOp_did (f := fun g => BitVec.ofNat 32 ((copiesOf s.cpu.ctx g.gid).length + g.sysCopies.length)) hi (namesOk_of_issues hi)
    fun hw => hi.2 hw

/-- Settles O38: each check that fails is the first to do so on the path of `xfrOp`, and past all of them the copy is pending. -/
theorem copies : Obligations.Copies := by
  unfold Obligations.Copies
  intro ch d a kp s i u g x n t len ws origin counts dist trap fault va listed formed params
  refine ⟨fun hi => ?_, ?_, ?_⟩
  · have hreads : XferReads s a kp u.cpu t ws := ⟨rfl, rfl, rfl⟩
    have hformed : listed → formed → params → XferFormed s a kp u.cpu t ws := fun hl hf hp =>
      { toXferReads := hreads
        listed := Nat.not_le_of_lt hl
        formed := Bool.and_eq_true_iff.2 hf
        allowed := by simpa using hp }
    have hraise : ∀ {e}, (listed → t.dir = 2 → g.sys = true) →
        xfrOp ch a kp s.mem ⟨i, none⟩ s.cpu = u.cpu.trap ⟨i, none⟩ e → trap e := fun hsys hop =>
      xfr_raises hi hsys hop
    have hmemory : ∀ {e}, t.dir ≠ 2 → xfrOp ch a kp s.mem ⟨i, none⟩ s.cpu = u.cpu.trap ⟨i, none⟩ e → trap e := fun hdir =>
      hraise fun _ h => absurd h hdir
    refine ⟨fun hl => ?_, fun hl hdir hsys => ?_, fun hl hsys hf => ?_, fun hl hsys hf hp => ?_, fun hl hf hp hdir hrec => ?_,
      fun r p hl hf hp hdir hrec hblock => ?_, fun r hl hf hp hdir hok => ?_, fun hl hf hp hdir hsys => ?_,
      fun hl hf hp hdir hsys horigin hcounts hnone => ?_⟩
    · exact hraise (fun h => absurd h hl) (xfrOp_unlisted hreads (Nat.le_of_not_lt hl))
    · exact ⟨_, exec_xfr_user hi hl hdir hsys, takesTrap (wordOf i) none _ 0 s⟩
    · have hunformed : (templateRaw s.mem x.tmplb n && templateOk t) = false := by simpa [formed] using hf
      exact hraise (fun _ => hsys) (xfrOp_unformed hreads (Nat.not_le_of_lt hl) hunformed)
    · have hunallowed : (decide (160 < kp.toNat + len) || !paramsOk t ws) = true := by
        simp only [params, not_and_or, Nat.not_le] at hp
        simpa using hp
      exact hraise (fun _ => hsys) (xfrOp_unallowed hreads (Nat.not_le_of_lt hl) (Bool.and_eq_true_iff.2 hf) hunallowed)
    · exact hmemory hdir ((hformed hl hf hp).xfrOp_noRecord hdir hrec)
    · have h := hformed hl hf hp
      refine ⟨fun hfit => hmemory hdir (h.xfrOp_unfit hdir hrec hfit),
        fun hfit hwhole => hmemory hdir (h.xfrOp_partBlocks hdir hrec hfit hwhole), fun hfit hwhole => ?_⟩
      have hfits : XferFits s a kp u.cpu t ws r := { h with dir := hdir, record := hrec, fits := hfit, blocks := hwhole }
      refine ⟨fun y hy => hmemory hdir (hfits.xfrOp_padTrap (padItemsTrap_misaligned hy)), fun halign =>
        ⟨fun y hy => ?_, fun hvalid => ?_⟩⟩
      · exact hmemory hdir (hfits.xfrOp_padTrap ((congrArg (padItemsTrap · _) hblock).trans (padItemsTrap_outside halign hy)))
      · have hpad := (congrArg (padItemsTrap · _) hblock).trans (padItemsTrap_none halign hvalid)
        refine ⟨fun k e hk hpre => ?_, fun hsound y cls code hfirst hfails => ?_⟩
        · exact elemTrap_faults hf.2 hfit (List.mem_of_getElem? hk) fun e' he =>
            hmemory hdir (hfits.xfrOp_elemTrap hpad (findSome?_zipIdx_of_first hk he hpre))
        · have helems : ((xferElems t r ws).zipIdx.findSome? fun z => elemTrap t r g.gid z.2 z.1) = none :=
            List.findSome?_eq_none_iff.2 fun z hz => hsound z.2 z.1 (List.mk_mem_zipIdx_iff_getElem?.1 hz)
          exact hmemory hdir (hfits.xfrOp_extrasTrap hpad helems (extrasTrap_of_first (u := u) hfirst hfails))
    · intro els hread p hblock
      have hfits : XferFits s a kp u.cpu t ws r :=
        { hformed hl hf hp with dir := hdir, record := hok.record, fits := hok.fits, blocks := hok.blocks }
      obtain ⟨dir, tags, scales, hop, hscales⟩ := hfits.xfrOp_pends (ch := ch) (w := ⟨i, none⟩) hblock (hblock ▸ hok.pad)
        (List.findSome?_eq_none_iff.2 hok.elems) hok.extras hread
      have hland : (issuedCopy ch u.cpu t ws r).landAt = if t.dir = 0 then p.syncs + dist else x.leg + dist - 1 := by
        unfold issuedCopy
        rw [hblock]
        rfl
      have hcopies : (if t.dir = 1 then x.setBlock (padTags p tags) else x).copies = x.copies := by split <;> rfl
      have hnext : (if t.dir = 1 then x.setBlock (padTags p tags) else x).nextCopy = x.nextCopy := by split <;> rfl
      rw [exec_xfr hi fun _ h => absurd h hdir, hop]
      exact ⟨_, { issuedCopy ch u.cpu t ws r with src := xferSource u p t r ws, scales := scales }, tags, rfl, rfl, rfl, rfl, fun _ => rfl,
        rfl, pendCopy_ctx hcopies hnext, rfl, rfl, rfl, rfl, rfl, rfl, rfl, rfl, rfl, rfl, rfl, beq_iff_eq, hland, rfl, hscales⟩
    · have h := hformed hl hf hp
      refine ⟨fun hne => hraise (fun _ _ => hsys) (h.xfrOp_partRange hdir hne), fun e horigin hcounts he => ?_⟩
      obtain ⟨hcls, hcode, haddr⟩ := sysCopyTrap_spec he
      exact ⟨hcls, hcode, haddr, hraise (fun _ _ => hsys) (h.xfrOp_rangeTrap hdir horigin hcounts he)⟩
    · have hop := (hformed hl hf hp).xfrOp_startsSystem (ch := ch) (w := ⟨i, none⟩) hdir horigin hcounts hnone
      rw [exec_xfr hi fun _ _ => hsys, hop]
      exact ⟨_, rfl, ⟨rfl, rfl, rfl, fun _ => rfl⟩, rfl, rfl⟩
  · exact xfrw_did s
  · exact xfrq_did

end Sys2Proof.Machine

/-! SUPPORT. The shifts, the rotation and the bit counts of R135, bit by bit and as numbers (O2). -/

namespace Sys2Proof.Machine

theorem elemIn_lt (g : Group) (x : Dword) (e : Nat) : elemIn g x e < 2 ^ etyBits g.ety := elemOf_lt _ _ _

theorem toI_bounds {n : Nat} (hn : 0 < n) (sg : Bool) (x : Nat) : minI n sg ≤ toI n sg x ∧ toI n sg x ≤ maxI n sg := by
  have hlt : x % 2 ^ n < 2 ^ n := Nat.mod_lt _ (by positivity)
  have hp : 2 ^ n = 2 * 2 ^ (n - 1) := by rw [← pow_succ']; congr 1; omega
  have hc : ((2 ^ (n - 1) : Nat) : Int) = 2 ^ (n - 1) := by push_cast; rfl
  have hc' : (2 : Int) ^ n = 2 * 2 ^ (n - 1) := by exact_mod_cast hp
  unfold toI minI maxI
  cases sg
  · simp only [Bool.false_and, Bool.false_eq_true, if_false]
    omega
  · simp only [Bool.true_and, if_true, decide_eq_true_eq]
    split <;> omega

theorem eShl_mod (n : Nat) (sg sat : Bool) (a b d : Nat) : eShl n sg sat a b d % 2 ^ n = a * 2 ^ b % 2 ^ n := by
  unfold eShl
  split
  · next h =>
    obtain ⟨k, rfl⟩ := Nat.exists_eq_add_of_le h
    rw [Nat.pow_add, Nat.mul_left_comm, Nat.mul_mod_right, Nat.zero_mod]
  · rfl

theorem eShr_mod {n a : Nat} (ha : a < 2 ^ n) (sg sat : Bool) (b d : Nat) : eShr n sg sat a b d % 2 ^ n = a / 2 ^ b := by
  unfold eShr
  split
  · next h => exact (Nat.div_eq_of_lt (ha.trans_le (Nat.pow_le_pow_right (by decide) h))).symm
  · exact Nat.mod_eq_of_lt ((Nat.div_le_self _ _).trans_lt ha)

/-- A shift of n − 1 or more leaves copies of the sign. -/
theorem toI_div_pow {n k : Nat} (hn : 0 < n) (hk : n - 1 ≤ k) (x : Nat) : toI n true x / 2 ^ k = if toI n true x < 0 then -1 else 0 := by
  obtain ⟨hlo, hhi⟩ := toI_bounds hn true x
  have hpow : (2 : Int) ^ (n - 1) ≤ 2 ^ k := pow_le_pow_right₀ (by decide) hk
  simp only [minI, maxI, if_true] at hlo hhi
  split
  · exact (Int.ediv_emod_unique (r := toI n true x + 2 ^ k) (by omega)).2 ⟨by ring, by omega, by omega⟩ |>.1
  · exact Int.ediv_eq_zero_of_lt (by omega) (by omega)

theorem toI_eSar {n a : Nat} (hn : 0 < n) (ha : a < 2 ^ n) (sg sat : Bool) (b d : Nat) :
    toI n true (eSar n sg sat a b d) = toI n true a / 2 ^ b := by
  unfold eSar
  rw [toI_div n hn a ha]
  split
  · next h => rw [toI_div_pow hn le_rfl, toI_div_pow hn (by omega)]
  · rfl

/-- The bits of a rotation: those pushed out at the top come in at the bottom. -/
theorem eRot_testBit {n a : Nat} (ha : a < 2 ^ n) (sg sat : Bool) (b d : Nat) {i : Nat} (hi : i < n) :
    (eRot n sg sat a b d % 2 ^ n).testBit ((i + b) % n) = a.testBit i := by
  have hn : 0 < n := by omega
  have hs : b % n < n := Nat.mod_lt _ hn
  have hidx : (i + b) % n = (i + b % n) % n := by rw [Nat.add_mod_mod]
  unfold eRot
  rw [hidx]
  generalize b % n = s at hs ⊢
  have hlow : a / 2 ^ (n - s) < 2 ^ s := by
    rw [Nat.div_lt_iff_lt_mul (by positivity), ← pow_add]
    exact ha.trans_le (Nat.pow_le_pow_right (by decide) (by omega))
  have hbit : ∀ j, (a * 2 ^ s + a / 2 ^ (n - s)).testBit j = if j < s then (a / 2 ^ (n - s)).testBit j else a.testBit (j - s) := fun j => by
    rw [Nat.mul_comm]; exact Nat.testBit_two_pow_mul_add a hlow j
  rw [Nat.testBit_mod_two_pow, hbit, decide_eq_true (Nat.mod_lt _ hn), Bool.true_and]
  obtain h | h := Nat.lt_or_ge (i + s) n
  · rw [Nat.mod_eq_of_lt h, if_neg (by omega), Nat.add_sub_cancel]
  · rw [Nat.mod_eq_sub_mod h, Nat.mod_eq_of_lt (by omega), if_pos (by omega), Nat.testBit_div_two_pow]
    congr 1
    omega

theorem eClz_le {n b : Nat} (sg sat : Bool) (a d : Nat) : eClz n sg sat a b d ≤ n := by
  unfold eClz
  split <;> omega

theorem eClz_spec {n b : Nat} (hb : b < 2 ^ n) (sg sat : Bool) (a d : Nat) :
    b < 2 ^ (n - eClz n sg sat a b d) ∧ (eClz n sg sat a b d < n → 2 ^ (n - 1 - eClz n sg sat a b d) ≤ b) := by
  unfold eClz
  split
  · next h => exact ⟨by rw [h]; positivity, fun hlt => absurd hlt (lt_irrefl n)⟩
  · next h =>
    have hlog : b.log2 < n := (Nat.log2_lt h).2 hb
    rw [show n - (n - 1 - b.log2) = b.log2 + 1 by omega, show n - 1 - (n - 1 - b.log2) = b.log2 by omega]
    exact ⟨Nat.lt_log2_self, fun _ => Nat.log2_self_le h⟩

/-- The reversal of the lowest k bits, in n: one bit more goes below those before it. -/
theorem brevFold_testBit {n : Nat} (b : Nat) {k : Nat} (hk : k ≤ n) :
    let s := (List.range k).foldl (fun s i => if b.testBit i then s + 2 ^ (n - 1 - i) else s) 0
    2 ^ (n - k) ∣ s ∧ ∀ j, s.testBit j = (decide (n - k ≤ j ∧ j < n) && b.testBit (n - 1 - j)) := by
  induction k with
  | zero => exact ⟨dvd_zero _, fun j => by rw [show decide (n - 0 ≤ j ∧ j < n) = false by rw [decide_eq_false_iff_not]; omega]; simp⟩
  | succ k ih =>
    obtain ⟨⟨q, hq⟩, hbit⟩ := ih (by omega)
    dsimp only
    rw [List.range_succ, List.foldl_append, List.foldl_cons, List.foldl_nil]
    generalize (List.range k).foldl (fun s i => if b.testBit i then s + 2 ^ (n - 1 - i) else s) 0 = s at hq hbit ⊢
    have hpow : 2 ^ (n - k) = 2 ^ (n - (k + 1)) * 2 := by rw [← pow_succ]; congr 1; omega
    have hplace : n - 1 - k = n - (k + 1) := by omega
    refine ⟨?_, fun j => ?_⟩
    · rw [hq, hpow, hplace, mul_assoc]
      split
      · exact (dvd_mul_right _ _).add dvd_rfl
      · exact dvd_mul_right _ _
    · have hnew : (if b.testBit k = true then s + 2 ^ (n - 1 - k) else s).testBit j = (s.testBit j || decide (n - 1 - k = j) && b.testBit k) := by
        split
        · next h =>
          rw [hq, Nat.two_pow_add_eq_or_of_lt (Nat.pow_lt_pow_right (by decide) (by omega)), Nat.testBit_or, Nat.testBit_two_pow, h, Bool.and_true]
        · next h => rw [Bool.eq_false_iff.2 h, Bool.and_false, Bool.or_false]
      rw [hnew, hbit, Bool.eq_iff_iff]
      simp only [Bool.or_eq_true, Bool.and_eq_true, decide_eq_true_eq]
      constructor
      · rintro (⟨⟨h1, h2⟩, h3⟩ | ⟨rfl, h3⟩)
        · exact ⟨⟨by omega, h2⟩, h3⟩
        · exact ⟨⟨by omega, by omega⟩, by rwa [show n - 1 - (n - 1 - k) = k by omega]⟩
      · rintro ⟨⟨h1, h2⟩, h3⟩
        by_cases h : n - k ≤ j
        · exact Or.inl ⟨⟨h, h2⟩, h3⟩
        · exact Or.inr ⟨by omega, by rwa [show n - 1 - j = k by omega] at h3⟩

theorem eBrev_testBit {n b i : Nat} (hi : i < n) (sg sat : Bool) (a d : Nat) :
    (eBrev n sg sat a b d % 2 ^ n).testBit (n - 1 - i) = b.testBit i := by
  unfold eBrev
  rw [Nat.testBit_mod_two_pow, (brevFold_testBit b le_rfl).2, decide_eq_true (show n - 1 - i < n by omega),
    decide_eq_true (show n - n ≤ n - 1 - i ∧ n - 1 - i < n by omega), show n - 1 - (n - 1 - i) = i by omega]
  rfl

/-- The words of R135: shifts, the rotation, the counts and the reversal. -/
theorem IntOp.result_bits {o : IntOp} (h : o ∈ [.shl, .shr, .sar, .rot, .clz, .popc, .brev]) {n : Nat} (hn : 0 < n) (sg sat : Bool) {a b : Nat}
    (ha : a < 2 ^ n) (hb : b < 2 ^ n) (d : Nat) : o.Result n sg sat a b d (o.elem n sg sat a b d % 2 ^ n) := by
  cases o
  case shl => exact eShl_mod n sg sat a b d
  case shr => exact eShr_mod ha sg sat b d
  case sar => exact (toI_mod n true _).trans (toI_eSar hn ha sg sat b d)
  case rot => exact fun i hi => eRot_testBit ha sg sat b d hi
  case clz =>
    have hle := eClz_le (n := n) (b := b) sg sat a d
    show eClz n sg sat a b d % 2 ^ n ≤ n ∧ b < 2 ^ (n - eClz n sg sat a b d % 2 ^ n) ∧
      (eClz n sg sat a b d % 2 ^ n < n → 2 ^ (n - 1 - eClz n sg sat a b d % 2 ^ n) ≤ b)
    rw [Nat.mod_eq_of_lt (hle.trans_lt Nat.lt_two_pow_self)]
    exact ⟨hle, eClz_spec hb sg sat a d⟩
  case popc =>
    have hle : ePopc n sg sat a b d ≤ n := (List.length_filter_le _ _).trans (List.length_range).le
    exact (Nat.mod_eq_of_lt (hle.trans_lt Nat.lt_two_pow_self)).trans (popc_eq n b)
  case brev => exact fun i hi => eBrev_testBit hi sg sat a d
  all_goals simp at h

/-- Settles O2: each word is its element operation in every element of the shared operation, and the operation's result is that of R135. -/
theorem vectorShiftsAndCounts : Obligations.VectorShiftsAndCounts := by
  unfold Obligations.VectorShiftsAndCounts
  intro o d a b s ho i g wide hi hm
  obtain ⟨t, ht, hdid, hshift, hres⟩ := intOp_did hi hm
  exact ⟨t, ht, hdid, hshift, hres.mono fun j e r hr =>
    hr ▸ IntOp.result_bits ho (etyBits_pos _) _ _ (elemIn_lt _ _ _) (elemIn_lt _ _ _) _⟩

end Sys2Proof.Machine

/-! SUPPORT. The bitwise words, the moves and the bit fields (R134, R136; O3): what a lane of 32 bits holds, and fields bit by bit. -/

namespace Sys2Proof.Machine

/-! ### Lanes of 32 bits -/

/-- A lane that is no pair holds 32 bits (R40). -/
theorem laneV_narrow (g : Group) (n : BitVec 8) (j : Nat) : g.laneV false n j = (laneAt (g.readV n) j).setWidth 64 := by
  simp [Group.laneV]

theorem laneK_narrow (g : Group) (n : BitVec 8) : g.laneK false n = (g.readK n).setWidth 64 := by
  simp [Group.laneK]

/-- Thirty-two bits taken of a lane of 32 bits are the lane. -/
theorem setWidth_low (x : Word) : ((x.setWidth 64).setWidth 32).setWidth 64 = x.setWidth 64 := by
  refine congrArg (BitVec.setWidth 64) (BitVec.eq_of_toNat_eq ?_)
  rw [BitVec.toNat_setWidth, BitVec.toNat_setWidth, Nat.mod_eq_of_lt (x.isLt.trans (by decide)), Nat.mod_eq_of_lt x.isLt]

theorem laneV_low (g : Group) (n : BitVec 8) (j : Nat) : ((g.laneV false n j).setWidth 32).setWidth 64 = g.laneV false n j := by
  rw [laneV_narrow, setWidth_low]

theorem srcLane_low (g : Group) (b : Src) (j : Nat) : ((srcLane g false b j).setWidth 32).setWidth 64 = srcLane g false b j := by
  cases b with
  | v n => exact laneV_low g n j
  | k n => exact (congrArg (fun x => (x.setWidth 32).setWidth 64) (laneK_narrow g n)).trans ((setWidth_low _).trans (laneK_narrow g n).symm)

theorem toNat_lt_of_low {x : Dword} (h : (x.setWidth 32).setWidth 64 = x) : x.toNat < 2 ^ 32 := by
  rw [← h, BitVec.toNat_setWidth]
  exact (Nat.mod_le _ _).trans_lt (x.setWidth 32).isLt

theorem laneV_lt (g : Group) (n : BitVec 8) (j : Nat) : (g.laneV false n j).toNat < 2 ^ 32 := toNat_lt_of_low (laneV_low g n j)
theorem srcLane_lt (g : Group) (b : Src) (j : Nat) : (srcLane g false b j).toNat < 2 ^ 32 := toNat_lt_of_low (srcLane_low g b j)

theorem toNat_laneV_narrow (g : Group) (n : BitVec 8) (j : Nat) : (g.laneV false n j).toNat = (laneAt (g.readV n) j).toNat := by
  rw [laneV_narrow, BitVec.toNat_setWidth]
  exact Nat.mod_eq_of_lt ((laneAt (g.readV n) j).isLt.trans (by decide))

/-- One element fills a lane of 32 bits. -/
theorem elemOf_lane {x : Dword} (h : x.toNat < 2 ^ 32) : elemOf 32 x 0 = x.toNat := by
  rw [elemOf, Nat.mul_zero, pow_zero, Nat.div_one, Nat.mod_eq_of_lt h]

/-! ### Bitwise words -/

/-- The operation of a bitwise word on a whole lane or pair. -/
def BitOp.lane : BitOp → Group → Dword → Dword → Dword → Dword
  | .and => wAnd
  | .or => wOr
  | .xor => wXor
  | .andn => wAndn
  | .not => wNot
  | .mov => wMov

/-- The register that the operation reads as a: a word of one source reads v252, whose value it ignores. -/
def BitOp.srcA (o : BitOp) (a : BitVec 8) : BitVec 8 := if o.unary then 252 else a

theorem exec_bitOp (o : BitOp) (d a : BitVec 8) (b : Src) (s : State) :
    exec (o.word d a b) s = issue noPre (vecOp isAny d (o.srcA a) b o.lane) (o.word d a b) s := by
  cases o <;> cases b <;> rfl

theorem writable_of_bitOp {o : BitOp} {d a : BitVec 8} {b : Src} {g : Group} (h : Issues (o.word d a b) g) : g.Writable d := by
  have hn := namesOk_of_issues h
  obtain ⟨-, hw⟩ := h
  refine writable_of ?_ fun hin => ?_
  · cases o <;> cases b <;> simp_all [BitOp.word, namesOk]
  · specialize hw hin
    cases o <;> cases b <;> simp_all [BitOp.word, windowOk]

theorem vecMode_bitSrcA {o : BitOp} {d a : BitVec 8} {b : Src} {g : Group} (h : VecMode isAny g [d] (if o.unary then [] else [a]) [b]) :
    VecMode isAny g [d] [o.srcA a] [b] := by
  refine ⟨h.1, fun hw => ?_⟩
  obtain ⟨hd, ha, hb⟩ := h.2 hw
  refine ⟨hd, fun n hn => ?_, hb⟩
  rw [List.mem_singleton.1 hn]
  unfold BitOp.srcA
  split
  · decide
  · next hu => exact ha a (by simp [hu])

/-- A bitwise word works bit by bit; one of one source on the bits of b alone. -/
theorem BitOp.lane_getLsbD (o : BitOp) (g : Group) (x y z : Dword) {k : Nat} (hk : k < 64) :
    (o.lane g x y z).getLsbD k = o.bit (x.getLsbD k) (y.getLsbD k) := by
  cases o with
  | and => exact BitVec.getLsbD_and
  | or => exact BitVec.getLsbD_or
  | xor => exact BitVec.getLsbD_xor
  | andn => simp [lane, wAndn, bit, hk]
  | not => simp [lane, wNot, bit, hk]
  | mov => rfl

theorem BitOp.bit_of_unary {o : BitOp} (h : o.unary = true) (x x' y : Bool) : o.bit x y = o.bit x' y := by
  cases o
  case not | mov => rfl
  all_goals exact Bool.noConfusion h

/-- The operand that a word of one source reads as a does not matter. -/
theorem BitOp.bit_srcA (o : BitOp) (f : BitVec 8 → Bool) (a : BitVec 8) (y : Bool) : o.bit (f (o.srcA a)) y = o.bit (f a) y := by
  unfold srcA
  split
  · next h => exact bit_of_unary h _ _ y
  · rfl

/-! ### Bit fields (R136) -/

/-- The element operation of a bit-field word. -/
def FieldOp.elem : FieldOp → Nat → Bool → Bool → Nat → Nat → Nat → Nat
  | .bfx => eBfx
  | .bfi => eBfi

theorem exec_fieldOp (o : FieldOp) (d a : BitVec 8) (b : Src) (s : State) :
    exec (o.word d a b) s = issue noPre (vecOp isW32 d a b (intLane o.elem)) (o.word d a b) s := by
  cases o <;> cases b <;> rfl

theorem writable_of_fieldOp {o : FieldOp} {d a : BitVec 8} {b : Src} {g : Group} (h : Issues (o.word d a b) g) : g.Writable d := by
  have hn := namesOk_of_issues h
  obtain ⟨-, hw⟩ := h
  refine writable_of ?_ fun hin => ?_
  · cases o <;> cases b <;> simp_all [FieldOp.word, namesOk]
  · specialize hw hin
    cases o <;> cases b <;> simp_all [FieldOp.word, windowOk]

/-- The element types of W32: one element of 32 bits a lane. -/
theorem isW32_width {t : Nat} (h : isW32 t = true) : isWide t = false ∧ etyBits t = 32 := by
  simp only [isW32, Bool.or_eq_true, beq_iff_eq] at h
  rcases h with rfl | rfl <;> decide

/-- Bits of a number read in l bits and stored in n: past the field, copies of its sign. -/
theorem wrapI_toI_testBit {l n : Nat} (hl : 0 < l) (hln : l ≤ n) (sg : Bool) (x : Nat) {i : Nat} (hi : i < n) :
    (wrapI n (toI l sg x)).testBit i = if i < l then x.testBit i else (sg && x.testBit (l - 1)) := by
  have hlt : x % 2 ^ l < 2 ^ l := Nat.mod_lt _ (by positivity)
  have hp : 2 ^ l = 2 * 2 ^ (l - 1) := by rw [← pow_succ']; congr 1; omega
  have hle : 2 ^ l ≤ 2 ^ n := Nat.pow_le_pow_right (by decide) hln
  have htop : x.testBit (l - 1) = decide (2 ^ (l - 1) ≤ x % 2 ^ l) := by
    rw [show x.testBit (l - 1) = (x % 2 ^ l).testBit (l - 1) by rw [Nat.testBit_mod_two_pow, decide_eq_true (by omega), Bool.true_and]]
    by_cases h : 2 ^ (l - 1) ≤ x % 2 ^ l
    · rw [decide_eq_true h, show x % 2 ^ l = 2 ^ (l - 1) + (x % 2 ^ l - 2 ^ (l - 1)) by omega, Nat.testBit_two_pow_add_eq,
        Nat.testBit_lt_two_pow (by omega)]
      rfl
    · rw [decide_eq_false h, Nat.testBit_lt_two_pow (by omega)]
  have hlow : ∀ {j}, j < l → (x % 2 ^ l).testBit j = x.testBit j := fun {j} hj => by rw [Nat.testBit_mod_two_pow, decide_eq_true hj, Bool.true_and]
  rw [htop]
  by_cases h : (sg && decide (2 ^ (l - 1) ≤ x % 2 ^ l)) = true
  · have hval : wrapI n (toI l sg x) = 2 ^ l * (2 ^ (n - l) - 1) + x % 2 ^ l := by
      have hsub : 2 ^ l * (2 ^ (n - l) - 1) + 2 ^ l = 2 ^ n := by
        rw [Nat.mul_sub, ← pow_add, Nat.add_sub_cancel' hln, mul_one, Nat.sub_add_cancel hle]
      have hcast : (wrapI n (toI l sg x) : Int) = ((2 ^ l * (2 ^ (n - l) - 1) + x % 2 ^ l : Nat) : Int) := by
        have htoI : toI l sg x = ((x % 2 ^ l : Nat) : Int) - ((2 ^ l : Nat) : Int) := by
          unfold toI; rw [if_pos h]; push_cast; rfl
        have hpow : ((2 : Int) ^ n) = ((2 ^ n : Nat) : Int) := by push_cast; rfl
        rw [wrapI_cast, htoI, hpow, ← Int.add_emod_right, Int.emod_eq_of_lt] <;> omega
      exact_mod_cast hcast
    rw [h, hval]
    obtain hil | hil := Nat.lt_or_ge i l
    · rw [if_pos hil, Nat.testBit_two_pow_mul_add _ hlt, if_pos hil, hlow hil]
    · rw [if_neg (by omega), Nat.testBit_two_pow_mul_add _ hlt, if_neg (by omega), Nat.testBit_two_pow_sub_one, decide_eq_true]
      omega
  · have hval : wrapI n (toI l sg x) = x % 2 ^ l := by
      have hcast : (wrapI n (toI l sg x) : Int) = ((x % 2 ^ l : Nat) : Int) := by
        have htoI : toI l sg x = ((x % 2 ^ l : Nat) : Int) := by unfold toI; rw [if_neg h]
        rw [wrapI_cast, htoI]
        exact Int.emod_eq_of_lt (by omega) (by exact_mod_cast hlt.trans_le hle)
      exact_mod_cast hcast
    rw [Bool.eq_false_iff.2 h, hval]
    obtain hil | hil := Nat.lt_or_ge i l
    · rw [if_pos hil, hlow hil]
    · rw [if_neg (by omega), Nat.testBit_lt_two_pow (hlt.trans_le (Nat.pow_le_pow_right (by decide) hil))]

/-- The extracted field, extended by its sign where the type is signed. -/
theorem eBfx_testBit (sg sat : Bool) (a b d : Nat) {i : Nat} (hi : i < 32) :
    (eBfx 32 sg sat a b d).testBit i = if i < fieldLen b then a.testBit (b % 32 + i) else (sg && 0 < fieldLen b && a.testBit (b % 32 + fieldLen b - 1)) := by
  unfold eBfx
  dsimp only
  split
  · next h => simp [h]
  · next h =>
    have hpos : 0 < fieldLen b := Nat.pos_of_ne_zero h
    have hle : fieldLen b ≤ 32 := (Nat.min_le_right _ _).trans (Nat.sub_le _ _)
    rw [wrapI_toI_testBit hpos hle sg _ hi, Nat.testBit_div_two_pow, Nat.testBit_div_two_pow, decide_eq_true hpos, Bool.and_true,
      Nat.add_comm i, show b % 32 + fieldLen b - 1 = fieldLen b - 1 + b % 32 by omega]

/-- The inserted field between what was below it and above it. -/
theorem eBfi_testBit (n : Nat) (sg sat : Bool) (a b d i : Nat) :
    (eBfi n sg sat a b d).testBit i = if b % 32 ≤ i ∧ i < b % 32 + fieldLen b then a.testBit (i - b % 32) else d.testBit i := by
  unfold eBfi
  dsimp only
  generalize fieldLen b = l
  generalize b % 32 = p
  have hlow : d % 2 ^ p < 2 ^ p := Nat.mod_lt _ (by positivity)
  have hfield : a % 2 ^ l < 2 ^ l := Nat.mod_lt _ (by positivity)
  have hform : d % 2 ^ p + a % 2 ^ l * 2 ^ p + d / 2 ^ (p + l) * 2 ^ (p + l) = 2 ^ p * (2 ^ l * (d / 2 ^ (p + l)) + a % 2 ^ l) + d % 2 ^ p := by
    rw [pow_add]; ring
  rw [hform, Nat.testBit_two_pow_mul_add _ hlow]
  by_cases h1 : i < p
  · rw [if_pos h1, if_neg (by omega), Nat.testBit_mod_two_pow, decide_eq_true h1, Bool.true_and]
  · rw [if_neg h1, Nat.testBit_two_pow_mul_add _ hfield]
    by_cases h2 : i - p < l
    · rw [if_pos h2, if_pos (by omega), Nat.testBit_mod_two_pow, decide_eq_true h2, Bool.true_and]
    · rw [if_neg h2, if_neg (by omega), Nat.testBit_div_two_pow]
      congr 1
      omega

theorem FieldOp.result_elem (o : FieldOp) (sg sat : Bool) (a b d : Nat) : o.Result sg a b d (o.elem 32 sg sat a b d % 2 ^ 32) := by
  have hmod : ∀ {x i : Nat}, i < 32 → (x % 2 ^ 32).testBit i = x.testBit i := fun {x i} hi => by
    rw [Nat.testBit_mod_two_pow, decide_eq_true hi, Bool.true_and]
  cases o with
  | bfx => exact fun i hi => (hmod hi).trans (eBfx_testBit sg sat a b d hi)
  | bfi => exact fun i hi => (hmod hi).trans (eBfi_testBit 32 sg sat a b d i)

/-- Settles O3: each word is the shared operation, bit by bit on lanes or pairs, or on the one element of a lane. -/
theorem vectorLogicAndFields : Obligations.VectorLogicAndFields := by
  unfold Obligations.VectorLogicAndFields
  intro d a b s
  refine ⟨?_, ?_⟩
  · intro o i g wide hi hm
    obtain ⟨hdid, hshift, hlane⟩ := vecOp_did (f := o.lane) (i := i) (vecMode_bitSrcA hm) (writable_of_bitOp hi)
    refine ⟨_, (exec_bitOp o d a b s).trans (issue_of_issues hi rfl), hdid, hshift, fun j k hk => ?_⟩
    have hj := congrArg (·.getLsbD k) (hlane j)
    have hbit := o.lane_getLsbD g (g.laneV wide (o.srcA a) j) (srcLane g wide b j) (g.laneV wide d j) (k := k) (by split at hk <;> omega)
    rw [o.bit_srcA fun x => (g.laneV wide x j).getLsbD k] at hbit
    refine hj.trans ?_
    split
    · split
      · exact hbit
      · next hnw =>
        have hk32 : k < 32 := by rwa [if_neg hnw] at hk
        refine Eq.trans ?_ hbit
        simp only [BitVec.getLsbD_setWidth, hk32, show k < 64 by omega, decide_true, Bool.true_and]
        rfl
    · rfl
  · intro o i g hi hw32
    obtain ⟨hnarrow, hbits⟩ := isW32_width hw32
    obtain ⟨hdid, hshift, hlane⟩ := vecOp_did (f := intLane o.elem) (i := i) (d := d) (a := a) (b := b) (ok := isW32)
      ⟨hw32, fun h => absurd h (by rw [hnarrow]; decide)⟩ (writable_of_fieldOp hi)
    have hres := elemResults_of_lanes hlane (fun j => rfl) (R := fun j e r => o.Result (etySigned g.ety) (laneAt (g.readV a) j).toNat (srcLane g false b j).toNat
      (laneAt (g.readV d) j).toNat r) fun j hj e he => ?_
    · rw [hnarrow] at hdid hshift
      exact ⟨_, (exec_fieldOp o d a b s).trans (issue_of_issues hi rfl), hdid, hshift, hres⟩
    · have he0 : e = 0 := by
        have : e < 1 := by rwa [elems, hbits] at he
        omega
      subst he0
      dsimp only
      rw [hnarrow, hbits, elemOf_lane (laneV_lt g a j), elemOf_lane (laneV_lt g d j), elemOf_lane (srcLane_lt g b j), toNat_laneV_narrow,
        toNat_laneV_narrow]
      exact o.result_elem _ _ _ _ _

end Sys2Proof.Machine

/-! SUPPORT. Words that write a lane predicate, `sel` and `movi` (R137 to R139; O4). -/

namespace Sys2Proof.Machine

/-- A predicate written in the active lanes by a word that retires (R38, R46). -/
theorem writeP_did {i : Instr} {s : State} {n m : Nat} (x : Word) (hnm : n % 8 = m) (hm : m < 7) :
    let g := s.cpu.grp
    let t : State := { s with cpu := s.cpu.retire ⟨i, none⟩ (g.writeP n g.active x) }
    Did i [.p m] s t ∧ ∀ j < 32, (t.cpu.grp.readP m).getLsbD j = if g.active.getLsbD j then x.getLsbD j else (g.readP m).getLsbD j := by
  intro g t
  subst hnm
  refine ⟨did_retire (g.sameGroup_writeP n g.active x) (by simp; rfl) (by simp; rfl), fun j hj => ?_⟩
  have hread : t.cpu.grp.readP (n % 8) = (g.readP (n % 8) &&& ~~~g.active) ||| (x &&& g.active) := g.readP_writeP_self g.active x hm
  rw [hread, BitVec.getLsbD_or, BitVec.getLsbD_and, BitVec.getLsbD_and, BitVec.getLsbD_not, decide_eq_true hj]
  cases g.active.getLsbD j <;> simp

/-- The predicate that a compare names in d[3:0] (R48). -/
theorem compareDst {d : BitVec 8} (h : pDstLow d = true) : d.toNat % 8 = d.toNat % 16 ∧ d.toNat % 16 < 7 := by
  simp only [pDstLow, decide_eq_true_eq] at h
  omega

/-! ### `cmp` (R137) -/

def cmpWord (d a : BitVec 8) (b : Src) : Instr := match b with | .v b => .cmp d a b | .k b => .cmpVk d a b

theorem exec_cmpWord (d a : BitVec 8) (b : Src) (s : State) : exec (cmpWord d a b) s = issue noPre (cmpOp d a b) (cmpWord d a b) s := by
  cases b <;> rfl

theorem pDstLow_of_cmpWord {d a : BitVec 8} {b : Src} {g : Group} (h : Issues (cmpWord d a b) g) : pDstLow d = true := by
  have hn := namesOk_of_issues h
  cases b <;> simp_all [cmpWord, namesOk]

/-- The mode check of R47 with two sources. -/
theorem modeOk_sources {ok : Nat → Bool} {g : Group} {a : BitVec 8} {b : Src} (h : VecMode ok g [] [a] [b]) :
    modeOk g ok (pairOk false a && srcPair b) = true :=
  modeOk_of h.1 fun hw => by
    obtain ⟨-, ha, hb⟩ := h.2 hw
    simp [ha a (by simp), hb b (by simp)]

/-- The condition that `cmp` tests in a lane. -/
def cmpHolds (g : Group) (d a : BitVec 8) (b : Src) (j : Nat) : Bool :=
  let n := etyBits g.ety
  let x := (g.laneV (isWide g.ety) a j).toNat % 2 ^ n
  let y := (srcLane g (isWide g.ety) b j).toNat % 2 ^ n
  condHolds (d.toNat / 16) (toI n (etySigned g.ety) x) (toI n (etySigned g.ety) y) x y

theorem cmpOp_eq {d a : BitVec 8} {b : Src} {m : Cells} {w : Iss} {c : Cpu} (h : VecMode isCmpI c.grp [] [a] [b]) :
    cmpOp d a b m w c = c.retire w (c.grp.writeP d.toNat c.grp.active (maskOf (cmpHolds c.grp d a b))) := by
  unfold cmpOp
  rw [if_pos (modeOk_sources h)]
  rfl

/-- A condition of `cmp` by its code (R48), on the numbers of the type and on the bits. -/
def intCond (c : Nat) (sx sy : Int) (ux uy : Nat) : Bool :=
  match c with
  | 0 => decide (ux = uy)
  | 1 => decide (ux ≠ uy)
  | 2 => decide (sx < sy)
  | 3 => decide (sx ≤ sy)
  | 4 => decide (sy < sx)
  | 5 => decide (sy ≤ sx)
  | 6 => decide (ux < uy)
  | 7 => decide (ux ≤ uy)
  | 8 => decide (uy < ux)
  | _ => decide (uy ≤ ux)

theorem condHolds_eq (c : Nat) (sx sy : Int) (ux uy : Nat) : condHolds c sx sy ux uy = intCond c sx sy ux uy := by
  unfold condHolds intCond
  obtain _ | _ | _ | _ | _ | _ | _ | _ | _ | c := c
  · exact beq_eq_decide ux uy
  · simp [bne, beq_eq_decide]
  all_goals rfl

/-! ### `sel` (R138) -/

def selWord (d a : BitVec 8) (b : Src) : Instr := match b with | .v b => .sel d a b | .k b => .selVk d a b

theorem exec_selWord (d a : BitVec 8) (b : Src) (s : State) : exec (selWord d a b) s = issue noPre (selOp d a b) (selWord d a b) s := by
  cases b <;> rfl

theorem writable_of_selWord {d a : BitVec 8} {b : Src} {g : Group} (h : Issues (selWord d a b) g) : g.Writable d := by
  have hn := namesOk_of_issues h
  obtain ⟨-, hw⟩ := h
  refine writable_of ?_ fun hin => ?_
  · cases b <;> simp_all [selWord, namesOk]
  · specialize hw hin
    cases b <;> simp_all [selWord, windowOk]

/-- What `sel` takes in a lane: a where the guard is true, else b. -/
def selLane (g : Group) (a : BitVec 8) (b : Src) (j : Nat) : Dword :=
  if (g.readP g.grd).getLsbD j then g.laneV (isWide g.ety) a j else srcLane g (isWide g.ety) b j

theorem selOp_eq {d a : BitVec 8} {b : Src} {m : Cells} {w : Iss} {c : Cpu} (h : VecMode isAny c.grp [d] [a] [b]) :
    selOp d a b m w c = c.retire w (c.grp.writeLanes (isWide c.grp.ety) d c.grp.lanes (Vector.ofFn fun (j : Fin 32) => selLane c.grp a b j)) := by
  have hmode : modeOk c.grp isAny (pairOk true d && pairOk false a && srcPair b) = true :=
    modeOk_of h.1 fun hw => by
      obtain ⟨hd, ha, hb⟩ := h.2 hw
      simp [hd d (by simp), ha a (by simp), hb b (by simp)]
  unfold selOp
  rw [if_pos hmode]
  rfl

theorem selLane_low {g : Group} (hw : isWide g.ety = false) (a : BitVec 8) (b : Src) (j : Nat) :
    ((selLane g a b j).setWidth 32).setWidth 64 = selLane g a b j := by
  unfold selLane
  rw [hw]
  split
  · exact laneV_low g a j
  · exact srcLane_low g b j

/-- Lanes written under a mask, of values that fit the lane. -/
theorem laneV_of_results {wide : Bool} {mask : Word} {d : BitVec 8} {g h : Group} {F : Nat → Dword} (hl : LaneResults wide mask d g h F)
    (hF : wide = false → ∀ j, ((F j).setWidth 32).setWidth 64 = F j) (j : Fin 32) :
    h.laneV wide d j = if mask.getLsbD j then F j else g.laneV wide d j := by
  rw [hl j]
  cases wide with
  | false => simp only [Bool.false_eq_true, if_false, hF rfl]
  | true => simp only [if_true]

/-! ### `movi` (R139) -/

theorem movi_did {i : Instr} {d : BitVec 8} {s : State} (x : Word) (hd : s.cpu.grp.Writable d) :
    let g := s.cpu.grp
    let t : State := { s with cpu := s.cpu.retire ⟨i, none⟩ (g.writeV d g.active (allLanes x)) }
    Did i (vecDst false d) s t ∧ Shifted false d g t.cpu.grp ∧
      ∀ j : Fin 32, laneAt (t.cpu.grp.readV d) j = if g.active.getLsbD j then x else laneAt (g.readV d) j := by
  intro g t
  refine ⟨did_retire (g.sameGroup_writeV g.active _ hd.1) (by simp; rfl) (by simp; rfl), ?_, fun j => ?_⟩
  · obtain ⟨h0, h1, h2, h3⟩ := g.readV_writeV_last d g.active (allLanes x) hd.1
    exact ⟨h0.trans (g.readV_writeV_self g.active _ hd.1 hd.2).symm, h1, h2, h3⟩
  · have hread : t.cpu.grp.readV d = g.merged d g.active (allLanes x) := g.readV_writeV_self g.active _ hd.1 hd.2
    rw [hread, Group.laneAt_merged]
    simp [allLanes]

/-- Settles O4: `cmp` is a write of a predicate, `sel` one of the lanes of C, `movi` one of a register. -/
theorem compareSelectMovi : Obligations.CompareSelectMovi := by
  unfold Obligations.CompareSelectMovi
  intro d a b imm s g wide n
  refine ⟨?_, ?_, ?_⟩
  · intro i hi hm
    obtain ⟨hp, hlt⟩ := compareDst (pDstLow_of_cmpWord hi)
    obtain ⟨hdid, hread⟩ := writeP_did (i := i) (s := s) (maskOf (cmpHolds g d a b)) hp hlt
    refine ⟨_, (exec_cmpWord d a b s).trans (issue_of_issues hi rfl), ?_⟩
    rw [cmpOp_eq hm]
    refine ⟨hdid, fun j => (hread j j.isLt).trans ?_⟩
    rw [maskOf_bit _ j.isLt]
    unfold cmpHolds
    rw [condHolds_eq]
    rfl
  · intro i hi hm
    have hd := writable_of_selWord hi
    have hp : wide = true → pairOk true d = true := fun hw => (hm.2 hw).1 d (by simp)
    refine ⟨_, (exec_selWord d a b s).trans (issue_of_issues hi rfl), ?_⟩
    rw [selOp_eq hm]
    exact ⟨did_retire (g.sameGroup_writeLanes wide g.lanes _ hd hp) (by simp) (by simp), g.shifted_writeLanes wide g.lanes _ hd hp,
      laneV_of_results (g.laneResults_writeLanes wide g.lanes (selLane g a b) hd hp) fun hw => selLane_low hw a b⟩
  · intro hi
    exact ⟨_, issue_of_issues hi rfl, movi_did (imm.signExtend 32) (writable_of (namesOk_of_issues hi) hi.2)⟩

end Sys2Proof.Machine

/-! SUPPORT. Exact sums and products (R67, R140), and the floating words element by element (R63, R69; O5). -/

namespace Sys2Proof.Machine

/-! ### Words that set flags, element by element -/

theorem perElem_flags (n : Nat) (f : Nat → Nat × FFlags) (k : Nat) :
    (perElem n f).2.getLsbD k = true ↔ ∃ e < (if n = 64 then 1 else 32 / n), (f e).2.getLsbD k = true := by
  have key : ∀ (l : List Nat) (a : Dword) (b : FFlags),
      (l.foldl (fun acc e => let r := f e; (acc.1 ||| BitVec.ofNat 64 (r.1 % 2 ^ n * 2 ^ (n * e)), acc.2 ||| r.2)) (a, b)).2 =
        l.foldl (fun s e => s ||| (f e).2) b := by
    intro l
    induction l with
    | nil => intro a b; rfl
    | cons e l ih => intro a b; exact ih _ _
  have hflags : (perElem n f).2 = (List.range (if n = 64 then 1 else 32 / n)).foldl (fun s e => s ||| (f e).2) 0 := key _ _ _
  rw [hflags, foldl_or_flag]
  simp

/-- The floating element types are no pairs. -/
theorem isWide_of_isFlt {t : Nat} (h : isFlt t = true) : isWide t = false := by
  simp only [isFlt, Bool.or_eq_true, beq_iff_eq] at h
  rcases h with (rfl | rfl) | rfl <;> rfl

theorem etyFmt_top (t : Nat) : (etyFmt t).top = .ieee := by
  unfold etyFmt
  split
  · rfl
  · split <;> rfl

/-- An element operation on encodings, with its flags. -/
abbrev FltElem := Group → Fmt → FV → FV → FV → Nat × FFlags

/-- The result and the flags of element e in lane j. -/
def fltResult (op : FltElem) (g : Group) (d a : BitVec 8) (b : Src) (j e : Nat) : Nat × FFlags :=
  op g (etyFmt g.ety) (floatIn g (g.laneV false a j) e) (floatIn g (srcLane g false b j) e) (floatIn g (g.laneV false d j) e)

/-- The results of an element operation fit its format. -/
def FltElem.Fits (op : FltElem) (g : Group) : Prop := ∀ x y z, (op g (etyFmt g.ety) x y z).1 < 2 ^ etyBits g.ety

section
variable {op : FltElem} {d a : BitVec 8} {b : Src} {i : Instr} {s : State} (hm : isFlt s.cpu.grp.ety = true) (hd : s.cpu.grp.Writable d)
  (hfit : op.Fits s.cpu.grp)
include hm hd hfit

/-- A floating word leaves its element results, and the flags of all (R63, R69, R132). -/
theorem fltOp_did : let g := s.cpu.grp
    let t : State := { s with cpu := flagOp isFlt d a b (fltLane op) s.mem ⟨i, none⟩ s.cpu }
    Did i (.fpflags :: vecDst false d) s t ∧ Shifted false d g t.cpu.grp ∧
      ElemResults d g t.cpu.grp (fun j e r => r = (fltResult op g d a b j e).1) ∧
      ∀ k, t.cpu.grp.fpflags.getLsbD k = true ↔
        g.fpflags.getLsbD k = true ∨ ∃ j < 32, g.active.getLsbD j = true ∧ ∃ e < elems g, (fltResult op g d a b j e).2.getLsbD k = true := by
  intro g t
  have hnarrow : isWide g.ety = false := isWide_of_isFlt hm
  obtain ⟨hdid, hshift, hlane, hflags⟩ := flagOp_did (f := fltLane op) (i := i) (a := a) (b := b) hm hd
  rw [← hnarrow] at hlane
  refine ⟨hdid, hshift, elemResults_of_lanes hlane (fun j => rfl) fun j hj e he => ?_, fun k => ?_⟩
  · rw [hnarrow]
    exact Nat.mod_eq_of_lt (hfit _ _ _)
  · rw [hflags, BitVec.getLsbD_or, Bool.or_eq_true, laneFlags_getLsbD]
    exact or_congr_right (exists_congr fun j => and_congr_right fun _ => and_congr_right fun _ => perElem_flags _ _ k)

/-- What each element of a floating word is shown to be, with its flags. -/
theorem fltOp_flagResults {R : Nat → Nat → Nat → FFlags → Prop}
    (hR : ∀ j e, R j e (fltResult op s.cpu.grp d a b j e).1 (fltResult op s.cpu.grp d a b j e).2) : let g := s.cpu.grp
    let t : State := { s with cpu := flagOp isFlt d a b (fltLane op) s.mem ⟨i, none⟩ s.cpu }
    Did i (.fpflags :: vecDst false d) s t ∧ Shifted false d g t.cpu.grp ∧ FlagResults d g t.cpu.grp R := by
  intro g t
  obtain ⟨hdid, hshift, hres, hflags⟩ := fltOp_did (op := op) (i := i) (a := a) (b := b) hm hd hfit
  exact ⟨hdid, hshift, fun j e => (fltResult op g d a b j e).2, hres.mono fun j e r hr => hr ▸ hR j e, fun k _ => hflags k⟩
end

/-! ### Products (R67) -/

/-- Infinity times zero. -/
def FV.InfZero (a b : FV) : Prop :=
  (∃ n, a = .inf n) ∧ (∃ n e, b = .fin n 0 e) ∨ (∃ n, b = .inf n) ∧ (∃ n e, a = .fin n 0 e)

theorem FV.mul_invalid (a b : FV) : (a.mul b).2 = true ↔ a.InfZero b := by
  cases a <;> cases b <;> simp [FV.mul, FV.InfZero, apply_ite Prod.snd]

theorem FV.mul_of_infZero {a b : FV} (h : a.InfZero b) : a.mul b = (.nan, true) := by
  rcases h with ⟨⟨n, rfl⟩, n', e, rfl⟩ | ⟨⟨n, rfl⟩, n', e, rfl⟩ <;> rfl

theorem FV.mul_nan {a b : FV} (h : a = .nan ∨ b = .nan) : a.mul b = (.nan, false) := by
  rcases h with rfl | rfl
  · rfl
  · cases a <;> rfl

/-- A value with a rational is finite. -/
theorem FV.rat_eq_some {a : FV} {x : ℚ} (h : a.rat = some x) : ∃ n m e, a = .fin n m e ∧ x = (sgn n : ℚ) * m * 2 ^ e := by
  cases a with
  | nan => exact absurd h (by simp [rat])
  | inf n => exact absurd h (by simp [rat])
  | fin n m e => exact ⟨n, m, e, rfl, by rw [← Option.some.inj h, cast_sgn]⟩

theorem FV.rat_fin (n : Bool) (m : Nat) (e : Int) : (FV.fin n m e).rat = some ((sgn n : ℚ) * m * 2 ^ e) := by
  rw [rat, cast_sgn]

theorem FV.rat_mul {a b : FV} {x y : ℚ} (hx : a.rat = some x) (hy : b.rat = some y) : (a.mul b).1.rat = some (x * y) := by
  obtain ⟨n, m, e, rfl, rfl⟩ := rat_eq_some hx
  obtain ⟨n', m', e', rfl, rfl⟩ := rat_eq_some hy
  rw [FV.mul, rat_fin, zpow_add₀ two_ne_zero]
  cases n <;> cases n' <;> simp <;> ring

theorem FV.rat_neg {a : FV} {x : ℚ} (hx : a.rat = some x) : a.neg.rat = some (-x) := by
  obtain ⟨n, m, e, rfl, rfl⟩ := rat_eq_some hx
  rw [FV.neg, rat_fin]
  cases n <;> simp

theorem FV.neg_eq_nan {a : FV} : a.neg = .nan ↔ a = .nan := by
  cases a <;> simp [FV.neg]

/-! ### Sums (R67) -/

theorem FV.any_eq (l : List FV) (x : FV) : (l.any (· == x)) = decide (x ∈ l) := by
  rw [Bool.eq_iff_iff, List.any_eq_true, decide_eq_true_eq]
  simp

theorem FV.sum_of_nan {l : List FV} (h : .nan ∈ l) (rdn : Bool) : FV.sum rdn l = (.nan, false) := by
  unfold FV.sum
  rw [any_eq, if_pos (decide_eq_true h)]

theorem FV.sum_of_opposite {l : List FV} (h0 : .nan ∉ l) (h1 : .inf true ∈ l) (h2 : .inf false ∈ l) (rdn : Bool) :
    FV.sum rdn l = (.nan, true) := by
  unfold FV.sum
  simp only [any_eq, h0, h1, h2, decide_true, decide_false, Bool.false_eq_true, if_true, if_false]

theorem FV.sum_of_inf {l : List FV} {n : Bool} (h0 : .nan ∉ l) (h1 : .inf n ∈ l) (h2 : .inf (!n) ∉ l) (rdn : Bool) :
    FV.sum rdn l = (.inf n, false) := by
  unfold FV.sum
  cases n <;> simp_all [any_eq]

theorem FV.units_mul {x : FV} {r : ℚ} (hx : x.rat = some r) {q : Int} (hq : q ≤ x.exp) : (x.units q : ℚ) * 2 ^ q = r := by
  obtain ⟨n, m, e, rfl, rfl⟩ := rat_eq_some hx
  have hpow : (2 : ℚ) ^ e = 2 ^ (e - q).toNat * 2 ^ q := by
    rw [← zpow_natCast, Int.toNat_of_nonneg (by simp only [exp] at hq; omega), ← zpow_add₀ two_ne_zero, sub_add_cancel]
  rw [hpow]
  cases n <;> simp [units] <;> ring

theorem foldl_min_le (l : List FV) (q : Int) :
    l.foldl (fun q x => min q x.exp) q ≤ q ∧ ∀ x ∈ l, l.foldl (fun q x => min q x.exp) q ≤ x.exp := by
  induction l generalizing q with
  | nil => exact ⟨le_rfl, fun x hx => absurd hx List.not_mem_nil⟩
  | cons y l ih =>
    obtain ⟨h1, h2⟩ := ih (min q y.exp)
    refine ⟨h1.trans (min_le_left _ _), fun x hx => ?_⟩
    rcases List.mem_cons.1 hx with rfl | hx
    · exact h1.trans (min_le_right _ _)
    · exact h2 x hx

theorem foldl_units_mul {l : List FV} {rs : List ℚ} (h : List.Forall₂ (fun x r => x.rat = some r) l rs) {q : Int} (hq : ∀ x ∈ l, q ≤ x.exp)
    (t : Int) : ((l.foldl (fun s x => s + x.units q) t : Int) : ℚ) * 2 ^ q = t * 2 ^ q + rs.sum := by
  induction h generalizing t with
  | nil => simp
  | cons hx _ ih =>
    rw [List.foldl_cons, ih (fun x hx => hq x (List.mem_cons_of_mem _ hx)), List.sum_cons, ← FV.units_mul hx (hq _ List.mem_cons_self)]
    push_cast
    ring

/-- The lowest exponent of a list of terms, and their sum in units of it. -/
def FV.lowExp (l : List FV) : Int := l.foldl (fun q x => min q x.exp) (match l with | [] => 0 | x :: _ => x.exp)
def FV.total (l : List FV) : Int := l.foldl (fun s x => s + x.units (lowExp l)) 0

theorem FV.sum_eq_total {l : List FV} (hnan : .nan ∉ l) (hinf : ∀ n, .inf n ∉ l) (rdn : Bool) : FV.sum rdn l =
    (if total l = 0 then .fin (zeroSign rdn l) 0 (lowExp l) else .fin (decide (total l < 0)) (total l).natAbs (lowExp l), false) := by
  have hsum : FV.sum rdn l = if total l = 0 then (.fin (zeroSign rdn l) 0 (lowExp l), false)
      else (.fin (decide (total l < 0)) (total l).natAbs (lowExp l), false) := by
    unfold FV.sum
    simp only [any_eq, hnan, hinf, decide_false, Bool.false_eq_true, if_false]
    rfl
  rw [hsum]
  split <;> rfl

theorem not_mem_of_finite {l : List FV} {rs : List ℚ} (h : List.Forall₂ (fun x r => FV.rat x = some r) l rs) {x : FV} (hx : x.rat = none) : x ∉ l := by
  induction h with
  | nil => exact List.not_mem_nil
  | cons hy _ ih =>
    refine fun hmem => (List.mem_cons.1 hmem).elim (fun e => ?_) ih
    rw [← e, hx] at hy
    exact absurd hy (by simp)

/-- An integer by its sign and magnitude. -/
theorem sgn_natAbs (t : Int) : (sgn (decide (t < 0)) : ℚ) * t.natAbs = t := by
  rw [Nat.cast_natAbs]
  rcases lt_or_ge t 0 with h | h
  · rw [decide_eq_true h, abs_of_neg h]
    simp
  · rw [decide_eq_false (not_lt.2 h), abs_of_nonneg h]
    simp

/-- A sum of finite terms is exact, and an exact zero has the sign of R67. -/
theorem FV.sum_of_finite {l : List FV} {rs : List ℚ} (h : List.Forall₂ (fun x r => FV.rat x = some r) l rs) (rdn : Bool) :
    ∃ v, FV.sum rdn l = (v, false) ∧ v.rat = some rs.sum ∧ (rs.sum = 0 → v.isNeg = zeroSign rdn l) := by
  have hval : (total l : ℚ) * 2 ^ lowExp l = rs.sum := by
    have hfold := foldl_units_mul h (q := lowExp l) (foldl_min_le l _).2 0
    rwa [Int.cast_zero, zero_mul, zero_add] at hfold
  have hzero : total l = 0 ↔ rs.sum = 0 := by
    rw [← hval, mul_eq_zero, or_iff_left (by positivity), Int.cast_eq_zero]
  refine ⟨_, sum_eq_total (not_mem_of_finite h rfl) (fun n => not_mem_of_finite h rfl) rdn, ?_⟩
  split
  · next h0 => exact ⟨by rw [rat_fin, hzero.1 h0]; simp, fun _ => rfl⟩
  · next h0 => exact ⟨by rw [rat_fin, sgn_natAbs, hval], fun hs => absurd (hzero.2 hs) h0⟩

/-- A sum of one term is the term. -/
theorem FV.sum_single (rdn : Bool) (x : FV) : FV.sum rdn [x] = (x, false) := by
  cases x with
  | nan => rfl
  | inf n => cases n <;> rfl
  | fin n m e =>
    have hlow : lowExp [.fin n m e] = e := min_self e
    have htotal : total [.fin n m e] = sgn n * m := by
      unfold total
      rw [hlow]
      cases n <;> simp [units]
    rw [sum_eq_total (by simp) (by simp), htotal, hlow]
    obtain rfl | h0 := Nat.eq_zero_or_pos m
    · cases n <;> rfl
    · have hm : (m : Int) ≠ 0 := by omega
      cases n
      · rw [if_neg (by simpa using hm)]; simp
      · rw [if_neg (by simpa using hm)]; simp [h0]

/-! ### The arithmetic of R140 -/

/-- The exact result of a word, and whether it was invalid. -/
def FltOp.value (o : FltOp) (rdn : Bool) (a b d : FV) : FV × Bool :=
  match o with
  | .add => FV.sum rdn [a, b]
  | .sub => FV.sum rdn [a, b.neg]
  | .mul => a.mul b
  | .fma => fuse rdn a b d
  | .fms => fuse rdn a b d.neg

def FltOp.elem (o : FltOp) : FltElem := fun g f a b d => fRound g f (o.value (g.rnd == 3) a b d)

theorem exec_fltOp (o : FltOp) (d a : BitVec 8) (b : Src) (s : State) :
    exec (o.word d a b) s = issue noPre (flagOp isFlt d a b (fltLane o.elem)) (o.word d a b) s := by
  cases o <;> cases b <;> rfl

theorem writable_of_fltOp {o : FltOp} {d a : BitVec 8} {b : Src} {g : Group} (h : Issues (o.word d a b) g) : g.Writable d := by
  have hn := namesOk_of_issues h
  obtain ⟨-, hw⟩ := h
  refine writable_of ?_ fun hin => ?_
  · cases o <;> cases b <;> simp_all [FltOp.word, namesOk]
  · specialize hw hin
    cases o <;> cases b <;> simp_all [FltOp.word, windowOk]

theorem FltOp.infZero_iff (o : FltOp) (a b : FV) : o.infZero a b ↔ (o = .mul ∨ o = .fma ∨ o = .fms) ∧ a.InfZero b := Iff.rfl

theorem FltOp.value_of_infZero {o : FltOp} {a b : FV} (h : o.infZero a b) (rdn : Bool) (d : FV) :
    o.value rdn a b d = (.nan, true) ∧ .nan ∈ o.terms a b d := by
  obtain ⟨ho, hz⟩ := (o.infZero_iff a b).1 h
  have hmul := FV.mul_of_infZero hz
  rcases ho with rfl | rfl | rfl <;> simp [value, fuse, terms, hmul]

/-- But for an invalid product the result is the exact sum of the terms. -/
theorem FltOp.value_eq_sum {o : FltOp} {a b : FV} (h : ¬ o.infZero a b) (rdn : Bool) (d : FV) : o.value rdn a b d = FV.sum rdn (o.terms a b d) := by
  have hmul : (o = .mul ∨ o = .fma ∨ o = .fms) → (a.mul b).2 = false := fun ho =>
    Bool.eq_false_iff.2 fun h2 => h ((o.infZero_iff a b).2 ⟨ho, (FV.mul_invalid a b).1 h2⟩)
  cases o with
  | add => rfl
  | sub => rfl
  | mul => exact (Prod.ext rfl (hmul (by simp)) : a.mul b = ((a.mul b).1, false)).trans (FV.sum_single rdn _).symm
  | fma => simp [value, fuse, terms, hmul]
  | fms => simp [value, fuse, terms, hmul]

theorem FltOp.nan_mem_terms {o : FltOp} {a b d : FV} (h : a = .nan ∨ b = .nan ∨ o.fused = true ∧ d = .nan) : .nan ∈ o.terms a b d := by
  have hmul : a = .nan ∨ b = .nan → (a.mul b).1 = .nan := fun h => by rw [FV.mul_nan h]
  cases o <;> simp only [terms, List.mem_cons, List.not_mem_nil, or_false, eq_comm (a := FV.nan), FV.neg_eq_nan, fused] at h ⊢ <;> tauto

theorem FltOp.terms_finite {o : FltOp} {a b d : FV} {x y z : ℚ} (hx : a.rat = some x) (hy : b.rat = some y)
    (hz : o.fused = true → d.rat = some z) :
    ∃ rs, List.Forall₂ (fun v r => FV.rat v = some r) (o.terms a b d) rs ∧ rs.sum = o.exact x y z := by
  cases o with
  | add => exact ⟨[x, y], by simp [terms, hx, hy], by simp [exact]⟩
  | sub => exact ⟨[x, -y], by simp [terms, hx, FV.rat_neg hy], by simp [exact]; ring⟩
  | mul => exact ⟨[x * y], by simp [terms, FV.rat_mul hx hy], by simp [exact]⟩
  | fma => exact ⟨[x * y, z], by simp [terms, FV.rat_mul hx hy, hz rfl], by simp [exact]⟩
  | fms => exact ⟨[x * y, -z], by simp [terms, FV.rat_mul hx hy, FV.rat_neg (hz rfl)], by simp [exact]; ring⟩

/-! ### Rounding once (R64, R67) -/

section
variable {f : Fmt} (hf : f.top = .ieee) (g : Group)
include hf

theorem fRound_nan (inv : Bool) : fRound g f (.nan, inv) = (nanF f, if inv then flagNV else 0) := by
  cases inv <;> simp [fRound, toFormat, hf]

theorem fRound_inf (n : Bool) : fRound g f (.inf n, false) = (infF f n, 0) := by
  simp [fRound, toFormat, hf]
end

theorem fRound_valid (g : Group) (f : Fmt) (v : FV) : fRound g f (v, false) = toFormat f (rndNoSr g) g.sat g.ftz 0 v := by
  unfold fRound
  exact Prod.ext rfl BitVec.or_zero

/-- A rounded result has the bits of the format of the element type. -/
theorem fRound_lt {g : Group} (h : isFlt g.ety = true) (x : FV × Bool) : (fRound g (etyFmt g.ety) x).1 < 2 ^ etyBits g.ety := by
  obtain ⟨c, hc, hfmt, hbits⟩ := etyFmt_code h
  rw [hfmt, ← hbits]
  exact toFormat_lt hc _ _ _ _ _

/-- An exact sum of terms, rounded once: its special values, and the exact result of finite terms (R64, R67). -/
theorem fRound_sum {f : Fmt} (hf : f.top = .ieee) (g : Group) (ts : List FV) :
    let r := fRound g f (FV.sum (g.rnd == 3) ts)
    (.nan ∈ ts → r = (nanF f, 0)) ∧ (.nan ∉ ts → .inf true ∈ ts → .inf false ∈ ts → r = (nanF f, flagNV)) ∧
      (∀ n, .nan ∉ ts → .inf n ∈ ts → .inf (!n) ∉ ts → r = (infF f n, 0)) ∧
      ∀ rs, List.Forall₂ (fun v q => FV.rat v = some q) ts rs → ∃ v, v.rat = some rs.sum ∧ (rs.sum = 0 → v.isNeg = zeroSign (g.rnd == 3) ts) ∧
        r = toFormat f (rndNoSr g) g.sat g.ftz 0 v := by
  refine ⟨fun h => ?_, fun h0 h1 h2 => ?_, fun n h0 h1 h2 => ?_, fun rs hrs => ?_⟩
  · rw [FV.sum_of_nan h]; exact fRound_nan hf g false
  · rw [FV.sum_of_opposite h0 h1 h2]; exact fRound_nan hf g true
  · rw [FV.sum_of_inf h0 h1 h2]; exact fRound_inf hf g n
  · obtain ⟨v, hv, hrat, hsign⟩ := FV.sum_of_finite hrs (g.rnd == 3)
    exact ⟨v, hrat, hsign, by rw [hv]; exact fRound_valid g f v⟩

theorem FltOp.result_elem (o : FltOp) (g : Group) (a b d : FV) :
    o.Result g a b d (o.elem g (etyFmt g.ety) a b d).1 (o.elem g (etyFmt g.ety) a b d).2 := by
  have htop := etyFmt_top g.ety
  obtain ⟨hnan, hopp, hinf, hfin⟩ := fRound_sum htop g (o.terms a b d)
  have hsum : ¬ o.infZero a b → o.elem g (etyFmt g.ety) a b d = fRound g (etyFmt g.ety) (FV.sum (g.rnd == 3) (o.terms a b d)) := fun h =>
    congrArg (fRound g _) (value_eq_sum h _ d)
  have hvalid : .nan ∉ o.terms a b d → ¬ o.infZero a b := fun h0 h => h0 (value_of_infZero h false d).2
  refine ⟨fun h => ?_, fun h hn => ?_, fun h0 h1 h2 => ?_, fun n h0 h1 h2 => ?_, fun x y z hx hy hz => ?_⟩
  · exact Prod.ext_iff.1 ((congrArg (fRound g _) (value_of_infZero h _ d).1).trans (fRound_nan htop g true))
  · exact Prod.ext_iff.1 ((hsum h).trans (hnan (nan_mem_terms hn)))
  · exact Prod.ext_iff.1 ((hsum (hvalid h0)).trans (hopp h0 h1 h2))
  · exact Prod.ext_iff.1 ((hsum (hvalid h0)).trans (hinf n h0 h1 h2))
  · obtain ⟨rs, hrs, heq⟩ := terms_finite hx hy hz
    obtain ⟨v, hrat, hsign, hround⟩ := hfin rs hrs
    rw [heq] at hrat hsign
    have hnz : ¬ o.infZero a b := fun h => not_mem_of_finite hrs rfl (value_of_infZero h false d).2
    exact ⟨v, hrat, hsign, (hsum hnz).trans hround⟩

/-- Settles O5: each word rounds its exact result once, and that is the exact sum of its terms, or an invalid product. -/
theorem floatArithmetic : Obligations.FloatArithmetic := by
  unfold Obligations.FloatArithmetic
  intro o d a b s i g hi hm
  exact ⟨_, (exec_fltOp o d a b s).trans (issue_of_issues hi rfl),
    fltOp_flagResults hm (writable_of_fltOp hi) (fun _ _ _ => fRound_lt hm _) fun j e => o.result_elem g _ _ _⟩

end Sys2Proof.Machine

/-! SUPPORT. Encodings and their values (R58, R62 to R64): a value of a format is written back as it was read. -/

namespace Sys2Proof.Machine

section
variable {f : Fmt}

/-! ### The values of encodings rise -/

/-- The significand and the exponent of an encoding without its sign. -/
def sigF (f : Fmt) (b : Nat) : Nat := if b / 2 ^ f.fbits = 0 then b % 2 ^ f.fbits else b % 2 ^ f.fbits + 2 ^ f.fbits
def expF (f : Fmt) (b : Nat) : Int :=
  if b / 2 ^ f.fbits = 0 then 1 - (f.bias + f.fbits : ℕ) else (b / 2 ^ f.fbits : ℕ) - ((f.bias + f.fbits : ℕ) : Int)

theorem sigF_mul (f : Fmt) (b : Nat) : (sigF f b : ℚ) * 2 ^ expF f b = valF f b := by
  have hexp : ∀ q : Int, q - (f.bias + f.fbits : ℕ) = q - f.bias - f.fbits := fun q => by push_cast; ring
  unfold sigF expF valF
  split <;> rw [hexp]

theorem sigF_lt (f : Fmt) (b : Nat) : sigF f b < 2 * 2 ^ f.fbits := by
  have hm : b % 2 ^ f.fbits < 2 ^ f.fbits := Nat.mod_lt _ (by positivity)
  unfold sigF
  split <;> omega

theorem sigF_eq_zero {b : Nat} : sigF f b = 0 ↔ b = 0 := by
  have hX : 0 < 2 ^ f.fbits := by positivity
  have hdm := Nat.div_add_mod b (2 ^ f.fbits)
  unfold sigF
  split
  · next h => rw [h, Nat.mul_zero, Nat.zero_add] at hdm; rw [hdm]
  · next h => exact iff_of_false (by omega) fun h0 => h (by rw [h0, Nat.zero_div])

/-- A significand without its first bit is that of a subnormal or a zero. -/
theorem sigF_lt_iff {b : Nat} : sigF f b < 2 ^ f.fbits ↔ b < 2 ^ f.fbits := by
  have hX : 0 < 2 ^ f.fbits := by positivity
  have hm : b % 2 ^ f.fbits < 2 ^ f.fbits := Nat.mod_lt _ hX
  unfold sigF
  split
  · next h => exact iff_of_true hm ((Nat.div_eq_zero_iff_lt hX).1 h)
  · next h => exact iff_of_false (by omega) fun hlt => h ((Nat.div_eq_zero_iff_lt hX).2 hlt)

/-- The next encoding has a greater value. -/
theorem valF_lt_succ (f : Fmt) (b : Nat) : valF f b < valF f (b + 1) := by
  have hX : 0 < 2 ^ f.fbits := by positivity
  have hpow : ((2 ^ f.fbits : ℕ) : ℚ) = 2 ^ f.fbits := by push_cast; rfl
  obtain ⟨q, r, hr, rfl⟩ : ∃ q r, r < 2 ^ f.fbits ∧ b = 2 ^ f.fbits * q + r := ⟨_, _, Nat.mod_lt b hX, (Nat.div_add_mod b _).symm⟩
  have hval : ∀ {q r : Nat}, r < 2 ^ f.fbits → valF f (2 ^ f.fbits * q + r) =
      if q = 0 then (r : ℚ) * 2 ^ (1 - (f.bias : Int) - f.fbits) else (r + 2 ^ f.fbits : ℚ) * 2 ^ ((q : Int) - f.bias - f.fbits) := fun {q r} hr => by
    unfold valF
    rw [Nat.mul_add_div hX, Nat.div_eq_of_lt hr, Nat.mul_add_mod, Nat.mod_eq_of_lt hr, Nat.add_zero]
    push_cast
    rfl
  rw [hval hr]
  have hpos : ∀ t : Int, (0 : ℚ) < 2 ^ t := fun t => by positivity
  by_cases hlast : r + 1 < 2 ^ f.fbits
  · rw [Nat.add_assoc, hval hlast]
    split
    · push_cast; nlinarith [hpos (1 - (f.bias : Int) - f.fbits)]
    · push_cast; nlinarith [hpos ((q : Int) - f.bias - f.fbits)]
  · have hrlt : (r : ℚ) < 2 ^ f.fbits := by rw [← hpow]; exact_mod_cast hr
    have hnext : 2 ^ f.fbits * q + r + 1 = 2 ^ f.fbits * (q + 1) + 0 := by rw [Nat.mul_succ]; omega
    rw [hnext, hval hX, if_neg (Nat.succ_ne_zero q)]
    split
    · next h =>
      rw [h]
      simpa using mul_lt_mul_of_pos_right hrlt (hpos (1 - (f.bias : Int) - f.fbits))
    · next h =>
      have hstep : (2 : ℚ) ^ (((q + 1 : ℕ) : Int) - f.bias - f.fbits) = 2 * 2 ^ ((q : Int) - f.bias - f.fbits) := by
        rw [← zpow_one_add₀ two_ne_zero]; congr 1; push_cast; ring
      rw [hstep]
      push_cast
      nlinarith [hpos ((q : Int) - f.bias - f.fbits)]

theorem valF_strictMono (f : Fmt) : StrictMono (valF f) := strictMono_nat_of_lt_succ (valF_lt_succ f)

/-! ### Rounding a value of the format -/

variable (hf : FmtOk f)
include hf

theorem valF_maxF : valF f (maxF f false) = f.maxSig * 2 ^ (topExp f - f.fbits) := by
  have h := rat_maxF hf
  have hrat := rat_decodeF hf (neg := false) hf.maxF_lt
  rw [signF_false, zero_add, if_pos le_rfl, h] at hrat
  have := Option.some.inj hrat
  rw [this, sgn_false]
  simp

/-- A magnitude that is a finite value of the format rounds to its encoding, exactly (R64). -/
theorem roundMag_of_valF {x : Mag} (hd : x.d ≠ 0) {b : Nat} (hb : b ≤ maxF f false) (hx : x.val = valF f b) (mode : Nat) (sat : Bool) (w : Word)
    (neg : Bool) : roundMag f mode sat false w neg x = (signF f neg + b, 0) := by
  have hle : x.val ≤ f.maxSig * 2 ^ (topExp f - f.fbits) := by
    rw [hx, ← valF_maxF hf]
    exact (valF_strictMono f).monotone hb
  rcases roundMag_cases hf hd mode w neg sat with ⟨hover, -⟩ | ⟨-, ex, m, hin, heq⟩
  · have := x.round_le hd (topExp f - f.fbits) mode w neg (n := f.maxSig) (by rwa [div_le_iff₀ (by positivity)])
    omega
  · have hT := grid_pos f ex
    obtain ⟨n, hn⟩ : ∃ n : ℕ, x.val / 2 ^ ((ex : Int) - f.bias - f.fbits) = n := by
      obtain ⟨k, hk⟩ : ∃ k : Int, (sgn neg * x.val) / 2 ^ ((ex : Int) - f.bias - f.fbits) = k := by
        rcases hin.gap (z := sgn neg * x.val) ⟨neg, b, by rw [hx]⟩ with h | h
        · exact ⟨_, le_antisymm h (Int.floor_le _)⟩
        · exact ⟨_, le_antisymm (Int.le_ceil _) h⟩
      refine ⟨k.natAbs, ?_⟩
      rw [Nat.cast_natAbs, Int.cast_abs, ← hk, mul_div_assoc, abs_sgn_mul, abs_of_nonneg (div_nonneg x.val_nonneg hT.le)]
    have hm : m = n := by
      have hround := hin.rounds
      rw [mul_div_assoc, hn] at hround
      have habs := hround.abs_unique (roundsBy_exact mode w neg n)
      rw [abs_sgn_mul_int, abs_sgn_mul_int, Nat.abs_cast, Nat.abs_cast] at habs
      exact_mod_cast habs
    have hval : (m : ℚ) * 2 ^ ((ex : Int) - f.bias - f.fbits) = x.val := by rw [hm, ← hn, div_mul_cancel₀ _ hT.ne']
    have hpack : packF f ex m = b := (valF_strictMono f).injective (by rw [valF_packF hin.sig, hval, hx])
    rw [heq false, hpack, if_neg (by simp), if_neg (not_not.2 hval)]

/-- A finite value written as it is (R64). -/
theorem plainF_fin {b : Nat} (hb : b ≤ maxF f false) (neg : Bool) {m : Nat} {e : Int} (h : (m : ℚ) * 2 ^ e = valF f b) :
    plainF f (.fin neg m e) = (signF f neg + b, 0) :=
  congrArg (fun r : Nat × FFlags => (r.1, (0 : FFlags)))
    (roundMag_of_valF hf (x := ⟨m, 1, e⟩) one_ne_zero hb (by rw [← h]; simp [Mag.val]) 0 false 0 neg)

end

/-! ### What encodings read as -/

/-- The formats of the floating element types (R45): FP32, BF16 and FP16. -/
structure ElemFmt (f : Fmt) : Prop extends FmtOk f where
  ieee : f.top = .ieee
  flush : f.flush = true
  wide : f.fbits + f.bias < f.topEx
  small : f.fbits < 24 ∧ f.bias + f.fbits < 200 ∧ 2 ^ f.ebits ≤ 256

theorem etyFmt_elem (t : Nat) : ElemFmt (etyFmt t) := by
  unfold etyFmt
  split
  · exact ⟨fmtOf_ok (by decide), rfl, rfl, by decide, by decide⟩
  · split <;> exact ⟨fmtOf_ok (by decide), rfl, rfl, by decide, by decide⟩

/-- The encoding of infinity without its sign. -/
def topF (f : Fmt) : Nat := (2 ^ f.ebits - 1) * 2 ^ f.fbits

/-- The bits of a value as FTZ has them read (R63). -/
def flushed (f : Fmt) (ftz : Bool) (b : Nat) : Nat := if ftz = true ∧ b < 2 ^ f.fbits then 0 else b

section
variable {f : Fmt} (hf : ElemFmt f)
include hf

theorem ElemFmt.lt_topF {b : Nat} : b < topF f ↔ b ≤ maxF f false := by
  have h2 := hf.two_le
  have h1 : 1 < 2 ^ f.ebits := by have := hf.topEx_lt; have := hf.top; omega
  have hpos : 0 < topF f := Nat.mul_pos (by omega) (by omega)
  have hmax : maxF f false = topF f - 1 := by simp [maxF, hf.ieee, topF]
  omega

theorem ElemFmt.infF_eq (n : Bool) : infF f n = signF f n + topF f := by
  simp [infF, hf.ieee, topF]

omit hf in
theorem topF_add (f : Fmt) : topF f + 2 ^ f.fbits = 2 ^ (f.ebits + f.fbits) := by
  have : 0 < 2 ^ f.ebits := by positivity
  rw [pow_add, topF, ← Nat.succ_mul]
  congr 1
  omega

omit hf in
/-- The highest exponent of an encoding, by its bits. -/
theorem exp_top {b : Nat} (hb : b < 2 ^ (f.ebits + f.fbits)) :
    (b / 2 ^ f.fbits = 2 ^ f.ebits - 1 ↔ topF f ≤ b) ∧ (topF f ≤ b → (b % 2 ^ f.fbits = 0 ↔ b = topF f)) := by
  have hX : 0 < 2 ^ f.fbits := by positivity
  have hlt : b / 2 ^ f.fbits < 2 ^ f.ebits := by rw [Nat.div_lt_iff_lt_mul hX, ← pow_add]; exact hb
  have hle : 2 ^ f.ebits - 1 ≤ b / 2 ^ f.fbits ↔ topF f ≤ b := Nat.le_div_iff_mul_le hX
  have hdm := Nat.div_add_mod b (2 ^ f.fbits)
  refine ⟨by omega, fun h => ?_⟩
  rw [show b / 2 ^ f.fbits = 2 ^ f.ebits - 1 by omega, mul_comm] at hdm
  change topF f + _ = b at hdm
  omega

theorem ElemFmt.decodeF_eq {neg : Bool} {b : Nat} (hb : b < 2 ^ (f.ebits + f.fbits)) (ftz : Bool) : decodeF f ftz (signF f neg + b) =
    if topF f < b then .nan else if b = topF f then .inf neg
    else .fin neg (sigF f (flushed f ftz b)) (expF f (flushed f ftz b)) := by
  have hX : 0 < 2 ^ f.fbits := by positivity
  obtain ⟨hfr, hex, hneg⟩ := fields_signF (f := f) (neg := neg) hb
  obtain ⟨hexp, hfrac⟩ := exp_top hb
  unfold decodeF
  simp only [hfr, hex, hneg, hf.ieee, hf.flush, true_and, Bool.and_true, reduceCtorEq, false_and, if_false, hexp]
  by_cases htop : topF f ≤ b
  · simp only [htop, if_true, hfrac htop]
    by_cases h : b = topF f
    · simp [h]
    · rw [if_neg h, if_pos (by omega)]
  · have hzero : b / 2 ^ f.fbits = 0 ↔ b < 2 ^ f.fbits := Nat.div_eq_zero_iff_lt hX
    have hlt : ¬ topF f < b := by omega
    have hne : b ≠ topF f := by omega
    simp only [htop, hlt, hne, if_false]
    unfold flushed sigF expF
    by_cases h0 : b < 2 ^ f.fbits
    · cases ftz <;> simp [h0, hzero.2 h0]
    · have hne : b / 2 ^ f.fbits ≠ 0 := fun h => h0 (hzero.1 h)
      simp [h0, hne]

theorem ElemFmt.flushed_lt {ftz : Bool} {b : Nat} (h : b < topF f) : flushed f ftz b ≤ maxF f false := by
  unfold flushed
  split
  · exact Nat.zero_le _
  · exact hf.lt_topF.1 h

theorem ElemFmt.plainF_inf (n : Bool) : plainF f (.inf n) = (infF f n, 0) := by
  simp [plainF, toFormat, hf.ieee]

theorem ElemFmt.decodeF_nanF (ftz : Bool) : decodeF f ftz (nanF f) = .nan := by
  have hbits := topF_add f
  have hpow : 2 ^ f.fbits = 2 * 2 ^ (f.fbits - 1) := by rw [← pow_succ']; congr 1; have := hf.fbits; omega
  have hpos : 0 < 2 ^ (f.fbits - 1) := by positivity
  have hnan : nanF f = signF f false + (topF f + 2 ^ (f.fbits - 1)) := by simp [nanF, hf.ieee, topF, signF_false]
  rw [hnan, hf.decodeF_eq (by omega), if_pos (by omega)]

/-- What an encoding reads as is written as an encoding that reads as it. -/
theorem ElemFmt.decodeF_plainF {u : Nat} (hu : u < 2 ^ (f.ebits + f.fbits + 1)) (ftz : Bool) :
    decodeF f false (plainF f (decodeF f ftz u)).1 = decodeF f ftz u := by
  obtain ⟨neg, b, rfl, hb⟩ := exists_signF hu
  have hbits := topF_add f
  have hX : 0 < 2 ^ f.fbits := by positivity
  rw [hf.decodeF_eq hb]
  split
  · exact hf.decodeF_nanF false
  · split
    · rw [hf.plainF_inf, hf.infF_eq, hf.decodeF_eq (by omega), if_neg (lt_irrefl _), if_pos rfl]
    · have hfit := hf.flushed_lt (ftz := ftz) (b := b) (by omega)
      rw [plainF_fin hf.toFmtOk hfit neg (sigF_mul f _), hf.decodeF_eq (hfit.trans_lt hf.maxF_lt)]
      have := hf.lt_topF.2 hfit
      rw [if_neg (by omega), if_neg (by omega)]
      rfl

/-- Every integer up to 2^F is a value of the format. -/
theorem ElemFmt.exists_valF {n : Nat} (hn : n ≤ 2 ^ f.fbits) : ∃ b ≤ maxF f false, valF f b = n := by
  obtain rfl | h0 := Nat.eq_zero_or_pos n
  · exact ⟨0, Nat.zero_le _, by simp [valF]⟩
  · have hlog : n.log2 ≤ f.fbits := by
      have := (Nat.log2_lt h0.ne').2 (hn.trans_lt (Nat.pow_lt_pow_succ (n := f.fbits) (by decide)))
      omega
    have hlo : 2 ^ f.fbits ≤ n * 2 ^ (f.fbits - n.log2) := by
      calc 2 ^ f.fbits = 2 ^ n.log2 * 2 ^ (f.fbits - n.log2) := by rw [← pow_add]; congr 1; omega
        _ ≤ _ := Nat.mul_le_mul_right _ (Nat.log2_self_le h0.ne')
    have hhi : n * 2 ^ (f.fbits - n.log2) < 2 * 2 ^ f.fbits := by
      calc n * 2 ^ (f.fbits - n.log2) < 2 ^ (n.log2 + 1) * 2 ^ (f.fbits - n.log2) := Nat.mul_lt_mul_of_pos_right Nat.lt_log2_self (by positivity)
        _ = 2 * 2 ^ f.fbits := by rw [← pow_add, ← pow_succ']; congr 1; omega
    have hok : SigOk f (n.log2 + f.bias) (n * 2 ^ (f.fbits - n.log2)) := ⟨hhi.le, by have := hf.bias; omega, Or.inl hlo⟩
    refine ⟨packF f (n.log2 + f.bias) (n * 2 ^ (f.fbits - n.log2)), hf.lt_topF.1 ?_, ?_⟩
    · have hpack := packF_add hok
      have htop : f.topEx + 1 = 2 ^ f.ebits - 1 := by
        have := hf.top
        rw [Fmt.topEx, if_pos hf.ieee] at this ⊢
        omega
      have hmul : (n.log2 + f.bias + 1) * 2 ^ f.fbits ≤ topF f := Nat.mul_le_mul_right _ (by have := hf.wide; omega)
      rw [Nat.succ_mul] at hmul
      omega
    · rw [valF_packF hok]
      push_cast
      rw [mul_assoc, ← zpow_natCast, ← zpow_add₀ two_ne_zero, Nat.cast_sub hlog]
      rw [show ((f.fbits : Int) - n.log2 + (n.log2 + f.bias - f.bias - f.fbits)) = 0 by ring, zpow_zero, mul_one]
end

/-- An encoding of an element. -/
theorem elemIn_encoding {g : Group} (h : isFlt g.ety = true) (x : Dword) (e : Nat) :
    elemIn g x e < 2 ^ ((etyFmt g.ety).ebits + (etyFmt g.ety).fbits + 1) := by
  obtain ⟨c, hc, hfmt, hbits⟩ := etyFmt_code h
  rw [hfmt, fmtOf_bits hc, hbits]
  exact elemIn_lt g x e

end Sys2Proof.Machine

/-! SUPPORT. The floating words that set no flag (R141 to R145; O6): choice, sign, comparison, rounding to an integer, class. -/

namespace Sys2Proof.Machine

/-! ### Words without flags -/

/-- FPFLAGS as it was need not be listed. -/
theorem SameGroup.without_fpflags {dst : List Loc} {g h : Group} (a : SameGroup (.fpflags :: dst) g h) (hf : h.fpflags = g.fpflags) :
    SameGroup dst g h where
  regs :=
    { v := fun n hn => a.regs.v n (by simpa using hn)
      last := fun hn => a.regs.last (by simpa using hn)
      k := fun n hn => a.regs.k n (by simpa using hn)
      p := fun n hn => a.regs.p n (by simpa using hn)
      q := fun n hn => a.regs.q n (by simpa using hn)
      md := fun hn => a.regs.md (by simpa using hn)
      lanes := fun hn => a.regs.lanes (by simpa using hn)
      joins := fun hn => a.regs.joins (by simpa using hn)
      fpflags := fun _ => hf }
  hidden := a.hidden
  rest := a.rest

theorem DidTo.without_fpflags {i : Instr} {dst : List Loc} {pc : Dword} {s t : State} (h : DidTo i (.fpflags :: dst) pc s t)
    (hf : t.cpu.grp.fpflags = s.cpu.grp.fpflags) : DidTo i dst pc s t :=
  ⟨h.only, h.same.without_fpflags hf, h.retired⟩

/-- A floating word of operations without flags leaves its element results. -/
theorem fltOp_plain_did {op : FltElem} {d a : BitVec 8} {b : Src} {i : Instr} {s : State} (hm : isFlt s.cpu.grp.ety = true)
    (hd : s.cpu.grp.Writable d) (hfit : op.Fits s.cpu.grp) (h0 : ∀ f x y z, (op s.cpu.grp f x y z).2 = 0) {R : Nat → Nat → Nat → Prop}
    (hR : ∀ j e, R j e (fltResult op s.cpu.grp d a b j e).1) : let g := s.cpu.grp
    let t : State := { s with cpu := flagOp isFlt d a b (fltLane op) s.mem ⟨i, none⟩ s.cpu }
    Did i (vecDst false d) s t ∧ Shifted false d g t.cpu.grp ∧ ElemResults d g t.cpu.grp R := by
  intro g t
  obtain ⟨hdid, hshift, hres, hflags⟩ := fltOp_did (op := op) (i := i) (a := a) (b := b) hm hd hfit
  refine ⟨hdid.without_fpflags (BitVec.eq_of_getLsbD_eq fun k _ => Bool.eq_iff_iff.2 ((hflags k).trans (or_iff_left ?_))), hshift,
    hres.mono fun j e r hr => hr ▸ hR j e⟩
  rintro ⟨j, -, -, e, -, h⟩
  rw [fltResult, h0] at h
  simp at h

theorem plainF_lt {g : Group} (h : isFlt g.ety = true) (x : FV) : (plainF (etyFmt g.ety) x).1 < 2 ^ etyBits g.ety := by
  obtain ⟨c, hc, hfmt, hbits⟩ := etyFmt_code h
  rw [hfmt, ← hbits]
  exact toFormat_lt hc _ _ _ _ _

/-! ### Order (R48, R141, R143) -/

/-- Two values are the same number. -/
def FV.Same (x y : FV) : Prop := x = y ∨ ∃ p, x.rat = some p ∧ y.rat = some p

theorem FV.cmp_fin {x y : FV} {p q : ℚ} (hx : x.rat = some p) (hy : y.rat = some q) :
    (x.cmp y = .lt ↔ p < q) ∧ (x.cmp y = .gt ↔ q < p) := by
  have hcmp : x.cmp y = compare (x.units (min x.exp y.exp)) (y.units (min x.exp y.exp)) := by
    obtain ⟨_, _, _, rfl, -⟩ := rat_eq_some hx
    obtain ⟨_, _, _, rfl, -⟩ := rat_eq_some hy
    rfl
  have hpos : (0 : ℚ) < 2 ^ min x.exp y.exp := by positivity
  have hxu := units_mul hx (min_le_left x.exp y.exp)
  have hyu := units_mul hy (min_le_right x.exp y.exp)
  rw [hcmp, ← hxu, ← hyu, compare_lt_iff_lt, compare_gt_iff_gt, mul_lt_mul_iff_left₀ hpos, mul_lt_mul_iff_left₀ hpos, Int.cast_lt, Int.cast_lt]
  exact ⟨Iff.rfl, Iff.rfl⟩

theorem FV.atMost_fin {x y : FV} {p q : ℚ} (hx : x.rat = some p) (hy : y.rat = some q) :
    x.atMost y ↔ p < q ∨ p = q ∧ (x.isNeg = true ∨ y.isNeg = false) := by
  obtain ⟨_, _, _, rfl, -⟩ := rat_eq_some hx
  obtain ⟨_, _, _, rfl, -⟩ := rat_eq_some hy
  simp only [atMost, hx, hy, Option.some.injEq]
  exact ⟨fun ⟨_, _, h1, h2, h⟩ => by rw [h1, h2]; exact h, fun h => ⟨p, q, rfl, rfl, h⟩⟩

theorem FV.same_fin {x y : FV} {p q : ℚ} (hx : x.rat = some p) (hy : y.rat = some q) : x.Same y ↔ p = q := by
  constructor
  · rintro (rfl | ⟨r, h1, h2⟩)
    · exact Option.some.inj (hx.symm.trans hy)
    · exact (Option.some.inj (hx.symm.trans h1)).trans (Option.some.inj (h2.symm.trans hy))
  · rintro rfl
    exact Or.inr ⟨p, hx, hy⟩

/-- The order of values that are no NaN: a value below another is at most it and not the same number. -/
theorem FV.cmp_spec {x y : FV} (hx : x ≠ .nan) (hy : y ≠ .nan) :
    (x.cmp y = .lt ↔ x.atMost y ∧ ¬ x.Same y) ∧ (x.cmp y = .gt ↔ y.atMost x ∧ ¬ x.Same y) ∧ (x.cmp y = .eq ↔ x.Same y) := by
  cases x with
  | nan => exact absurd rfl hx
  | inf n =>
    cases y with
    | nan => exact absurd rfl hy
    | inf k => cases n <;> cases k <;> simp [cmp, atMost, Same, rat]
    | fin k m e => cases n <;> simp [cmp, atMost, Same, rat]
  | fin n m e =>
    cases y with
    | nan => exact absurd rfl hy
    | inf k => cases k <;> simp [cmp, atMost, Same, rat]
    | fin k m' e' =>
      have hp := rat_fin n m e
      have hq := rat_fin k m' e'
      generalize (sgn n : ℚ) * m * 2 ^ e = p at hp
      generalize (sgn k : ℚ) * m' * 2 ^ e' = q at hq
      obtain ⟨hlt, hgt⟩ := cmp_fin hp hq
      have heq : (fin n m e).cmp (fin k m' e') = .eq ↔ p = q := by
        generalize (fin n m e).cmp (fin k m' e') = o at hlt hgt
        cases o
        · exact iff_of_false (by simp) (hlt.1 rfl).ne
        · exact iff_of_true rfl (le_antisymm (not_lt.1 fun h => by simpa using hgt.2 h) (not_lt.1 fun h => by simpa using hlt.2 h))
        · exact iff_of_false (by simp) (hgt.1 rfl).ne'
      rw [hlt, hgt, heq, atMost_fin hp hq, atMost_fin hq hp, same_fin hp hq]
      refine ⟨⟨fun h => ⟨Or.inl h, h.ne⟩, fun ⟨h, hne⟩ => h.resolve_right fun hr => hne hr.1⟩,
        ⟨fun h => ⟨Or.inl h, h.ne'⟩, fun ⟨h, hne⟩ => h.resolve_right fun hr => hne hr.1.symm⟩, Iff.rfl⟩

theorem FV.atMost_refl {x : FV} (hx : x ≠ .nan) : x.atMost x := by
  cases x with
  | nan => exact absurd rfl hx
  | inf n => cases n <;> simp [atMost]
  | fin n m e =>
    rw [atMost_fin (rat_fin n m e) (rat_fin n m e)]
    exact Or.inr ⟨rfl, by cases n <;> simp [isNeg]⟩

/-- The same number with signs in order. -/
theorem FV.atMost_of_same {x y : FV} (hx : x ≠ .nan) (h : x.Same y) (hs : x.isNeg = true ∨ y.isNeg = false) : x.atMost y := by
  rcases h with rfl | ⟨p, h1, h2⟩
  · exact atMost_refl hx
  · exact (atMost_fin h1 h2).2 (Or.inr ⟨rfl, hs⟩)

theorem FV.Same.symm {x y : FV} (h : x.Same y) : y.Same x := by
  rcases h with rfl | ⟨p, h1, h2⟩
  · exact Or.inl rfl
  · exact Or.inr ⟨p, h2, h1⟩

/-! ### `fmin` and `fmax` (R141) -/

/-- x is taken as the lesser. -/
def FV.below (x y : FV) : Bool :=
  match x.cmp y with
  | .lt => true
  | .gt => false
  | .eq => x.isNeg && !y.isNeg

theorem FV.pick_eq {x y : FV} (hx : x ≠ .nan) (hy : y ≠ .nan) (greater : Bool) :
    FV.pick greater x y = if x.below y != greater then x else y := by
  cases x with
  | nan => exact absurd rfl hx
  | inf n =>
    cases y with
    | nan => exact absurd rfl hy
    | inf | fin => rfl
  | fin n m e =>
    cases y with
    | nan => exact absurd rfl hy
    | inf | fin => rfl

theorem FV.below_spec {x y : FV} (hx : x ≠ .nan) (hy : y ≠ .nan) : (x.below y = true → x.atMost y) ∧ (x.below y = false → y.atMost x) := by
  obtain ⟨hlt, hgt, heq⟩ := cmp_spec hx hy
  unfold below
  split
  · next h => exact ⟨fun _ => (hlt.1 h).1, fun h => Bool.noConfusion h⟩
  · next h => exact ⟨fun h => Bool.noConfusion h, fun _ => (hgt.1 h).1⟩
  · next h =>
    refine ⟨fun hb => atMost_of_same hx (heq.1 h) ?_, fun hb => atMost_of_same hy (heq.1 h).symm ?_⟩
    · exact Or.inl (Bool.and_eq_true_iff.1 hb).1
    · cases hn : x.isNeg
      · exact Or.inr rfl
      · rw [hn, Bool.true_and, Bool.not_eq_false'] at hb
        exact Or.inl hb

/-- The lesser or the greater of two values is one of them, in order with both. -/
theorem FV.pick_spec {x y : FV} (hx : x ≠ .nan) (hy : y ≠ .nan) (greater : Bool) :
    let v := FV.pick greater x y
    (v = x ∨ v = y) ∧ if greater then x.atMost v ∧ y.atMost v else v.atMost x ∧ v.atMost y := by
  obtain ⟨hlow, hhigh⟩ := below_spec hx hy
  rw [pick_eq hx hy]
  cases hb : x.below y <;> cases greater
  · exact ⟨Or.inr rfl, hhigh hb, atMost_refl hy⟩
  · exact ⟨Or.inl rfl, atMost_refl hx, hhigh hb⟩
  · exact ⟨Or.inl rfl, atMost_refl hx, hlow hb⟩
  · exact ⟨Or.inr rfl, hlow hb, atMost_refl hy⟩

def PickOp.elem (o : PickOp) : FltElem := match o with | .min => fMinE | .max => fMaxE

theorem exec_pickOp (o : PickOp) (d a : BitVec 8) (b : Src) (s : State) :
    exec (o.word d a b) s = issue noPre (flagOp isFlt d a b (fltLane o.elem)) (o.word d a b) s := by
  cases o <;> cases b <;> rfl

theorem writable_of_pickOp {o : PickOp} {d a : BitVec 8} {b : Src} {g : Group} (h : Issues (o.word d a b) g) : g.Writable d := by
  have hn := namesOk_of_issues h
  obtain ⟨-, hw⟩ := h
  refine writable_of ?_ fun hin => ?_
  · cases o <;> cases b <;> simp_all [PickOp.word, namesOk]
  · specialize hw hin
    cases o <;> cases b <;> simp_all [PickOp.word, windowOk]

/-- A value that an encoding of the group's type reads as. -/
def Read (g : Group) (v : FV) : Prop := ∃ x e, v = floatIn g x e

theorem decodeF_plainF_of_read {g : Group} (hm : isFlt g.ety = true) {v : FV} (h : Read g v) :
    decodeF (etyFmt g.ety) false (plainF (etyFmt g.ety) v).1 = v := by
  obtain ⟨x, e, rfl⟩ := h
  exact (etyFmt_elem g.ety).decodeF_plainF (elemIn_encoding hm x e) g.ftz

theorem PickOp.elem_eq (o : PickOp) (g : Group) (f : Fmt) (a b d : FV) : o.elem g f a b d = plainF f (FV.pick (o == .max) a b) := by
  cases o <;> rfl

theorem FV.pick_nan_left (greater : Bool) (y : FV) : FV.pick greater .nan y = y := by cases y <;> rfl
theorem FV.pick_nan_right (greater : Bool) (x : FV) : FV.pick greater x .nan = x := by cases x <;> rfl

theorem PickOp.result_elem (o : PickOp) {g : Group} (hm : isFlt g.ety = true) {a b : FV} (ha : Read g a) (hb : Read g b) (d : FV) :
    o.Result g a b (o.elem g (etyFmt g.ety) a b d).1 := by
  have hback := fun {v : FV} => decodeF_plainF_of_read hm (v := v)
  rw [elem_eq]
  refine ⟨?_, ?_, ?_, fun hna hnb => ?_⟩
  · rintro rfl rfl
    rfl
  · rintro rfl -
    rw [FV.pick_nan_left]
    exact hback hb
  · rintro - rfl
    rw [FV.pick_nan_right]
    exact hback ha
  · obtain ⟨hone, horder⟩ := FV.pick_spec hna hnb (o == .max)
    have hv : decodeF (etyFmt g.ety) false (plainF (etyFmt g.ety) (FV.pick (o == .max) a b)).1 = FV.pick (o == .max) a b :=
      hback (hone.elim (fun h => h.symm ▸ ha) fun h => h.symm ▸ hb)
    rw [hv]
    refine ⟨hone, ?_⟩
    cases o <;> exact horder

/-! ### `fabs` and `fneg` (R142) -/

def SignOp.elem (o : SignOp) : FltElem := match o with | .abs => fAbsE | .neg => fNegE

theorem exec_signOp (o : SignOp) (d : BitVec 8) (b : Src) (s : State) :
    exec (o.word d b) s = issue noPre (flagOp isFlt d 252 b (fltLane o.elem)) (o.word d b) s := by
  cases o <;> cases b <;> rfl

theorem writable_of_signOp {o : SignOp} {d : BitVec 8} {b : Src} {g : Group} (h : Issues (o.word d b) g) : g.Writable d := by
  have hn := namesOk_of_issues h
  obtain ⟨-, hw⟩ := h
  refine writable_of ?_ fun hin => ?_
  · cases o <;> cases b <;> simp_all [SignOp.word, namesOk]
  · specialize hw hin
    cases o <;> cases b <;> simp_all [SignOp.word, windowOk]

/-- The sign that the word gives a value of sign n. -/
def SignOp.sign (o : SignOp) (n : Bool) : Bool := match o with | .abs => false | .neg => !n

theorem SignOp.elem_eq (o : SignOp) (g : Group) (f : Fmt) (a b d : FV) : o.elem g f a b d = plainF f (b.withSign (o.sign b.isNeg)) := by
  cases o
  · rfl
  · cases b <;> rfl

/-- An encoding by its sign bit and the bits below it. -/
theorem bits_signF {f : Fmt} {neg : Bool} {b : Nat} (hb : b < 2 ^ (f.ebits + f.fbits)) :
    lowBits f (signF f neg + b) = b ∧ signBit f (signF f neg + b) = neg := by
  unfold lowBits signBit
  cases neg
  · rw [signF_false, zero_add]
    exact ⟨Nat.mod_eq_of_lt hb, Nat.testBit_lt_two_pow hb⟩
  · rw [signF, if_pos rfl]
    exact ⟨by rw [Nat.add_mod_left, Nat.mod_eq_of_lt hb], by rw [Nat.testBit_two_pow_add_eq, Nat.testBit_lt_two_pow hb]; rfl⟩

theorem SignOp.result_iff (o : SignOp) (g : Group) {neg : Bool} {b : Nat} (hb : b < 2 ^ ((etyFmt g.ety).ebits + (etyFmt g.ety).fbits)) (r : Nat) :
    o.Result g (signF (etyFmt g.ety) neg + b) r ↔
      if topF (etyFmt g.ety) < b then r = nanF (etyFmt g.ety) else r = signF (etyFmt g.ety) (o.sign neg) + flushed (etyFmt g.ety) g.ftz b := by
  obtain ⟨hlow, hsign⟩ := bits_signF (neg := neg) hb
  cases o <;> simp only [Result, hlow, hsign] <;> rfl

theorem SignOp.result_elem (o : SignOp) {g : Group} (hm : isFlt g.ety = true) (x : Dword) (e : Nat) (a d : FV) :
    o.Result g (elemIn g x e) (o.elem g (etyFmt g.ety) a (floatIn g x e) d).1 := by
  have hf := etyFmt_elem g.ety
  obtain ⟨neg, b, hu, hb⟩ := exists_signF (elemIn_encoding hm x e)
  have hdec : floatIn g x e = _ := (congrArg (decodeF _ _) hu).trans (hf.decodeF_eq hb g.ftz)
  rw [elem_eq, hu, o.result_iff g hb, hdec]
  split
  · rfl
  · split
    · next h =>
      have hX : ¬ topF (etyFmt g.ety) < 2 ^ (etyFmt g.ety).fbits := by
        have h1 : 1 < 2 ^ (etyFmt g.ety).ebits := by have := hf.topEx_lt; have := hf.top; omega
        have : 1 * 2 ^ (etyFmt g.ety).fbits ≤ topF (etyFmt g.ety) := Nat.mul_le_mul_right _ (by omega)
        omega
      have hinf : (FV.inf neg).withSign (o.sign (FV.inf neg).isNeg) = .inf (o.sign neg) := rfl
      rw [hinf, hf.plainF_inf, hf.infF_eq, h, flushed, if_neg fun hc => hX hc.2]
    · have hfit := hf.flushed_lt (ftz := g.ftz) (b := b) (by omega)
      exact congrArg Prod.fst (plainF_fin hf.toFmtOk hfit (o.sign neg) (sigF_mul _ _))

/-! ### `fcmp` (R143) -/

def fcmpWord (d a : BitVec 8) (b : Src) : Instr := match b with | .v b => .fcmp d a b | .k b => .fcmpVk d a b

theorem exec_fcmpWord (d a : BitVec 8) (b : Src) (s : State) : exec (fcmpWord d a b) s = issue noPre (fcmpOp d a b) (fcmpWord d a b) s := by
  cases b <;> rfl

theorem pDstLow_of_fcmpWord {d a : BitVec 8} {b : Src} {g : Group} (h : Issues (fcmpWord d a b) g) : pDstLow d = true := by
  have hn := namesOk_of_issues h
  cases b <;> simp_all [fcmpWord, namesOk]

/-- The condition that `fcmp` tests in a lane. -/
def fcmpHolds (g : Group) (d a : BitVec 8) (b : Src) (j : Nat) : Bool :=
  fcondHolds (d.toNat / 16) (floatIn g (g.laneV false a j) 0) (floatIn g (srcLane g false b j) 0)

theorem fcmpOp_eq {d a : BitVec 8} {b : Src} {m : Cells} {w : Iss} {c : Cpu} (h : isF32 c.grp.ety = true) :
    fcmpOp d a b m w c = c.retire w (c.grp.writeP d.toNat c.grp.active (maskOf (fcmpHolds c.grp d a b))) := by
  have hety : c.grp.ety = 2 := beq_iff_eq.1 h
  have hdec : ∀ v : Dword, decodeF fp32 c.grp.ftz (v.toNat % 2 ^ 32) = floatIn c.grp v 0 := fun v => by
    unfold floatIn elemIn elemOf
    rw [hety]
    simp [etyFmt, etyBits]
  unfold fcmpOp
  rw [if_pos (modeOk_of h fun _ => rfl)]
  simp only [hdec]
  rfl

/-- A condition of R48 from what holds of two values: that they are ordered, at most one another, the same number. -/
def valueCond (c : Nat) (ord le ge same : Prop) : Prop :=
  match c with
  | 0 => ord ∧ same
  | 1 => ¬ ord ∨ ¬ same
  | 2 => ord ∧ le ∧ ¬ same
  | 3 => ord ∧ (le ∨ same)
  | 4 => ord ∧ ge ∧ ¬ same
  | 5 => ord ∧ (ge ∨ same)
  | 10 => ¬ ord
  | _ => ord

theorem floatCond_iff (c : Nat) (x y : FV) : floatCond c x y ↔ valueCond c (x ≠ .nan ∧ y ≠ .nan) (x.atMost y) (y.atMost x) (x.Same y) := by
  unfold floatCond valueCond FV.Same
  rcases c with _ | _ | _ | _ | _ | _ | _ | _ | _ | _ | _ | c <;> exact Iff.rfl

theorem fcondHolds_iff (c : Nat) (x y : FV) : fcondHolds c x y = true ↔ floatCond c x y := by
  rw [floatCond_iff]
  by_cases hord : x ≠ .nan ∧ y ≠ .nan
  · have hun : (x == .nan || y == .nan) = false := by simpa using hord
    obtain ⟨hlt, hgt, heq⟩ := FV.cmp_spec hord.1 hord.2
    have hle : x.cmp y ≠ .gt ↔ x.atMost y ∨ x.Same y := by rw [Ne, hgt]; cases h : x.cmp y <;> simp_all
    have hge : x.cmp y ≠ .lt ↔ y.atMost x ∨ x.Same y := by rw [Ne, hlt]; cases h : x.cmp y <;> simp_all
    rcases c with _ | _ | _ | _ | _ | _ | _ | _ | _ | _ | _ | c <;>
      simp only [fcondHolds, valueCond, hun, hord, hlt, hgt, heq, hle, hge, bne_iff_ne, beq_iff_eq, Bool.not_false, Bool.true_and, Bool.false_or,
        true_and, not_true_eq_false, false_or, ne_eq, not_false_eq_true, and_self, Bool.false_eq_true]
  · have hun : (x == .nan || y == .nan) = true := by simpa [or_iff_not_imp_left] using hord
    rcases c with _ | _ | _ | _ | _ | _ | _ | _ | _ | _ | _ | c <;> simp [fcondHolds, valueCond, hun, hord]

/-! ### `frnd` (R144) -/

def frndWord (d : BitVec 8) (b : Src) : Instr := match b with | .v b => .frnd d b | .k b => .frndVk d b

theorem exec_frndWord (d : BitVec 8) (b : Src) (s : State) :
    exec (frndWord d b) s = issue noPre (flagOp isFlt d 252 b (fltLane fRndE)) (frndWord d b) s := by
  cases b <;> rfl

theorem writable_of_frndWord {d : BitVec 8} {b : Src} {g : Group} (h : Issues (frndWord d b) g) : g.Writable d := by
  have hn := namesOk_of_issues h
  obtain ⟨-, hw⟩ := h
  refine writable_of ?_ fun hin => ?_
  · cases b <;> simp_all [frndWord, namesOk]
  · specialize hw hin
    cases b <;> simp_all [frndWord, windowOk]

/-- A finite value of the format rounds to an integer that the format has (R144). -/
theorem ElemFmt.round_representable {f : Fmt} (hf : ElemFmt f) {b : Nat} (hb : b ≤ maxF f false) (mode : Nat) (w : Word) (neg : Bool) :
    ∃ c ≤ maxF f false, valF f c = ((⟨sigF f b, 1, expF f b⟩ : Mag).round 0 mode w neg).1 := by
  have hval : (⟨sigF f b, 1, expF f b⟩ : Mag).val / 2 ^ (0 : Int) = valF f b := by simp [Mag.val, sigF_mul]
  rcases lt_or_ge (expF f b) 0 with hneg | hpos
  · refine hf.exists_valF (Mag.round_le one_ne_zero 0 mode w neg ?_)
    rw [hval, ← sigF_mul]
    have hsig : (sigF f b : ℚ) ≤ 2 * 2 ^ f.fbits := by exact_mod_cast (sigF_lt f b).le
    have hexp : (2 : ℚ) ^ expF f b ≤ 2 ^ (-1 : Int) := zpow_le_zpow_right₀ one_le_two (by omega)
    calc (sigF f b : ℚ) * 2 ^ expF f b ≤ 2 * 2 ^ f.fbits * 2 ^ (-1 : Int) := mul_le_mul hsig hexp (by positivity) (by positivity)
      _ = ((2 ^ f.fbits : ℕ) : ℚ) := by push_cast; norm_num; ring
  · refine ⟨b, hb, ?_⟩
    have hnat : ((sigF f b * 2 ^ (expF f b).toNat : ℕ) : ℚ) = valF f b := by
      rw [← sigF_mul]; push_cast; rw [← zpow_natCast, Int.toNat_of_nonneg hpos]
    have hle := Mag.round_le (x := ⟨sigF f b, 1, expF f b⟩) one_ne_zero 0 mode w neg (by rw [hval, ← hnat])
    have hge := Mag.le_round (x := ⟨sigF f b, 1, expF f b⟩) one_ne_zero 0 mode w neg (by rw [hval, ← hnat])
    rw [← hnat, le_antisymm hle hge]

theorem fRndE_eq_plain (g : Group) (f : Fmt) (a b d : FV) : ∃ v, fRndE g f a b d = plainF f v := by
  cases b <;> exact ⟨_, rfl⟩

/-- What `frnd` makes of a value, as an encoding. -/
def Rounded (g : Group) (v : FV) (r : Nat) : Prop :=
  let f := etyFmt g.ety
  match v with
  | .nan => r = nanF f
  | .inf n => r = infF f n
  | .fin n m x => ∃ q k, (FV.fin n m x).rat = some q ∧ RoundsToInt (rndNoSr g) q k ∧ (decodeF f false r).rat = some (k : ℚ) ∧ signBit f r = n

theorem rounded_fRndE {g : Group} (hm : isFlt g.ety = true) (x : Dword) (e : Nat) (a d : FV) :
    Rounded g (floatIn g x e) (fRndE g (etyFmt g.ety) a (floatIn g x e) d).1 := by
  have hf := etyFmt_elem g.ety
  obtain ⟨neg, b, hu, hb⟩ := exists_signF (elemIn_encoding hm x e)
  have hdec : floatIn g x e = _ := (congrArg (decodeF _ _) hu).trans (hf.decodeF_eq hb g.ftz)
  rw [hdec]
  split
  · rfl
  · split
    · exact congrArg Prod.fst (hf.plainF_inf neg)
    · have hfit := hf.flushed_lt (ftz := g.ftz) (b := b) (by omega)
      generalize flushed (etyFmt g.ety) g.ftz b = b' at hfit
      have hmode : (if rndNoSr g = 4 then 0 else rndNoSr g) = rndNoSr g := if_neg (by unfold rndNoSr; split <;> omega)
      obtain ⟨q, hq, hround, -⟩ := toInteger_spec (rndNoSr g) neg (sigF (etyFmt g.ety) b') (expF (etyFmt g.ety) b')
      rw [hmode] at hround
      obtain ⟨c, hc, hcval⟩ := hf.round_representable hfit (rndNoSr g) 0 neg
      have hk : ((FV.fin neg (sigF (etyFmt g.ety) b') (expF (etyFmt g.ety) b')).toInteger (rndNoSr g)).1 =
          sgn neg * ((⟨sigF (etyFmt g.ety) b', 1, expF (etyFmt g.ety) b'⟩ : Mag).round 0 (rndNoSr g) 0 neg).1 := by
        rw [FV.toInteger, hmode]
        cases neg <;> simp
      rw [hk] at hround
      have hr : (fRndE g (etyFmt g.ety) a (.fin neg (sigF (etyFmt g.ety) b') (expF (etyFmt g.ety) b')) d).1 = signF (etyFmt g.ety) neg + c := by
        refine congrArg Prod.fst (plainF_fin hf.toFmtOk hc neg (?_ : _ = _))
        rw [hk, hcval, zpow_zero, mul_one, Int.natAbs_mul]
        cases neg <;> simp
      refine ⟨q, _, hq, hround, ?_, ?_⟩
      · rw [hr, rat_decodeF hf.toFmtOk (hc.trans_lt hf.maxF_lt), if_pos hc, hcval]
        push_cast
        rfl
      · rw [hr]
        exact (bits_signF (hc.trans_lt hf.maxF_lt)).2

/-! ### `fclass` (R145) -/

def fclassWord (d : BitVec 8) (b : Src) : Instr := match b with | .v b => .fclass d b | .k b => .fclassVk d b

theorem exec_fclassWord (d : BitVec 8) (b : Src) (s : State) :
    exec (fclassWord d b) s = issue noPre (vecOp isFlt d 252 b classLane) (fclassWord d b) s := by
  cases b <;> rfl

theorem writable_of_fclassWord {d : BitVec 8} {b : Src} {g : Group} (h : Issues (fclassWord d b) g) : g.Writable d := by
  have hn := namesOk_of_issues h
  obtain ⟨-, hw⟩ := h
  refine writable_of ?_ fun hin => ?_
  · cases b <;> simp_all [fclassWord, namesOk]
  · specialize hw hin
    cases b <;> simp_all [fclassWord, windowOk]

theorem ElemFmt.classOf_eq {f : Fmt} (hf : ElemFmt f) {u : Nat} (hu : u < 2 ^ (f.ebits + f.fbits + 1)) : classOf f u = 2 ^ classBit f u := by
  obtain ⟨neg, b, rfl, hb⟩ := exists_signF hu
  obtain ⟨hlow, hsign⟩ := bits_signF (neg := neg) hb
  have hX : 0 < 2 ^ f.fbits := by positivity
  unfold classOf classBit
  rw [hf.decodeF_eq hb, hlow, hsign]
  change _ = 2 ^ if topF f < b then 8 else if b = topF f then (if neg then 0 else 7) else if 2 ^ f.fbits ≤ b then (if neg then 1 else 6)
    else if 0 < b then (if neg then 2 else 5) else if neg then 3 else 4
  by_cases h1 : topF f < b
  · simp only [h1, if_true]
    rfl
  · by_cases h2 : b = topF f
    · simp only [h2, if_true, if_false, lt_irrefl]
      cases neg <;> rfl
    · simp only [h1, h2, if_false, sigF_eq_zero, sigF_lt_iff, flushed, Bool.false_eq_true, false_and]
      by_cases h3 : 2 ^ f.fbits ≤ b
      · have h4 : b ≠ 0 := by omega
        have h5 : ¬ b < 2 ^ f.fbits := by omega
        simp only [h3, h4, h5, if_true, if_false]
        cases neg <;> rfl
      · have h5 : b < 2 ^ f.fbits := by omega
        by_cases h4 : b = 0
        · rw [h4] at h3
          simp only [h3, h4, if_true, if_false, lt_irrefl]
          cases neg <;> rfl
        · have h6 : 0 < b := by omega
          simp only [h3, h4, h5, h6, if_true, if_false]
          cases neg <;> rfl

theorem classBit_lt (f : Fmt) (u : Nat) : classBit f u ≤ 8 := by
  unfold classBit
  dsimp only
  repeat' split
  all_goals decide

theorem classOf_mod {g : Group} (hm : isFlt g.ety = true) (x : Dword) (e : Nat) :
    classOf (etyFmt g.ety) (elemIn g x e) % 2 ^ etyBits g.ety = 2 ^ classBit (etyFmt g.ety) (elemIn g x e) := by
  rw [(etyFmt_elem g.ety).classOf_eq (elemIn_encoding hm x e)]
  refine Nat.mod_eq_of_lt (Nat.pow_lt_pow_right (by decide) ((classBit_lt _ _).trans_lt ?_))
  simp only [isFlt, Bool.or_eq_true, beq_iff_eq] at hm
  rcases hm with (hm | hm) | hm <;> rw [hm] <;> decide

/-- Settles O6: the words are element operations whose results are written as they are read, a predicate, and the class of each element. -/
theorem floatSelectCompareClass : Obligations.FloatSelectCompareClass := by
  unfold Obligations.FloatSelectCompareClass
  intro d a b s g f
  refine ⟨?_, ?_, ?_, ?_, ?_⟩
  · intro o i hi hm
    exact ⟨_, (exec_pickOp o d a b s).trans (issue_of_issues hi rfl),
      fltOp_plain_did hm (writable_of_pickOp hi) (fun _ _ _ => o.elem_eq g _ _ _ _ ▸ plainF_lt hm _) (fun _ _ _ _ => o.elem_eq g _ _ _ _ ▸ rfl)
        fun j e => o.result_elem hm ⟨_, _, rfl⟩ ⟨_, _, rfl⟩ _⟩
  · intro o i hi hm
    exact ⟨_, (exec_signOp o d b s).trans (issue_of_issues hi rfl),
      fltOp_plain_did hm (writable_of_signOp hi) (fun _ _ _ => o.elem_eq g _ _ _ _ ▸ plainF_lt hm _) (fun _ _ _ _ => o.elem_eq g _ _ _ _ ▸ rfl)
        fun j e => o.result_elem hm _ _ _ _⟩
  · intro i hi hm
    obtain ⟨hp, hlt⟩ := compareDst (pDstLow_of_fcmpWord hi)
    obtain ⟨hdid, hread⟩ := writeP_did (i := i) (s := s) (maskOf (fcmpHolds g d a b)) hp hlt
    refine ⟨_, (exec_fcmpWord d a b s).trans (issue_of_issues hi rfl), ?_⟩
    rw [fcmpOp_eq hm]
    refine ⟨hdid, fun j => ?_⟩
    have hj := hread j j.isLt
    by_cases h : g.active.getLsbD j = true
    · rw [if_pos h] at hj ⊢
      exact (iff_of_eq (congrArg (· = true) (hj.trans (maskOf_bit _ j.isLt)))).trans (fcondHolds_iff _ _ _)
    · rw [if_neg h] at hj ⊢
      exact hj
  · intro i hi hm
    exact ⟨_, (exec_frndWord d b s).trans (issue_of_issues hi rfl),
      fltOp_plain_did (R := fun j e r => Rounded g (floatIn g (srcLane g false b j) e) r) hm (writable_of_frndWord hi)
        (fun x y z => by obtain ⟨v, hv⟩ := fRndE_eq_plain g (etyFmt g.ety) x y z; rw [hv]; exact plainF_lt hm v)
        (fun f x y z => by obtain ⟨v, hv⟩ := fRndE_eq_plain g f x y z; rw [hv]; rfl)
        fun j e => rounded_fRndE hm _ _ _ _⟩
  · intro i hi hm
    have hnarrow : isWide g.ety = false := isWide_of_isFlt hm
    obtain ⟨hdid, hshift, hlane⟩ := vecOp_did (f := classLane) (i := i) (d := d) (a := 252) (b := b) (ok := isFlt)
      ⟨hm, fun h => absurd h (by rw [hnarrow]; decide)⟩ (writable_of_fclassWord hi)
    have hres := elemResults_of_lanes hlane (fun j => rfl) (R := fun j e r => r = 2 ^ classBit f (elemIn g (srcLane g false b j) e)) fun j hj e he => by
      rw [hnarrow]
      exact classOf_mod hm _ _
    rw [hnarrow] at hdid hshift
    exact ⟨_, (exec_fclassWord d b s).trans (issue_of_issues hi rfl), hdid, hshift, hres⟩

end Sys2Proof.Machine

/-! SUPPORT. The dot products (R147, R148; O8). -/

namespace Sys2Proof.Machine

/-! ### `fdot2` (R147) -/

theorem isPairF_width {t : Nat} (h : isPairF t = true) : isWide t = false ∧ etyBits t = 16 := by
  simp only [isPairF, Bool.or_eq_true, beq_iff_eq] at h
  rcases h with rfl | rfl <;> decide

theorem exec_fdot2Word (d a : BitVec 8) (b : Src) (s : State) :
    exec (fdot2Word d a b) s = issue noPre (flagOp isPairF d a b dot2Lane) (fdot2Word d a b) s := by
  cases b <;> rfl

theorem writable_of_fdot2Word {d a : BitVec 8} {b : Src} {g : Group} (h : Issues (fdot2Word d a b) g) : g.Writable d := by
  have hn := namesOk_of_issues h
  obtain ⟨-, hw⟩ := h
  refine writable_of ?_ fun hin => ?_
  · cases b <;> simp_all [fdot2Word, namesOk]
  · specialize hw hin
    cases b <;> simp_all [fdot2Word, windowOk]

/-- The terms of the exact sum. -/
def dotTerms (x y : Nat → FV) (z : FV) : List FV := [((x 0).mul (y 0)).1, ((x 1).mul (y 1)).1, z]

/-- The exact result, and whether a product was invalid. -/
def dotValue (rdn : Bool) (x y : Nat → FV) (z : FV) : FV × Bool :=
  if ((x 0).mul (y 0)).2 || ((x 1).mul (y 1)).2 then (.nan, true) else FV.sum rdn (dotTerms x y z)

/-- The result and the flags of R147 from the elements and the addend. -/
def DotResult (g : Group) (x y : Nat → FV) (z : FV) (r : Nat) (fl : FFlags) : Prop :=
  let ts := dotTerms x y z
  let infZero := FltOp.infZero .mul (x 0) (y 0) ∨ FltOp.infZero .mul (x 1) (y 1)
  (infZero → r = nanF fp32 ∧ fl = flagNV) ∧ (¬ infZero → .nan ∈ [x 0, x 1, y 0, y 1, z] → r = nanF fp32 ∧ fl = 0) ∧
    (.nan ∉ ts → .inf true ∈ ts → .inf false ∈ ts → r = nanF fp32 ∧ fl = flagNV) ∧
    (∀ n, .nan ∉ ts → .inf n ∈ ts → .inf (!n) ∉ ts → r = infF fp32 n ∧ fl = 0) ∧
    (∀ x0 x1 y0 y1 z', (x 0).rat = some x0 → (x 1).rat = some x1 → (y 0).rat = some y0 → (y 1).rat = some y1 → z.rat = some z' →
      ∃ v, v.rat = some (x0 * y0 + x1 * y1 + z') ∧ (x0 * y0 + x1 * y1 + z' = 0 → v.isNeg = zeroSign (g.rnd == 3) ts) ∧
        (r, fl) = toFormat fp32 (rndNoSr g) g.sat g.ftz 0 v)

theorem dot_infZero (x y : Nat → FV) :
    (FltOp.infZero .mul (x 0) (y 0) ∨ FltOp.infZero .mul (x 1) (y 1)) ↔ (((x 0).mul (y 0)).2 || ((x 1).mul (y 1)).2) = true := by
  rw [Bool.or_eq_true, FV.mul_invalid, FV.mul_invalid, FltOp.infZero_iff, FltOp.infZero_iff]
  simp

theorem dot_nan {x y : Nat → FV} {z : FV} (h : .nan ∈ [x 0, x 1, y 0, y 1, z]) : .nan ∈ dotTerms x y z := by
  have hmul : ∀ {a b : FV}, a = .nan ∨ b = .nan → (a.mul b).1 = .nan := fun h => by rw [FV.mul_nan h]
  simp only [dotTerms, List.mem_cons, List.not_mem_nil, or_false, eq_comm (a := FV.nan)] at h ⊢
  rcases h with h | h | h | h | h
  · exact Or.inl (hmul (Or.inl h))
  · exact Or.inr (Or.inl (hmul (Or.inl h)))
  · exact Or.inl (hmul (Or.inr h))
  · exact Or.inr (Or.inl (hmul (Or.inr h)))
  · exact Or.inr (Or.inr h)

theorem dotResult_fRound (g : Group) (x y : Nat → FV) (z : FV) :
    DotResult g x y z (fRound g fp32 (dotValue (g.rnd == 3) x y z)).1 (fRound g fp32 (dotValue (g.rnd == 3) x y z)).2 := by
  obtain ⟨hnan, hopp, hinf, hfin⟩ := fRound_sum (f := fp32) rfl g (dotTerms x y z)
  have hz := dot_infZero x y
  have hsum : ¬ (FltOp.infZero .mul (x 0) (y 0) ∨ FltOp.infZero .mul (x 1) (y 1)) →
      fRound g fp32 (dotValue (g.rnd == 3) x y z) = fRound g fp32 (FV.sum (g.rnd == 3) (dotTerms x y z)) := fun h => by
    rw [dotValue, if_neg (mt hz.2 h)]
  have hvalid : .nan ∉ dotTerms x y z → ¬ (FltOp.infZero .mul (x 0) (y 0) ∨ FltOp.infZero .mul (x 1) (y 1)) := fun h0 h => h0 (by
    rcases h with h | h
    · have := FV.mul_of_infZero ((FltOp.infZero_iff _ _ _).1 h).2
      simp [dotTerms, this]
    · have := FV.mul_of_infZero ((FltOp.infZero_iff _ _ _).1 h).2
      simp [dotTerms, this])
  refine ⟨fun h => ?_, fun h hn => ?_, fun h0 h1 h2 => ?_, fun n h0 h1 h2 => ?_, fun x0 x1 y0 y1 z' hx0 hx1 hy0 hy1 hz' => ?_⟩
  · rw [dotValue, if_pos (hz.1 h)]
    exact Prod.ext_iff.1 (fRound_nan rfl g true)
  · exact Prod.ext_iff.1 ((hsum h).trans (hnan (dot_nan hn)))
  · exact Prod.ext_iff.1 ((hsum (hvalid h0)).trans (hopp h0 h1 h2))
  · exact Prod.ext_iff.1 ((hsum (hvalid h0)).trans (hinf n h0 h1 h2))
  · have hterms : List.Forall₂ (fun v q => FV.rat v = some q) (dotTerms x y z) [x0 * y0, x1 * y1, z'] := by
      simp [dotTerms, FV.rat_mul hx0 hy0, FV.rat_mul hx1 hy1, hz']
    obtain ⟨v, hrat, hsign, hround⟩ := hfin _ hterms
    have htotal : [x0 * y0, x1 * y1, z'].sum = x0 * y0 + x1 * y1 + z' := by simp [add_assoc]
    rw [htotal] at hrat hsign
    exact ⟨v, hrat, hsign, (hsum (hvalid (not_mem_of_finite hterms rfl))).trans hround⟩

/-- The lane operation is that result, in the low half of the lane. -/
theorem dot2Lane_eq {g : Group} (h : isPairF g.ety = true) (u v w : Dword) (hw : w.toNat < 2 ^ 32) :
    let r := fRound g fp32 (dotValue (g.rnd == 3) (floatIn g u) (floatIn g v) (decodeF fp32 g.ftz w.toNat))
    dot2Lane g u v w = (BitVec.ofNat 64 r.1, r.2) := by
  have hdec : ∀ x e, decodeF (etyFmt g.ety) g.ftz (elemOf 16 x e) = floatIn g x e := fun x e => by
    unfold floatIn elemIn
    rw [(isPairF_width h).2]
  unfold dot2Lane dotValue
  simp only [hdec, elemOf_lane hw]
  rfl

theorem toNat_ofNat_low {r : Nat} (h : r < 2 ^ 32) : (((BitVec.ofNat 64 r).setWidth 32).setWidth 64 : Dword).toNat = r := by
  rw [BitVec.toNat_setWidth, BitVec.toNat_setWidth, BitVec.toNat_ofNat]
  omega

theorem fRound_fp32_lt (g : Group) (x : FV × Bool) : (fRound g fp32 x).1 < 2 ^ 32 := toFormat_lt (c := 0) (by decide) _ _ _ _ _

theorem dotResult_lane {g : Group} (h : isPairF g.ety = true) (u v w : Dword) (hw : w.toNat < 2 ^ 32) :
    DotResult g (floatIn g u) (floatIn g v) (decodeF fp32 g.ftz w.toNat) (((dot2Lane g u v w).1.setWidth 32).setWidth 64).toNat
      (dot2Lane g u v w).2 := by
  rw [dot2Lane_eq h u v w hw, toNat_ofNat_low (fRound_fp32_lt g _)]
  exact dotResult_fRound g _ _ _

/-! ### `idot4` (R148) -/

theorem exec_idot4Word (d a : BitVec 8) (b : Src) (s : State) :
    exec (idot4Word d a b) s = issue noPre (vecOp isI8Q d a b dot4Lane) (idot4Word d a b) s := by
  cases b <;> rfl

theorem writable_of_idot4Word {d a : BitVec 8} {b : Src} {g : Group} (h : Issues (idot4Word d a b) g) : g.Writable d := by
  have hn := namesOk_of_issues h
  obtain ⟨-, hw⟩ := h
  refine writable_of ?_ fun hin => ?_
  · cases b <;> simp_all [idot4Word, namesOk]
  · specialize hw hin
    cases b <;> simp_all [idot4Word, windowOk]

theorem isI8Q_width {t : Nat} (h : isI8Q t = true) : isWide t = false ∧ etyBits t = 8 := by
  rw [beq_iff_eq.1 h]
  decide

theorem dot4Lane_fits {g : Group} (h : isI8Q g.ety = true) (u v w : Dword) (hw : w.toNat < 2 ^ 32) :
    let x := fun e => toI 8 true (elemIn g u e)
    let y := fun e => toI 8 true (elemIn g v e)
    Fits 32 true g.sat (toI 32 true w.toNat + x 0 * y 0 + x 1 * y 1 + x 2 * y 2 + x 3 * y 3) (((dot4Lane g u v w).setWidth 32).setWidth 64).toNat := by
  intro x y
  have hlane : dot4Lane g u v w = BitVec.ofNat 64 (fitI 32 true g.sat (toI 32 true w.toNat + x 0 * y 0 + x 1 * y 1 + x 2 * y 2 + x 3 * y 3)) := by
    simp only [x, y, elemIn, (isI8Q_width h).2]
    rw [← elemOf_lane hw]
    rfl
  rw [hlane, toNat_ofNat_low (fitI_lt _ _ _ _)]
  exact fits_fitI (by decide) _ _ _

/-- Settles O8: each word is its lane operation, of an exact sum rounded once, or of an integer sum wrapped or clamped once. -/
theorem dotProducts : Obligations.DotProducts := by
  unfold Obligations.DotProducts
  intro d a b s g
  refine ⟨?_, ?_⟩
  · intro i hi hm
    obtain ⟨hdid, hshift, hlane, hflags⟩ := flagOp_did (f := dot2Lane) (i := i) (a := a) (b := b) hm (writable_of_fdot2Word hi)
    refine ⟨_, (exec_fdot2Word d a b s).trans (issue_of_issues hi rfl), hdid, hshift, flagLanes_of hlane hflags fun j hj => ?_⟩
    exact dotResult_lane hm _ _ _ (laneV_lt g d j)
  · intro i hi hm
    have hnarrow : isWide g.ety = false := (isI8Q_width hm).1
    obtain ⟨hdid, hshift, hlane⟩ := vecOp_did (f := dot4Lane) (i := i) (d := d) (a := a) (b := b) (ok := isI8Q)
      ⟨hm, fun h => absurd h (by rw [hnarrow]; decide)⟩ (writable_of_idot4Word hi)
    rw [hnarrow] at hdid hshift hlane
    refine ⟨_, (exec_idot4Word d a b s).trans (issue_of_issues hi rfl), hdid, hshift, fun j => ?_⟩
    have hj := hlane j
    by_cases h : g.active.getLsbD j = true
    · rw [if_pos h] at hj ⊢
      rw [hj]
      exact dot4Lane_fits hm _ _ _ (laneV_lt g d j)
    · rw [if_neg h] at hj ⊢
      exact hj

end Sys2Proof.Machine

/-! SUPPORT. Lane predicates, votes and moves across lanes (R149 to R153; O11, O12). -/

namespace Sys2Proof.Machine

/-! ### Lane predicate words (R150) -/

/-- The predicate that a word computes in every lane. -/
def PredOp.value (o : PredOp) (x y : Word) : Word :=
  match o with
  | .and => x &&& y
  | .or => x ||| y
  | .xor => x ^^^ y
  | .not => ~~~y

theorem exec_predOp (o : PredOp) (d a b : BitVec 8) (s : State) :
    exec (o.word d a b) s = issue noPre (predOp d fun g => o.value (g.readP a.toNat) (g.readP b.toNat)) (o.word d a b) s := by
  cases o <;> rfl

theorem pDst_of_predOp {o : PredOp} {d a b : BitVec 8} {g : Group} (h : Issues (o.word d a b) g) : pDst d = true := by
  have hn := namesOk_of_issues h
  cases o <;> simp_all [PredOp.word, namesOk]

theorem PredOp.value_getLsbD (o : PredOp) (x y : Word) {j : Nat} (hj : j < 32) :
    (o.value x y).getLsbD j = o.bit (x.getLsbD j) (y.getLsbD j) := by
  cases o with
  | and => exact BitVec.getLsbD_and
  | or => exact BitVec.getLsbD_or
  | xor => exact BitVec.getLsbD_xor
  | not => simp [value, bit, hj]

theorem nonZeroLanes_getLsbD (x : Line) {j : Nat} (hj : j < 32) : (nonZeroLanes x).getLsbD j = decide (laneAt x j ≠ 0) := by
  rw [nonZeroLanes, maskOf_bit _ hj, Bool.eq_iff_iff, bne_iff_ne, decide_eq_true_eq]

theorem pmovOp_eq {d b : BitVec 8} {m : Cells} {w : Iss} {c : Cpu} (h : VecMode isAny c.grp [] [b] []) :
    pmovOp d b m w c = c.retire w (c.grp.writeP d.toNat c.grp.active (nonZeroLanes (c.grp.readV b))) := by
  have hmode : modeOk c.grp isAny (pairOk false b) = true := modeOk_of h.1 fun hw => (h.2 hw).2.1 b (by simp)
  unfold pmovOp
  rw [if_pos hmode]
  rfl

theorem pmovOp_trap {d b : BitVec 8} {m : Cells} {w : Iss} {c : Cpu} (hw : isWide c.grp.ety = true) (hb : pairOk false b = false) :
    pmovOp d b m w c = c.trap w (modeTrap c.grp 1) := by
  have hmode : modeOk c.grp isAny (pairOk false b) = false := by simp [modeOk, hw, hb]
  unfold pmovOp
  rw [if_neg (by simp [hmode])]

/-! ### Votes (R153) -/

/-- The active lanes in which the predicate is true, as a mask. -/
def voteMask (g : Group) (a : BitVec 8) : Word := g.active &&& g.readP a.toNat

theorem mem_trueLanes {g : Group} {a : BitVec 8} {j : Nat} : j ∈ trueLanes g a ↔ j < 32 ∧ (voteMask g a).getLsbD j = true := by
  simp [trueLanes, voteMask]

theorem lanesOf_nodup (x : Word) : (lanesOf x).Nodup := (lanesOf_rising x).imp fun h => h.ne

theorem lanesOf_toFinset (g : Group) (a : BitVec 8) : (lanesOf (voteMask g a)).toFinset = trueLanes g a := by
  ext j
  rw [List.mem_toFinset, mem_lanesOf, mem_trueLanes]

theorem lanesOf_length (g : Group) (a : BitVec 8) : (lanesOf (voteMask g a)).length = (trueLanes g a).card := by
  rw [← lanesOf_toFinset, List.toFinset_card_of_nodup (lanesOf_nodup _)]

/-- No lane votes where the mask is empty. -/
theorem voteMask_eq_zero {g : Group} {a : BitVec 8} : voteMask g a = 0 ↔ trueLanes g a = ∅ := by
  rw [Finset.eq_empty_iff_forall_notMem]
  constructor
  · intro h j hj
    have := (mem_trueLanes.1 hj).2
    rw [h] at this
    simp at this
  · intro h
    refine BitVec.eq_of_getLsbD_eq fun j hj => ?_
    have := mt mem_trueLanes.2 (h j)
    simpa [hj] using this

theorem voteMask_eq_active {g : Group} {a : BitVec 8} :
    voteMask g a = g.active ↔ ∀ j < 32, g.active.getLsbD j = true → (g.readP a.toNat).getLsbD j = true := by
  constructor
  · intro h j _ hact
    rw [← h, voteMask, BitVec.getLsbD_and, Bool.and_eq_true] at hact
    exact hact.2
  · intro h
    refine BitVec.eq_of_getLsbD_eq fun j hj => ?_
    rw [voteMask, BitVec.getLsbD_and]
    cases hact : g.active.getLsbD j
    · rfl
    · rw [h j hj hact]; rfl

/-- The lowest lane that votes, or 32. -/
def firstVote (g : Group) (a : BitVec 8) : Nat := ((lanesOf (voteMask g a)).head?).getD 32

theorem firstVote_spec (g : Group) (a : BitVec 8) :
    if trueLanes g a = ∅ then firstVote g a = 32 else firstVote g a ∈ trueLanes g a ∧ ∀ j ∈ trueLanes g a, firstVote g a ≤ j := by
  have hset := lanesOf_toFinset g a
  have hrise := lanesOf_rising (voteMask g a)
  unfold firstVote
  rw [← hset]
  generalize lanesOf (voteMask g a) = l at hrise
  cases l with
  | nil => rfl
  | cons i l =>
    rw [if_neg (by simp)]
    refine ⟨by simp, fun j hj => ?_⟩
    rcases List.mem_cons.1 (List.mem_toFinset.1 hj) with rfl | hj
    · exact le_rfl
    · exact (List.rel_of_pairwise_cons hrise hj).le

theorem firstVote_le (g : Group) (a : BitVec 8) : firstVote g a ≤ 32 := by
  have h := firstVote_spec g a
  split at h
  · exact h.le
  · exact (mem_trueLanes.1 h.1).1.le

/-- What a vote that writes a uniform predicate writes. -/
def voteBit (g : Group) (a : BitVec 8) (op : Nat) : Bool :=
  match op with
  | 0 => voteMask g a == g.active
  | 1 => voteMask g a != 0
  | _ => voteMask g a == 0

/-- What a vote that writes a uniform register writes. -/
def voteWord (g : Group) (a : BitVec 8) (op : Nat) : Word :=
  match op with
  | 3 => BitVec.ofNat 32 (lanesOf (voteMask g a)).length
  | 4 => voteMask g a
  | _ => BitVec.ofNat 32 (firstVote g a)

theorem voteBit_all {g : Group} {a : BitVec 8} :
    voteBit g a 0 = true ↔ ∀ j < 32, g.active.getLsbD j = true → (g.readP a.toNat).getLsbD j = true :=
  beq_iff_eq.trans voteMask_eq_active

theorem voteBit_any {g : Group} {a : BitVec 8} : voteBit g a 1 = true ↔ trueLanes g a ≠ ∅ :=
  bne_iff_ne.trans (not_congr voteMask_eq_zero)

theorem voteBit_none {g : Group} {a : BitVec 8} : voteBit g a 2 = true ↔ trueLanes g a = ∅ :=
  beq_iff_eq.trans voteMask_eq_zero

theorem voteWord_count (g : Group) (a : BitVec 8) : (voteWord g a 3).toNat = (trueLanes g a).card := by
  have hle : (lanesOf (voteMask g a)).length ≤ 32 := (List.length_filter_le _ _).trans List.length_range.le
  rw [← lanesOf_length]
  exact Nat.mod_eq_of_lt (by omega)

theorem voteWord_mask (g : Group) (a : BitVec 8) {j : Nat} (hj : j < 32) :
    (voteWord g a 4).getLsbD j = true ↔ j ∈ trueLanes g a :=
  (mem_trueLanes.trans (and_iff_right hj)).symm

theorem voteWord_first (g : Group) (a : BitVec 8) :
    if trueLanes g a = ∅ then voteWord g a 5 = 32
    else (voteWord g a 5).toNat ∈ trueLanes g a ∧ ∀ j ∈ trueLanes g a, (voteWord g a 5).toNat ≤ j := by
  have hspec := firstVote_spec g a
  have hnat : (voteWord g a 5).toNat = firstVote g a := Nat.mod_eq_of_lt (by have := firstVote_le g a; omega)
  rw [hnat]
  split at hspec
  · next h => rw [if_pos h]; exact BitVec.eq_of_toNat_eq (hnat.trans hspec)
  · next h => rwa [if_neg h]

theorem voteOp_bit {d a : BitVec 8} {op : BitVec 3} (h : op.toNat < 3) :
    Machine.voteOp d a op = uniQ d fun g => voteBit g a op.toNat := by
  have hcases : op.toNat = 0 ∨ op.toNat = 1 ∨ op.toNat = 2 := by omega
  funext m w c
  unfold Machine.voteOp uniQ
  rcases hcases with h | h | h <;> rw [h] <;> rfl

theorem voteOp_word {d a : BitVec 8} {op : BitVec 3} (h : ¬ op.toNat < 3) :
    Machine.voteOp d a op = uniOp d fun g => voteWord g a op.toNat := by
  have hcases : op.toNat = 3 ∨ op.toNat = 4 ∨ op.toNat = 5 ∨ op.toNat = 6 ∨ op.toNat = 7 := by have := op.isLt; omega
  funext m w c
  unfold Machine.voteOp uniOp
  rcases hcases with h | h | h | h | h <;> rw [h] <;> rfl

/-- Settles O11: a predicate word writes bit by bit, `pmov` what is not zero, and a vote what its mask of lanes says. -/
theorem predicatesAndVotes : Obligations.PredicatesAndVotes := by
  unfold Obligations.PredicatesAndVotes
  intro d a b s g
  refine ⟨?_, ?_, ?_, ?_⟩
  · intro o i hi
    have hlt := toNat_lt_of_pDst (pDst_of_predOp hi)
    obtain ⟨hdid, hread⟩ := writeP_did (i := i) (s := s) (o.value (g.readP a.toNat) (g.readP b.toNat)) (Nat.mod_eq_of_lt (by omega)) hlt
    refine ⟨_, (exec_predOp o d a b s).trans (issue_of_issues hi rfl), hdid, fun j hj => (hread j hj).trans ?_⟩
    rw [o.value_getLsbD _ _ hj]
  · intro hi hm
    have hlt := toNat_lt_of_pDst (Bool.and_eq_true_iff.1 (namesOk_of_issues hi)).1
    obtain ⟨hdid, hread⟩ := writeP_did (i := .pmov d b) (s := s) (nonZeroLanes (g.readV b)) (Nat.mod_eq_of_lt (by omega)) hlt
    refine ⟨_, issue_of_issues hi rfl, ?_⟩
    rw [pmovOp_eq hm]
    refine ⟨hdid, fun j hj => (hread j hj).trans ?_⟩
    rw [nonZeroLanes_getLsbD _ hj]
  · intro hi hw hb
    refine ⟨_, issue_of_issues hi rfl, ?_⟩
    rw [pmovOp_trap hw hb]
    exact takesTrap _ _ _ _ _
  · intro op hi
    have hdst : voteDst op d = true := (Bool.and_eq_true_iff.1 (namesOk_of_issues hi)).1
    have hcode : op.toNat < 6 := of_decide_eq_true (Bool.and_eq_true_iff.1 hi.1).2
    by_cases h : op.toNat < 3
    · have hlt := toNat_lt_of_pDst (d := d) (by simpa [voteDst, h] using hdst)
      obtain ⟨t, ht, hdid, hval⟩ := uniQ_did (d := d) (f := fun g => voteBit g a op.toNat) hi hlt (Nat.mod_eq_of_lt (by omega))
      refine ⟨t, (congrArg (fun k => issue noPre k _ s) (voteOp_bit h)).trans ht, by rwa [if_pos h], ?_⟩
      obtain h | h | h : op.toNat = 0 ∨ op.toNat = 1 ∨ op.toNat = 2 := by omega
      · simp only [h] at hval ⊢
        rw [hval]; exact voteBit_all
      · simp only [h] at hval ⊢
        rw [hval]; exact voteBit_any
      · simp only [h] at hval ⊢
        rw [hval]; exact voteBit_none
    · have hk : kWrite d = true := by simpa [voteDst, h, hcode] using hdst
      have hwin : g.inWin = true → kIn d = true := fun hin => by have := hi.2 hin; simpa [windowOk, h] using this
      obtain ⟨t, ht, hdid, hval⟩ := uniOp_did (d := d) (f := fun g => voteWord g a op.toNat) hi hk hwin
      refine ⟨t, (congrArg (fun k => issue noPre k _ s) (voteOp_word h)).trans ht, by rwa [if_neg h], ?_⟩
      obtain h | h | h : op.toNat = 3 ∨ op.toNat = 4 ∨ op.toNat = 5 := by omega
      · simp only [h] at hval ⊢
        rw [hval]; exact voteWord_count g a
      · simp only [h] at hval ⊢
        intro j hj
        rw [hval]; exact voteWord_mask g a hj
      · simp only [h] at hval ⊢
        rw [hval]; exact voteWord_first g a

/-! ### Moves across lanes (R151, R152) -/

theorem exec_moveOp (o : MoveOp) (d a : BitVec 8) (s : State) : exec (o.word d a) s = issue noPre (moveOp d a o.lane) (o.word d a) s := by
  cases o <;> rfl

theorem writable_of_moveOp {o : MoveOp} {d a : BitVec 8} {g : Group} (h : Issues (o.word d a) g) : g.Writable d := by
  have hn := namesOk_of_issues h
  obtain ⟨-, hw⟩ := h
  refine writable_of ?_ fun hin => ?_
  · cases o <;> simp_all [MoveOp.word, namesOk]
  · specialize hw hin
    cases o <;> simp_all [MoveOp.word, windowOk]

theorem moveOp_eq {d a : BitVec 8} {source : Group → Nat → Nat} {m : Cells} {w : Iss} {c : Cpu} (h : VecMode isAny c.grp [d] [a] []) :
    moveOp d a source m w c = c.retire w (c.grp.writeLanes (isWide c.grp.ety) d c.grp.active
      (Vector.ofFn fun (j : Fin 32) => c.grp.laneV (isWide c.grp.ety) a (source c.grp j))) := by
  have hmode : modeOk c.grp isAny (pairOk true d && pairOk false a) = true :=
    modeOk_of h.1 fun hw => by
      obtain ⟨hd, ha, -⟩ := h.2 hw
      simp [hd d (by simp), ha a (by simp)]
  unfold moveOp
  rw [if_pos hmode]

/-- Settles O12: the lanes written are those of a at the source lanes, whole. -/
theorem laneMoves : Obligations.LaneMoves := by
  unfold Obligations.LaneMoves
  intro o d a s i g wide hi hm
  have hd := writable_of_moveOp hi
  have hp : wide = true → pairOk true d = true := fun hw => (hm.2 hw).1 d (by simp)
  refine ⟨_, (exec_moveOp o d a s).trans (issue_of_issues hi rfl), ?_⟩
  rw [moveOp_eq hm]
  refine ⟨did_retire (g.sameGroup_writeLanes wide g.active _ hd hp) (by simp) (by simp), g.shifted_writeLanes wide g.active _ hd hp,
    laneV_of_results (g.laneResults_writeLanes wide g.active (fun j => g.laneV wide a (o.lane g j)) hd hp) fun hw j => ?_⟩
  rw [hw]
  exact laneV_low g a _

end Sys2Proof.Machine

/-! SUPPORT. Branches, jumps and calls (R156 to R158; O15). -/

namespace Sys2Proof.Machine

/-! ### A uniform pair written whole (R37) -/

/-- A pair that the bank in hand has: its registers alone change, and it reads what was written. -/
theorem Group.writeKK_spec (g : Group) {d : BitVec 8} (x : Dword) (hlt : d.toNat + 1 < 160) (hwin : g.inWin = true → d.toNat + 1 < 32) :
    SameGroup [.k d.toNat, .k (d.toNat + 1)] g (g.writeKK d x) ∧ (g.writeKK d x).readKK d = x := by
  have hnext : (d + 1).toNat = d.toNat + 1 := Group.next_toNat (by omega)
  have hlow := g.sameGroup_writeK d (x.extractLsb' 0 32)
  have hhigh := (g.writeK d (x.extractLsb' 0 32)).sameGroup_writeK (d + 1) (x.extractLsb' 32 32)
  have hin : (g.writeK d (x.extractLsb' 0 32)).inWin = g.inWin := (congrArg Group.inWin hlow.rest :)
  refine ⟨by rw [← hnext]; exact hlow.trans hhigh, ?_⟩
  unfold Group.readKK Group.writeKK
  rw [Group.readK_writeK_self _ _ (by omega) (by rw [hin, hnext]; exact hwin), Group.readK_writeK_ne _ _ (Group.next_ne d).symm,
    g.readK_writeK_self _ (by omega) fun h => by have := hwin h; omega]
  exact append_parts x

@[simp] theorem Group.writeKK_lc (g : Group) (d : BitVec 8) (x : Dword) : (g.writeKK d x).lc = g.lc := by simp [Group.writeKK]
@[simp] theorem Group.writeKK_pc (g : Group) (d : BitVec 8) (x : Dword) : (g.writeKK d x).pc = g.pc := by simp [Group.writeKK]

/-- A pair that a word may name is one of registers that the bank in hand has. -/
theorem kPair_reached {g : Group} {d : BitVec 8} (hd : kPair d = true) (hw : g.inWin = true → kIn d 1 = true) :
    d.toNat + 1 < 160 ∧ (g.inWin = true → d.toNat + 1 < 32) := by
  simp only [kPair, kIn, Bool.and_eq_true, Bool.or_eq_true, decide_eq_true_eq] at hd hw
  exact ⟨by omega, fun h => by have := hw h; omega⟩

/-! ### Jumps to a pair (R158) -/

/-- The first check that a jump's target fails, from what the checks ask. -/
theorem targetTrap_spec {c : Cpu} {m : Cells} {p : Dword} :
    (p.toNat % 4 ≠ 0 → targetTrap c m p = some (addrTrap 2 2 p.toNat 0)) ∧
    (p.toNat % 4 = 0 → c.record m (baseObj p) = none → targetTrap c m p = some (addrTrap 3 2 p.toNat 0)) ∧
    ∀ r, p.toNat % 4 = 0 → c.record m (baseObj p) = some r →
      (r.ext < baseOff p + 4 → targetTrap c m p = some (addrTrap 3 1 p.toNat 0)) ∧
      (baseOff p + 4 ≤ r.ext → hasPerm r 4 = false → targetTrap c m p = some (addrTrap 5 1 p.toNat 0)) ∧
      (baseOff p + 4 ≤ r.ext → hasPerm r 4 = true → targetTrap c m p = none) := by
  unfold targetTrap
  refine ⟨fun h => if_pos h, fun h hrec => ?_, fun r h hrec => ?_⟩
  · rw [if_neg (not_not.2 h), hrec]
  · rw [if_neg (not_not.2 h), hrec]
    refine ⟨fun hout => if_pos hout, fun hin hperm => ?_, fun hin hperm => ?_⟩
    · exact (if_neg (not_lt.2 hin)).trans (if_neg (by simp [hperm]))
    · exact (if_neg (not_lt.2 hin)).trans (if_pos hperm)

/-- Looking at a record leaves the directory alone changed. -/
theorem touchRecord_eq (m : Cells) (obj : Nat) (s : State) : ∃ dir, touchRecord m obj s.cpu = (s.withDir dir).cpu := by
  unfold touchRecord
  split
  · exact ⟨_, rfl⟩
  · exact ⟨s.cpu.hw.dir, rfl⟩

/-- The target's checks read nothing of the directory. -/
theorem targetTrap_withDir (s : State) (dir : Directory) (m : Cells) (p : Dword) :
    targetTrap (s.withDir dir).cpu m p = targetTrap s.cpu m p := by
  have hrec : (s.withDir dir).cpu.record m (baseObj p) = s.cpu.record m (baseObj p) := record_congr rfl rfl rfl
  unfold targetTrap
  rw [hrec]

/-- A jump to a pair either goes there or takes the trap of its target. -/
theorem jmpkOp_eq (a : BitVec 8) (w : Iss) (s : State) :
    ∃ dir, (∀ e, targetTrap s.cpu s.mem (s.cpu.grp.readKK a) = some e → jmpkOp a s.mem w s.cpu = (s.withDir dir).cpu.trap w e) ∧
      (targetTrap s.cpu s.mem (s.cpu.grp.readKK a) = none →
        jmpkOp a s.mem w s.cpu = { (s.withDir dir).cpu with grp := s.cpu.grp.retireTo w (s.cpu.grp.readKK a) }) := by
  obtain ⟨dir, hdir⟩ := touchRecord_eq s.mem (baseObj (s.cpu.grp.readKK a)) s
  refine ⟨dir, fun e he => ?_, fun hnone => ?_⟩
  · unfold jmpkOp
    dsimp only
    rw [hdir, targetTrap_withDir, he]
  · unfold jmpkOp
    dsimp only
    rw [hdir, targetTrap_withDir, hnone]
    rfl

theorem exec_jump {i : Instr} {a : BitVec 8} {s : State} (hword : i = .jmpk a ∨ i = .ret a) (hi : Issues i s.cpu.grp) :
    exec i s = .next { s with cpu := jmpkOp a s.mem ⟨i, none⟩ s.cpu } := by
  obtain rfl | rfl := hword
  · exact issue_of_issues hi rfl
  · exact issue_of_issues hi rfl

theorem jump_takesTrap {i : Instr} {a : BitVec 8} {s : State} {e : Trap} (hword : i = .jmpk a ∨ i = .ret a) (hi : Issues i s.cpu.grp)
    (he : targetTrap s.cpu s.mem (s.cpu.grp.readKK a) = some e) :
    ∃ t, exec i s = .next t ∧ TakesTrap (wordOf i) none e 0 (s.withDir t.cpu.hw.dir) t := by
  obtain ⟨dir, htrap, -⟩ := jmpkOp_eq a ⟨i, none⟩ s
  obtain ⟨-, log, hlog⟩ := trapWith_logs (s.withDir dir).cpu (wordOf i) none e 0
  refine ⟨_, exec_jump hword hi, ?_⟩
  rw [htrap e he]
  have hdir : ((s.withDir dir).cpu.trap ⟨i, none⟩ e).hw.dir = dir := (congrArg Module.dir hlog :)
  show TakesTrap _ _ _ _ (s.withDir ((s.withDir dir).cpu.trap ⟨i, none⟩ e).hw.dir) _
  rw [hdir]
  exact takesTrap _ _ _ _ (s.withDir dir)

theorem jump_did {i : Instr} {a : BitVec 8} {s : State} (hword : i = .jmpk a ∨ i = .ret a) (hi : Issues i s.cpu.grp)
    (hnone : targetTrap s.cpu s.mem (s.cpu.grp.readKK a) = none) :
    ∃ t, exec i s = .next t ∧ DidTo i [] (s.cpu.grp.readKK a) (s.withDir t.cpu.hw.dir) t := by
  obtain ⟨dir, -, hjump⟩ := jmpkOp_eq a ⟨i, none⟩ s
  refine ⟨_, exec_jump hword hi, ?_⟩
  rw [hjump hnone]
  exact didTo_of (s := s.withDir dir) (SameGroup.refl _) rfl

/-! ### The statement -/

theorem brOp_eq (d : BitVec 8) (imm : BitVec 16) (m : Cells) (i : Instr) (c : Cpu) :
    brOp d imm m ⟨i, none⟩ c =
      { c with grp := c.grp.retireTo ⟨i, none⟩ (if c.grp.readQ d.toNat then pcMove c.grp.pc (4 * imm.toInt) else c.grp.pc + 4) } := by
  unfold brOp
  dsimp only
  split <;> rfl

/-- Settles O15: each word is a write of the PC within its object; `jmpk` and `ret` are the checks of their target and then that write. -/
theorem branches : Obligations.Branches := by
  unfold Obligations.Branches
  intro d a imm off s g
  refine ⟨fun hi => ?_, ?_, fun hi => ?_, fun i hword hi => ?_⟩
  · refine ⟨_, if g.readQ d.toNat then pcMove g.pc (4 * imm.toInt) else g.pc + 4, issue_of_issues hi rfl, ?_, ?_⟩
    · rw [brOp_eq]
      exact didTo_of (SameGroup.refl g) rfl
    · split
      · exact pcMove_codeAt _ _
      · rfl
  · exact ⟨_, _, issue_of_issues (i := .jmp off) ⟨rfl, fun _ => rfl⟩ rfl, didTo_of (SameGroup.refl g) rfl, pcMove_codeAt _ _⟩
  · have hout : g.inWin = false := by
      have := hi.2
      simpa [windowOk] using this
    obtain ⟨hsame, hread⟩ := g.writeKK_spec (d := 158) (pcMove g.pc 4) (by decide) (by simp [hout])
    exact ⟨_, _, issue_of_issues hi rfl, didTo_of hsame (g.writeKK_lc _ _), pcMove_codeAt _ _, hread.symm ▸ pcMove_codeAt _ _⟩
  · obtain ⟨hunaligned, hnone, hsome⟩ := targetTrap_spec (c := s.cpu) (m := s.mem) (p := g.readKK a)
    refine ⟨fun ⟨halign, r, hrec, hin, hperm⟩ => jump_did hword hi ((hsome r halign hrec).2.2 hin hperm),
      fun h => jump_takesTrap hword hi (hunaligned h), fun h hrec => jump_takesTrap hword hi (hnone h hrec), fun r h hrec => ?_⟩
    obtain ⟨hout, hbar, -⟩ := hsome r h hrec
    exact ⟨fun hx => jump_takesTrap hword hi (hout hx), fun hx hp => jump_takesTrap hword hi (hbar hx hp)⟩

end Sys2Proof.Machine

/-! SUPPORT. Lane divergence: C and the reconvergence stack (R159 to R161; O16). -/

namespace Sys2Proof.Machine

/-! ### C and the stack, each kept by a write of the other -/

@[simp] theorem lanes_setJoins (g : Group) (l : List SEntry) : (g.setJoins l).lanes = g.lanes := (sameGroup_setJoins g l).regs.lanes (by simp)
@[simp] theorem joins_setLanes (g : Group) (x : Word) : (g.setLanes x).joins = g.joins := (sameGroup_setLanes g x).regs.joins (by simp)

@[simp] theorem lc_setJoins (g : Group) (l : List SEntry) : (g.setJoins l).lc = g.lc := by simp [Group.setJoins]
@[simp] theorem lc_setLanes (g : Group) (x : Word) : (g.setLanes x).lc = g.lc := by simp [Group.setLanes]
@[simp] theorem pc_setJoins (g : Group) (l : List SEntry) : (g.setJoins l).pc = g.pc := by simp [Group.setJoins]
@[simp] theorem pc_setLanes (g : Group) (x : Word) : (g.setLanes x).pc = g.pc := by simp [Group.setLanes]

/-! ### A word that retires with a new C and a new stack -/

/-- The state after a word that leaves the group as g' and goes on at pc. -/
def State.goesOn (s : State) (i : Instr) (g' : Group) (pc : Dword) : State :=
  { s with cpu := { s.cpu with grp := g'.retireTo ⟨i, none⟩ pc } }

theorem goesOn_didTo {i : Instr} {s : State} {g' : Group} {dst : List Loc} {pc : Dword} (h : SameGroup dst s.cpu.grp g')
    (hlc : g'.lc = s.cpu.grp.lc) (hdst : ∀ x ∈ dst, x ∈ [Loc.lanes, .joins]) : DidTo i [.lanes, .joins] pc s (s.goesOn i g' pc) :=
  didTo_of (h.mono hdst) hlc

/-- The trap of a word that finds the stack not as it must be (R159 to R161). -/
theorem trap_takesTrap {i : Instr} {s : State} {k : Cpu} (h : exec i s = .next { s with cpu := k })
    (hk : k = s.cpu.trap ⟨i, none⟩ (modeTrap s.cpu.grp 2)) :
    ∃ t, exec i s = .next t ∧ TakesTrap (wordOf i) none (atPc s.cpu.grp 6 2) 0 s t := by
  subst hk
  exact ⟨_, h, takesTrap _ _ _ _ _⟩

/-! ### `brv` by its cases (R160) -/

section
variable {d : BitVec 8} {imm : BitVec 16} {s : State} {top : SEntry} {rest : List SEntry} {j : Dword}

/-- The lanes that a `brv` sends to its target, and those that go on. -/
def taken (g : Group) (d : BitVec 8) : Word := g.lanes &&& g.readP d.toNat
def fallen (g : Group) (d : BitVec 8) : Word := g.lanes &&& ~~~ taken g d

theorem brvOp_none (h : s.cpu.grp.joins = []) :
    brvOp d imm s.mem ⟨.brv d imm, none⟩ s.cpu = s.cpu.trap ⟨.brv d imm, none⟩ (modeTrap s.cpu.grp 2) := by
  unfold brvOp
  dsimp only
  rw [h]

/-- `brv` over a stack that has an entry, its target named. -/
theorem brvOp_some (h : s.cpu.grp.joins = top :: rest) (hj : CodeAt s.cpu.grp.pc (4 * imm.toInt) j) :
    brvOp d imm s.mem ⟨.brv d imm, none⟩ s.cpu =
      let g := s.cpu.grp
      let w : Iss := ⟨.brv d imm, none⟩
      if taken g d = 0 then s.cpu.retire w g
      else if j = top.j then
        { s.cpu with grp := if fallen g d = 0 then (g.setLanes (fallen g d)).retireTo w top.j else (g.setLanes (fallen g d)).retire w }
      else if fallen g d = 0 then { s.cpu with grp := g.retireTo w j }
      else if top.p ≠ 0 then s.cpu.trap w (modeTrap g 2)
      else s.cpu.retire w ((g.setJoins ({ top with p := taken g d, t := j } :: rest)).setLanes (fallen g d)) := by
  have htarget : branchTarget ⟨.brv d imm, none⟩ s.cpu.grp imm = j := codeAt_unique (pcMove_codeAt _ _) hj
  unfold brvOp
  dsimp only
  rw [htarget, h]
  rfl

/-- The four cases in which `brv` retires. -/
theorem brv_did (hi : Issues (.brv d imm) s.cpu.grp) (hjoins : s.cpu.grp.joins = top :: rest) (hj : CodeAt s.cpu.grp.pc (4 * imm.toInt) j)
    (hcase : taken s.cpu.grp d = 0 ∨ j = top.j ∨ fallen s.cpu.grp d = 0 ∨ top.p = 0) :
    let g := s.cpu.grp
    ∃ t p, exec (.brv d imm) s = .next t ∧ DidTo (.brv d imm) [.lanes, .joins] p s t ∧
      if taken g d = 0 then p = g.pc + 4 ∧ t.cpu.grp.lanes = g.lanes ∧ t.cpu.grp.joins = g.joins
      else if j = top.j then p = (if fallen g d = 0 then j else g.pc + 4) ∧ t.cpu.grp.lanes = fallen g d ∧ t.cpu.grp.joins = g.joins
      else if fallen g d = 0 then p = j ∧ t.cpu.grp.lanes = g.lanes ∧ t.cpu.grp.joins = g.joins
      else p = g.pc + 4 ∧ t.cpu.grp.lanes = fallen g d ∧ t.cpu.grp.joins = { top with p := taken g d, t := j } :: rest := by
  have hexec : exec (.brv d imm) s = .next { s with cpu := brvOp d imm s.mem ⟨.brv d imm, none⟩ s.cpu } := issue_of_issues hi rfl
  rw [hexec, brvOp_some hjoins hj]
  dsimp only
  by_cases hx : taken s.cpu.grp d = 0
  · simp only [if_pos hx]
    exact ⟨s.goesOn _ s.cpu.grp (s.cpu.grp.pc + 4), _, rfl, goesOn_didTo (SameGroup.refl s.cpu.grp) rfl (by simp), rfl, rfl, rfl⟩
  simp only [if_neg hx]
  by_cases htop : j = top.j
  · subst htop
    simp only [if_true]
    refine ⟨s.goesOn _ (s.cpu.grp.setLanes (fallen s.cpu.grp d)) (if fallen s.cpu.grp d = 0 then top.j else s.cpu.grp.pc + 4), _, ?_,
      goesOn_didTo (sameGroup_setLanes s.cpu.grp _) (lc_setLanes s.cpu.grp _) (by simp), rfl, lanes_setLanes s.cpu.grp _, joins_setLanes s.cpu.grp _⟩
    by_cases hf : fallen s.cpu.grp d = 0
    · rw [if_pos hf, if_pos hf]
      rfl
    · rw [if_neg hf, if_neg hf, ← pc_setLanes s.cpu.grp (fallen s.cpu.grp d)]
      rfl
  simp only [if_neg htop]
  by_cases hf : fallen s.cpu.grp d = 0
  · simp only [if_pos hf]
    exact ⟨s.goesOn _ s.cpu.grp j, _, rfl, goesOn_didTo (SameGroup.refl s.cpu.grp) rfl (by simp), rfl, rfl, rfl⟩
  · have hp : top.p = 0 := ((hcase.resolve_left hx).resolve_left htop).resolve_left hf
    simp only [if_neg hf, if_neg (not_not.2 hp)]
    let joins := { top with p := taken s.cpu.grp d, t := j } :: rest
    exact ⟨_, _, rfl, did_retire (((sameGroup_setJoins s.cpu.grp joins).trans (sameGroup_setLanes _ _)).mono (by simp))
      ((pc_setLanes _ _).trans (pc_setJoins s.cpu.grp _)) ((lc_setLanes _ _).trans (lc_setJoins s.cpu.grp _)), rfl, lanes_setLanes _ _,
      (joins_setLanes _ _).trans (joins_setJoins s.cpu.grp _)⟩

/-- The case in which `brv` finds lanes pending already. -/
theorem brvOp_pending (hjoins : s.cpu.grp.joins = top :: rest) (hj : CodeAt s.cpu.grp.pc (4 * imm.toInt) j) (hx : taken s.cpu.grp d ≠ 0)
    (htop : j ≠ top.j) (hf : fallen s.cpu.grp d ≠ 0) (hp : top.p ≠ 0) :
    brvOp d imm s.mem ⟨.brv d imm, none⟩ s.cpu = s.cpu.trap ⟨.brv d imm, none⟩ (modeTrap s.cpu.grp 2) :=
  (brvOp_some hjoins hj).trans ((if_neg hx).trans ((if_neg htop).trans ((if_neg hf).trans (if_pos hp))))

/-! ### `jn` by its cases (R161) -/

theorem jnOp_trap (h : s.cpu.grp.joins = [] ∨ ∃ top rest, s.cpu.grp.joins = top :: rest ∧ top.j ≠ s.cpu.grp.pc) :
    jnOp s.mem ⟨.jn, none⟩ s.cpu = s.cpu.trap ⟨.jn, none⟩ (modeTrap s.cpu.grp 2) := by
  unfold jnOp
  dsimp only
  obtain h | ⟨top, rest, h, hne⟩ := h
  · rw [h]
  · rw [h]
    exact if_pos hne

/-- `jn` at the address of the top entry: the lanes it sets, the stack, and where the group goes on. -/
theorem jnOp_here (hjoins : s.cpu.grp.joins = top :: rest) (hhere : top.j = s.cpu.grp.pc) :
    jnOp s.mem ⟨.jn, none⟩ s.cpu =
      let g := s.cpu.grp
      if top.p ≠ 0 then { s.cpu with grp := ((g.setLanes top.p).setJoins ({ top with p := 0 } :: rest)).retireTo ⟨.jn, none⟩ top.t }
      else s.cpu.retire ⟨.jn, none⟩ ((g.setLanes top.s).setJoins rest) := by
  unfold jnOp
  dsimp only
  rw [hjoins]
  exact if_neg (not_not.2 hhere)

/-- C and the stack written one after the other. -/
theorem sameGroup_setLanes_setJoins (g : Group) (x : Word) (l : List SEntry) : SameGroup [.lanes, .joins] g ((g.setLanes x).setJoins l) :=
  (sameGroup_setLanes g x).trans (sameGroup_setJoins _ l)

theorem jn_did (hjoins : s.cpu.grp.joins = top :: rest) (hhere : top.j = s.cpu.grp.pc) :
    let g := s.cpu.grp
    ∃ t p, exec .jn s = .next t ∧ DidTo .jn [.lanes, .joins] p s t ∧
      if top.p = 0 then p = g.pc + 4 ∧ t.cpu.grp.lanes = top.s ∧ t.cpu.grp.joins = rest
      else p = top.t ∧ t.cpu.grp.lanes = top.p ∧ t.cpu.grp.joins = { top with p := 0 } :: rest := by
  have hexec : exec .jn s = .next { s with cpu := jnOp s.mem ⟨.jn, none⟩ s.cpu } := issue_of_issues ⟨rfl, fun _ => rfl⟩ rfl
  rw [hexec, jnOp_here hjoins hhere]
  dsimp only
  by_cases hp : top.p = 0
  · simp only [if_pos hp, if_neg (not_not.2 hp)]
    exact ⟨_, _, rfl, did_retire (sameGroup_setLanes_setJoins s.cpu.grp top.s rest) ((pc_setJoins _ _).trans (pc_setLanes s.cpu.grp _))
      ((lc_setJoins _ _).trans (lc_setLanes s.cpu.grp _)), rfl, (lanes_setJoins _ _).trans (lanes_setLanes s.cpu.grp _), joins_setJoins _ _⟩
  · simp only [if_neg hp, if_pos (show top.p ≠ 0 from hp)]
    exact ⟨_, _, rfl, didTo_of (sameGroup_setLanes_setJoins s.cpu.grp top.p _) ((lc_setJoins _ _).trans (lc_setLanes s.cpu.grp _)), rfl,
      (lanes_setJoins _ _).trans (lanes_setLanes s.cpu.grp _), joins_setJoins _ _⟩

end

/-! ### The statement -/

/-- Settles O16: by the cases of each rule, in which C and the stack are written or the trap is taken. -/
theorem divergence : Obligations.Divergence := by
  unfold Obligations.Divergence
  intro d imm s g
  have hmkj : Issues (.mkj imm) g → exec (.mkj imm) s = .next { s with cpu := mkjOp imm s.mem ⟨.mkj imm, none⟩ s.cpu } :=
    fun hi => issue_of_issues hi rfl
  have hbrv : Issues (.brv d imm) g → exec (.brv d imm) s = .next { s with cpu := brvOp d imm s.mem ⟨.brv d imm, none⟩ s.cpu } :=
    fun hi => issue_of_issues hi rfl
  have hjn : exec .jn s = .next { s with cpu := jnOp s.mem ⟨.jn, none⟩ s.cpu } := issue_of_issues ⟨rfl, fun _ => rfl⟩ rfl
  refine ⟨fun hi hroom => ?_, fun top rest j hi hjoins hj => brv_did hi hjoins hj, fun top rest hjoins hhere => jn_did hjoins hhere,
    fun hi hfull => trap_takesTrap (hmkj hi) (if_pos hfull), fun hi hnone => trap_takesTrap (hbrv hi) (brvOp_none hnone),
    fun top rest j hi hjoins hj hx hne hf hp => trap_takesTrap (hbrv hi) (brvOp_pending hjoins hj hx hne hf hp),
    fun hbad => trap_takesTrap hjn (jnOp_trap hbad)⟩
  have hop : mkjOp imm s.mem ⟨.mkj imm, none⟩ s.cpu = s.cpu.retire ⟨.mkj imm, none⟩
      (g.setJoins (⟨pcMove g.pc (4 * imm.toInt), g.lanes, 0, 0⟩ :: g.joins)) := if_neg (not_le.2 hroom)
  rw [hmkj hi, hop]
  exact ⟨_, _, rfl, did_retire (sameGroup_setJoins g _) (pc_setJoins g _) (lc_setJoins g _), pcMove_codeAt _ _, joins_setJoins g _⟩

end Sys2Proof.Machine

/-! SUPPORT. The mode register, the logical clock, quotas and `exit` (R163 to R171; O17). -/

namespace Sys2Proof.Machine

/-- `mdset` changes MD alone, and MD reads as written. -/
theorem mdset_spec (g : Group) (imm : BitVec 16) :
    SameGroup [.md] g (g.onBank fun b => { b with md := imm }) ∧ (g.onBank fun b => { b with md := imm }).md = imm := by
  refine ⟨Group.sameGroup_onBank g ⟨fun _ _ _ _ => rfl, fun _ => fun _ _ _ => rfl, fun _ _ _ => rfl, fun _ _ _ => rfl, fun _ _ _ => rfl,
    fun h => absurd (by simp) h, fun _ => fun _ => rfl, fun _ => fun _ => rfl⟩, ?_⟩
  unfold Group.md
  rw [Group.fromBank_onBank]
  unfold Group.fromBank
  split <;> rfl

/-! ### `lcadv` (R168) -/

theorem lcadvOp_advances {a : BitVec 8} {m : Cells} {w : Iss} {c : Cpu} (h : c.grp.lc + 1 + (c.grp.readK a).toNat < 2 ^ 63) :
    lcadvOp a m w c = c.retire w { c.grp with lc := c.grp.lc + (c.grp.readK a).toNat } := if_neg (not_le.2 h)

theorem lcadvOp_trap {a : BitVec 8} {m : Cells} {w : Iss} {c : Cpu} (h : 2 ^ 63 ≤ c.grp.lc + 1 + (c.grp.readK a).toNat) :
    lcadvOp a m w c = c.trap w (modeTrap c.grp 3) := if_pos h

/-! ### `rqmove` (R171) -/

section
variable {d a : BitVec 8} {m : Cells} {w : Iss} {c : Cpu} {b : Block}

theorem rqmoveOp_trap (hb : c.ctx.block c.grp = some b) (h : b.g ≤ (c.grp.readK d).toNat) :
    rqmoveOp d a m w c = c.trap w (modeTrap c.grp 4) := by
  unfold rqmoveOp
  dsimp only
  rw [hb]
  exact if_pos h

theorem rqmoveOp_self (hb : c.ctx.block c.grp = some b) (h : (c.grp.readK d).toNat < b.g) (hself : (c.grp.readK d).toNat = c.grp.gix) :
    rqmoveOp d a m w c = c.retire w c.grp := by
  unfold rqmoveOp
  dsimp only
  rw [hb]
  exact (if_neg (not_le.2 h)).trans (if_pos hself)

/-- The groups of a context when the one with this number is given quota: it must be live. -/
def giveQuota (gid quota : Nat) (groups : List Group) : List Group :=
  groups.map fun h => if h.gid = gid ∧ h.status ≠ .exited ∧ h.status ≠ .absent then { h with quota := min (h.quota + quota) 29 } else h

theorem onGroup_quota (x : Ctx) (gid quota : Nat) :
    x.onGroup gid (fun h => if h.live then { h with quota := min (h.quota + quota) 29 } else h) =
      { x with groups := giveQuota gid quota x.groups } := by
  have hmap : ∀ h : Group, (if h.gid == gid then (if h.live then { h with quota := min (h.quota + quota) 29 } else h) else h) =
      if h.gid = gid ∧ h.status ≠ .exited ∧ h.status ≠ .absent then { h with quota := min (h.quota + quota) 29 } else h := fun h => by
    have hlive : h.live = true ↔ h.status ≠ .exited ∧ h.status ≠ .absent := by simp [Group.live]
    by_cases hgid : h.gid = gid
    · simp only [hgid, beq_self_eq_true, if_true, true_and, hlive]
    · simp only [beq_eq_false_iff_ne.2 hgid, Bool.false_eq_true, if_false, hgid, false_and]
  unfold Ctx.onGroup giveQuota
  exact congrArg (fun l => ({ x with groups := l } : Ctx)) (List.map_congr_left fun h _ => hmap h)

theorem rqmoveOp_other (hb : c.ctx.block c.grp = some b) (h : (c.grp.readK d).toNat < b.g) (hother : (c.grp.readK d).toNat ≠ c.grp.gix) :
    rqmoveOp d a m w c =
      let quota := min (c.grp.readK a).toNat (min 29 c.grp.quota)
      ({ c with ctx := { c.ctx with groups := giveQuota (c.grp.gid - c.grp.gix + (c.grp.readK d).toNat) quota c.ctx.groups } } : Cpu).retire w
        { c.grp with quota := c.grp.quota - quota } := by
  unfold rqmoveOp
  dsimp only
  rw [hb, ← onGroup_quota]
  exact (if_neg (not_le.2 h)).trans (if_neg hother)

end

/-! ### `exit` (R163, R192) -/

theorem exitOp_eq {m : Cells} {w : Iss} {c : Cpu} {b : Block} (hb : c.settle.ctx.block c.settle.grp = some b) :
    exitOp m w c =
      { c.settle with
        ctx := c.settle.ctx.setBlock { b with anyExit := true }
        grp := { c.settle.grp.retire w with batches := [], status := .exited } } := by
  unfold exitOp
  dsimp only
  rw [hb]

/-! ### The statement -/

/-- Settles O17: each word is a write of the group in hand; `rqmove` also gives quota to a live group, and `exit` marks the block. -/
theorem modeClockQuotaExit : Obligations.ModeClockQuotaExit := by
  unfold Obligations.ModeClockQuotaExit
  intro d a imm s g
  have hrqmove : Issues (.rqmove d a) g → exec (.rqmove d a) s = .next { s with cpu := rqmoveOp d a s.mem ⟨.rqmove d a, none⟩ s.cpu } :=
    fun hi => issue_of_issues hi rfl
  have hlcadv : Issues (.lcadv a) g → exec (.lcadv a) s = .next { s with cpu := lcadvOp a s.mem ⟨.lcadv a, none⟩ s.cpu } :=
    fun hi => issue_of_issues hi rfl
  refine ⟨?_, fun hi => ?_, fun hi => ?_, fun hi => ?_, fun hi hroom => ?_, fun hi hfull => ?_, fun b hi hb hout => ?_, fun hi => ?_,
    fun b hi hb hin => ?_, ?_⟩
  · exact ⟨_, issue_of_issues (i := .nop) ⟨rfl, fun _ => rfl⟩ rfl, did_retire (SameGroup.refl g) rfl rfl⟩
  · obtain ⟨hsame, hread⟩ := mdset_spec g imm
    exact ⟨_, issue_of_issues hi rfl, did_retire hsame (by simp) (by simp), hread⟩
  · exact uniOp_did (f := fun g => g.md.setWidth 32) hi (namesOk_of_issues hi) hi.2
  · obtain ⟨hlt, hwin⟩ := kPair_reached (namesOk_of_issues hi) hi.2
    obtain ⟨hsame, hread⟩ := g.writeKK_spec (BitVec.ofNat 64 g.lc) hlt hwin
    exact ⟨_, issue_of_issues hi rfl, did_retire hsame (g.writeKK_pc _ _) (g.writeKK_lc _ _), hread⟩
  · rw [hlcadv hi, lcadvOp_advances hroom]
    refine ⟨_, rfl, ⟨rfl, rfl, rfl, rfl, fun _ => rfl⟩, ?_⟩
    have hlc : g.lc + (g.readK a).toNat + 1 = g.lc + 1 + (g.readK a).toNat := Nat.add_right_comm _ _ _
    exact congrArg (fun n => ({ g.after (.lcadv a) (g.pc + 4) with lc := n } : Group)) hlc
  · rw [hlcadv hi, lcadvOp_trap hfull]
    exact ⟨_, rfl, takesTrap _ _ _ _ _⟩
  · rw [hrqmove hi, rqmoveOp_trap hb hout]
    exact ⟨_, rfl, takesTrap _ _ _ _ _⟩
  · exact ⟨_, issue_of_issues hi rfl, ⟨rfl, rfl, rfl, rfl, fun _ => rfl⟩, rfl⟩
  · by_cases hself : (g.readK d).toNat = g.gix
    · rw [hrqmove hi, rqmoveOp_self hb hin hself]
      exact ⟨_, rfl, rfl, rfl, rfl, fun _ => rfl, by rw [if_pos hself]; exact ⟨rfl, rfl⟩⟩
    · rw [hrqmove hi, rqmoveOp_other hb hin hself]
      exact ⟨_, rfl, rfl, rfl, rfl, fun _ => rfl, by rw [if_neg hself]; exact ⟨rfl, rfl⟩⟩
  · intro u b hb
    have hexec : exec .exitI s = .next { s with cpu := exitOp s.mem ⟨.exitI, none⟩ s.cpu } := issue_of_issues ⟨rfl, fun _ => rfl⟩ rfl
    rw [hexec, exitOp_eq hb]
    exact ⟨_, rfl, rfl, rfl, rfl, fun _ => rfl, rfl, rfl⟩

end Sys2Proof.Machine

/-! SUPPORT. Roots and fixed point (R146): the integer root, and how far the sums in fixed point lie below what they stand for. -/

namespace Sys2Proof.Machine

/-! ### The integer square root -/

theorem isqrtFrom_bounds (x : ℕ) : ∀ i r, r * r ≤ x → x < (r + 2 ^ i) * (r + 2 ^ i) →
    isqrtFrom x i r * isqrtFrom x i r ≤ x ∧ x < (isqrtFrom x i r + 1) * (isqrtFrom x i r + 1)
  | 0, _, hlo, hhi => ⟨hlo, hhi⟩
  | i + 1, r, hlo, hhi => by
    unfold isqrtFrom
    split
    · next h => exact isqrtFrom_bounds x i _ h (by rw [Nat.add_assoc, ← Nat.two_mul, ← pow_succ']; exact hhi)
    · next h => exact isqrtFrom_bounds x i r hlo (not_le.1 h)

theorem isqrt_eq_sqrt (x : ℕ) : isqrt x = x.sqrt := by
  have hstart : x < (0 + 2 ^ (x.log2 / 2 + 1)) * (0 + 2 ^ (x.log2 / 2 + 1)) := by
    rw [Nat.zero_add, ← pow_add]
    exact Nat.lt_log2_self.trans_le (Nat.pow_le_pow_right (by decide) (by omega))
  exact Nat.eq_sqrt.2 (isqrtFrom_bounds x _ 0 (Nat.zero_le _) hstart)

/-! ### No boundary of rounding between two magnitudes -/

/-- A value of at most 25 significant bits lies in no gap between neighbours of more bits. -/
theorem boundary_outside {s n : ℕ} (hs : 2 ^ 25 ≤ s) (hn : n < 2 ^ 25) (h e : ℤ) :
    (n : ℝ) * 2 ^ e ≤ s * 2 ^ h ∨ ((s : ℝ) + 1) * 2 ^ h ≤ n * 2 ^ e := by
  have hpos : (0 : ℝ) < 2 ^ h := by positivity
  by_cases he : h ≤ e
  · obtain ⟨k, rfl⟩ := Int.le.dest he
    have hval : (n : ℝ) * 2 ^ (h + (k : ℤ)) = ((n * 2 ^ k : ℕ) : ℝ) * 2 ^ h := by
      rw [zpow_add₀ two_ne_zero, zpow_natCast]
      push_cast
      ring
    rw [hval]
    rcases le_or_gt (n * 2 ^ k) s with hle | hlt
    · exact Or.inl (mul_le_mul_of_nonneg_right (by exact_mod_cast hle) hpos.le)
    · exact Or.inr (mul_le_mul_of_nonneg_right (by exact_mod_cast hlt) hpos.le)
  · refine Or.inl (mul_le_mul (by exact_mod_cast hn.le.trans hs) (zpow_le_zpow_right₀ one_le_two (by omega)) (by positivity) (by positivity))

/-- Two magnitudes in one such gap. -/
theorem sameSides_of_gap {s : ℕ} {h : ℤ} {v q : ℝ} (hs : 2 ^ 25 ≤ s) (hv : s * 2 ^ h < v ∧ v < (s + 1) * 2 ^ h)
    (hq : s * 2 ^ h < q ∧ q < (s + 1) * 2 ^ h) : SameSides v q := by
  intro n e hn _ _
  obtain hle | hle := boundary_outside hs hn h e
  · exact ⟨iff_of_true (hle.trans_lt hv.1) (hle.trans_lt hq.1), iff_of_false (by linarith) (by linarith)⟩
  · exact ⟨iff_of_false (by linarith) (by linarith), iff_of_true (hv.2.trans_le hle) (hq.2.trans_le hle)⟩

theorem sameSides_refl (v : ℝ) : SameSides v v := fun _ _ _ _ _ => ⟨Iff.rfl, Iff.rfl⟩

/-- The real value of a magnitude. -/
noncomputable def Mag.real (m : Mag) : ℝ := (m.n : ℝ) / m.d * 2 ^ m.e

/-- A root cut to an integer s: exact where s is the root, else half a unit above s. -/
theorem root_sameSides {s : ℕ} {y : ℝ} {h : ℤ} {isRoot : Prop} [Decidable isRoot] (hroot : isRoot ↔ (s : ℝ) ^ 2 = y) (hs : 2 ^ 25 ≤ s)
    (hlo : (s : ℝ) ^ 2 ≤ y) (hhi : y < ((s : ℝ) + 1) ^ 2) :
    SameSides (√y * 2 ^ h) (if isRoot then (⟨s, 1, h⟩ : Mag) else ⟨2 * s + 1, 1, h - 1⟩).real := by
  have hpos : (0 : ℝ) < 2 ^ h := by positivity
  split
  · next he =>
    have hval : √y = s := by rw [← hroot.1 he]; exact Real.sqrt_sq (Nat.cast_nonneg s)
    rw [hval, Mag.real]
    simpa using sameSides_refl _
  · next he =>
    have hstrict : (s : ℝ) ^ 2 < y := lt_of_le_of_ne hlo fun h => he (hroot.2 h)
    have hlow : (s : ℝ) < √y := Real.lt_sqrt_of_sq_lt hstrict
    have hhigh : √y < s + 1 := (Real.sqrt_lt' (by positivity)).2 hhi
    have hhalf : (⟨2 * s + 1, 1, h - 1⟩ : Mag).real = (s + 1 / 2) * 2 ^ h := by
      rw [Mag.real, zpow_sub_one₀ two_ne_zero]
      push_cast
      ring
    refine sameSides_of_gap hs ⟨mul_lt_mul_of_pos_right hlow hpos, mul_lt_mul_of_pos_right hhigh hpos⟩ ?_
    rw [hhalf]
    exact ⟨mul_lt_mul_of_pos_right (by linarith) hpos, mul_lt_mul_of_pos_right (by linarith) hpos⟩

theorem sqrt_bounds (x : ℕ) : (x.sqrt : ℝ) ^ 2 ≤ x ∧ (x : ℝ) < ((x.sqrt : ℝ) + 1) ^ 2 :=
  ⟨by exact_mod_cast Nat.sqrt_le' x, by exact_mod_cast Nat.lt_succ_sqrt' x⟩

/-- An even power taken out of a root. -/
theorem sqrt_mul_zpow {y : ℝ} (hy : 0 ≤ y) (h : ℤ) : √(y * 2 ^ (2 * h)) = √y * 2 ^ h := by
  have hpow : (0 : ℝ) ≤ 2 ^ h := by positivity
  rw [Real.sqrt_mul hy, mul_comm 2 h, zpow_mul, zpow_ofNat, Real.sqrt_sq hpow]

/-! ### `fsqrt` and `frsq` -/

theorem sqrtMag_spec {m : ℕ} (hm : m ≠ 0) (e : ℤ) : SameSides (√(m * 2 ^ e)) (sqrtMag m e).real := by
  have hk := Int.emod_two_eq_zero_or_one e
  have hbig : 2 ^ 25 ≤ (m * 2 ^ (128 + (e % 2).toNat)).sqrt := Nat.le_sqrt.2 <| by
    calc 2 ^ 25 * 2 ^ 25 ≤ 2 ^ (128 + (e % 2).toNat) := by rw [← pow_add]; exact Nat.pow_le_pow_right (by decide) (by omega)
      _ ≤ m * 2 ^ (128 + (e % 2).toNat) := Nat.le_mul_of_pos_left _ (Nat.pos_of_ne_zero hm)
  have hval : (m : ℝ) * 2 ^ e = (m * 2 ^ (128 + (e % 2).toNat) : ℕ) * 2 ^ (2 * ((e - e % 2) / 2 - 64)) := by
    push_cast
    rw [mul_assoc, ← zpow_natCast, ← zpow_add₀ two_ne_zero]
    congr 2
    omega
  obtain ⟨hlo, hhi⟩ := sqrt_bounds (m * 2 ^ (128 + (e % 2).toNat))
  rw [hval, sqrt_mul_zpow (Nat.cast_nonneg _)]
  unfold sqrtMag
  simp only [isqrt_eq_sqrt]
  exact root_sameSides (by rw [sq]; norm_cast) hbig hlo hhi

theorem rsqrtMag_spec {m : ℕ} (hm : m ≠ 0) (hlt : m < 2 ^ 24) (e : ℤ) :
    SameSides (1 / √(m * 2 ^ e)) (rsqrtMag m e).real := by
  have hk := Int.emod_two_eq_zero_or_one e
  have hx0 : m * 2 ^ (e % 2).toNat ≠ 0 := Nat.mul_ne_zero hm (by positivity)
  have hx25 : m * 2 ^ (e % 2).toNat ≤ 2 ^ 25 := by
    calc m * 2 ^ (e % 2).toNat ≤ 2 ^ 24 * 2 ^ 1 := Nat.mul_le_mul hlt.le (Nat.pow_le_pow_right (by decide) (by omega))
      _ = 2 ^ 25 := by norm_num
  have hval : 1 / √(m * 2 ^ e) = √(2 ^ 320 / (m * 2 ^ (e % 2).toNat : ℕ)) * 2 ^ (-(e - e % 2) / 2 - 160) := by
    have hsplit : (m : ℝ) * 2 ^ e = (m * 2 ^ (e % 2).toNat : ℕ) * 2 ^ (2 * ((e - e % 2) / 2)) := by
      push_cast
      rw [mul_assoc, ← zpow_natCast, ← zpow_add₀ two_ne_zero]
      congr 2
      omega
    have h320 : √((2 : ℝ) ^ 320) = 2 ^ 160 := by
      rw [show (2 : ℝ) ^ 320 = (2 ^ 160) ^ 2 by rw [← pow_mul]]
      exact Real.sqrt_sq (by positivity)
    have hexp : -(e - e % 2) / 2 - 160 = -((e - e % 2) / 2) - (160 : ℕ) := by omega
    rw [hsplit, sqrt_mul_zpow (Nat.cast_nonneg _), Real.sqrt_div (by positivity), h320, hexp, zpow_sub₀ two_ne_zero, zpow_neg, zpow_natCast]
    field_simp
  generalize hx : m * 2 ^ (e % 2).toNat = x at hx0 hx25 hval
  have hxpos : (0 : ℝ) < x := by exact_mod_cast Nat.pos_of_ne_zero hx0
  have hbig : 2 ^ 25 ≤ (2 ^ 320 / x).sqrt := Nat.le_sqrt.2 <| by
    rw [Nat.le_div_iff_mul_le (Nat.pos_of_ne_zero hx0)]
    calc 2 ^ 25 * 2 ^ 25 * x ≤ 2 ^ 25 * 2 ^ 25 * 2 ^ 25 := Nat.mul_le_mul_left _ hx25
      _ ≤ 2 ^ 320 := by rw [← pow_add, ← pow_add]; exact pow_le_pow_right₀ one_le_two (by omega)
  have hlo : ((2 ^ 320 / x).sqrt : ℝ) ^ 2 ≤ 2 ^ 320 / x := by
    have hdiv : ((2 ^ 320 / x : ℕ) : ℝ) ≤ ((2 ^ 320 : ℕ) : ℝ) / x := Nat.cast_div_le
    rw [Nat.cast_pow, Nat.cast_ofNat] at hdiv
    exact (sqrt_bounds _).1.trans hdiv
  have hhi : (2 : ℝ) ^ 320 / x < ((2 ^ 320 / x).sqrt + 1) ^ 2 := by
    rw [div_lt_iff₀ hxpos]
    have h := Nat.lt_succ_sqrt' (2 ^ 320 / x)
    have h2 : 2 ^ 320 < ((2 ^ 320 / x).sqrt + 1) ^ 2 * x := by
      rwa [← Nat.div_lt_iff_lt_mul (Nat.pos_of_ne_zero hx0)]
    exact_mod_cast h2
  have hexact : (2 ^ 320 / x).sqrt * (2 ^ 320 / x).sqrt * x = 2 ^ 320 ↔ ((2 ^ 320 / x).sqrt : ℝ) ^ 2 = 2 ^ 320 / x := by
    rw [← Nat.cast_inj (R := ℝ), Nat.cast_mul, Nat.cast_mul, Nat.cast_pow, Nat.cast_ofNat, sq, eq_div_iff hxpos.ne']
  rw [hval]
  unfold rsqrtMag
  simp only [isqrt_eq_sqrt, hx]
  exact root_sameSides hexact hbig hlo hhi

end Sys2Proof.Machine

/-! SUPPORT. Fixed point with 256 fraction bits (R146): how far below the values they stand for the logarithm and the exponential lie. -/

namespace Sys2Proof.Machine

/-- The number of units of the fixed point in 1. -/
noncomputable def units : ℝ := ((fxOne : ℕ) : ℝ)

theorem units_eq : units = 2 ^ 256 := Nat.cast_pow 2 256
theorem units_pos : 0 < units := by rw [units_eq]; positivity

/-- The fixed-point number a is at most r, and less than r by no more than c units. -/
def Under (c : ℝ) (a : ℕ) (r : ℝ) : Prop := a ≤ r * units ∧ r * units ≤ a + c

section
variable {a b : ℕ} {c d r t : ℝ}

theorem Under.mono (h : Under c a r) (hcd : c ≤ d) : Under d a r := ⟨h.1, h.2.trans (by linarith)⟩

theorem Under.add (h : Under c a r) (h' : Under d b t) : Under (c + d) (a + b) (r + t) := by
  obtain ⟨hlo, hhi⟩ := h
  obtain ⟨hlo', hhi'⟩ := h'
  unfold Under
  push_cast
  constructor <;> linarith

theorem nat_div_bounds (a : ℕ) {k : ℕ} (hk : 0 < k) : ((a / k : ℕ) : ℝ) ≤ a / k ∧ (a : ℝ) / k ≤ (a / k : ℕ) + 1 := by
  refine ⟨Nat.cast_div_le, ?_⟩
  have hkpos : (0 : ℝ) < k := by exact_mod_cast hk
  rw [div_le_iff₀ hkpos]
  exact_mod_cast (Nat.lt_div_mul_add hk).le.trans (by rw [Nat.succ_mul])

theorem Under.div (h : Under c a r) {k : ℕ} (hk : 0 < k) : Under (c / k + 1) (a / k) (r / k) := by
  obtain ⟨hlo, hhi⟩ := h
  obtain ⟨hdlo, hdhi⟩ := nat_div_bounds a hk
  have hkpos : (0 : ℝ) < k := by exact_mod_cast hk
  have hr : r / k * units = r * units / k := by ring
  constructor
  · rw [hr]
    exact hdlo.trans (div_le_div_of_nonneg_right hlo hkpos.le)
  · have := div_le_div_of_nonneg_right hhi hkpos.le
    rw [hr]
    rw [add_div] at this
    linarith

theorem Under.mul (h : Under c a r) (h' : Under d b t) (hr : 0 ≤ r) (hc : 0 ≤ c) :
    Under (c * t + r * d + 1) (a * b / fxOne) (r * t) := by
  obtain ⟨hlo, hhi⟩ := h
  obtain ⟨hlo', hhi'⟩ := h'
  obtain ⟨hdlo, hdhi⟩ := nat_div_bounds (a * b) (k := fxOne) (by positivity)
  change _ ≤ _ / units at hdlo
  change _ / units ≤ _ at hdhi
  have hpos := units_pos
  have ha : (0 : ℝ) ≤ a := Nat.cast_nonneg a
  have hb : (0 : ℝ) ≤ b := Nat.cast_nonneg b
  have hab : ((a * b : ℕ) : ℝ) = a * b := Nat.cast_mul a b
  have hprod : (a : ℝ) * b ≤ r * units * (t * units) := mul_le_mul hlo hlo' hb (by positivity)
  have hgap : r * units * (t * units) ≤ a * b + (c * t + r * d) * units := by nlinarith [mul_nonneg hr hpos.le]
  rw [hab] at hdlo hdhi
  constructor
  · refine hdlo.trans ?_
    rw [div_le_iff₀ hpos]
    linarith
  · have : r * t * units ≤ a * b / units + (c * t + r * d) := by
      rw [← sub_le_iff_le_add, le_div_iff₀ hpos]
      linarith
    linarith

theorem under_exact (a : ℕ) : Under 0 a (a / units) := by
  have hpos := units_pos
  unfold Under
  rw [div_mul_cancel₀ _ hpos.ne']
  simp

end

/-! ### The logarithm of a ratio -/

/-- The first terms of the series of artanh, from term i on. -/
noncomputable def artanhSum (ζ : ℝ) (n i : ℕ) : ℝ := ∑ j ∈ Finset.range n, ζ ^ (2 * (i + j) + 1) / (2 * (i + j) + 1 : ℕ)

theorem artanhSum_succ (ζ : ℝ) (n i : ℕ) : artanhSum ζ (n + 1) i = ζ ^ (2 * i + 1) / (2 * i + 1 : ℕ) + artanhSum ζ n (i + 1) := by
  unfold artanhSum
  rw [Finset.sum_range_succ', add_comm]
  congr 1
  refine Finset.sum_congr rfl fun j _ => ?_
  rw [show i + (j + 1) = i + 1 + j by omega]

theorem atanhFrom_under {ζ : ℝ} {z2 : ℕ} (h0 : 0 ≤ ζ) (h1 : ζ ≤ 1 / 3) (hz2 : Under 2 z2 (ζ ^ 2)) :
    ∀ (n i p : ℕ), Under 2 p (ζ ^ (2 * i + 1)) → Under (3 * n) (atanhFrom z2 n i p) (artanhSum ζ n i)
  | 0, i, p, _ => by simp [Under, atanhFrom, artanhSum]
  | n + 1, i, p, hp => by
    have hpow : ζ ^ (2 * i + 1) ≤ 1 / 3 := (pow_le_of_le_one h0 (by linarith) (by omega)).trans h1
    have hsq : ζ ^ 2 ≤ 1 / 9 := by nlinarith
    have hstep : Under 2 (p * z2 / fxOne) (ζ ^ (2 * (i + 1) + 1)) := by
      rw [show ζ ^ (2 * (i + 1) + 1) = ζ ^ (2 * i + 1) * ζ ^ 2 by rw [← pow_add]; congr 1]
      exact (hp.mul hz2 (by positivity) (by norm_num)).mono (by linarith)
    have hterm : Under 3 (p / (2 * i + 1)) (ζ ^ (2 * i + 1) / (2 * i + 1 : ℕ)) := by
      refine (hp.div (by omega)).mono ?_
      have : (2 : ℝ) / (2 * i + 1 : ℕ) ≤ 2 := div_le_self (by norm_num) (by exact_mod_cast Nat.le_add_left 1 _)
      linarith
    rw [artanhSum_succ]
    refine (hterm.add (atanhFrom_under h0 h1 hz2 n (i + 1) _ hstep)).mono (le_of_eq ?_)
    push_cast
    ring

/-- The series, cut after n terms. -/
theorem artanhSum_bounds {ζ : ℝ} (h0 : 0 ≤ ζ) (h1 : ζ ≤ 1 / 3) (n : ℕ) :
    2 * artanhSum ζ n 0 ≤ Real.log ((1 + ζ) / (1 - ζ)) ∧ Real.log ((1 + ζ) / (1 - ζ)) ≤ 2 * artanhSum ζ n 0 + (1 / 9) ^ n := by
  have habs : |ζ| < 1 := by rw [abs_of_nonneg h0]; linarith
  have hlog : Real.log ((1 + ζ) / (1 - ζ)) = Real.log (1 + ζ) - Real.log (1 - ζ) := Real.log_div (by linarith) (by linarith)
  have hsum := Real.hasSum_log_sub_log_of_abs_lt_one habs
  have hfirst : ∑ k ∈ Finset.range n, (2 : ℝ) * (1 / (2 * k + 1)) * ζ ^ (2 * k + 1) = 2 * artanhSum ζ n 0 := by
    unfold artanhSum
    rw [Finset.mul_sum]
    refine Finset.sum_congr rfl fun k _ => ?_
    rw [Nat.zero_add]
    push_cast
    ring
  rw [← hfirst, hlog]
  refine ⟨sum_le_hasSum _ (fun k _ => by positivity) hsum, ?_⟩
  have htail := (hasSum_nat_add_iff' n).2 hsum
  have hgeom : HasSum (fun k : ℕ => (8 / 9 : ℝ) * (1 / 9) ^ n * (1 / 9) ^ k) ((1 / 9) ^ n) := by
    have h := (hasSum_geometric_of_lt_one (r := (1 / 9 : ℝ)) (by norm_num) (by norm_num)).mul_left ((8 / 9 : ℝ) * (1 / 9) ^ n)
    have heq : (8 / 9 : ℝ) * (1 / 9) ^ n * (1 - 1 / 9)⁻¹ = (1 / 9) ^ n := by
      rw [mul_right_comm]
      norm_num
    rwa [heq] at h
  have hle : ∀ k : ℕ, (2 : ℝ) * (1 / (2 * ((k + n : ℕ) : ℝ) + 1)) * ζ ^ (2 * (k + n) + 1) ≤ 8 / 9 * (1 / 9) ^ n * (1 / 9) ^ k := fun k => by
    have hcoef : (1 : ℝ) / (2 * ((k + n : ℕ) : ℝ) + 1) ≤ 1 := div_le_self zero_le_one (by have := Nat.cast_nonneg (α := ℝ) (k + n); linarith)
    have hpow : ζ ^ (2 * (k + n) + 1) ≤ (1 / 9) ^ n * (1 / 9) ^ k * (1 / 3) := by
      calc ζ ^ (2 * (k + n) + 1) ≤ (1 / 3) ^ (2 * (k + n) + 1) := pow_le_pow_left₀ h0 h1 _
        _ = (1 / 9) ^ n * (1 / 9) ^ k * (1 / 3) := by
          rw [pow_succ, pow_mul, show ((1 : ℝ) / 3) ^ 2 = 1 / 9 by norm_num, pow_add]
          ring
    have hpos : (0 : ℝ) < (1 / 9) ^ n * (1 / 9) ^ k := by positivity
    calc (2 : ℝ) * (1 / (2 * ((k + n : ℕ) : ℝ) + 1)) * ζ ^ (2 * (k + n) + 1) ≤ 2 * 1 * ζ ^ (2 * (k + n) + 1) := by gcongr
      _ ≤ 8 / 9 * (1 / 9) ^ n * (1 / 9) ^ k := by linarith
  have := hasSum_le hle htail hgeom
  linarith

theorem lnRatio_under {a b : ℕ} (hb : 0 < b) (hab : 3 * a ≤ b) : Under 1024 (lnRatio a b) (Real.log ((b + a) / (b - a))) := by
  have hbpos : (0 : ℝ) < b := by exact_mod_cast hb
  have habr : 3 * (a : ℝ) ≤ b := by exact_mod_cast hab
  have h0 : 0 ≤ (a : ℝ) / b := by positivity
  have h1 : (a : ℝ) / b ≤ 1 / 3 := by rw [div_le_iff₀ hbpos]; linarith
  have hz : Under 1 (a * fxOne / b) (a / b) := by
    obtain ⟨hlo, hhi⟩ := nat_div_bounds (a * fxOne) hb
    have hval : ((a * fxOne : ℕ) : ℝ) / b = a / b * units := by
      rw [Nat.cast_mul]
      change (a : ℝ) * units / b = _
      ring
    rw [hval] at hlo hhi
    exact ⟨hlo, hhi⟩
  have hz2 : Under 2 (a * fxOne / b * (a * fxOne / b) / fxOne) ((a / b : ℝ) ^ 2) := by
    rw [sq]
    exact (hz.mul hz h0 zero_le_one).mono (by linarith)
  have hsum := atanhFrom_under h0 h1 hz2 90 0 _ ((by simpa using hz : Under 1 _ ((a / b : ℝ) ^ (2 * 0 + 1))).mono one_le_two)
  obtain ⟨hlo, hhi⟩ := artanhSum_bounds h0 h1 90
  have harg : (1 + (a : ℝ) / b) / (1 - a / b) = (b + a) / (b - a) := by
    have : (b : ℝ) - a ≠ 0 := by linarith
    field_simp
  have htail : ((1 : ℝ) / 9) ^ 90 * units ≤ 1 := by
    rw [units_eq]
    norm_num
  rw [harg] at hlo hhi
  have hpos := units_pos
  unfold lnRatio Under
  obtain ⟨hslo, hshi⟩ := hsum
  push_cast at hslo hshi ⊢
  constructor
  · nlinarith
  · nlinarith

/-! ### The exponential -/

/-- The first terms of the exponential series, from term i on. -/
noncomputable def expSum (η : ℝ) (n i : ℕ) : ℝ := ∑ j ∈ Finset.range n, η ^ (i + j) / (i + j).factorial

theorem expSum_succ (η : ℝ) (n i : ℕ) : expSum η (n + 1) i = η ^ i / i.factorial + expSum η n (i + 1) := by
  unfold expSum
  rw [Finset.sum_range_succ', add_comm]
  congr 1
  refine Finset.sum_congr rfl fun j _ => ?_
  rw [show i + (j + 1) = i + 1 + j by omega]

theorem expFrom_under {y : ℕ} (hy : (y : ℝ) / units ≤ 1 / 128) :
    ∀ (n i t : ℕ), Under 3 t ((y / units) ^ i / i.factorial) → Under (3 * n) (expFrom y n i t) (expSum (y / units) n i)
  | 0, i, t, _ => by simp [Under, expFrom, expSum]
  | n + 1, i, t, ht => by
    have h0 : 0 ≤ (y : ℝ) / units := div_nonneg (Nat.cast_nonneg y) units_pos.le
    have hstep : Under 3 (t * y / fxOne / (i + 1)) ((y / units) ^ (i + 1) / (i + 1).factorial) := by
      have hterm : ((y : ℝ) / units) ^ (i + 1) / (i + 1).factorial = (y / units) ^ i / i.factorial * (y / units) / (i + 1 : ℕ) := by
        rw [Nat.factorial_succ, pow_succ]
        push_cast
        field_simp
      rw [hterm]
      refine ((ht.mul (under_exact y) (by positivity) (by norm_num)).div (Nat.succ_pos i)).mono ?_
      have hle : (3 * ((y : ℝ) / units) + (y / units) ^ i / i.factorial * 0 + 1) / (i + 1 : ℕ) ≤ 3 * (y / units) + (y / units) ^ i / i.factorial * 0 + 1 :=
        div_le_self (by positivity) (by exact_mod_cast Nat.le_add_left 1 i)
      linarith
    rw [expSum_succ]
    refine (ht.add (expFrom_under hy n (i + 1) _ hstep)).mono (le_of_eq ?_)
    push_cast
    ring

/-- The fixed-point number a is at most r, and less than r by no more than its part ρ. -/
def Near (ρ : ℝ) (a : ℕ) (r : ℝ) : Prop := a ≤ r * units ∧ r * units * (1 - ρ) ≤ a

theorem Near.trans {ρ σ r r' : ℝ} {a : ℕ} (h : Near ρ a r) (hρ : 0 ≤ ρ) (hle : r ≤ r') (hge : r' * (1 - σ) ≤ r) : Near (ρ + σ) a r' := by
  obtain ⟨hlo, hhi⟩ := h
  have hpos := units_pos
  refine ⟨hlo.trans (mul_le_mul_of_nonneg_right hle hpos.le), ?_⟩
  refine le_trans ?_ hhi
  have h1 : r' * (1 - (ρ + σ)) ≤ r * (1 - ρ) := by nlinarith
  nlinarith

/-- A square in fixed point: the part of the error doubles. -/
theorem Near.square {ρ r : ℝ} {a : ℕ} (h : Near ρ a r) (hr : 1 ≤ r) : Near (2 * ρ + 1 / units) (a * a / fxOne) (r ^ 2) := by
  obtain ⟨hlo, hhi⟩ := h
  have hpos := units_pos
  obtain ⟨hdlo, hdhi⟩ := nat_div_bounds (a * a) (k := fxOne) (by positivity)
  change _ ≤ _ / units at hdlo
  change _ / units ≤ _ at hdhi
  rw [Nat.cast_mul] at hdlo hdhi
  have ha : (0 : ℝ) ≤ a := Nat.cast_nonneg a
  constructor
  · refine hdlo.trans ?_
    rw [div_le_iff₀ hpos]
    nlinarith [mul_le_mul hlo hlo ha (by positivity)]
  · have hsq : r ^ 2 * units * (1 - 2 * ρ) ≤ a * a / units := by
      rw [le_div_iff₀ hpos]
      nlinarith [mul_le_mul hlo hlo ha (by positivity)]
    have hone : 1 ≤ r ^ 2 * units * (1 / units) := by
      rw [mul_assoc, mul_one_div_cancel hpos.ne', mul_one]
      exact one_le_pow₀ hr
    linarith

theorem squares_near : ∀ (n : ℕ) {a : ℕ} {r ρ : ℝ}, 1 ≤ r → Near ρ a r → Near (2 ^ n * (ρ + 1 / units)) (squares n a) (r ^ 2 ^ n)
  | 0, a, r, ρ, hr, h => by
    have hone : 0 ≤ 1 / units := div_nonneg zero_le_one units_pos.le
    rw [pow_zero, one_mul, pow_zero, pow_one]
    exact ⟨h.1, le_trans (by nlinarith [mul_nonneg (mul_nonneg (zero_le_one.trans hr) units_pos.le) hone]) h.2⟩
  | n + 1, a, r, ρ, hr, h => by
    have hstep := squares_near n (one_le_pow₀ hr) (h.square hr)
    rw [← pow_mul, ← pow_succ'] at hstep
    have heq : (2 : ℝ) ^ n * (2 * ρ + 1 / units + 1 / units) = 2 ^ (n + 1) * (ρ + 1 / units) := by ring
    rw [heq] at hstep
    exact hstep

/-- The exponential series of a small argument, cut after 40 terms. -/
theorem expSum_bounds {η : ℝ} (h0 : 0 ≤ η) (h1 : η ≤ 1 / 128) : expSum η 40 0 ≤ Real.exp η ∧ Real.exp η ≤ expSum η 40 0 + 1 / units := by
  have hsum : expSum η 40 0 = ∑ j ∈ Finset.range 40, η ^ j / j.factorial := by
    unfold expSum
    simp only [Nat.zero_add]
  rw [hsum]
  refine ⟨Real.sum_le_exp_of_nonneg h0 40, (Real.exp_bound' h0 (by linarith) (by decide : 0 < 40)).trans ?_⟩
  have hpow : η ^ 40 ≤ (1 / 128) ^ 40 := pow_le_pow_left₀ h0 h1 40
  have hfact : (1 : ℝ) ≤ (Nat.factorial 40 : ℕ) := by exact_mod_cast Nat.factorial_pos 40
  have htail : η ^ 40 * ((40 : ℕ) + 1) / ((Nat.factorial 40 : ℕ) * (40 : ℕ)) ≤ 1 / units := by
    rw [units_eq]
    calc η ^ 40 * ((40 : ℕ) + 1) / ((Nat.factorial 40 : ℕ) * (40 : ℕ)) ≤ (1 / 128) ^ 40 * ((40 : ℕ) + 1) / (1 * (40 : ℕ)) := by gcongr
      _ ≤ 1 / 2 ^ 256 := by norm_num
  linarith

theorem expFrom_near {q : ℕ} (h1 : (q : ℝ) / units ≤ 1 / 128) : Near (121 / units) (expFrom q 40 0 fxOne) (Real.exp (q / units)) := by
  have hpos := units_pos
  have h0 : 0 ≤ (q : ℝ) / units := div_nonneg (Nat.cast_nonneg q) hpos.le
  have hone : Under 3 fxOne (((q : ℝ) / units) ^ 0 / (Nat.factorial 0 : ℕ)) := by
    change (units ≤ _) ∧ (_ ≤ units + 3)
    simp
  obtain ⟨hlo, hhi⟩ := expFrom_under h1 40 0 _ hone
  obtain ⟨hslo, hshi⟩ := expSum_bounds h0 h1
  have hexp : 1 ≤ Real.exp (q / units) := Real.one_le_exp h0
  have hcut : Real.exp (q / units) * units ≤ expSum (q / units) 40 0 * units + 1 := by
    have h := mul_le_mul_of_nonneg_right hshi hpos.le
    rwa [add_mul, one_div_mul_cancel hpos.ne'] at h
  have hpart : Real.exp (q / units) * units * (1 - 121 / units) = Real.exp (q / units) * units - 121 * Real.exp (q / units) := by field_simp
  have hcount : (3 : ℝ) * (40 : ℕ) = 120 := by norm_num
  refine ⟨hlo.trans (mul_le_mul_of_nonneg_right hslo hpos.le), ?_⟩
  rw [hcount] at hhi
  rw [hpart]
  linarith

/-- The exponential in fixed point. -/
theorem fxExp_near {y : ℕ} (hy : y ≤ 32 * fxOne) : Near (1 / 2 ^ 236) (fxExp y) (Real.exp (y / units)) := by
  have hpos := units_pos
  have hyle : (y : ℝ) ≤ 32 * units := by
    have h : (y : ℝ) ≤ ((32 * fxOne : ℕ) : ℝ) := Nat.cast_le.2 hy
    rwa [Nat.cast_mul] at h
  obtain ⟨hdlo, hdhi⟩ := nat_div_bounds y (k := 4096) (by decide)
  unfold fxExp
  rw [show (2 : ℕ) ^ 12 = 4096 by norm_num]
  generalize y / 4096 = q at hdlo hdhi ⊢
  rw [div_le_iff₀ (by norm_num)] at hdhi
  rw [le_div_iff₀ (by norm_num)] at hdlo
  push_cast at hdlo hdhi
  have h1 : (q : ℝ) / units ≤ 1 / 128 := by
    rw [div_le_iff₀ hpos]
    linarith
  have hsquares := squares_near 12 (Real.one_le_exp (div_nonneg (Nat.cast_nonneg q) hpos.le)) (expFrom_near h1)
  rw [← Real.exp_nat_mul] at hsquares
  have hle : ((2 ^ 12 : ℕ) : ℝ) * (q / units) ≤ y / units := by
    rw [le_div_iff₀ hpos, mul_assoc, div_mul_cancel₀ _ hpos.ne']
    norm_num
    linarith
  have hge : (y : ℝ) / units - 4096 / units ≤ ((2 ^ 12 : ℕ) : ℝ) * (q / units) := by
    rw [← sub_div, div_le_iff₀ hpos, mul_assoc, div_mul_cancel₀ _ hpos.ne']
    norm_num
    linarith
  have hcut : Real.exp (y / units) * (1 - 4096 / units) ≤ Real.exp (((2 ^ 12 : ℕ) : ℝ) * (q / units)) := by
    calc Real.exp (y / units) * (1 - 4096 / units) ≤ Real.exp (y / units) * Real.exp (-(4096 / units)) :=
          mul_le_mul_of_nonneg_left (Real.one_sub_le_exp_neg _) (Real.exp_pos _).le
      _ = Real.exp (y / units - 4096 / units) := by rw [← Real.exp_add, sub_eq_add_neg]
      _ ≤ _ := Real.exp_le_exp.2 hge
  have hnear := hsquares.trans (by positivity) (Real.exp_le_exp.2 hle) hcut
  refine ⟨hnear.1, le_trans (mul_le_mul_of_nonneg_left ?_ (mul_pos (Real.exp_pos _) hpos).le) hnear.2⟩
  rw [units_eq]
  norm_num

end Sys2Proof.Machine

/-! SUPPORT. `fex2`, `flg2` and `ftanh` (R146): the magnitudes rounded stand for the exact ones. -/

namespace Sys2Proof.Machine

/-! ### Magnitudes by their logarithm -/

/-- The binade of m·2^e. -/
theorem binade {m : ℕ} (hm : m ≠ 0) (e : ℤ) : (2 : ℝ) ^ ((m.log2 : ℤ) + e) ≤ m * 2 ^ e ∧ (m : ℝ) * 2 ^ e < 2 ^ ((m.log2 : ℤ) + e + 1) := by
  have hpos : (0 : ℝ) < 2 ^ e := by positivity
  have hlo : ((2 ^ m.log2 : ℕ) : ℝ) ≤ m := Nat.cast_le.2 (Nat.log2_self_le hm)
  have hhi : (m : ℝ) < (2 ^ (m.log2 + 1) : ℕ) := Nat.cast_lt.2 Nat.lt_log2_self
  push_cast at hlo hhi
  constructor
  · rw [zpow_add₀ two_ne_zero, zpow_natCast]
    exact mul_le_mul_of_nonneg_right hlo hpos.le
  · rw [show (m.log2 : ℤ) + e + 1 = ((m.log2 + 1 : ℕ) : ℤ) + e by push_cast; ring, zpow_add₀ two_ne_zero, zpow_natCast]
    exact mul_lt_mul_of_pos_right hhi hpos

theorem log2_le_of_lt {m : ℕ} (hm : m ≠ 0) (hlt : m < 2 ^ 24) : m.log2 ≤ 23 := by
  have := (Nat.log2_lt hm).2 hlt
  omega

/-- Magnitudes beneath every boundary but 0, and above every one. -/
theorem sameSides_of_tiny {v q : ℝ} (hv : 0 < v ∧ v < 2 ^ (-300 : ℤ)) (hq : 0 < q ∧ q < 2 ^ (-300 : ℤ)) : SameSides v q := by
  intro n e _ he _
  obtain rfl | hn := Nat.eq_zero_or_pos n
  · simp [hv.1, hq.1, not_lt.2 hv.1.le, not_lt.2 hq.1.le]
  · have hle : (2 : ℝ) ^ (-300 : ℤ) ≤ n * 2 ^ e := by
      calc (2 : ℝ) ^ (-300 : ℤ) ≤ 2 ^ e := zpow_le_zpow_right₀ one_le_two he
        _ ≤ n * 2 ^ e := le_mul_of_one_le_left (by positivity) (by exact_mod_cast hn)
    exact ⟨iff_of_false (by linarith) (by linarith), iff_of_true (by linarith) (by linarith)⟩

theorem sameSides_of_huge {v q : ℝ} (hv : 2 ^ (325 : ℤ) ≤ v) (hq : 2 ^ (325 : ℤ) ≤ q) : SameSides v q := by
  intro n e hn _ he
  have hlt : (n : ℝ) * 2 ^ e < 2 ^ (325 : ℤ) := by
    calc (n : ℝ) * 2 ^ e < 2 ^ 25 * 2 ^ e := mul_lt_mul_of_pos_right (by exact_mod_cast hn) (by positivity)
      _ ≤ 2 ^ 25 * 2 ^ (300 : ℤ) := mul_le_mul_of_nonneg_left (zpow_le_zpow_right₀ one_le_two he) (by positivity)
      _ = 2 ^ (325 : ℤ) := by rw [← zpow_natCast, ← zpow_add₀ two_ne_zero]; norm_num
  exact ⟨iff_of_true (by linarith) (by linarith), iff_of_false (by linarith) (by linarith)⟩

/-- Magnitudes next to 1. -/
theorem sameSides_above_one {v q : ℝ} (hv : 1 < v ∧ v < 1 + 1 / 2 ^ 25) (hq : 1 < q ∧ q < 1 + 1 / 2 ^ 25) : SameSides v q := by
  have h1 : ((2 ^ 25 : ℕ) : ℝ) * 2 ^ (-25 : ℤ) = 1 := by norm_num
  have h2 : (((2 ^ 25 : ℕ) : ℝ) + 1) * 2 ^ (-25 : ℤ) = 1 + 1 / 2 ^ 25 := by norm_num
  exact sameSides_of_gap (s := 2 ^ 25) (h := -25) le_rfl (by rwa [h1, h2]) (by rwa [h1, h2])

theorem sameSides_below_one {v q : ℝ} (hv : 1 - 1 / 2 ^ 26 < v ∧ v < 1) (hq : 1 - 1 / 2 ^ 26 < q ∧ q < 1) : SameSides v q := by
  have h1 : ((2 ^ 26 - 1 : ℕ) : ℝ) * 2 ^ (-26 : ℤ) = 1 - 1 / 2 ^ 26 := by norm_num
  have h2 : (((2 ^ 26 - 1 : ℕ) : ℝ) + 1) * 2 ^ (-26 : ℤ) = 1 := by norm_num
  exact sameSides_of_gap (s := 2 ^ 26 - 1) (h := -26) (by norm_num) (by rwa [h1, h2]) (by rwa [h1, h2])

/-- The exponential of a fixed-point number that lies under its argument. -/
theorem Under.exp {c r : ℝ} {y : ℕ} (h : Under c y r) (hy : y ≤ 32 * fxOne) : Near (1 / 2 ^ 236 + c / units) (fxExp y) (Real.exp r) := by
  have hpos := units_pos
  obtain ⟨hlo, hhi⟩ := h
  refine (fxExp_near hy).trans (by positivity) (Real.exp_le_exp.2 ((div_le_iff₀ hpos).2 hlo)) ?_
  calc Real.exp r * (1 - c / units) ≤ Real.exp r * Real.exp (-(c / units)) :=
        mul_le_mul_of_nonneg_left (Real.one_sub_le_exp_neg _) (Real.exp_pos _).le
    _ = Real.exp (r - c / units) := by rw [← Real.exp_add, sub_eq_add_neg]
    _ ≤ Real.exp (y / units) := Real.exp_le_exp.2 <| by
      rw [sub_le_iff_le_add, ← add_div, le_div_iff₀ hpos]
      exact hhi

theorem fxLn2_under : Under 1024 fxLn2 (Real.log 2) := by
  have h := lnRatio_under (a := 1) (b := 3) (by decide) (by decide)
  rwa [show (((3 : ℕ) : ℝ) + (1 : ℕ)) / ((3 : ℕ) - (1 : ℕ)) = 2 by norm_num] at h

/-- log 2 between a half and 1. -/
theorem log_two_bounds : 1 / 2 < Real.log 2 ∧ Real.log 2 < 1 := ⟨by have := Real.log_two_gt_d9; linarith, by have := Real.log_two_lt_d9; linarith⟩

/-! ### `fex2` -/

/-- A power of 2 as an exponential. -/
theorem two_rpow (x : ℝ) : (2 : ℝ) ^ x = Real.exp (Real.log 2 * x) := Real.rpow_def_of_pos two_pos x

/-- 2 to a small power lies next to 1. -/
theorem two_rpow_small {x : ℝ} (h0 : 0 < x) (h1 : x ≤ 1 / 2 ^ 31) :
    (1 < (2 : ℝ) ^ x ∧ (2 : ℝ) ^ x < 1 + 1 / 2 ^ 25) ∧ 1 - 1 / 2 ^ 26 < (2 : ℝ) ^ (-x) ∧ (2 : ℝ) ^ (-x) < 1 := by
  obtain ⟨-, hlog⟩ := log_two_bounds
  have hlow : 1 - 1 / 2 ^ 30 ≤ (2 : ℝ) ^ (-x) := by
    rw [two_rpow]
    have hprod : Real.log 2 * x ≤ 1 / 2 ^ 31 := by nlinarith
    have := Real.one_sub_le_exp_neg (Real.log 2 * x)
    rw [mul_neg]
    norm_num at hprod ⊢
    linarith
  have hinv : (2 : ℝ) ^ x * 2 ^ (-x) = 1 := by rw [← Real.rpow_add two_pos, add_neg_cancel, Real.rpow_zero]
  have hpos : (0 : ℝ) < 2 ^ x := Real.rpow_pos_of_pos two_pos x
  have hgt : 1 < (2 : ℝ) ^ x := Real.one_lt_rpow one_lt_two h0
  refine ⟨⟨hgt, ?_⟩, lt_of_lt_of_le (by norm_num) hlow, Real.rpow_lt_one_of_one_lt_of_neg one_lt_two (neg_neg_of_pos h0)⟩
  by_contra hge
  have hbig : 1 + 1 / 2 ^ 25 ≤ (2 : ℝ) ^ x := not_lt.1 hge
  have := mul_le_mul hbig hlow (by norm_num) hpos.le
  rw [hinv] at this
  norm_num at this

/-- The part of a fixed-point number beyond its integer part (R146), and both as values. -/
theorem split_units (b : ℤ) : (b : ℝ) = b.fdiv (2 ^ 256) * units + (b - b.fdiv (2 ^ 256) * 2 ^ 256).toNat ∧
    (b - b.fdiv (2 ^ 256) * 2 ^ 256).toNat < fxOne := by
  have hdiv : b.fdiv (2 ^ 256) = b / 2 ^ 256 := Int.fdiv_eq_ediv_of_nonneg b (by positivity)
  have hmod : b - b / 2 ^ 256 * 2 ^ 256 = b % 2 ^ 256 := by rw [Int.emod_def, mul_comm]
  have h0 : 0 ≤ b % 2 ^ 256 := Int.emod_nonneg b (by positivity)
  have hlt : b % 2 ^ 256 < 2 ^ 256 := Int.emod_lt_of_pos b (by positivity)
  rw [hdiv, hmod]
  constructor
  · have hnat : (((b % 2 ^ 256).toNat : ℕ) : ℝ) = ((b % 2 ^ 256 : ℤ) : ℝ) := by exact_mod_cast congrArg (Int.cast (R := ℝ)) (Int.toNat_of_nonneg h0)
    have hunits : units = ((2 ^ 256 : ℤ) : ℝ) := units_eq.trans (by rw [Int.cast_pow, Int.cast_ofNat])
    rw [hnat, hunits, ← Int.cast_mul, ← Int.cast_add]
    exact congrArg (Int.cast (R := ℝ)) (Int.ediv_mul_add_emod b (2 ^ 256)).symm
  · have := Int.toNat_of_nonneg h0
    unfold fxOne
    omega

/-- 2 to a fraction in fixed point, and half a unit. -/
theorem exp2_fraction {f : ℕ} (hf : f < fxOne) (k : ℤ) : let v : ℝ := 2 ^ ((k : ℝ) + f / units)
    |(⟨2 * fxExp (f * fxLn2 / fxOne) + 1, 1, k - 257⟩ : Mag).real - v| ≤ v / 2 ^ 64 := by
  intro v
  have hpos := units_pos
  obtain ⟨hln, hln1⟩ := log_two_bounds
  have hfrac : (f : ℝ) / units ≤ 1 := (div_le_one₀ hpos).2 (Nat.cast_le.2 hf.le)
  have hfrac0 : 0 ≤ (f : ℝ) / units := div_nonneg (Nat.cast_nonneg f) hpos.le
  have hunder : Under 1025 (f * fxLn2 / fxOne) (f / units * Real.log 2) :=
    ((under_exact f).mul fxLn2_under hfrac0 le_rfl).mono (by linarith)
  have hsmall : f * fxLn2 / fxOne ≤ 32 * fxOne := by
    have hle : ((f * fxLn2 / fxOne : ℕ) : ℝ) ≤ ((32 * fxOne : ℕ) : ℝ) := by
      rw [Nat.cast_mul]
      change _ ≤ ((32 : ℕ) : ℝ) * units
      refine hunder.1.trans (mul_le_mul_of_nonneg_right ?_ hpos.le)
      push_cast
      nlinarith
    exact Nat.cast_le.1 hle
  obtain ⟨hlo, hhi⟩ := hunder.exp hsmall
  generalize fxExp (f * fxLn2 / fxOne) = x at hlo hhi
  have hexp : 1 ≤ Real.exp (f / units * Real.log 2) := Real.one_le_exp (mul_nonneg hfrac0 (by linarith))
  have hv : v = 2 ^ k * Real.exp (f / units * Real.log 2) := by
    change (2 : ℝ) ^ ((k : ℝ) + f / units) = _
    rw [Real.rpow_add two_pos, Real.rpow_intCast, two_rpow (f / units), mul_comm (Real.log 2)]
  have hq : (⟨2 * x + 1, 1, k - 257⟩ : Mag).real = 2 ^ k * ((x + 1 / 2) / units) := by
    have hexp : (2 : ℝ) ^ (k - 257) = 2 ^ k * (1 / 2 / units) := by
      rw [units_eq, show k - 257 = k - 1 - (256 : ℕ) by push_cast; ring, zpow_sub₀ two_ne_zero, zpow_sub_one₀ two_ne_zero, zpow_natCast]
      ring
    rw [Mag.real, hexp]
    push_cast
    ring
  generalize Real.exp (f / units * Real.log 2) = y at hlo hhi hexp hv
  have hpow : (0 : ℝ) < 2 ^ k := by positivity
  have hdiff : |(x + 1 / 2) / units - y| ≤ y / 2 ^ 64 := by
    have hupper : (x + 1 / 2) / units ≤ y + 1 / 2 / units := by
      rw [add_div]
      linarith [(div_le_iff₀ hpos).2 hlo]
    have hlower : y * (1 - (1 / 2 ^ 236 + 1025 / units)) ≤ (x + 1 / 2) / units := by
      rw [le_div_iff₀ hpos]
      linarith
    have hpart : 1 / 2 ^ 236 + 1025 / units ≤ 1 / 2 ^ 64 := by rw [units_eq]; norm_num
    have hhalf : 1 / 2 / units ≤ 1 / 2 ^ 64 := by rw [units_eq]; norm_num
    rw [abs_le]
    constructor
    · nlinarith
    · have : y / 2 ^ 64 = y * (1 / 2 ^ 64) := by ring
      nlinarith
  rw [hq, hv, ← mul_sub, abs_mul, abs_of_pos hpow, mul_div_assoc]
  exact mul_le_mul_of_nonneg_left hdiff hpow.le

theorem abs_sgn_real (neg : Bool) (y : ℝ) : |(sgn neg : ℝ) * y| = |y| := by cases neg <;> simp

/-- No integer power where the argument is beyond every one asked for, or lies between 0 and 1. -/
theorem not_int_of_abs {x : ℝ} (h : 4096 ≤ |x| ∨ 0 < |x| ∧ |x| < 1) {k : ℤ} (hx : x = k) (hk : |k| < 4096) : False := by
  rw [hx] at h
  obtain h | ⟨h0, h1⟩ := h
  · exact absurd (by exact_mod_cast h : (4096 : ℤ) ≤ |k|) (not_le.2 hk)
  · have h0' : 0 < |k| := by exact_mod_cast h0
    have h1' : |k| < 1 := by exact_mod_cast h1
    omega

/-- The argument in fixed point: exact, as every bit of it has its place. -/
theorem exp2_argument {m : ℕ} (neg : Bool) {e : ℤ} (he : -256 ≤ e) :
    ((if neg then -((m * 2 ^ (e + 256).toNat : ℕ) : ℤ) else ((m * 2 ^ (e + 256).toNat : ℕ) : ℤ) : ℤ) : ℝ) = sgn neg * (m * 2 ^ e) * units := by
  have hexp : (2 : ℝ) ^ (e + 256).toNat = 2 ^ e * units := by
    rw [units_eq, ← zpow_natCast, ← zpow_natCast 2 256, ← zpow_add₀ two_ne_zero]
    congr 1
    omega
  have hfx : ((m * 2 ^ (e + 256).toNat : ℕ) : ℝ) = m * 2 ^ e * units := by
    rw [Nat.cast_mul, Nat.cast_pow, Nat.cast_ofNat, hexp, mul_assoc]
  cases neg
  · rw [if_neg (by simp), Int.cast_natCast, hfx, sgn_false]
    push_cast
    ring
  · rw [if_pos rfl, Int.cast_neg, Int.cast_natCast, hfx, sgn_true]
    push_cast
    ring

/-- No integer lies a proper fraction above another. -/
theorem no_int_between {k n : ℤ} {r : ℝ} (h : (n : ℝ) = k + r) (h0 : 0 < r) (h1 : r < 1) : False := by
  have hlow : k < n := by
    have : (k : ℝ) < n := by linarith
    exact_mod_cast this
  have hhigh : n < k + 1 := by
    have : (n : ℝ) < k + 1 := by linarith
    exact_mod_cast this
  omega

/-- Powers beyond every boundary. -/
theorem exp2_far (neg : Bool) {y : ℝ} (hy : 4096 ≤ y) : SameSides ((2 : ℝ) ^ (sgn neg * y)) (⟨1, 1, if neg then -4096 else 4096⟩ : Mag).real := by
  cases neg
  · refine sameSides_of_huge ?_ ?_
    · rw [← Real.rpow_intCast, sgn_false]
      exact Real.rpow_le_rpow_of_exponent_le one_le_two (by push_cast; linarith)
    · rw [if_neg (by simp), Mag.real]
      simpa using zpow_le_zpow_right₀ (one_le_two (α := ℝ)) (by decide : (325 : ℤ) ≤ 4096)
  · refine sameSides_of_tiny ⟨Real.rpow_pos_of_pos two_pos _, ?_⟩ ?_
    · rw [← Real.rpow_intCast, sgn_true]
      exact Real.rpow_lt_rpow_of_exponent_lt one_lt_two (by push_cast; linarith)
    · rw [if_pos rfl, Mag.real]
      refine ⟨by positivity, ?_⟩
      simpa using zpow_lt_zpow_right₀ (one_lt_two (α := ℝ)) (by decide : (-4096 : ℤ) < -300)

/-- Powers next to 1. -/
theorem exp2_near_one (neg : Bool) {y : ℝ} (h0 : 0 < y) (h1 : y ≤ 1 / 2 ^ 31) :
    SameSides ((2 : ℝ) ^ (sgn neg * y)) (if neg then (⟨2 ^ 40 - 1, 1, -40⟩ : Mag) else ⟨2 ^ 40 + 1, 1, -40⟩).real := by
  obtain ⟨habove, hbelow⟩ := two_rpow_small h0 h1
  cases neg
  · rw [show ((sgn false : ℤ) : ℝ) * y = y by simp]
    exact sameSides_above_one habove (by norm_num [Mag.real])
  · rw [show ((sgn true : ℤ) : ℝ) * y = -y by simp]
    exact sameSides_below_one hbelow (by norm_num [Mag.real])

theorem exp2Mag_spec {m : ℕ} (hm : m ≠ 0) (hlt : m < 2 ^ 24) (neg : Bool) (e : ℤ) : let x : ℝ := sgn neg * (m * 2 ^ e)
    StandsFor ((2 : ℝ) ^ x) (exp2Mag neg m e).real ∧ ∀ k : ℤ, x = k → |k| < 4096 → (exp2Mag neg m e).real = 2 ^ k := by
  intro x
  obtain ⟨hlo, hhi⟩ := binade hm e
  have hlog := log2_le_of_lt hm hlt
  have hy : 0 < (m : ℝ) * 2 ^ e := lt_of_lt_of_le (by positivity) hlo
  have habs : |x| = m * 2 ^ e := (abs_sgn_real neg _).trans (abs_of_pos hy)
  unfold exp2Mag
  dsimp only
  split
  · next hbig =>
    have h4096 : (4096 : ℝ) ≤ m * 2 ^ e := by
      calc (4096 : ℝ) = 2 ^ (12 : ℤ) := by norm_num
        _ ≤ 2 ^ ((m.log2 : ℤ) + e) := zpow_le_zpow_right₀ one_le_two hbig
        _ ≤ _ := hlo
    exact ⟨Or.inl (exp2_far neg h4096), fun k hx hk => (not_int_of_abs (Or.inl (h4096.trans_eq habs.symm)) hx hk).elim⟩
  · split
    · next hsmall =>
      have h31 : (m : ℝ) * 2 ^ e ≤ 1 / 2 ^ 31 := by
        calc (m : ℝ) * 2 ^ e ≤ 2 ^ ((m.log2 : ℤ) + e + 1) := hhi.le
          _ ≤ 2 ^ (-31 : ℤ) := zpow_le_zpow_right₀ one_le_two (by omega)
          _ = 1 / 2 ^ 31 := by norm_num
      refine ⟨Or.inl (exp2_near_one neg hy h31), fun k hx hk => (not_int_of_abs (Or.inr ?_) hx hk).elim⟩
      rw [habs]
      exact ⟨hy, h31.trans_lt (by norm_num)⟩
    · next hbig hsmall =>
      have hb := exp2_argument (m := m) neg (e := e) (by omega)
      generalize (if neg then -((m * 2 ^ (e + 256).toNat : ℕ) : ℤ) else ((m * 2 ^ (e + 256).toNat : ℕ) : ℤ)) = b at hb ⊢
      obtain ⟨hsplit, hlt⟩ := split_units b
      generalize b.fdiv (2 ^ 256) = k at hsplit hlt ⊢
      generalize (b - k * 2 ^ 256).toNat = f at hsplit hlt ⊢
      have hpos := units_pos
      have hx : x = k + f / units := by
        rw [← mul_right_cancel_iff_of_pos hpos, ← hb, hsplit, add_mul, div_mul_cancel₀ _ hpos.ne']
      rw [hx]
      split
      · next h0 =>
        have hq : (⟨1, 1, k⟩ : Mag).real = 2 ^ k := by simp [Mag.real]
        rw [hq, h0, Nat.cast_zero, zero_div, add_zero, Real.rpow_intCast]
        exact ⟨Or.inl (sameSides_refl _), fun n hn _ => by rw [Int.cast_injective hn]⟩
      · next h0 =>
        have hgt : 0 < (f : ℝ) / units := div_pos (by exact_mod_cast Nat.pos_of_ne_zero h0) hpos
        have hlt1 : (f : ℝ) / units < 1 := (div_lt_one hpos).2 (Nat.cast_lt.2 hlt)
        exact ⟨Or.inr (exp2_fraction hlt k), fun n hn _ => (no_int_between hn.symm hgt hlt1).elim⟩

end Sys2Proof.Machine

/-! SUPPORT. `flg2` and `ftanh` (R146): the magnitudes rounded stand for the exact ones. -/

namespace Sys2Proof.Machine

/-! ### `flg2` -/

/-- A quotient of two fixed-point logarithms: what it stands for is their exact quotient. -/
theorem quotient_near {a l : ℕ} {r : ℝ} (ha : Under 1024 a r) (hl : Under 1024 l (Real.log 2)) (h1 : r ≤ 1) :
    |((a * fxOne / l : ℕ) : ℝ) / units - r / Real.log 2| ≤ 8192 / units := by
  have hpos := units_pos
  obtain ⟨hln, hln1⟩ := log_two_bounds
  obtain ⟨halo, hahi⟩ := ha
  obtain ⟨hllo, hlhi⟩ := hl
  have hbig : (4096 : ℝ) ≤ units := by rw [units_eq]; norm_num
  have hlhalf : units / 4 ≤ l := by nlinarith
  have hlpos : 0 < l := by
    have : (0 : ℝ) < l := lt_of_lt_of_le (by positivity) hlhalf
    exact_mod_cast this
  have hlposr : (0 : ℝ) < l := by exact_mod_cast hlpos
  obtain ⟨hdlo, hdhi⟩ := nat_div_bounds (a * fxOne) hlpos
  rw [Nat.cast_mul] at hdlo hdhi
  change _ ≤ (a : ℝ) * units / l at hdlo
  change (a : ℝ) * units / l ≤ _ at hdhi
  have hf0 : (0 : ℝ) ≤ (a * fxOne / l : ℕ) := Nat.cast_nonneg _
  generalize ((a * fxOne / l : ℕ) : ℝ) = f at hdlo hdhi hf0 ⊢
  rw [le_div_iff₀ hlposr] at hdlo
  rw [div_le_iff₀ hlposr] at hdhi
  generalize Real.log 2 = c at hln hln1 hllo hlhi ⊢
  have hcpos : 0 < c := by linarith
  have hau : (a : ℝ) ≤ units := halo.trans (mul_le_of_le_one_left hpos.le h1)
  have hf4 : f ≤ 4 * units := by nlinarith
  have hupper : f * c ≤ r * units + 4096 := by
    have : f * (c * units) ≤ (r * units + 4096) * units := by nlinarith
    nlinarith
  have hlower : r * units ≤ (f + 1) * c + 1024 := by
    have : r * units * units ≤ ((f + 1) * c + 1024) * units := by nlinarith
    nlinarith
  have hdiff : f / units - r / c = (f * c - r * units) / c / units := by
    field_simp
  rw [hdiff, abs_div, abs_of_pos hpos, abs_div, abs_of_pos hcpos]
  refine div_le_div_of_nonneg_right ?_ hpos.le
  rw [div_le_iff₀ hcpos, abs_le]
  constructor <;> nlinarith

/-- The fraction of a logarithm keeps away from the integers, as the significand has few bits. -/
theorem log_fraction {m : ℕ} (hm : m ≠ 0) (hlt : m < 2 ^ 24) (hne : m ≠ 2 ^ m.log2) :
    1 / 2 ^ 24 ≤ Real.log (m / 2 ^ m.log2) / Real.log 2 ∧ Real.log (m / 2 ^ m.log2) / Real.log 2 ≤ 1 - 1 / 2 ^ 24 := by
  obtain ⟨hln, hln1⟩ := log_two_bounds
  have hlo : 2 ^ m.log2 + 1 ≤ m := by have := Nat.log2_self_le hm; omega
  have hhi : m + 1 ≤ 2 * 2 ^ m.log2 := by have := Nat.lt_log2_self (n := m); rw [pow_succ'] at this; omega
  have hlor : (2 : ℝ) ^ m.log2 + 1 ≤ m := by exact_mod_cast hlo
  have hhir : (m : ℝ) + 1 ≤ 2 * 2 ^ m.log2 := by exact_mod_cast hhi
  have hmr : (m : ℝ) ≤ 2 ^ 24 := by exact_mod_cast hlt.le
  have hM : (0 : ℝ) < 2 ^ m.log2 := by positivity
  have hM23 : (2 : ℝ) ^ m.log2 ≤ 2 ^ 23 := pow_le_pow_right₀ one_le_two (log2_le_of_lt hm hlt)
  generalize (2 : ℝ) ^ m.log2 = M at hlor hhir hM hM23 ⊢
  have hmpos : (0 : ℝ) < m := by linarith
  have hcpos : 0 < Real.log 2 := by linarith
  have hlow : 1 / 2 ^ 24 ≤ Real.log (m / M) := by
    refine le_trans ?_ (Real.one_sub_inv_le_log_of_pos (div_pos hmpos hM))
    rw [inv_div, one_sub_div hmpos.ne', div_le_div_iff₀ (by positivity) hmpos]
    nlinarith
  have hhigh : 1 / 2 ^ 24 ≤ Real.log 2 - Real.log (m / M) := by
    rw [← Real.log_div two_ne_zero (div_pos hmpos hM).ne']
    refine le_trans ?_ (Real.one_sub_inv_le_log_of_pos (by positivity))
    have hinv : (2 / ((m : ℝ) / M))⁻¹ = m / (2 * M) := by field_simp
    rw [hinv, one_sub_div (by positivity), div_le_div_iff₀ (by positivity) (by positivity)]
    nlinarith
  rw [le_div_iff₀ hcpos, div_le_iff₀ hcpos]
  constructor <;> nlinarith

/-- What `flg2` computes beyond the integer part of a logarithm. -/
theorem log2_fraction {m : ℕ} (hm : m ≠ 0) (hlt : m < 2 ^ 24) (hne : m ≠ 2 ^ m.log2) :
    |((lnRatio (m - 2 ^ m.log2) (m + 2 ^ m.log2) * fxOne / fxLn2 : ℕ) : ℝ) / units - Real.log (m / 2 ^ m.log2) / Real.log 2| ≤ 8192 / units := by
  obtain ⟨hln, hln1⟩ := log_two_bounds
  obtain ⟨hlow, hhigh⟩ := log_fraction hm hlt hne
  have hcpos : 0 < Real.log 2 := by linarith
  have hlo := Nat.log2_self_le hm
  have hhi : m < 2 * 2 ^ m.log2 := by have := Nat.lt_log2_self (n := m); rwa [pow_succ'] at this
  have hunder := lnRatio_under (a := m - 2 ^ m.log2) (b := m + 2 ^ m.log2) (by omega) (by omega)
  have hratio : (((m + 2 ^ m.log2 : ℕ) : ℝ) + (m - 2 ^ m.log2 : ℕ)) / ((m + 2 ^ m.log2 : ℕ) - (m - 2 ^ m.log2 : ℕ)) = m / 2 ^ m.log2 := by
    rw [Nat.cast_sub hlo]
    push_cast
    rw [show (m : ℝ) + 2 ^ m.log2 + (m - 2 ^ m.log2) = 2 * m by ring, show (m : ℝ) + 2 ^ m.log2 - (m - 2 ^ m.log2) = 2 * 2 ^ m.log2 by ring,
      mul_div_mul_left _ _ two_ne_zero]
  rw [hratio] at hunder
  rw [le_div_iff₀ hcpos] at hlow
  rw [div_le_iff₀ hcpos] at hhigh
  exact quotient_near hunder fxLn2_under (by nlinarith)

theorem logb_two_zpow (k : ℤ) : Real.logb 2 (2 ^ k) = k := by
  rw [← Real.rpow_intCast]
  exact Real.logb_rpow two_pos (by norm_num)

/-- A logarithm by its integer part and its fraction. -/
theorem logb_split {m : ℕ} (hm : m ≠ 0) (e : ℤ) :
    Real.logb 2 (m * 2 ^ e) = ((m.log2 : ℤ) + e : ℤ) + Real.log (m / 2 ^ m.log2) / Real.log 2 := by
  have hmr : (m : ℝ) ≠ 0 := Nat.cast_ne_zero.2 hm
  have hval : (m : ℝ) * 2 ^ e = 2 ^ ((m.log2 : ℤ) + e) * (m / 2 ^ m.log2) := by
    rw [zpow_add₀ two_ne_zero, zpow_natCast]
    field_simp
  rw [hval, Real.logb_mul (by positivity) (by positivity), logb_two_zpow]
  rfl

theorem zpow_lt_one_iff {k : ℤ} : (2 : ℝ) ^ k < 1 ↔ k < 0 := by
  rw [← zpow_zero (2 : ℝ)]
  exact zpow_lt_zpow_iff_right₀ one_lt_two

/-- A number lies below 1 when its integer logarithm is negative. -/
theorem lt_one_iff_binade {m : ℕ} (hm : m ≠ 0) (e : ℤ) : (m : ℝ) * 2 ^ e < 1 ↔ (m.log2 : ℤ) + e < 0 := by
  obtain ⟨hlo, hhi⟩ := binade hm e
  constructor
  · intro h
    exact zpow_lt_one_iff.1 (hlo.trans_lt h)
  · intro h
    refine hhi.trans_le ?_
    rw [← zpow_zero (2 : ℝ)]
    exact zpow_le_zpow_right₀ one_le_two (by omega)

/-- A logarithm k + r in fixed point with half a unit, from its fraction in fixed point: it has the sign of k, and its magnitude is close. -/
theorem log2_rounded {f : ℕ} {r : ℝ} (k : ℤ) (hfrac : |(f : ℝ) / units - r| ≤ 8192 / units) (hlow : 1 / 2 ^ 24 ≤ r) (hhigh : r ≤ 1 - 1 / 2 ^ 24) :
    let t : ℤ := 2 * (k * 2 ^ 256 + f) + 1
    (t < 0 ↔ k < 0) ∧ StandsFor |(k : ℝ) + r| (⟨t.natAbs, 1, -257⟩ : Mag).real := by
  intro t
  have hpos := units_pos
  have herr : 8192 / units ≤ 1 / 2 ^ 242 := by rw [units_eq]; norm_num
  obtain ⟨hfl, hfh⟩ := abs_le.1 hfrac
  have hf1 : f < 2 ^ 256 := by
    have hlt1 : (f : ℝ) / units < 1 := by
      have : (1 : ℝ) / 2 ^ 242 < 1 / 2 ^ 24 := by norm_num
      linarith
    exact Nat.cast_lt.1 ((div_lt_one hpos).1 hlt1)
  refine ⟨⟨fun h => ?_, fun h => ?_⟩, ?_⟩
  · by_contra hk
    have : 0 ≤ k * 2 ^ 256 := mul_nonneg (not_lt.1 hk) (by positivity)
    omega
  · have : k * 2 ^ 256 ≤ -1 * 2 ^ 256 := mul_le_mul_of_nonneg_right (by omega) (by positivity)
    omega
  · have ht : (t : ℝ) * 2 ^ (-257 : ℤ) = k + f / units + 1 / 2 / units := by
      have h257 : (2 : ℝ) ^ (-257 : ℤ) = 1 / 2 / units := by
        rw [units_eq, show (-257 : ℤ) = -1 - (256 : ℕ) by norm_num, zpow_sub₀ two_ne_zero, zpow_natCast, zpow_neg_one]
        ring
      have hunits : ((2 ^ 256 : ℤ) : ℝ) = units := units_eq.symm ▸ (by rw [Int.cast_pow, Int.cast_ofNat])
      rw [h257, Int.cast_add, Int.cast_mul, Int.cast_add, Int.cast_mul, hunits]
      push_cast
      field_simp
    have hq : (⟨t.natAbs, 1, -257⟩ : Mag).real = |(k : ℝ) + f / units + 1 / 2 / units| := by
      rw [← ht, abs_mul, abs_of_pos (show (0 : ℝ) < 2 ^ (-257 : ℤ) by positivity), Mag.real, Nat.cast_one, div_one, Nat.cast_natAbs, Int.cast_abs]
    have haway : 1 / 2 ^ 24 ≤ |(k : ℝ) + r| := by
      rcases le_or_gt 0 k with hk | hk
      · have : (0 : ℝ) ≤ k := by exact_mod_cast hk
        exact le_trans (by linarith) (le_abs_self _)
      · have : (k : ℝ) ≤ -1 := by exact_mod_cast (by omega : k ≤ -1)
        exact le_trans (by linarith) (neg_le_abs _)
    have hclose : |(k : ℝ) + f / units + 1 / 2 / units - (k + r)| ≤ 1 / 2 ^ 241 := by
      have hhalf : 1 / 2 / units ≤ 1 / 2 ^ 242 := by rw [units_eq]; norm_num
      have hhalf0 : 0 ≤ 1 / 2 / units := by positivity
      have htwo : (1 : ℝ) / 2 ^ 242 + 1 / 2 ^ 242 = 1 / 2 ^ 241 := by norm_num
      rw [abs_le]
      constructor <;> linarith
    rw [hq]
    refine Or.inr ((abs_abs_sub_abs_le _ _).trans (hclose.trans ?_))
    rw [le_div_iff₀ (by positivity)]
    refine le_trans ?_ haway
    norm_num

theorem log2Mag_spec {m : ℕ} (hm : m ≠ 0) (hlt : m < 2 ^ 24) (e : ℤ) : let x : ℝ := m * 2 ^ e
    ((log2Mag m e).1 = true ↔ x < 1) ∧ StandsFor |Real.logb 2 x| (log2Mag m e).2.real ∧
      ∀ k : ℤ, x = 2 ^ k → (log2Mag m e).2.real = |(k : ℝ)| := by
  intro x
  have hbelow := lt_one_iff_binade hm e
  have hlog : Real.logb 2 x = _ := logb_split hm e
  unfold log2Mag
  dsimp only
  split
  · next heq =>
    have hx : x = 2 ^ ((m.log2 : ℤ) + e) := by
      change (m : ℝ) * 2 ^ e = _
      rw [zpow_add₀ two_ne_zero, zpow_natCast]
      congr 1
      exact_mod_cast heq
    have hq : (⟨((m.log2 : ℤ) + e).natAbs, 1, 0⟩ : Mag).real = |((((m.log2 : ℤ) + e) : ℤ) : ℝ)| := by
      rw [Mag.real, Nat.cast_one, div_one, zpow_zero, mul_one, Nat.cast_natAbs, Int.cast_abs]
    refine ⟨decide_eq_true_iff.trans hbelow.symm, Or.inl ?_, fun k hk => ?_⟩
    · rw [hq, hx, logb_two_zpow]
      exact sameSides_refl _
    · rw [hq, zpow_right_injective₀ two_pos (by norm_num) (hx.symm.trans hk)]
  · next hne =>
    obtain ⟨hlow, hhigh⟩ := log_fraction hm hlt hne
    obtain ⟨hsign, hstands⟩ := log2_rounded ((m.log2 : ℤ) + e) (log2_fraction hm hlt hne) hlow hhigh
    rw [hlog]
    refine ⟨decide_eq_true_iff.trans (hsign.trans hbelow.symm), hstands, fun n hn => ?_⟩
    rw [hn, logb_two_zpow] at hlog
    exact (no_int_between hlog (lt_of_lt_of_le (by norm_num) hlow) (lt_of_le_of_lt hhigh (by norm_num))).elim

/-! ### `ftanh` -/

/-- tanh by an exponential. -/
theorem tanh_exp (x : ℝ) : Real.tanh x = (Real.exp (2 * x) - 1) / (Real.exp (2 * x) + 1) := by
  have hx : Real.exp (2 * x) = Real.exp x * Real.exp x := by rw [← Real.exp_add, two_mul]
  have hinv : Real.exp x * Real.exp (-x) = 1 := by rw [← Real.exp_add, add_neg_cancel, Real.exp_zero]
  have hp := Real.exp_pos x
  have hp' := Real.exp_pos (-x)
  rw [Real.tanh_eq, hx, div_eq_div_iff (by positivity) (by positivity)]
  linear_combination (-2 * Real.exp x) * hinv

/-- tanh of a small argument lies below it, by at most half its cube. -/
theorem tanh_small {x : ℝ} (h0 : 0 < x) (h1 : x ≤ 1 / 4) : x * (1 - x ^ 2 / 2) ≤ Real.tanh x ∧ Real.tanh x < x := by
  have hc := Real.cosh_pos x
  constructor
  · rw [Real.tanh_eq_sinh_div_cosh, le_div_iff₀ hc]
    have h1 : (1 - x ^ 2 / 2) * Real.cosh x ≤ 1 := by
      have hexp : (1 - x ^ 2 / 2) ≤ Real.exp (-(x ^ 2 / 2)) := Real.one_sub_le_exp_neg _
      calc (1 - x ^ 2 / 2) * Real.cosh x ≤ Real.exp (-(x ^ 2 / 2)) * Real.cosh x := mul_le_mul_of_nonneg_right hexp hc.le
        _ ≤ Real.exp (-(x ^ 2 / 2)) * Real.exp (x ^ 2 / 2) := mul_le_mul_of_nonneg_left (Real.cosh_le_exp_half_sq x) (Real.exp_pos _).le
        _ = 1 := by rw [← Real.exp_add, neg_add_cancel, Real.exp_zero]
    have h2 : x ≤ Real.sinh x := Real.self_le_sinh_iff.2 h0.le
    nlinarith
  · have hexp2 : Real.exp (2 * x) ≤ 2 := by
      have hle : 2 * x ≤ Real.log 2 := by have := log_two_bounds.1; linarith
      calc Real.exp (2 * x) ≤ Real.exp (Real.log 2) := Real.exp_le_exp.2 hle
        _ = 2 := Real.exp_log two_pos
    have hgt : 1 < Real.exp (2 * x) := Real.one_lt_exp_iff.2 (by linarith)
    have hlog : Real.log ((1 + Real.tanh x) / (1 - Real.tanh x)) = 2 * x := by
      have hratio : (1 + Real.tanh x) / (1 - Real.tanh x) = Real.exp (2 * x) := by
        rw [tanh_exp]
        field_simp
        ring
      rw [hratio, Real.log_exp]
    have ht0 : 0 < Real.tanh x := by rw [tanh_exp]; exact div_pos (by linarith) (by linarith)
    have ht1 : Real.tanh x ≤ 1 / 3 := by rw [tanh_exp, div_le_iff₀ (by linarith)]; linarith
    have hseries := (artanhSum_bounds ht0.le ht1 2).1
    rw [hlog] at hseries
    have hsum : artanhSum (Real.tanh x) 2 0 = Real.tanh x + Real.tanh x ^ 3 / 3 := by
      simp [artanhSum, Finset.sum_range_succ]
      norm_num
    have := pow_pos ht0 3
    rw [hsum] at hseries
    linarith

/-- tanh next to 1. -/
theorem tanh_large {x : ℝ} (h : 16 ≤ x) : 1 - 1 / 2 ^ 26 < Real.tanh x ∧ Real.tanh x < 1 := by
  have hexp : (2 : ℝ) ^ 32 ≤ Real.exp (2 * x) := by
    calc (2 : ℝ) ^ 32 ≤ Real.exp 1 ^ 32 := pow_le_pow_left₀ zero_le_two (by have := Real.add_one_le_exp (1 : ℝ); linarith) 32
      _ = Real.exp ((32 : ℕ) * 1) := (Real.exp_nat_mul 1 32).symm
      _ ≤ Real.exp (2 * x) := Real.exp_le_exp.2 (by push_cast; linarith)
  rw [tanh_exp]
  norm_num at hexp
  constructor
  · rw [lt_div_iff₀ (by linarith)]
    norm_num
    linarith
  · rw [div_lt_one (by linarith)]
    linarith

/-- tanh by an exponential in fixed point. -/
theorem tanh_quotient {x : ℝ} {w : ℕ} (h : 1 / 2 ^ 13 ≤ x) (hw : Near (1 / 2 ^ 236) w (Real.exp (2 * x))) :
    |(⟨w - fxOne, w + fxOne, 0⟩ : Mag).real - Real.tanh x| ≤ Real.tanh x / 2 ^ 64 := by
  have hpos := units_pos
  have hu : 1 + 1 / 2 ^ 12 ≤ Real.exp (2 * x) := by
    have := Real.add_one_le_exp (2 * x)
    norm_num at h ⊢
    linarith
  obtain ⟨hlo, hhi⟩ := hw
  rw [tanh_exp]
  generalize Real.exp (2 * x) = u at hu hlo hhi
  have hw1 : (w : ℝ) / units ≤ u := (div_le_iff₀ hpos).2 hlo
  have hw2 : u * (1 - 1 / 2 ^ 236) ≤ w / units := by rw [le_div_iff₀ hpos]; linarith
  have hone : 1 ≤ (w : ℝ) / units := by
    refine le_trans ?_ hw2
    norm_num at hu ⊢
    linarith
  have hle : fxOne ≤ w := Nat.cast_le.1 ((one_le_div hpos).1 hone)
  have hq : (⟨w - fxOne, w + fxOne, 0⟩ : Mag).real = (w / units - 1) / (w / units + 1) := by
    have hsub : ((w - fxOne : ℕ) : ℝ) = w - units := Nat.cast_sub hle
    have hadd : ((w + fxOne : ℕ) : ℝ) = w + units := Nat.cast_add w fxOne
    rw [Mag.real, zpow_zero, mul_one, hsub, hadd]
    field_simp
  rw [hq]
  generalize (w : ℝ) / units = v at hw1 hw2 hone
  have hdiff : (v - 1) / (v + 1) - (u - 1) / (u + 1) = -(2 * (u - v) / ((u + 1) * (v + 1))) := by
    have hu1 : u + 1 ≠ 0 := by linarith
    have hv1 : v + 1 ≠ 0 := by linarith
    field_simp
    ring
  rw [hdiff, abs_neg, abs_of_nonneg (div_nonneg (by linarith) (mul_nonneg (by linarith) (by linarith)))]
  calc 2 * (u - v) / ((u + 1) * (v + 1)) ≤ 1 / 2 ^ 236 := by
        rw [div_le_iff₀ (mul_pos (by linarith) (by linarith))]
        have h1 : u - v ≤ u * (1 / 2 ^ 236) := by linarith
        have h2 : 2 * u ≤ (u + 1) * (v + 1) := by nlinarith
        have h3 : 2 * u * (1 / 2 ^ 236) ≤ (u + 1) * (v + 1) * (1 / 2 ^ 236) := mul_le_mul_of_nonneg_right h2 (by positivity)
        linarith
    _ ≤ 1 / 2 ^ 14 / 2 ^ 64 := by norm_num
    _ ≤ (u - 1) / (u + 1) / 2 ^ 64 := by
        refine div_le_div_of_nonneg_right ?_ (by positivity)
        rw [div_le_div_iff₀ (by positivity) (by linarith)]
        norm_num at hu ⊢
        linarith

/-- A magnitude and its tanh, when small, and what is rounded for it lie in the gap beneath the magnitude. -/
theorem tanh_gap {m : ℕ} (hm : m ≠ 0) (hlt : m < 2 ^ 24) {e : ℤ} (hsmall : (m.log2 : ℤ) + e < -13) :
    SameSides (Real.tanh (m * 2 ^ e)) (⟨m * 2 ^ 40 - 1, 1, e - 40⟩ : Mag).real := by
  obtain ⟨hlo, hhi⟩ := binade hm e
  have hlog := log2_le_of_lt hm hlt
  have hx0 : 0 < (m : ℝ) * 2 ^ e := lt_of_lt_of_le (by positivity) hlo
  have hx : (m : ℝ) * 2 ^ e ≤ 1 / 2 ^ 13 := by
    calc (m : ℝ) * 2 ^ e ≤ 2 ^ ((m.log2 : ℤ) + e + 1) := hhi.le
      _ ≤ 2 ^ (-13 : ℤ) := zpow_le_zpow_right₀ one_le_two (by omega)
      _ = 1 / 2 ^ 13 := by norm_num
  have hgap : (m : ℝ) * 2 ^ e < 2 ^ 27 * 2 ^ ((m.log2 : ℤ) + e - 26) := by
    rwa [← zpow_natCast, ← zpow_add₀ two_ne_zero, show ((27 : ℕ) : ℤ) + (m.log2 + e - 26) = m.log2 + e + 1 by push_cast; ring]
  have hbig : 2 ^ 26 ≤ m * 2 ^ (26 - m.log2) := by
    calc 2 ^ 26 = 2 ^ m.log2 * 2 ^ (26 - m.log2) := by rw [← pow_add]; congr 1; omega
      _ ≤ _ := Nat.mul_le_mul_right _ (Nat.log2_self_le hm)
  have htop : (((m * 2 ^ (26 - m.log2) - 1 : ℕ) : ℝ) + 1) * 2 ^ ((m.log2 : ℤ) + e - 26) = m * 2 ^ e := by
    rw [Nat.cast_sub (by omega), Nat.cast_one, sub_add_cancel, Nat.cast_mul, Nat.cast_pow, Nat.cast_ofNat, mul_assoc, ← zpow_natCast,
      ← zpow_add₀ two_ne_zero]
    congr 2
    omega
  have hbottom : ((m * 2 ^ (26 - m.log2) - 1 : ℕ) : ℝ) * 2 ^ ((m.log2 : ℤ) + e - 26) = m * 2 ^ e - 2 ^ ((m.log2 : ℤ) + e - 26) := by
    rw [← htop]
    ring
  have hq : (⟨m * 2 ^ 40 - 1, 1, e - 40⟩ : Mag).real = m * 2 ^ e - 2 ^ (e - 40) := by
    have hpos : 1 ≤ m * 2 ^ 40 := Nat.mul_pos (Nat.pos_of_ne_zero hm) (by positivity)
    have hsplit : (2 : ℝ) ^ e = 2 ^ 40 * 2 ^ (e - 40) := by
      rw [← zpow_natCast, ← zpow_add₀ two_ne_zero]
      congr 1
      push_cast
      ring
    rw [Mag.real, Nat.cast_sub hpos, hsplit]
    push_cast
    ring
  have hstep : (2 : ℝ) ^ (e - 40) < 2 ^ ((m.log2 : ℤ) + e - 26) := zpow_lt_zpow_right₀ one_lt_two (by omega)
  have hstep0 : (0 : ℝ) < 2 ^ (e - 40) := by positivity
  obtain ⟨htlo, hthi⟩ := tanh_small hx0 (hx.trans (by norm_num))
  refine sameSides_of_gap (s := m * 2 ^ (26 - m.log2) - 1) (h := (m.log2 : ℤ) + e - 26) (by omega) ?_ ?_
  · rw [hbottom, htop]
    generalize (m : ℝ) * 2 ^ e = x at hx0 hx hgap htlo hthi ⊢
    refine ⟨lt_of_lt_of_le ?_ htlo, hthi⟩
    have hsq : x ^ 2 ≤ (1 / 2 ^ 13) ^ 2 := pow_le_pow_left₀ hx0.le hx 2
    have hcube : x * x ^ 2 ≤ x * (1 / 2 ^ 13) ^ 2 := mul_le_mul_of_nonneg_left hsq hx0.le
    norm_num at hcube hgap
    linarith
  · rw [hbottom, htop, hq]
    constructor <;> linarith

theorem tanhMag_spec {m : ℕ} (hm : m ≠ 0) (hlt : m < 2 ^ 24) (e : ℤ) :
    StandsFor (Real.tanh (m * 2 ^ e)) (tanhMag m e).real := by
  obtain ⟨hlo, hhi⟩ := binade hm e
  have hlog := log2_le_of_lt hm hlt
  unfold tanhMag
  dsimp only
  split
  · next hsmall =>
    exact Or.inl (tanh_gap hm hlt hsmall)
  · split
    · next hbig =>
      have h16 : (16 : ℝ) ≤ m * 2 ^ e := by
        calc (16 : ℝ) = 2 ^ (4 : ℤ) := by norm_num
          _ ≤ 2 ^ ((m.log2 : ℤ) + e) := zpow_le_zpow_right₀ one_le_two hbig
          _ ≤ _ := hlo
      exact Or.inl (sameSides_below_one (tanh_large h16) (by norm_num [Mag.real]))
    · next hsmall hbig =>
      have hlow : 1 / 2 ^ 13 ≤ (m : ℝ) * 2 ^ e := by
        calc (1 : ℝ) / 2 ^ 13 = 2 ^ (-13 : ℤ) := by norm_num
          _ ≤ 2 ^ ((m.log2 : ℤ) + e) := zpow_le_zpow_right₀ one_le_two (by omega)
          _ ≤ _ := hlo
      have hhigh : (m : ℝ) * 2 ^ e ≤ 16 := by
        calc (m : ℝ) * 2 ^ e ≤ 2 ^ ((m.log2 : ℤ) + e + 1) := hhi.le
          _ ≤ 2 ^ (4 : ℤ) := zpow_le_zpow_right₀ one_le_two (by omega)
          _ = 16 := by norm_num
      have hpos := units_pos
      have hy : ((m * 2 ^ (e + 257).toNat : ℕ) : ℝ) = 2 * (m * 2 ^ e) * units := by
        have hexp : (2 : ℝ) ^ (e + 257).toNat = 2 * 2 ^ e * units := by
          rw [units_eq, ← zpow_one_add₀ two_ne_zero, ← zpow_natCast, ← zpow_natCast 2 256, ← zpow_add₀ two_ne_zero]
          congr 1
          omega
        rw [Nat.cast_mul, Nat.cast_pow, Nat.cast_ofNat, hexp]
        ring
      have hy32 : m * 2 ^ (e + 257).toNat ≤ 32 * fxOne := by
        have hle : ((m * 2 ^ (e + 257).toNat : ℕ) : ℝ) ≤ ((32 * fxOne : ℕ) : ℝ) := by
          rw [hy, Nat.cast_mul]
          refine mul_le_mul_of_nonneg_right ?_ hpos.le
          push_cast
          linarith
        exact Nat.cast_le.1 hle
      have hnear := fxExp_near hy32
      rw [hy, mul_div_cancel_right₀ _ hpos.ne'] at hnear
      exact Or.inr (tanh_quotient hlow hnear)

end Sys2Proof.Machine

/-! SUPPORT. The transcendentals element by element (R146; O9). -/

namespace Sys2Proof.Machine

/-- The element operation of each word. -/
def FnOp.op : FnOp → FltElem
  | .rcp => fRcpE
  | .rsq => fRsqE
  | .sqrt => fSqrtE
  | .ex2 => fEx2E
  | .lg2 => fLg2E
  | .tanh => fTanhE

theorem exec_fnOp (o : FnOp) (d : BitVec 8) (b : Src) (s : State) :
    exec (o.word d b) s = issue noPre (flagOp isFlt d 252 b (fltLane o.op)) (o.word d b) s := by
  cases o <;> cases b <;> rfl

theorem writable_of_fnOp {o : FnOp} {d : BitVec 8} {b : Src} {g : Group} (h : Issues (o.word d b) g) : g.Writable d := by
  have hn := namesOk_of_issues h
  obtain ⟨-, hw⟩ := h
  refine writable_of ?_ fun hin => ?_
  · cases o <;> cases b <;> simp_all [FnOp.word, namesOk]
  · specialize hw hin
    cases o <;> cases b <;> simp_all [FnOp.word, windowOk]

/-- The sign and the magnitude that are rounded for ±m·2^e. -/
def FnOp.mag (o : FnOp) (neg : Bool) (m : Nat) (e : Int) : Bool × Mag :=
  match o with
  | .rcp => (neg, ⟨1, m, -e⟩)
  | .rsq => (false, rsqrtMag m e)
  | .sqrt => (false, sqrtMag m e)
  | .ex2 => (false, exp2Mag neg m e)
  | .lg2 => log2Mag m e
  | .tanh => (neg, tanhMag m e)

/-- The words that refuse a negative argument. -/
def FnOp.positive (o : FnOp) : Bool := o == .rsq || o == .sqrt || o == .lg2

/-- 1 is written as it is. -/
theorem plainF_one (t : Nat) (neg : Bool) : plainF (etyFmt t) (.fin neg 1 0) = (oneF (etyFmt t) neg, 0) := by
  unfold etyFmt
  split
  · cases neg <;> decide
  · split <;> cases neg <;> decide

/-- An argument that the table does not name is finite and not zero, and not negative where that is refused. -/
theorem FnOp.special_none {o : FnOp} {f : Fmt} {x : FV} (h : o.special f x = none) :
    ∃ neg m e, x = .fin neg m e ∧ m ≠ 0 ∧ (o.positive = true → neg = false) := by
  cases x with
  | nan => cases o <;> simp [special] at h
  | inf n => cases o <;> cases n <;> simp [special] at h
  | fin neg m e =>
    refine ⟨neg, m, e, rfl, ?_, ?_⟩
    · rintro rfl
      cases o <;> simp [special] at h
    · intro hp
      cases neg with
      | false => rfl
      | true =>
        obtain _ | m := m
        · cases o <;> simp [special] at h
        · cases o <;> simp [special, positive] at h hp

/-- The words by the table: what it names, and else one rounding. -/
theorem FnOp.op_fin (o : FnOp) (g : Group) (f : Fmt) (a d : FV) {neg : Bool} {m : Nat} (e : Int) (hm : m ≠ 0) (hneg : o.positive = true → neg = false) :
    o.op g f a (.fin neg m e) d = nearest g f (o.mag neg m e).1 (o.mag neg m e).2 := by
  cases o with
  | rcp => exact if_neg hm
  | ex2 => exact if_neg hm
  | tanh => exact if_neg hm
  | rsq => rw [hneg rfl]; exact if_neg hm
  | sqrt => rw [hneg rfl]; exact if_neg hm
  | lg2 => rw [hneg rfl]; exact if_neg hm

/-- A zero argument. -/
theorem FnOp.op_zero (o : FnOp) (g : Group) (t : Nat) (a d : FV) (neg : Bool) (e : Int) :
    o.special (etyFmt t) (.fin neg 0 e) = some (o.op g (etyFmt t) a (.fin neg 0 e) d) := by
  cases o with
  | ex2 => exact congrArg some (plainF_one t false).symm
  | rcp => rfl
  | rsq => rfl
  | sqrt => rfl
  | lg2 => rfl
  | tanh => rfl

/-- An infinite argument. -/
theorem FnOp.op_inf (o : FnOp) (g : Group) (t : Nat) (a d : FV) (neg : Bool) :
    o.special (etyFmt t) (.inf neg) = some (o.op g (etyFmt t) a (.inf neg) d) := by
  cases o with
  | tanh => exact congrArg some (plainF_one t neg).symm
  | rcp => rfl
  | rsq => cases neg <;> rfl
  | sqrt => cases neg <;> rfl
  | ex2 => cases neg <;> rfl
  | lg2 => cases neg <;> rfl

/-- A negative argument other than zero, where it is refused. -/
theorem FnOp.op_negative {o : FnOp} (g : Group) (f : Fmt) (a d : FV) {m : Nat} (e : Int) (hm : m ≠ 0) (ho : o.positive = true) :
    o.op g f a (.fin true m e) d = (nanF f, flagNV) := by
  cases o with
  | rsq => exact if_neg hm
  | sqrt => exact if_neg hm
  | lg2 => exact if_neg hm
  | rcp => exact absurd ho (by decide)
  | ex2 => exact absurd ho (by decide)
  | tanh => exact absurd ho (by decide)

/-- What the table names of finite arguments other than zero. -/
theorem FnOp.special_fin {o : FnOp} {f : Fmt} {neg : Bool} {m : Nat} {e : Int} {y : Nat × FFlags} (hm : m ≠ 0)
    (h : o.special f (.fin neg m e) = some y) : neg = true ∧ o.positive = true ∧ y = (nanF f, flagNV) := by
  obtain ⟨m, rfl⟩ := Nat.exists_eq_succ_of_ne_zero hm
  cases o <;> cases neg <;> simp_all [special, positive, eq_comm]

theorem FnOp.op_special {o : FnOp} (g : Group) (t : Nat) (a d : FV) {x : FV} {y : Nat × FFlags} (h : o.special (etyFmt t) x = some y) :
    o.op g (etyFmt t) a x d = y := by
  cases x with
  | nan => cases o <;> exact Option.some.inj h
  | inf neg => exact Option.some.inj ((o.op_inf g t a d neg).symm.trans h)
  | fin neg m e =>
    by_cases hm : m = 0
    · subst hm
      exact Option.some.inj ((o.op_zero g t a d neg e).symm.trans h)
    · obtain ⟨rfl, hpos, rfl⟩ := FnOp.special_fin hm h
      exact FnOp.op_negative g _ a d e hm hpos

/-! ### The one rounding -/

theorem ite_d {c : Prop} [Decidable c] {x y : Mag} (hx : x.d ≠ 0) (hy : y.d ≠ 0) : (if c then x else y).d ≠ 0 := by
  split
  · exact hx
  · exact hy

theorem FnOp.mag_d (o : FnOp) (neg : Bool) {m : Nat} (e : Int) (hm : m ≠ 0) : (o.mag neg m e).2.d ≠ 0 := by
  cases o with
  | rcp => exact hm
  | rsq =>
    unfold mag rsqrtMag
    exact ite_d one_ne_zero one_ne_zero
  | sqrt =>
    unfold mag sqrtMag
    exact ite_d one_ne_zero one_ne_zero
  | ex2 =>
    unfold mag exp2Mag
    exact ite_d one_ne_zero (ite_d (ite_d one_ne_zero one_ne_zero) (ite_d one_ne_zero one_ne_zero))
  | lg2 =>
    unfold mag log2Mag
    dsimp only
    split
    · exact one_ne_zero
    · exact one_ne_zero
  | tanh =>
    unfold mag tanhMag
    exact ite_d one_ne_zero (ite_d one_ne_zero (Nat.add_pos_right _ (by positivity)).ne')

/-- A value with its sign is negative by its sign. -/
theorem sgn_mul_neg_iff (neg : Bool) {y : ℚ} (hy : 0 < y) : neg = decide ((sgn neg : ℚ) * y < 0) := by
  cases neg
  · simp [hy.le]
  · simp [hy]

/-- What is rounded for an argument of at most 24 significant bits. -/
theorem FnOp.mag_rounds (o : FnOp) {neg : Bool} {m : Nat} (e : Int) (hm : m ≠ 0) (hlt : m < 2 ^ 24) (hneg : o.positive = true → neg = false) :
    o.Rounds ((sgn neg : ℚ) * (m * 2 ^ e)) (o.mag neg m e).1 (o.mag neg m e).2.real := by
  have hmq : (0 : ℚ) < m * 2 ^ e := mul_pos (by exact_mod_cast Nat.pos_of_ne_zero hm) (by positivity)
  have hy : (0 : ℝ) < m * 2 ^ e := mul_pos (by exact_mod_cast Nat.pos_of_ne_zero hm) (by positivity)
  have hcast : (((sgn neg : ℚ) * (m * 2 ^ e) : ℚ) : ℝ) = sgn neg * (m * 2 ^ e) := by push_cast; rfl
  have hplain : neg = false → (((sgn neg : ℚ) * (m * 2 ^ e) : ℚ) : ℝ) = m * 2 ^ e := fun h => by rw [hcast, h]; simp
  cases o with
  | rcp =>
    refine ⟨sgn_mul_neg_iff neg hmq, ?_⟩
    rw [hcast, abs_div, abs_one, abs_sgn_real, abs_of_pos hy, mag, Mag.real, zpow_neg, Nat.cast_one, one_div_mul_eq_div, one_div, mul_inv, div_eq_inv_mul,
      mul_comm]
  | rsq =>
    refine ⟨rfl, ?_⟩
    rw [hplain (hneg rfl)]
    exact rsqrtMag_spec hm hlt e
  | sqrt =>
    refine ⟨rfl, ?_⟩
    rw [hplain (hneg rfl)]
    exact sqrtMag_spec hm e
  | ex2 =>
    obtain ⟨hstands, hint⟩ := exp2Mag_spec hm hlt neg e
    rw [← hcast] at hstands hint
    exact ⟨rfl, hstands, fun k hk => hint k (by exact_mod_cast congrArg (Rat.cast (K := ℝ)) hk)⟩
  | lg2 =>
    obtain ⟨hsign, hstands, hint⟩ := log2Mag_spec hm hlt e
    rw [← hplain (hneg rfl)] at hsign hstands hint
    refine ⟨hsign.trans (by exact_mod_cast Iff.rfl), hstands, fun k hk => hint k ?_⟩
    rw [hk, Rat.cast_zpow, Rat.cast_ofNat]
  | tanh =>
    have hstands := tanhMag_spec hm hlt e
    refine ⟨sgn_mul_neg_iff neg hmq, ?_⟩
    have habs : |Real.tanh (((sgn neg : ℚ) * (m * 2 ^ e) : ℚ) : ℝ)| = Real.tanh (m * 2 ^ e) := by
      have hpos : 0 < Real.tanh ((m : ℝ) * 2 ^ e) := by
        rw [Real.tanh_eq_sinh_div_cosh]
        exact div_pos (Real.sinh_pos_iff.2 hy) (Real.cosh_pos _)
      rw [hcast]
      cases neg
      · simpa using hpos.le
      · simpa [Real.tanh_neg] using hpos.le
    rwa [habs]

/-! ### The statement -/

/-- The significand of an operand as it is read. -/
theorem sig_lt_of_read {g : Group} (hm : isFlt g.ety = true) {v : FV} (h : Read g v) {neg : Bool} {m : Nat} {e : Int} (hv : v = .fin neg m e) :
    m < 2 ^ 24 := by
  obtain ⟨x, el, rfl⟩ := h
  have hf := etyFmt_elem g.ety
  obtain ⟨n, b, hu, hb⟩ := exists_signF (elemIn_encoding hm x el)
  unfold floatIn at hv
  rw [hu, hf.decodeF_eq hb] at hv
  split at hv
  · cases hv
  · split at hv
    · cases hv
    · injection hv with _ hsig _
      rw [← hsig]
      calc sigF (etyFmt g.ety) _ < 2 * 2 ^ (etyFmt g.ety).fbits := sigF_lt _ _
        _ = 2 ^ ((etyFmt g.ety).fbits + 1) := (pow_succ' 2 _).symm
        _ ≤ 2 ^ 24 := Nat.pow_le_pow_right (by decide) hf.small.1

/-- The results that the table names. -/
theorem FnOp.special_result {o : FnOp} {f : Fmt} {x : FV} {y : Nat × FFlags} (h : o.special f x = some y) :
    y.1 = nanF f ∨ ∃ n, y.1 = signF f n ∨ y.1 = infF f n ∨ y.1 = oneF f n := by
  have hzero : 0 = signF f false := by rw [signF_false]
  cases x with
  | nan => cases o <;> exact Or.inl (congrArg Prod.fst (Option.some.inj h)).symm
  | inf n =>
    cases o with
    | rcp => cases h; exact Or.inr ⟨n, Or.inl rfl⟩
    | tanh => cases h; exact Or.inr ⟨n, Or.inr (Or.inr rfl)⟩
    | rsq =>
      cases n
      · cases h; exact Or.inr ⟨false, Or.inl hzero⟩
      · cases h; exact Or.inl rfl
    | ex2 =>
      cases n
      · cases h; exact Or.inr ⟨false, Or.inr (Or.inl rfl)⟩
      · cases h; exact Or.inr ⟨false, Or.inl hzero⟩
    | sqrt =>
      cases n
      · cases h; exact Or.inr ⟨false, Or.inr (Or.inl rfl)⟩
      · cases h; exact Or.inl rfl
    | lg2 =>
      cases n
      · cases h; exact Or.inr ⟨false, Or.inr (Or.inl rfl)⟩
      · cases h; exact Or.inl rfl
  | fin neg m e =>
    by_cases hm : m = 0
    · subst hm
      cases o with
      | rcp => cases h; exact Or.inr ⟨neg, Or.inr (Or.inl rfl)⟩
      | rsq => cases h; exact Or.inr ⟨neg, Or.inr (Or.inl rfl)⟩
      | sqrt => cases h; exact Or.inr ⟨neg, Or.inl rfl⟩
      | ex2 => cases h; exact Or.inr ⟨false, Or.inr (Or.inr rfl)⟩
      | lg2 => cases h; exact Or.inr ⟨true, Or.inr (Or.inl rfl)⟩
      | tanh => cases h; exact Or.inr ⟨neg, Or.inl rfl⟩
    · obtain ⟨-, -, rfl⟩ := FnOp.special_fin hm h
      exact Or.inl rfl

/-- The results fit the format. -/
theorem FnOp.op_fits (o : FnOp) {g : Group} (hm : isFlt g.ety = true) : o.op.Fits g := by
  intro a x d
  obtain ⟨c, hc, hfmt, hbits⟩ := etyFmt_code hm
  cases h : o.special (etyFmt g.ety) x with
  | none =>
    obtain ⟨neg, m, e, rfl, hm0, hneg⟩ := FnOp.special_none h
    rw [o.op_fin g _ a d e hm0 hneg, nearest, hfmt, ← hbits]
    exact roundMag_lt hc _ (o.mag_d neg e hm0) _ _ _ _
  | some y =>
    rw [FnOp.op_special g _ a d h]
    have hone : ∀ n, oneF (etyFmt g.ety) n < 2 ^ etyBits g.ety := fun n => by
      have := plainF_lt hm (.fin n 1 0)
      rwa [plainF_one] at this
    obtain hy | ⟨n, hy | hy | hy⟩ := FnOp.special_result h
    · rw [hy, hfmt, ← hbits]
      exact nanF_lt hc
    · rw [hy, hfmt, ← hbits]
      exact signF_lt hc n
    · rw [hy, hfmt, ← hbits]
      exact infF_lt hc n
    · rw [hy]
      exact hone n

/-- Settles O9: the table's inputs by cases, and for every other one the magnitude of its own lemma, rounded once. -/
theorem transcendentals : Obligations.Transcendentals := by
  unfold Obligations.Transcendentals
  intro o d b s i g f hi hm
  refine ⟨_, (exec_fnOp o d b s).trans (issue_of_issues hi rfl),
    fltOp_flagResults hm (writable_of_fnOp hi) (o.op_fits hm) fun j e => ⟨fun y hy => ?_, fun hnone => ?_⟩⟩
  · exact FnOp.op_special g _ _ _ hy
  · obtain ⟨neg, m, ex, hx, hm0, hneg⟩ := FnOp.special_none hnone
    have hlt := sig_lt_of_read hm ⟨_, _, rfl⟩ hx
    refine ⟨(o.mag neg m ex).1, (o.mag neg m ex).2, (sgn neg : ℚ) * (m * 2 ^ ex), ?_, o.mag_d neg ex hm0, o.mag_rounds ex hm0 hlt hneg, ?_⟩
    · rw [hx, FV.rat_fin, mul_assoc]
    · unfold fltResult
      rw [hx]
      exact o.op_fin g _ _ _ ex hm0 hneg

end Sys2Proof.Machine

/-! SUPPORT. The matrix words at issue (R198, R201, R208, R209, R213 to R218; O37). -/

namespace Sys2Proof.Machine

/-! ### Batches (R208) -/

theorem dropComplete_members (l : List Batch) : (dropComplete l).flatMap Batch.members = l.flatMap Batch.members := by
  induction l with
  | nil => rfl
  | cons b l ih =>
    unfold dropComplete
    split
    · next h =>
      obtain ⟨rfl, rfl⟩ := List.cons.inj h
      rw [ih]
      rfl
    · rfl

theorem mem_of_mem_dropComplete {l : List Batch} {b : Batch} (h : b ∈ dropComplete l) : b ∈ l := by
  induction l with
  | nil => exact h
  | cons a l ih =>
    unfold dropComplete at h
    split at h
    · next heq =>
      obtain ⟨rfl, rfl⟩ := List.cons.inj heq
      exact List.mem_cons_of_mem _ (ih h)
    · exact h

/-- No other field of the group changes. -/
theorem joinBatch_eq (g : Group) (mb : Member) : joinBatch g mb = { g with batches := (joinBatch g mb).batches } := by
  unfold joinBatch
  split <;> rfl

/-- A member joins the last batch where that one is open, else it opens one. -/
theorem joined_joinBatch (g : Group) (mb : Member) : Joined mb g (joinBatch g mb) := by
  unfold joinBatch
  split
  · next l hlast =>
    have hbatches : g.batches = g.batches.dropLast ++ [⟨none, l⟩] := (List.dropLast_append_getLast? _ hlast).symm
    refine ⟨?_, ?_, ⟨none, l ++ [mb]⟩, List.getLast?_concat, rfl⟩
    · unfold membersOf
      rw [hbatches]
      simp
    · unfold closedOf
      rw [hbatches]
      simp
  · exact ⟨by simp [membersOf], by simp [closedOf], ⟨none, [mb]⟩, List.getLast?_concat, rfl⟩

/-- Where only the last batch can be open, closing loses no member. -/
theorem closeBatch_members {g : Group} (h : BatchesOk g) : membersOf (closeBatch g) = membersOf g := by
  have hclosed : ∀ {l : List Batch}, (∀ b ∈ l, b.num ≠ none) → (l.filter fun b => b.num.isSome) = l := fun hl =>
    List.filter_eq_self.2 fun b hb => Option.isSome_iff_ne_none.2 (hl b hb)
  unfold membersOf closeBatch
  dsimp only
  rw [dropComplete_members]
  split
  · next l hlast =>
    have hbatches : g.batches = g.batches.dropLast ++ [⟨none, l⟩] := (List.dropLast_append_getLast? _ hlast).symm
    have hfilter : (g.batches.filter fun b => b.num.isSome) = g.batches.dropLast := by
      rw [hbatches, List.filter_append, ← hbatches, hclosed h]
      simp
    rw [hfilter]
    conv_rhs => rw [hbatches]
    simp
  · next hlast =>
    have hall : ∀ b ∈ g.batches, b.num ≠ none := by
      intro b hb hnone
      obtain ⟨l, a, hl⟩ := (List.eq_nil_or_concat' g.batches).resolve_left (List.ne_nil_of_mem hb)
      rw [BatchesOk, hl, List.dropLast_concat] at h
      rw [hl, List.mem_append, List.mem_singleton] at hb
      obtain hb | rfl := hb
      · exact h b hb hnone
      · exact hlast b.members (by rw [hl, List.getLast?_concat, ← hnone])
    rw [hclosed hall]
    simp

theorem closeBatch_closed {g : Group} : ∀ b ∈ (closeBatch g).batches, b.num ≠ none := by
  intro b hb
  have hmem := mem_of_mem_dropComplete hb
  rw [List.mem_append, List.mem_filter, List.mem_singleton] at hmem
  obtain ⟨-, hnum⟩ | rfl := hmem
  · exact Option.isSome_iff_ne_none.1 hnum
  · exact Option.some_ne_none _

theorem batchPending_iff (g : Group) (n : Nat) : batchPending g n = true ↔ ∃ b ∈ g.batches, b.num = some n := by
  simp [batchPending]

/-! ### The grant (R198) -/

theorem grantOk_iff (p : Block) (g : Group) (tile : Nat) : grantOk p g tile = true ↔ Granted p g tile := by
  simp [grantOk, Granted]

section
variable {c : Cpu} {p : Block} {tile : Nat} (w : Iss) (k : Block → Cpu) (hp : c.ctx.block c.grp = some p)
include hp

theorem withGrant_granted (hg : Granted p c.grp tile) : withGrant tile w c k = k p := by
  unfold withGrant
  rw [hp]
  exact if_pos ((grantOk_iff ..).2 hg)

theorem withGrant_refused (hg : ¬ Granted p c.grp tile) : withGrant tile w c k = c.trap w (atPc c.grp 5 4) := by
  unfold withGrant
  rw [hp]
  exact if_neg (mt (grantOk_iff ..).1 hg)

end

/-- The words on a tile that first wait for every pending member check the grant before all else. -/
theorem exec_tileWord {t : BitVec 4} {d a b : BitVec 8} {z : BitVec 1} {way : BitVec 2} {i : Instr} {s : State}
    (hi : i ∈ [.acczero t, .accrd d t b, .accwr t b d, .accdrain t a z way]) (hissues : Issues i s.cpu.grp) :
    ∃ k, exec i s = .next { s with cpu := withGrant t.toNat ⟨i, none⟩ (settled s).cpu k } := by
  simp only [List.mem_cons, List.not_mem_nil, or_false] at hi
  obtain rfl | rfl | rfl | rfl := hi
  all_goals exact ⟨_, issue_of_issues hissues rfl⟩

/-! ### Tiles (R201) -/

theorem mem_tagTile (p : Block) (g : Group) (tile : Nat) (wrote : Bool) (k : Tag) :
    k ∈ (tagTile p g tile wrote).tileTags ↔ k ∈ p.tileTags ∨ k = ⟨16 * g.role + tile, g.gid, wrote⟩ :=
  mem_insertNew _ _ _

/-- The group reads the tile as it has written it. -/
theorem tileNow_tileSet_self (p : Block) (gid key : Nat) (x : List (Nat × Word)) : tileNow (tileSet p gid key x) gid key = x := by
  have hnone : (p.ownTiles.filter fun e => !(e.1 == gid && e.2.1 == key)).find? (fun e => e.1 == gid && e.2.1 == key) = none :=
    List.find?_eq_none.2 fun e he => by simpa [imp_iff_not_or] using (List.mem_filter.1 he).2
  unfold tileNow tileSet
  rw [List.find?_append, hnone]
  simp

/-- No other tile, and no other group's view, is written. -/
theorem tileNow_tileSet_ne (p : Block) {gid key gid' key' : Nat} (x : List (Nat × Word)) (hne : gid' ≠ gid ∨ key' ≠ key) :
    tileNow (tileSet p gid key x) gid' key' = tileNow p gid' key' := by
  have hkeep : (p.ownTiles.filter fun e => !(e.1 == gid && e.2.1 == key)).find? (fun e => e.1 == gid' && e.2.1 == key') =
      p.ownTiles.find? fun e => e.1 == gid' && e.2.1 == key' := by
    rw [List.find?_filter]
    congr 1
    funext e
    refine Bool.eq_iff_iff.2 ?_
    simp only [Bool.and_eq_true, Bool.not_eq_true', beq_iff_eq, decide_eq_true_eq, Bool.and_eq_false_iff, beq_eq_false_iff_ne]
    omega
  have hnew : ((gid == gid') && (key == key')) = false := by
    simp only [Bool.and_eq_false_iff, beq_eq_false_iff_ne]
    omega
  have hsingle : [(gid, key, x)].find? (fun e => e.1 == gid' && e.2.1 == key') = none := by
    rw [List.find?_singleton, hnew]
    rfl
  unfold tileNow tileSet
  rw [List.find?_append, hkeep, hsingle, Option.or_none]

/-- The block once the group has written its view of a tile. -/
def tileWritten (p : Block) (g : Group) (tile : Nat) (x : List (Nat × Word)) : Block :=
  tileSet (tagTile p g tile true) g.gid (tileKey g tile) x

theorem tileAt_tileWritten (p : Block) (g : Group) (tile : Nat) (x : List (Nat × Word)) (row col : Nat) :
    tileAt (tileWritten p g tile x) g tile row col = rd 0 x (128 * row + col) :=
  congrArg (rd 0 · _) (tileNow_tileSet_self ..)

theorem otherTiles_tileWritten (p : Block) (g : Group) (tile : Nat) (x : List (Nat × Word)) :
    OtherTiles p (tileWritten p g tile x) g tile := fun _ _ hne => tileNow_tileSet_ne (tagTile p g tile true) x hne

/-! ### A row written into a tile (R217) -/

section
variable {α : Type} [DecidableEq α] (d : α)

theorem rising_wr {m : List (Nat × α)} (a : Nat) (x : α) (h : rising m = true) : rising (wr d m a x) = true := by
  unfold wr
  split
  · exact rising_del a h
  · exact rising_put a x h

theorem rd_wr_rising {m : List (Nat × α)} (a b : Nat) (x : α) (h : rising m = true) :
    rd d (wr d m a x) b = if b = a then x else rd d m b := by
  unfold rd wr
  by_cases hb : b = a
  · subst hb
    rw [if_pos rfl]
    split
    · next hx => rw [get?_del_self b h, hx]; rfl
    · rw [get?_put_self]; rfl
  · rw [if_neg hb]
    split
    · rw [get?_del_ne h hb]
    · rw [get?_put_ne x hb]

/-- Where the values written depend on their keys alone, their order does not matter. -/
theorem rd_wrAll {m n : List (Nat × α)} {f : Nat → α} (hm : rising m = true) (hf : ∀ e ∈ n, e.2 = f e.1) (b : Nat) :
    rd d (wrAll d m n) b = if b ∈ n.map Prod.fst then f b else rd d m b := by
  induction n generalizing m with
  | nil => rfl
  | cons e n ih =>
    obtain ⟨a, x⟩ := e
    obtain ⟨hx, hn⟩ := List.forall_mem_cons.1 hf
    rw [wrAll, ih (rising_wr d a x hm) hn, rd_wr_rising d a b x hm]
    by_cases hb : b = a
    · subst hb
      simp [show x = f b from hx]
    · simp only [List.map_cons, List.mem_cons, hb, false_or, if_false]

end

/-- The elements that the lanes write into a row, by their place in the tile. -/
def rowCells (lanes : List Nat) (row : Nat) (w : Nat → Nat → Word) : List (Nat × Word) :=
  lanes.flatMap fun j => (List.range 4).map fun q => (128 * row + 32 * q + j, w j q)

/-- The tile as `accwr` computes it. -/
theorem wrAll_rowCells (lanes : List Nat) (row : Nat) (w : Nat → Nat → Word) (x : List (Nat × Word)) :
    lanes.foldl (fun x j => (List.range 4).foldl (fun x q => wr 0 x (128 * row + 32 * q + j) (w j q)) x) x =
      wrAll 0 x (rowCells lanes row w) := by
  have hfold : ∀ (n x : List (Nat × Word)), wrAll 0 x n = n.foldl (fun x e => wr 0 x e.1 e.2) x := by
    intro n
    induction n with
    | nil => exact fun _ => rfl
    | cons e n ih => exact fun x => ih _
  simp only [hfold, rowCells, List.foldl_flatMap, List.foldl_map]

/-- The elements of the row that belong to the lanes are written, and no other is. -/
theorem rd_rowCells {lanes : List Nat} {row : Nat} {w : Nat → Nat → Word} {x : List (Nat × Word)} (hx : rising x = true)
    (hlanes : ∀ j ∈ lanes, j < 32) {r q j : Nat} (hq : q < 4) (hj : j < 32) :
    rd 0 (wrAll 0 x (rowCells lanes row w)) (128 * r + (32 * q + j)) =
      if r = row ∧ j ∈ lanes then w j q else rd 0 x (128 * r + (32 * q + j)) := by
  have hmem : ∀ e, e ∈ rowCells lanes row w ↔ ∃ j ∈ lanes, ∃ q < 4, (128 * row + 32 * q + j, w j q) = e := fun e => by
    simp only [rowCells, List.mem_flatMap, List.mem_map, List.mem_range]
  have hval : ∀ e ∈ rowCells lanes row w, e.2 = w (e.1 % 32) (e.1 / 32 % 4) := by
    intro e he
    obtain ⟨j, hjl, q, hq, rfl⟩ := (hmem e).1 he
    have hlt := hlanes j hjl
    dsimp only
    rw [show (128 * row + 32 * q + j) % 32 = j by omega, show (128 * row + 32 * q + j) / 32 % 4 = q by omega]
  have hkey : 128 * r + (32 * q + j) ∈ (rowCells lanes row w).map Prod.fst ↔ r = row ∧ j ∈ lanes := by
    rw [List.mem_map]
    constructor
    · rintro ⟨e, he, hk⟩
      obtain ⟨j', hjl, q', hq', rfl⟩ := (hmem e).1 he
      have hlt := hlanes j' hjl
      dsimp only at hk
      obtain rfl : j' = j := by omega
      exact ⟨by omega, hjl⟩
    · rintro ⟨rfl, hjl⟩
      exact ⟨_, (hmem _).2 ⟨j, hjl, q, hq, rfl⟩, Nat.add_assoc ..⟩
  rw [rd_wrAll (f := fun k => w (k % 32) (k / 32 % 4)) 0 hx hval, show (128 * r + (32 * q + j)) % 32 = j by omega,
    show (128 * r + (32 * q + j)) / 32 % 4 = q by omega]
  exact if_congr hkey rfl rfl

/-! ### A row read into registers (R41, R217) -/

/-- Lines written into a run of registers one after the other, each with its shift of the last-result file. -/
def writeRun (g : Group) (d : BitVec 8) (mask : Word) (x : Nat → Line) (n : Nat) : Group :=
  (List.range n).foldl (fun g q => g.writeV (d + BitVec.ofNat 8 q) mask (x q)) g

theorem writeRun_succ (g : Group) (d : BitVec 8) (mask : Word) (x : Nat → Line) (n : Nat) :
    writeRun g d mask x (n + 1) = (writeRun g d mask x n).writeV (d + BitVec.ofNat 8 n) mask (x n) := by
  unfold writeRun
  rw [List.range_succ, List.foldl_append]
  rfl

/-- The registers that a run writes. -/
theorem writeRun_same {g : Group} {d : BitVec 8} (mask : Word) (x : Nat → Line) {n : Nat} (h : RunOk g d n) :
    SameGroup (.last :: (List.range n).map fun i => .v (d + BitVec.ofNat 8 i).toNat) g (writeRun g d mask x n) ∧
      (writeRun g d mask x n).pc = g.pc ∧ (writeRun g d mask x n).lc = g.lc := by
  induction n with
  | zero => exact ⟨(SameGroup.refl g).mono (by simp), rfl, rfl⟩
  | succ n ih =>
    obtain ⟨hsame, hpc, hlc⟩ := ih (h.mono (Nat.le_succ n))
    have hn := (h n (Nat.lt_succ_self n)).1
    rw [writeRun_succ, Group.writeV_pc, Group.writeV_lc]
    refine ⟨(hsame.trans (Group.sameGroup_writeV _ mask (x n) (by rw [run_toNat hn]; exact hn))).mono ?_, hpc, hlc⟩
    simp only [List.range_succ, List.map_append, List.mem_append, List.mem_cons, List.map_cons, List.map_nil]
    tauto

/-- A register that the run does not write. -/
theorem readV_writeRun_ne {g : Group} {d : BitVec 8} (mask : Word) (x : Nat → Line) {n : Nat} (h : RunOk g d n) {m : BitVec 8}
    (hm : m.toNat < 240) (hne : ∀ i < n, m.toNat ≠ d.toNat + i) : (writeRun g d mask x n).readV m = g.readV m := by
  refine (writeRun_same mask x h).1.regs.v m ?_ (.inl hm)
  simp only [List.mem_cons, List.mem_map, List.mem_range, reduceCtorEq, false_or, Loc.v.injEq, not_exists, not_and]
  exact fun i hi heq => hne i hi (heq.symm.trans (run_toNat (h i hi).1))

/-- Each register of the run holds its line in the lanes of the mask, and the last-result file the last four lines. -/
theorem readV_writeRun {g : Group} {d : BitVec 8} (mask : Word) (x : Nat → Line) {n : Nat} (h : RunOk g d n) :
    (∀ i < n, (writeRun g d mask x n).readV (d + BitVec.ofNat 8 i) = g.merged (d + BitVec.ofNat 8 i) mask (x i)) ∧
    ∀ q < 4, (writeRun g d mask x n).readV (BitVec.ofNat 8 (240 + q)) =
      if q < n then (writeRun g d mask x n).readV (d + BitVec.ofNat 8 (n - 1 - q)) else g.readV (BitVec.ofNat 8 (240 + q - n)) := by
  induction n with
  | zero => exact ⟨fun _ hi => absurd hi (Nat.not_lt_zero _), fun _ _ => rfl⟩
  | succ n ih =>
    have hprev := h.mono (Nat.le_succ n)
    obtain ⟨hregs, hlast⟩ := ih hprev
    obtain ⟨hn, hwin⟩ := h n (Nat.lt_succ_self n)
    have hname : (d + BitVec.ofNat 8 n).toNat = d.toNat + n := run_toNat hn
    have hold : (writeRun g d mask x n).readV (d + BitVec.ofNat 8 n) = g.readV (d + BitVec.ofNat 8 n) :=
      readV_writeRun_ne mask x hprev (by omega) fun i hi => by omega
    have hinWin : (writeRun g d mask x n).inWin = g.inWin := by rw [(writeRun_same mask x hprev).1.rest]
    have hmerged : (writeRun g d mask x n).merged (d + BitVec.ofNat 8 n) mask (x n) = g.merged (d + BitVec.ofNat 8 n) mask (x n) := by
      unfold Group.merged
      rw [hold]
    have hself : (writeRun g d mask x (n + 1)).readV (d + BitVec.ofNat 8 n) = g.merged (d + BitVec.ofNat 8 n) mask (x n) := by
      rw [writeRun_succ, Group.readV_writeV_self _ mask (x n) (by omega) (by rw [hinWin, hname]; exact hwin), hmerged]
    have hkeep : ∀ i < n, (writeRun g d mask x (n + 1)).readV (d + BitVec.ofNat 8 i) =
        (writeRun g d mask x n).readV (d + BitVec.ofNat 8 i) := by
      intro i hi
      have hni : (d + BitVec.ofNat 8 i).toNat = d.toNat + i := run_toNat (h i (by omega)).1
      rw [writeRun_succ]
      exact Group.readV_writeV_ne _ mask (x n) (by omega) (fun heq => by rw [heq, hname] at hni; omega) (.inl (by omega))
    refine ⟨fun i hi => ?_, fun q hq => ?_⟩
    · obtain hlt | rfl := Nat.lt_succ_iff_lt_or_eq.1 hi
      · rw [hkeep i hlt, hregs i hlt]
      · exact hself
    · obtain ⟨h0, h1, h2, h3⟩ := Group.readV_writeV_last (writeRun g d mask x n) (d + BitVec.ofNat 8 n) mask (x n) (by omega)
      rw [← writeRun_succ] at h0 h1 h2 h3
      obtain rfl | hpos := Nat.eq_zero_or_pos q
      · rw [if_pos (Nat.succ_pos n)]
        exact h0.trans (hmerged.trans hself.symm)
      · have hshift : (writeRun g d mask x (n + 1)).readV (BitVec.ofNat 8 (240 + q)) =
            (writeRun g d mask x n).readV (BitVec.ofNat 8 (240 + (q - 1))) := by
          interval_cases q
          · exact h1
          · exact h2
          · exact h3
        rw [hshift, hlast (q - 1) (by omega)]
        by_cases hqn : q < n + 1
        · rw [if_pos hqn, if_pos (by omega), show n + 1 - 1 - q = n - 1 - (q - 1) by omega, hkeep _ (by omega)]
        · rw [if_neg hqn, if_neg (by omega)]
          congr 2
          omega

/-- Four words put together as one number, and taken from it again. -/
theorem word_of_sum (w : Nat → Word) {i : Nat} (hi : i < 4) :
    BitVec.ofNat 32 ((∑ q ∈ Finset.range 4, (w q).toNat * 2 ^ (32 * q)) / 2 ^ (32 * i)) = w i := by
  have h0 := (w 0).isLt
  have h1 := (w 1).isLt
  have h2 := (w 2).isLt
  have h3 := (w 3).isLt
  refine BitVec.eq_of_toNat_eq ?_
  rw [BitVec.toNat_ofNat]
  simp only [Finset.sum_range_succ, Finset.sum_range_zero]
  interval_cases i <;> omega

/-- Four lines of a row are loaded as the 16 bytes of each lane (R176, R217). -/
theorem loaded_writeRun {g : Group} {d : BitVec 8} (mask : Word) {x : Nat → Line} {w : Nat → Nat → Word} (h : RunOk g d 4)
    (hx : ∀ q, ∀ j : Fin 32, (x q)[j] = w j q) :
    Loaded 16 d (lanesOf mask) (fun j => ∑ q ∈ Finset.range 4, (w j q).toNat * 2 ^ (32 * q)) g (writeRun g d mask x 4) := by
  obtain ⟨hregs, hlast⟩ := readV_writeRun mask x h
  refine ⟨fun i hi j => ?_, hlast⟩
  rw [hregs i hi, Group.laneAt_merged, hx, word_of_sum (w j) hi]
  exact if_congr ⟨fun hb => (mem_lanesOf _ _).2 ⟨j.isLt, hb⟩, fun hj => ((mem_lanesOf _ _).1 hj).2⟩ rfl rfl

/-- The destination of a legal `accrd` is a run of registers that may be written (R217, R300). -/
theorem runOk_of_accrd {d b : BitVec 8} {t : BitVec 4} {g : Group} (h : Issues (.accrd d t b) g) : RunOk g d 4 := by
  obtain ⟨hwf, hwin⟩ := h
  simp only [wellFormed, namesOk, windowOk, vDstQ, vIn, Bool.and_eq_true, Bool.or_eq_true, decide_eq_true_eq] at hwf hwin
  exact fun i hi => ⟨by omega, fun hw => by have := hwin hw; omega⟩

/-! ### The operations -/

section
variable {i : Instr} {s : State} {p : Block} {t : BitVec 4}

/-- The block after a product has joined: the tile and the granules that it reads are tagged. -/
def productTagged (p : Block) (g : Group) (tile : Nat) (ws : List Word) : Block :=
  padTag (tagTile p g tile true) g.gid false (productReads (descOf ws) (padByte p g.gid))

/-- The group after it: the product is in the open batch, and the slot is consumed if it was operand A. -/
def productQueued (clear : Bool) (g : Group) (tile : Nat) (ws : List Word) : Group :=
  joinBatch { g with bypass := if (descOf ws).byp then none else g.bypass }
    (.product clear tile ws (if (descOf ws).byp then g.bypass else none))

theorem exec_product (clear : Bool) (t : BitVec 4) (a : BitVec 8) (s : State) :
    exec (if clear then .mmaz t a else .mma t a) s = issue noPre (mmaOp clear t a) (if clear then .mmaz t a else .mma t a) s := by
  cases clear <;> rfl

theorem mmaOp_joins {clear : Bool} {a : BitVec 8} (hp : (afterDrains s).cpu.ctx.block (afterDrains s).cpu.grp = some p)
    (hg : Granted p (afterDrains s).cpu.grp t.toNat)
    (hok : productTrap p (afterDrains s).cpu.grp (descWords (afterDrains s).cpu.grp a) = none) :
    mmaOp clear t a s.mem ⟨i, none⟩ s.cpu =
      let u := afterDrains s
      let g := u.cpu.grp
      let ws := descWords g a
      (u.withCtx (u.cpu.ctx.setBlock (productTagged p g t.toNat ws))).cpu.retire ⟨i, none⟩ (productQueued clear g t.toNat ws) := by
  unfold afterDrains at hp hg hok
  unfold mmaOp
  dsimp only
  rw [withGrant_granted _ _ hp hg, hok]
  rfl

/-- A drain that passes its checks (R218). -/
theorem accdrainOp_joins {a : BitVec 8} {z : BitVec 1} {way : BitVec 2} (hp : (settled s).cpu.ctx.block (settled s).cpu.grp = some p)
    (hg : Granted p (settled s).cpu.grp t.toNat) (hok : drainOk ((settled s).cpu.grp.readK a) way.toNat = true)
    (hfits : way.toNat ≠ 2 → padValid p (128 * (((settled s).cpu.grp.readK a).toNat / 2 ^ 16) : Nat)
      (drainSize ((settled s).cpu.grp.readK a) way.toNat) = true) :
    accdrainOp t a z way s.mem ⟨i, none⟩ s.cpu =
      let u := settled s
      let g := u.cpu.grp
      (u.withCtx (u.cpu.ctx.setBlock (tagTile p g t.toNat (z = 1)))).cpu.retire ⟨i, none⟩
        (joinBatch g (.drain t.toNat (g.readK a) (z = 1) way.toNat)) := by
  have hline : bitsOf ((settled s).cpu.grp.readK a) 31 16 = ((settled s).cpu.grp.readK a).toNat / 2 ^ 16 := by
    have := ((settled s).cpu.grp.readK a).isLt
    unfold bitsOf
    omega
  have hextent : (decide (way ≠ 2) && !padValid p (128 * bitsOf ((settled s).cpu.grp.readK a) 31 16 : Nat)
      (drainSize ((settled s).cpu.grp.readK a) way.toNat)) = false := by
    by_cases hway : way = 2
    · simp [hway]
    · rw [hline, hfits fun heq => hway (BitVec.eq_of_toNat_eq heq)]
      simp
  unfold settled at hp hg hok hextent
  unfold accdrainOp
  dsimp only
  rw [withGrant_granted _ _ hp hg, hok, hextent]
  rfl

theorem accdrainOp_refused {a : BitVec 8} {z : BitVec 1} {way : BitVec 2} (hp : (settled s).cpu.ctx.block (settled s).cpu.grp = some p)
    (hg : Granted p (settled s).cpu.grp t.toNat) (hok : drainOk ((settled s).cpu.grp.readK a) way.toNat = false) :
    accdrainOp t a z way s.mem ⟨i, none⟩ s.cpu = (settled s).cpu.trap ⟨i, none⟩ (atPc (settled s).cpu.grp 6 5) := by
  unfold settled at hp hg hok
  unfold accdrainOp
  dsimp only
  rw [withGrant_granted _ _ hp hg, hok]
  rfl

theorem acczeroOp_writes (hp : (settled s).cpu.ctx.block (settled s).cpu.grp = some p) (hg : Granted p (settled s).cpu.grp t.toNat) :
    acczeroOp t s.mem ⟨i, none⟩ s.cpu =
      let u := settled s
      (u.withCtx (u.cpu.ctx.setBlock (tileWritten p u.cpu.grp t.toNat []))).cpu.retire ⟨i, none⟩ u.cpu.grp := by
  unfold settled at hp hg
  unfold acczeroOp
  dsimp only
  rw [withGrant_granted _ _ hp hg]
  rfl

/-- The four lines of a row of a tile. -/
def rowLine (p : Block) (g : Group) (tile row q : Nat) : Line :=
  Vector.ofFn fun (j : Fin 32) => rd 0 (tileNow p g.gid (tileKey g tile)) (128 * row + 32 * q + j.val)

theorem accrdOp_reads {d r : BitVec 8} (hp : (settled s).cpu.ctx.block (settled s).cpu.grp = some p)
    (hg : Granted p (settled s).cpu.grp t.toNat) :
    accrdOp d t r s.mem ⟨i, none⟩ s.cpu =
      let u := settled s
      let g := u.cpu.grp
      (u.withCtx (u.cpu.ctx.setBlock (tagTile p g t.toNat false))).cpu.retire ⟨i, none⟩
        (writeRun g d g.active (rowLine p g t.toNat (rowOf g r)) 4) := by
  unfold settled at hp hg
  unfold accrdOp
  dsimp only
  rw [withGrant_granted _ _ hp hg]
  rfl

/-- The group's view of the tile once the active lanes have written their elements of the row. -/
def rowWritten (p : Block) (g : Group) (tile : Nat) (r v : BitVec 8) : List (Nat × Word) :=
  wrAll 0 (tileNow p g.gid (tileKey g tile)) (rowCells (lanesOf g.active) (rowOf g r) fun j q => BitVec.ofNat 32 (srcWord g v j q))

/-- The active lanes' elements of the row are written, and every other element is as it was. -/
theorem tileAt_rowWritten {g : Group} {tile : Nat} {r v : BitVec 8} (hrise : rising (tileNow p g.gid (tileKey g tile)) = true) (row : Nat)
    {q j : Nat} (hq : q < 4) (hj : j < 32) :
    tileAt (tileWritten p g tile (rowWritten p g tile r v)) g tile row (32 * q + j) =
      if row = rowOf g r ∧ g.active.getLsbD j = true then BitVec.ofNat 32 (srcWord g v j q) else tileAt p g tile row (32 * q + j) := by
  refine (tileAt_tileWritten ..).trans ((rd_rowCells hrise (fun l hl => ((mem_lanesOf _ l).1 hl).1) hq hj).trans ?_)
  exact if_congr (and_congr_right fun _ => (mem_lanesOf _ j).trans (and_iff_right hj)) rfl rfl

theorem accwrOp_writes {r v : BitVec 8} (hp : (settled s).cpu.ctx.block (settled s).cpu.grp = some p)
    (hg : Granted p (settled s).cpu.grp t.toNat) :
    accwrOp t r v s.mem ⟨i, none⟩ s.cpu =
      let u := settled s
      let g := u.cpu.grp
      (u.withCtx (u.cpu.ctx.setBlock (tileWritten p g t.toNat (rowWritten p g t.toNat r v)))).cpu.retire ⟨i, none⟩ g := by
  unfold settled at hp hg
  unfold accwrOp
  dsimp only
  rw [withGrant_granted _ _ hp hg]
  simp only [wrAll_rowCells]
  rfl

end

/-! ### The words -/

section
variable {t n : BitVec 4} {d a b : BitVec 8} {z : BitVec 1} {way : BitVec 2} {s : State} {p : Block}

/-- The state once the number that `mfence` is to give is free (R208). -/
def fenceState (s : State) : State := if batchPending s.cpu.grp s.cpu.grp.nb then settled s else s

theorem issues_fenceState {i : Instr} (h : Issues i s.cpu.grp) : Issues i (fenceState s).cpu.grp := by
  unfold fenceState
  split
  · exact issues_settled h
  · exact h

/-- The group as `mfence` leaves it before it retires. -/
def fenced (g : Group) (d : BitVec 8) : Group := (closeBatch g).writeK d (BitVec.ofNat 32 g.nb)

theorem exec_mfence (hissues : Issues (.mfence d) s.cpu.grp) :
    let u := fenceState s
    exec (.mfence d) s = .next { u with cpu := u.cpu.retire ⟨.mfence d, none⟩ (fenced u.cpu.grp d) } := by
  refine (issue_of_issues hissues rfl).trans ?_
  unfold mfenceOp fenceState
  dsimp only
  split <;> rfl

/-- `mfence` closes the open batch and writes its number (R208, R214). -/
theorem mfence_closes (hissues : Issues (.mfence d) s.cpu.grp) (hok : BatchesOk (fenceState s).cpu.grp) :
    let u := fenceState s
    let g := u.cpu.grp
    ∃ v, exec (.mfence d) s = .next v ∧ CtxOnly u v ∧ v.cpu.ctx = u.cpu.ctx ∧ Retired 1 (g.pc + 4) g v.cpu.grp ∧
      SameGroup [.k d.toNat] { g with nb := (g.nb + 1) % 16, batches := v.cpu.grp.batches } v.cpu.grp ∧
      (d.toNat ≠ 248 → v.cpu.grp.readK d = BitVec.ofNat 32 g.nb) ∧ membersOf v.cpu.grp = membersOf g ∧
        ∀ b ∈ v.cpu.grp.batches, b.num ≠ none := by
  intro u g
  let h := fenced g d
  obtain ⟨hwf, hwin⟩ := issues_fenceState hissues
  simp only [wellFormed, namesOk, windowOk, kRead, kIn, Bool.and_eq_true, Bool.or_eq_true, decide_eq_true_eq] at hwf hwin
  have hsame : SameGroup [.k d.toNat] (closeBatch g) h := Group.sameGroup_writeK _ d _
  have hbatches : h.batches = (closeBatch g).batches := by rw [hsame.rest]
  have hretired : Retired 1 (g.pc + 4) g (h.retire ⟨.mfence d, none⟩) :=
    retired_retire ⟨.mfence d, none⟩ (Group.writeK_pc _ d _) (Group.writeK_lc _ d _)
  refine ⟨_, exec_mfence hissues, ⟨rfl, rfl, rfl, fun _ => rfl⟩, rfl, hretired, ?_, fun hne => ?_, ?_, ?_⟩
  · change SameGroup [.k d.toNat] { g with nb := (g.nb + 1) % 16, batches := h.batches } (h.retire ⟨.mfence d, none⟩)
    rw [hbatches]
    exact (hsame.trans (h.sameGroup_retire _)).mono (by simp)
  · exact Group.readK_writeK_self _ _ (by omega) fun hw => by have := hwin hw; omega
  · exact (congrArg (List.flatMap Batch.members) hbatches).trans (closeBatch_members hok)
  · exact fun b hb => closeBatch_closed b (hbatches ▸ hb)

/-- `mwait` cedes while the batch is pending, else it retires (R209). -/
theorem mwait_waits (hissues : Issues (.mwait n) s.cpu.grp) :
    let g := s.cpu.grp
    ∃ v, exec (.mwait n) s = .next v ∧
      if ∃ b ∈ g.batches, b.num = some n.toNat then GroupOnly s v ∧ v.cpu.grp = { g with status := .ceded 1 (.mwait n.toNat) none }
      else Did (.mwait n) [] s v := by
  intro g
  have hexec : exec (.mwait n) s = .next { s with cpu := mwaitOp n s.mem ⟨.mwait n, none⟩ s.cpu } := issue_of_issues hissues rfl
  unfold mwaitOp at hexec
  by_cases hpend : batchPending s.cpu.grp n.toNat = true
  · rw [if_pos hpend] at hexec
    refine ⟨_, hexec, ?_⟩
    rw [if_pos ((batchPending_iff ..).1 hpend)]
    exact ⟨⟨rfl, rfl, rfl, rfl, fun _ => rfl⟩, rfl⟩
  · rw [if_neg hpend] at hexec
    refine ⟨_, hexec, ?_⟩
    rw [if_neg (mt (batchPending_iff ..).2 hpend)]
    exact did_retire (SameGroup.refl g) rfl rfl

end

/-- Settles O37: each word runs on the state whose pending members, or drains, have completed; the group's own tiles are a layer over the
block's, and only the last batch can be open. -/
theorem matrixUnit : Obligations.MatrixUnit := by
  unfold Obligations.MatrixUnit
  intro t n d a b z way s p tag
  refine ⟨?_, fun hissues hok => mfence_closes hissues hok, fun hissues => mwait_waits hissues, ?_⟩
  · intro clear i u g ws byp hissues hp hg hok
    have hexec : exec i s = _ := (exec_product clear t a s).trans (issue_of_issues hissues rfl)
    rw [mmaOp_joins hp hg hok] at hexec
    refine ⟨_, (productTagged p g t.toNat ws).tags, (productTagged p g t.toNat ws).tileTags, hexec, ⟨rfl, rfl, rfl, fun _ => rfl⟩, ?_,
      joined_joinBatch _ _, rfl, mem_tagTile p g t.toNat true, mem_tagsAfter⟩
    exact congrArg (·.retire ⟨i, none⟩) (joinBatch_eq _ _)
  intro u g row tile hp
  refine ⟨?_, ?_, ?_, ?_, ?_⟩
  · intro hissues hg
    have hexec : exec (.acczero t) s = _ := issue_of_issues hissues rfl
    rw [acczeroOp_writes hp hg] at hexec
    exact ⟨_, (tileWritten p g t.toNat []).ownTiles, (tileWritten p g t.toNat []).tileTags, hexec, ⟨rfl, rfl, rfl, fun _ => rfl⟩, rfl, rfl,
      mem_tagTile p g t.toNat true, otherTiles_tileWritten p g t.toNat [], tileAt_tileWritten p g t.toNat []⟩
  · intro hissues hg
    have hexec : exec (.accrd d t b) s = _ := issue_of_issues hissues rfl
    rw [accrdOp_reads hp hg] at hexec
    have hrun : RunOk g d 4 := runOk_of_accrd (issues_settled hissues)
    obtain ⟨hsame, hpc, hlc⟩ := writeRun_same g.active (rowLine p g t.toNat row) hrun
    have hloaded := loaded_writeRun (x := rowLine p g t.toNat row) (w := fun j q => tileAt p g t.toNat row (32 * q + j)) g.active hrun
      fun q j => by simp [rowLine, tileAt, tileKey, Nat.add_assoc]
    exact ⟨_, (tagTile p g t.toNat false).tileTags, hexec, ⟨rfl, rfl, rfl, fun _ => rfl⟩,
      (hsame.trans (Group.sameGroup_retire _ _)).mono (by simp [loadDst, loadRegs, regsOf]), retired_retire ⟨.accrd d t b, none⟩ hpc hlc, rfl,
      mem_tagTile p g t.toNat false, hloaded.retire _⟩
  · intro hissues hg hrise
    have hexec : exec (.accwr t b d) s = _ := issue_of_issues hissues rfl
    rw [accwrOp_writes hp hg] at hexec
    let x := rowWritten p g t.toNat b d
    exact ⟨_, (tileWritten p g t.toNat x).ownTiles, (tileWritten p g t.toNat x).tileTags, hexec, ⟨rfl, rfl, rfl, fun _ => rfl⟩, rfl, rfl,
      mem_tagTile p g t.toNat true, otherTiles_tileWritten p g t.toNat x, fun r _ q hq j hj => tileAt_rowWritten hrise r hq hj⟩
  · intro ctl base hissues hg
    have hexec : exec (.accdrain t a z way) s = _ := issue_of_issues hissues rfl
    refine ⟨fun hok hfits => ?_, fun hok => ?_⟩
    · rw [accdrainOp_joins hp hg hok hfits] at hexec
      exact ⟨_, (tagTile p g t.toNat (z = 1)).tileTags, hexec, ⟨rfl, rfl, rfl, fun _ => rfl⟩,
        congrArg (·.retire ⟨.accdrain t a z way, none⟩) (joinBatch_eq _ _), joined_joinBatch _ _, rfl, mem_tagTile p g t.toNat (z = 1)⟩
    · rw [accdrainOp_refused hp hg hok] at hexec
      exact ⟨_, hexec, takesTrap _ none _ 0 u⟩
  · intro i hi hissues hg
    obtain ⟨k, hexec⟩ := exec_tileWord hi hissues
    rw [withGrant_refused _ k hp hg] at hexec
    exact ⟨_, hexec, takesTrap _ none _ 0 u⟩

end Sys2Proof.Machine


/-! SUPPORT. The system words that act on the group in hand: `trap` and `rfe` (R266, R269), the control registers (R253 to R256, R270), and
the stops (R267, R268, R274). -/

namespace Sys2Proof.Machine

/-! ### Traps and returns -/

/-- Settles O20: `trap` is a retirement and then the shared trap; `rfe` is a retirement and the leaving of the window, or its mode fault. -/
theorem softwareTrapAndReturn : Obligations.SoftwareTrapAndReturn := by
  unfold Obligations.SoftwareTrapAndReturn
  intro n s g
  refine ⟨?_, fun hwin => ?_, fun hwin => ?_⟩
  · refine ⟨_, issue_of_issues (i := .trap n) ⟨rfl, fun _ => rfl⟩ rfl, ?_⟩
    exact takesTrap _ none _ 0 { s with cpu := { s.cpu with grp := g.after (.trap n) (g.pc + 4) } }
  · have hop : rfeOp s.mem ⟨.rfe, none⟩ s.cpu = { s.cpu with grp := (g.retire ⟨.rfe, none⟩).leaveWindow } := if_pos hwin
    refine ⟨_, issue_of_issues (i := .rfe) ⟨rfl, fun _ => rfl⟩ rfl, ?_, ?_⟩
    · rw [hop]
      exact ⟨rfl, rfl, rfl, rfl, fun _ => rfl⟩
    · rw [hop]
      rfl
  · have hop : rfeOp s.mem ⟨.rfe, none⟩ s.cpu = s.cpu.trap ⟨.rfe, none⟩ (modeTrap g 11) := if_neg (by simp [g, hwin])
    refine ⟨_, issue_of_issues (i := .rfe) ⟨rfl, fun _ => rfl⟩ rfl, ?_⟩
    rw [hop]
    exact takesTrap _ none _ 0 s

/-! ### Control registers -/

theorem sysPre_of_sys {g : Group} (h : g.sys = true) : sysPre g = none := if_pos h

/-- A word that the group may execute passes the check of its privilege. -/
theorem csrrPre_of_allowed {d n : BitVec 8} {x : Ctx} {g : Group} (h : ¬ Forbidden g x (.csrr d n)) : csrrPre n x g = none := by
  obtain ⟨hsys, htsc⟩ := not_or.1 h
  unfold csrrPre
  split
  · next hn =>
    simp only [Bool.and_eq_true, decide_eq_true_eq] at hn
    exact sysPre_of_sys (by simpa using fun hs => hsys ⟨hn.1, hn.2, hs⟩)
  · rw [if_neg (by simpa using fun hn => by simpa using fun hb => htsc ⟨hn, hb⟩)]

theorem csrwPre_of_allowed {a n : BitVec 8} {x : Ctx} {g : Group} (h : ¬ Forbidden g x (.csrw a n)) : csrwPre n g = none := by
  unfold csrwPre
  split
  · next hn => exact sysPre_of_sys (by simpa using fun hs => h ⟨by simpa using hn, hs⟩)
  · rfl

/-- CTXID read as 64 bits (R254). -/
theorem ctxId_wide (d : BitVec 4) (n : BitVec 24) : (0#4 ++ d ++ n).setWidth 64 = (d ++ n).setWidth 64 := by
  apply BitVec.eq_of_toNat_eq
  rw [BitVec.toNat_setWidth, BitVec.toNat_setWidth, BitVec.toNat_append, BitVec.toNat_append, BitVec.toNat_append, BitVec.toNat_ofNat,
    Nat.zero_mod, Nat.zero_shiftLeft, Nat.zero_or]

theorem csrValue_eq_csrRead (x : Ctx) (g : Group) {n : Nat} (hn : n < 12) : csrValue x g n = csrRead x g n := by
  have hbit : ((x.nondet &&& 1).setWidth 64 : Dword) = if x.nondet.getLsbD 0 then 1 else 0 := by
    rw [show (1 : Word) = 1#32 from rfl, BitVec.and_one_eq_setWidth_ofBool_getLsbD]
    cases x.nondet.getLsbD 0 <;> rfl
  interval_cases n
  · exact ctxId_wide x.dpart x.number
  · rfl
  · rfl
  · exact hbit
  all_goals rfl

/-- The names of a word that reads a control register of 64 bits are a pair of the bank in hand. -/
theorem csr64_pair_reached {d n : BitVec 8} {g : Group} (h : Issues (.csrr d n) g) (hw : csr64 n = true) :
    d.toNat + 1 < 160 ∧ (g.inWin = true → d.toNat + 1 < 32) := by
  have hpair : kPair d = true := by
    have hnames := namesOk_of_issues h
    have hcode : n.toNat ≤ 12 := of_decide_eq_true (Bool.and_eq_true_iff.1 h.1).2
    simpa [namesOk, csrrNames, hw, Nat.not_lt.2 hcode] using hnames
  refine kPair_reached hpair fun hwin => ?_
  have hin : kIn d = true := h.2 hwin
  simp only [kPair, kIn, Bool.and_eq_true, Bool.or_eq_true, decide_eq_true_eq] at hpair hin ⊢
  omega

theorem csr32_reached {d n : BitVec 8} {g : Group} (h : Issues (.csrr d n) g) (hw : csr64 n = false) :
    d.toNat < 160 ∧ (g.inWin = true → d.toNat < 32) := by
  have hdst : kWrite d = true := by
    have hnames := namesOk_of_issues h
    have hcode : n.toNat ≤ 12 := of_decide_eq_true (Bool.and_eq_true_iff.1 h.1).2
    simpa [namesOk, csrrNames, hw, Nat.not_lt.2 hcode] using hnames
  exact kDst_reached hdst h.2

/-- The bits of TRAPV that are held (R254). -/
theorem trapv_mask (x : Dword) : x &&& ~~~(3 : Dword) = BitVec.ofNat 64 (x.toNat / 4 * 4) := by
  apply BitVec.eq_of_toNat_eq
  rw [and_not3, BitVec.toNat_ofNat, Nat.mod_eq_of_lt (by have := x.isLt; omega)]

/-- A reading of the counter into a pair that the bank in hand has. -/
theorem tscOp_reads {d : BitVec 8} {i : Instr} {s : State} (hweight : weight i = 1) (hlt : d.toNat + 1 < 160)
    (hwin : s.cpu.grp.inWin = true → d.toNat + 1 < 32) :
    let g := s.cpu.grp
    let t : State := { s with cpu := tscOp d s.mem ⟨i, none⟩ s.cpu }
    CtxOnly { s with cpu := { s.cpu with hw := { s.cpu.hw with tscCount := s.cpu.hw.tscCount + 1 } } } t ∧
      t.cpu.ctx = s.cpu.ctx ∧ SameGroup [.k d.toNat, .k (d.toNat + 1)] g t.cpu.grp ∧ Retired 1 (g.pc + 4) g t.cpu.grp ∧
      t.cpu.grp.readKK d = Config.tscReading s.cpu.hw.tscCount := by
  intro g t
  obtain ⟨hsame, hread⟩ := g.writeKK_spec (Config.tscReading s.cpu.hw.tscCount) hlt hwin
  have hdid := did_retire (i := i) hsame (by simp [g]) (by simp [g])
  exact ⟨⟨rfl, rfl, rfl, fun _ => rfl⟩, rfl, hdid.same, hweight ▸ hdid.retired, hread⟩

theorem csrrOp_of_ne_tsc {d n : BitVec 8} (m : Cells) (w : Iss) (c : Cpu) (hn : n ≠ 12) :
    csrrOp d n m w c = c.retire w (if csr64 n then c.grp.writeKK d (csrValue c.ctx c.grp n.toNat)
      else c.grp.writeK d ((csrValue c.ctx c.grp n.toNat).extractLsb' 0 32)) := if_neg hn

/-- Settles O22: `csrr` is a write of a uniform register or pair, `csrw` one of the register that it names, or a change for the leg end. -/
theorem controlRegisters : Obligations.ControlRegisters := by
  unfold Obligations.ControlRegisters
  intro d a n s g x
  refine ⟨fun hi hallowed hn => ?_, fun i hword hi hbit => ?_, fun hi hallowed => ?_⟩
  · refine ⟨_, issue_of_issues hi (csrrPre_of_allowed hallowed), ?_⟩
    have hlt : n.toNat < 12 := by
      have hcode : n.toNat ≤ 12 := of_decide_eq_true (Bool.and_eq_true_iff.1 hi.1).2
      have hne : n.toNat ≠ 12 := fun h => hn (BitVec.eq_of_toNat_eq h)
      omega
    rw [csrrOp_of_ne_tsc _ _ _ hn, csrValue_eq_csrRead _ _ hlt]
    split
    · next hw =>
      obtain ⟨hreach, hwin⟩ := csr64_pair_reached hi hw
      obtain ⟨hsame, hread⟩ := g.writeKK_spec (csrRead x g n.toNat) hreach hwin
      exact ⟨did_retire hsame (by simp) (by simp), hread⟩
    · next hw =>
      obtain ⟨hreach, hwin⟩ := csr32_reached hi (by simpa using hw)
      refine ⟨did_retire (g.sameGroup_writeK d _) (by simp) (by simp), ?_⟩
      refine (g.readK_writeK_self _ hreach hwin).trans ?_
      exact BitVec.setWidth_eq_extractLsb' (by decide) |>.symm
  · have hpre : csrrPre 12 x g = none := csrrPre_of_allowed (d := d) (not_or.2 ⟨by simp, by simp [hbit]⟩)
    obtain rfl | rfl := hword
    · obtain ⟨hreach, hwin⟩ := csr64_pair_reached hi (by decide)
      have hexec : exec (.csrr d 12) s = _ := issue_of_issues hi hpre
      exact ⟨_, hexec, tscOp_reads (i := .csrr d 12) rfl hreach hwin⟩
    · obtain ⟨hreach, hwin⟩ := kPair_reached (namesOk_of_issues hi) hi.2
      have hexec : exec (.tscrd d) s = _ := issue_of_issues hi hpre
      exact ⟨_, hexec, tscOp_reads (i := .tscrd d) rfl hreach hwin⟩
  · have hexec : exec (.csrw a n) s = _ := issue_of_issues hi (csrwPre_of_allowed hallowed)
    have hcode : csrwCode n = true := (Bool.and_eq_true_iff.1 hi.1).2
    have hcases : n = 4 ∨ n = 5 ∨ n = 8 ∨ n = 9 := by
      simp only [csrwCode, Bool.or_eq_true, decide_eq_true_eq] at hcode
      simp only [← BitVec.toNat_inj]
      simpa [or_assoc] using hcode
    refine ⟨_, hexec, ?_⟩
    obtain rfl | rfl | rfl | rfl := hcases
    · refine ⟨⟨rfl, rfl, rfl, fun _ => rfl⟩, rfl, ?_⟩
      rw [BitVec.setWidth_eq_extractLsb' (by decide)]
      rfl
    · refine ⟨⟨rfl, rfl, rfl, fun _ => rfl⟩, rfl, ?_⟩
      rw [← trapv_mask]
      rfl
    · exact ⟨⟨rfl, rfl, rfl, fun _ => rfl⟩, rfl, rfl⟩
    · exact ⟨⟨rfl, rfl, rfl, fun _ => rfl⟩, rfl, rfl⟩

/-! ### Stops -/

theorem stopsAt_stop {s : State} (g' : Group) (r : StopRec) : StopsAt r g' s { s with cpu := s.cpu.stop g' r } :=
  ⟨rfl, rfl, rfl, fun _ => rfl, rfl, rfl⟩

/-- An active lane in which the predicate of an `asrt` is false (R268). -/
theorem failing_getLsbD (g : Group) (d : BitVec 8) {j : Nat} (hj : j < 32) :
    (g.active &&& ~~~(g.readP d.toNat)).getLsbD j = (g.active.getLsbD j && !(g.readP d.toNat).getLsbD j) := by
  rw [BitVec.getLsbD_and, BitVec.getLsbD_not, decide_eq_true hj, Bool.true_and]

theorem asrtOp_of_holds {d b : BitVec 8} (m : Cells) (w : Iss) {c : Cpu}
    (h : ∀ j < 32, c.grp.active.getLsbD j = true → (c.grp.readP d.toNat).getLsbD j = true) : asrtOp d b m w c = c.retire w c.grp := by
  have hnil : lanesOf (c.grp.active &&& ~~~(c.grp.readP d.toNat)) = [] := by
    rw [List.eq_nil_iff_forall_not_mem]
    intro j hj
    obtain ⟨hlt, hset⟩ := (mem_lanesOf _ j).1 hj
    rw [failing_getLsbD _ _ hlt, Bool.and_eq_true, Bool.not_eq_true'] at hset
    rw [h j hlt hset.1] at hset
    exact absurd hset.2 (by decide)
  simp only [asrtOp, hnil]

theorem asrtOp_of_fails {d b : BitVec 8} (m : Cells) (w : Iss) {c : Cpu} {lane : Nat} (hlt : lane < 32)
    (hactive : c.grp.active.getLsbD lane = true) (hfails : (c.grp.readP d.toNat).getLsbD lane = false)
    (hlow : ∀ j < lane, c.grp.active.getLsbD j = true → (c.grp.readP d.toNat).getLsbD j = true) :
    asrtOp d b m w c = c.stop c.grp ⟨.asrt, c.grp.stamp, c.grp.pc, 0, lane, c.grp.readKK b⟩ := by
  obtain ⟨l, hl⟩ := lanesOf_head (x := c.grp.active &&& ~~~(c.grp.readP d.toNat)) hlt
    (by rw [failing_getLsbD _ _ hlt, hactive, hfails]; rfl)
    (fun j hj => by
      rw [failing_getLsbD _ _ (hj.trans hlt), Bool.and_eq_false_imp]
      exact fun ha => by rw [hlow j hj ha]; rfl)
  simp only [asrtOp, hl]

/-- Settles O23: each word is a retirement or a stop, and `asrt` stops at the first of the failing lanes. -/
theorem assertBreakHalt : Obligations.AssertBreakHalt := by
  unfold Obligations.AssertBreakHalt
  intro d b n a s g
  refine ⟨fun hi => ⟨_, issue_of_issues hi rfl, fun hholds => ?_, fun lane hlt hactive hfails hlow => ?_⟩, ?_, fun hi hsys => ?_⟩
  · rw [asrtOp_of_holds _ _ hholds]
    exact did_retire (SameGroup.refl g) rfl rfl
  · rw [asrtOp_of_fails _ _ hlt hactive hfails hlow]
    exact stopsAt_stop g _
  · refine ⟨_, issue_of_issues (i := .brkp n) ⟨rfl, fun _ => rfl⟩ rfl, ?_⟩
    unfold brkpOp
    split
    · exact stopsAt_stop (g.after (.brkp n) (g.pc + 4)) _
    · exact did_retire (SameGroup.refl g) rfl rfl
  · exact ⟨_, issue_of_issues hi (sysPre_of_sys hsys), stopsAt_stop (g.after (.halt a) (g.pc + 4)) _⟩

end Sys2Proof.Machine


/-! SUPPORT. The refutations of O25 and O45: a translation change that a group waits for changes the group, and what a step changes of a saved
group goes into its image, where a translation mark is logged (R287, R308), in an absent context too. -/

namespace Sys2Proof.Machine

/-! ### A stray turn of an `objw` (R285, R287) -/

/-- A deferred write of an absent context: of the value 1 to the dword at PA 10080H. -/
def strayChangeEntry : Entry := ⟨⟨100, 0⟩, 64, .system, .objw 0x10080 1, 0, 0, 0⟩

/-- A pre-empted group that waits for that turn. -/
def strayChanger : Group := { strayGroup with status := .turn ⟨none, none, false, 0, 64, 4⟩ }

/-- `strayTurn` with the `objw` in the queue: the context is absent, and the group's image has a marked line. -/
def strayChange : State := { strayTurn with cpu := { strayTurn.cpu with
  ctx := { strayTurn.cpu.ctx with groups := [strayChanger], queue := [strayChangeEntry] } } }

theorem strayChange_noneSaved : NoneSaved strayChange := fun x hx => by
  rw [State.contexts_of_absent rfl] at hx
  exact absurd hx List.not_mem_nil

theorem strayChange_atTurn : AtTurn strayChange strayChangeEntry := by unfold AtTurn; decide +kernel

theorem strayChange_performable :
    performable strayChange.cpu.hw strayChange.cpu.ctx strayChange.cpu.groups strayChangeEntry = true := by decide +kernel

theorem strayChange_logs : (turnStep strayChangeEntry.stamp.gid strayChange).cpu.hw.log ≠ strayChange.cpu.hw.log := by decide +kernel

/-- Refutes O25 by `strayChange`, in the clause of TURN_PERFORM: an absent context is none of the module's contexts, so that `NoneSaved` holds
whatever its groups are, and the statement has the log as it was but for a race; no dword of the leg has been written, but the turn changes a
pre-empted group, and the write to its image meets a marked line, which is logged. -/
theorem not_translationWrites : ¬ Obligations.TranslationWrites := by
  unfold Obligations.TranslationWrites
  rintro ⟨-, hturn⟩
  obtain ⟨t, _, hexec, -, -, hkept, -⟩ := hturn strayChange strayChangeEntry 0x10080 1 rfl strayChange_atTurn strayChange_performable
  obtain rfl : turnStep strayChangeEntry.stamp.gid strayChange = t := by
    rw [exec_turnPerform] at hexec
    exact Host.Outcome.next.inj hexec
  obtain ⟨-, hhw⟩ := hkept strayChange_noneSaved
  exact strayChange_logs (congrArg Module.log hhw)

/-! ### A stray service write (R285, R287) -/

/-- A pre-empted group whose `objw` is a service write. -/
def strayServed : Group := { strayGroup with status := .service }

/-- `strayTurn` with that group in hand, and its service write, whose invalidations are acknowledged. -/
def strayService : State := { strayTurn with cpu := { strayTurn.cpu with
  grp := strayServed
  ctx := { strayTurn.cpu.ctx with groups := [], queue := [], svc := [⟨0x10080, 1, some 0, .invalidating, []⟩] } } }

theorem strayService_noneSaved : NoneSaved strayService := fun x hx => by
  rw [State.contexts_of_absent rfl] at hx
  exact absurd hx List.not_mem_nil

theorem exec_translationChangeComplete (n : Nat) (s : State) :
    exec (.translationChangeComplete n) s = .next (deliverHeld (s.keepSaved (svcComplete n))) := by rfl

theorem strayService_logs : (deliverHeld (strayService.keepSaved (svcComplete 0))).cpu.hw.log ≠ strayService.cpu.hw.log := by decide +kernel

/-- Refutes O45 by `strayService`, in the clause of TRANSLATION_CHANGE_COMPLETE: an absent context is none of the module's contexts, so that
`NoneSaved` holds whatever its groups are, and the statement has the module as it was; but the change lets a pre-empted group go on, and the
write to its image meets a marked line, which is logged. -/
theorem not_translationSteps : ¬ Obligations.TranslationSteps := by
  unfold Obligations.TranslationSteps
  intro h
  obtain ⟨-, -, hcomplete, -⟩ := h 0 0 0 0 ⟨0x10080, 1, some 0, .invalidating, []⟩ strayService
  obtain ⟨t, hexec, hhw, -⟩ := hcomplete rfl rfl rfl strayService_noneSaved (fun _ h => absurd h List.not_mem_nil) (by decide)
  obtain rfl : deliverHeld (strayService.keepSaved (svcComplete 0)) = t := by
    rw [exec_translationChangeComplete] at hexec
    exact Host.Outcome.next.inj hexec
  exact strayService_logs (congrArg Module.log hhw)

end Sys2Proof.Machine


/-! SUPPORT. What a step makes of groups and leaves of the contexts: where none is saved, no image is written (R307, R308). -/

namespace Sys2Proof.Machine

/-! ### Changes of groups that leave each where it is -/

/-- Two groups with the same gid, alike in whether pre-emption has taken them and whether a group stands there at all. -/
structure SamePlace (g h : Group) : Prop where
  gid : h.gid = g.gid
  preempted : h.preempted = g.preempted
  absent : h.status = .absent ↔ g.status = .absent

theorem SamePlace.refl (g : Group) : SamePlace g g := ⟨rfl, rfl, Iff.rfl⟩

theorem SamePlace.trans {g h k : Group} (a : SamePlace g h) (b : SamePlace h k) : SamePlace g k :=
  ⟨b.gid.trans a.gid, b.preempted.trans a.preempted, b.absent.trans a.absent⟩

/-- A change of groups that leaves each in its place. -/
def KeepsPlace (f : Group → Group) : Prop := ∀ g, SamePlace g (f g)

theorem KeepsPlace.id : KeepsPlace id := SamePlace.refl

/-- A change of one group alone. -/
theorem KeepsPlace.onGid {f : Group → Group} (hf : KeepsPlace f) (n : Nat) : KeepsPlace fun g => if g.gid = n then f g else g := fun g => by
  dsimp only
  split
  · exact hf g
  · exact SamePlace.refl g

theorem putGroup_map {f : Group → Group} (hf : KeepsPlace f) (l : List Group) (g : Group) :
    putGroup (l.map f) (f g) = (putGroup l g).map f := by
  induction l with
  | nil => rfl
  | cons h t ih =>
    simp only [List.map_cons, putGroup, (hf _).gid, ih]
    split
    · rfl
    · split <;> rfl

/-- The group in hand is the first of its gid. -/
theorem find?_putGroup (l : List Group) (g : Group) : (putGroup l g).find? (fun h => h.gid == g.gid) = some g := by
  induction l with
  | nil => simp [putGroup]
  | cons h t ih =>
    unfold putGroup
    split
    · simp
    · split
      · simp
      · next hne => simp [hne, ih]

theorem Cpu.find_self {c : Cpu} (h : c.grp.status ≠ .absent) : c.find c.grp.gid = some c.grp := by
  rw [Cpu.find, Cpu.groups_of_present h, find?_putGroup]

@[simp] theorem Cpu.mapGroups_ctx (f : Group → Group) (c : Cpu) : (c.mapGroups f).ctx = { c.ctx with groups := c.ctx.groups.map f } := rfl
@[simp] theorem Cpu.mapGroups_hw (f : Group → Group) (c : Cpu) : (c.mapGroups f).hw = c.hw := rfl

theorem Cpu.mapGroups_grp (f : Group → Group) {c : Cpu} (h : c.grp.status ≠ .absent) : (c.mapGroups f).grp = f c.grp := if_neg h

theorem Cpu.mapGroups_id (c : Cpu) : c.mapGroups id = c := by
  unfold Cpu.mapGroups
  simp

theorem Cpu.groups_mapGroups {f : Group → Group} (hf : KeepsPlace f) (c : Cpu) : (c.mapGroups f).groups = c.groups.map f := by
  by_cases h : c.grp.status = .absent
  · rw [Cpu.groups_of_absent h, Cpu.groups_of_absent (by simp [Cpu.mapGroups, h])]
    rfl
  · have hf' : (c.mapGroups f).grp.status ≠ .absent := by
      rw [Cpu.mapGroups_grp f h]
      exact mt (hf _).absent.1 h
    rw [Cpu.groups_of_present h, Cpu.groups_of_present hf', Cpu.mapGroups_grp f h]
    exact putGroup_map hf _ _

/-! ### Contexts with nothing saved -/

theorem Cpu.park_ctx (c : Cpu) : c.park.ctx = { c.ctx with groups := c.groups } := by
  unfold Cpu.groups Cpu.park
  split <;> rfl

theorem NoneSaved.others {s : State} (h : NoneSaved s) : ∀ x ∈ s.others, AllIn x := fun x hx => h x (by
  unfold State.contexts
  split
  · exact hx
  · exact List.mem_cons_of_mem _ hx)

theorem AllIn.map {x y : Ctx} {f : Group → Group} (h : AllIn x) (hf : KeepsPlace f) (hgroups : y.groups = x.groups.map f)
    (hblocks : y.blocks = x.blocks) (hstatus : y.status = x.status) (himaged : y.imaged = x.imaged) : AllIn y where
  groups g hg := by
    rw [hgroups] at hg
    obtain ⟨g', hg', rfl⟩ := List.mem_map.1 hg
    rw [(hf g').preempted]
    exact h.groups g' hg'
  blocks := hblocks ▸ h.blocks
  here := by rw [hstatus, himaged]; exact h.here

/-- A step that changes the groups of the context in hand, each in its place, and of the contexts nothing else that their images hold. -/
theorem NoneSaved.step {s t : State} {f : Group → Group} (h : NoneSaved s) (hf : KeepsPlace f) (hgrp : t.cpu.grp = (s.cpu.mapGroups f).grp)
    (hgroups : t.cpu.ctx.groups = s.cpu.ctx.groups.map f) (hblocks : t.cpu.ctx.blocks = s.cpu.ctx.blocks)
    (hstatus : t.cpu.ctx.status = s.cpu.ctx.status) (himaged : t.cpu.ctx.imaged = s.cpu.ctx.imaged) (hothers : ∀ x ∈ t.others, AllIn x) :
    NoneSaved t := by
  by_cases hx : s.cpu.ctx.status = .absent
  · rw [NoneSaved, State.contexts_of_absent (hstatus.trans hx)]
    exact hothers
  · rw [NoneSaved, State.contexts_of_present (hstatus ▸ hx)]
    have hpark := h s.cpu.park.ctx (by simp [State.contexts_of_present hx])
    have htgroups : t.cpu.groups = s.cpu.groups.map f := by
      rw [← Cpu.groups_mapGroups hf]
      unfold Cpu.groups Cpu.park
      rw [hgrp, Cpu.mapGroups_ctx, ← hgroups]
      split <;> rfl
    refine List.forall_mem_cons.2 ⟨hpark.map hf ?_ ?_ ?_ ?_, hothers⟩
    · rw [Cpu.park_ctx, Cpu.park_ctx]; exact htgroups
    all_goals rw [Cpu.park_ctx, Cpu.park_ctx]; assumption

/-- A step that leaves the groups as they are. -/
theorem NoneSaved.same {s t : State} (h : NoneSaved s) (hgrp : t.cpu.grp = s.cpu.grp) (hgroups : t.cpu.ctx.groups = s.cpu.ctx.groups)
    (hblocks : t.cpu.ctx.blocks = s.cpu.ctx.blocks) (hstatus : t.cpu.ctx.status = s.cpu.ctx.status)
    (himaged : t.cpu.ctx.imaged = s.cpu.ctx.imaged) (hothers : t.others = s.others) : NoneSaved t :=
  h.step KeepsPlace.id (by rw [Cpu.mapGroups_id, hgrp]) (by rw [List.map_id, hgroups]) hblocks hstatus himaged (hothers ▸ h.others)

theorem NoneSaved.onHw {s : State} (h : NoneSaved s) (f : Module → Module) : NoneSaved (s.onHw f) := h.same rfl rfl rfl rfl rfl rfl

theorem NoneSaved.mapGroups {s : State} (h : NoneSaved s) {f : Group → Group} (hf : KeepsPlace f) :
    NoneSaved (s.onCpu (Cpu.mapGroups f)) := h.step hf rfl rfl rfl rfl rfl h.others

theorem NoneSaved.mapAll {s : State} (h : NoneSaved s) {f : Nat → Group → Group} (hf : ∀ n, KeepsPlace (f n)) : NoneSaved (s.mapAll f) :=
  h.step (hf s.cpu.ctx.key) rfl rfl rfl rfl rfl fun x hx => by
    obtain ⟨y, hy, rfl⟩ := List.mem_map.1 hx
    exact (h.others y hy).map (hf y.key) rfl rfl rfl rfl

/-! ### Nothing goes into an image -/

theorem isSaved_eq_false {x : Ctx} {g : Group} (h : AllIn x) (hg : g ∈ x.groups) : isSaved x g = false := by
  have hout : (isOut x && x.imaged) = false := by
    rw [Bool.and_eq_false_imp]
    intro ho
    exact h.here (by simpa [isOut] using ho)
  rw [isSaved, h.groups g hg, hout]
  simp

theorem savedBlock_eq_false {x : Ctx} {b : Block} (h : AllIn x) (hb : b ∈ x.blocks) : (b.preempted || (isOut x && x.imaged)) = false := by
  rw [h.blocks b hb, Bool.false_or, Bool.and_eq_false_imp]
  intro ho
  exact h.here (by simpa [isOut] using ho)

theorem filter_saved_groups {x : Ctx} (h : AllIn x) (olds : List Group) :
    x.groups.filter (fun g => isSaved x g && !decide (g ∈ olds)) = [] :=
  List.filter_eq_nil_iff.2 fun g hg => by rw [isSaved_eq_false h hg]; simp

theorem filter_saved_blocks {x : Ctx} (h : AllIn x) (olds : List Block) :
    x.blocks.filter (fun b => (b.preempted || (isOut x && x.imaged)) && !decide (b ∈ olds)) = [] :=
  List.filter_eq_nil_iff.2 fun b hb => by rw [savedBlock_eq_false h hb]; simp

theorem saveImages_nil (h : Module) (x : Ctx) (all : List Group) (m : Cells) : saveImages h x all [] m = m := by
  unfold saveImages
  split <;> rfl

theorem resave_of_allIn {x : Ctx} (h : AllIn x) (hw : Module) (old : Ctx) (olds : List Group) (m : Cells) :
    resave hw old x olds x.groups m = m := by
  unfold resave
  rw [filter_saved_groups h, filter_saved_blocks h]
  exact saveImages_nil _ _ _ _

theorem lostImages_nil (h : Module) (x : Ctx) (m : Cells) : lostImages h x [] m = [] := by
  unfold lostImages
  split
  · rfl
  · split <;> rfl

theorem lostShares_nil (h : Module) (x : Ctx) : lostShares h x [] = [] := List.filter_eq_nil_iff.2 fun _ _ => by simp

theorem resaveLost_of_allIn {x : Ctx} (h : AllIn x) (hw : Module) (old : Ctx) (olds : List Group) (m : Cells) :
    resaveLost hw old x olds x.groups m = [] := by
  unfold resaveLost
  rw [filter_saved_groups h, filter_saved_blocks h, lostImages_nil, lostShares_nil]
  split <;> rfl

theorem foldl_of_fixed {α β : Type} {f : β → α → β} {l : List α} (h : ∀ x ∈ l, ∀ b, f b x = b) (b : β) : l.foldl f b = b := by
  induction l with
  | nil => rfl
  | cons x l ih =>
    rw [List.foldl_cons, h x List.mem_cons_self]
    exact ih fun y hy => h y (List.mem_cons_of_mem _ hy)

/-- A step after which no group and no block is saved writes nothing into images, and logs nothing of them. -/
theorem State.keepAll_of_noneSaved {f : State → State} {s : State} (h : NoneSaved (f s)) : s.keepAll f = f s := by
  have hmem : (f s).contexts.foldl (fun m x => match s.contexts.find? fun o => o.number == x.number && o.dpart == x.dpart with
      | some o => resave (f s).cpu.hw o x o.groups x.groups m
      | none => m) (f s).mem = (f s).mem := foldl_of_fixed (fun x hx m => by
    split
    · exact resave_of_allIn (h x hx) _ _ _ _
    · rfl) _
  have hhw : (f s).contexts.foldl (fun k x => match s.contexts.find? fun o => o.number == x.number && o.dpart == x.dpart with
      | some o => logLost (ctxId x) (resaveLost k o x o.groups x.groups (f s).mem) k
      | none => k) (f s).cpu.hw = (f s).cpu.hw := foldl_of_fixed (fun x hx k => by
    split
    · rw [resaveLost_of_allIn (h x hx)]; rfl
    · rfl) _
  exact congrArg₂ (fun m k => { f s with mem := m, cpu := { (f s).cpu with hw := k } }) hmem hhw

end Sys2Proof.Machine


/-! SUPPORT. Packets at their destination: one whose number is fresh is applied (R338), an answer frees the packet that it answers and ends the
wait for it (R347, R352), and a wake fires the waits that it names (R87). -/

namespace Sys2Proof.Machine

/-! ### A packet with a fresh number (R338) -/

theorem arrivalOf_fresh {h : Module} {p : Packet} (hf : FreshPk h p) : arrivalOf (windowOf h p.src) p.seq = .fresh := by
  obtain ⟨hahead, hgot⟩ := hf
  unfold arrivalOf
  exact (if_pos hahead).trans (if_neg hgot)

theorem thisLeg_of_here {p : Packet} {s : State} (hx : s.cpu.ctx.status ≠ .absent) (hk : s.cpu.ctx.key = p.ctx)
    (hleg : ∀ y ∈ s.contexts, y.key = p.ctx → y.leg % 65536 = p.leg) : thisLeg p s = true := by
  have hmem : s.cpu.park.ctx ∈ s.contexts := by simp [State.contexts_of_present hx]
  have hkey : s.cpu.park.ctx.key = p.ctx := by simpa using hk
  exact List.any_eq_true.2 ⟨_, hmem, by simp [hkey, hleg _ hmem hkey]⟩

section
variable {again : Module → Module} {apply : State → State × Bool} {p : Packet} {s u : State} (hdst : p.dst = s.cpu.hw.number)
  (hfresh : FreshPk s.cpu.hw p) (hleg : thisLeg p s = true) (hsaved : NoneSaved u)
include hdst hfresh hleg hsaved

theorem receive_applied (happly : apply s = (u, true)) : receive again apply p s = u.onHw (countReceived p.ctx p.leg p.src p.seq) := by
  have hkeep : s.keepAll (fun s => (apply s).1) = u := by
    rw [State.keepAll_of_noneSaved] <;> rw [happly]
    exact hsaved
  unfold receive
  rw [if_neg (not_not.2 hdst), arrivalOf_fresh hfresh]
  simp only [hleg, Bool.not_true, Bool.false_eq_true, if_false, hkeep, happly, if_true]

/-- One that cannot be applied yet is held. -/
theorem receive_held (happly : apply s = (u, false)) :
    receive again apply p s = u.onHw fun h => { h with held := insertNew h.held p } := by
  have hkeep : s.keepAll (fun s => (apply s).1) = u := by
    rw [State.keepAll_of_noneSaved] <;> rw [happly]
    exact hsaved
  unfold receive
  rw [if_neg (not_not.2 hdst), arrivalOf_fresh hfresh]
  simp only [hleg, Bool.not_true, Bool.false_eq_true, if_false, hkeep, happly]

end

/-! ### The packets that an answer frees -/

/-- The module k is h but for packets that have left the retry buffer, kept answers that are forgotten, and what has been sent. -/
structure Frees (h k : Module) : Prop where
  rest : k = { h with retry := k.retry, results := k.results, outbox := k.outbox }
  retry : ∀ q ∈ k.retry, q ∈ h.retry

theorem Frees.refl (h : Module) : Frees h h := ⟨rfl, fun _ hq => hq⟩

theorem Frees.trans {h k l : Module} (a : Frees h k) (b : Frees k l) : Frees h l :=
  ⟨by rw [b.rest, a.rest], fun q hq => a.retry q (b.retry q hq)⟩

theorem freeRetry_frees (dst n : Nat) (h : Module) : Frees h (freeRetry dst n h) := ⟨rfl, fun _ hq => (List.mem_filter.1 hq).1⟩

theorem freeRetry_settled (dst n : Nat) (h : Module) : Settled dst n (freeRetry dst n h) := fun q hq hk => by
  have hout := (List.mem_filter.1 hq).2
  simp [hk] at hout

theorem forwardAck_frees (dst : Nat) (p : Packet) (h : Module) : Frees h (forwardAck dst p h) := by
  unfold forwardAck
  split
  · next parts via _ _ =>
    generalize parts ++ via = l
    induction l generalizing h with
    | nil => exact Frees.refl h
    | cons q l ih =>
      refine Frees.trans ?_ (ih _)
      dsimp only
      split
      · exact freeRetry_frees dst q.2 h
      · exact ⟨rfl, fun _ hq => hq⟩
  · exact Frees.refl h

/-- The module once packet n of this module to dst is answered (R338, R345). -/
def answeredHw (dst n : Nat) (h : Module) : Module :=
  match h.retry.find? fun p => p.dst == dst && p.seq == n with
  | some p => forwardAck dst p (freeRetry dst n h)
  | none => freeRetry dst n h

theorem answeredHw_frees (dst n : Nat) (h : Module) : Frees h (answeredHw dst n h) := by
  unfold answeredHw
  split
  · exact (freeRetry_frees dst n h).trans (forwardAck_frees dst _ _)
  · exact freeRetry_frees dst n h

theorem answeredHw_settled (dst n : Nat) (h : Module) : Settled dst n (answeredHw dst n h) := by
  unfold answeredHw
  split
  · exact fun q hq => freeRetry_settled dst n h q ((forwardAck_frees dst _ _).retry q hq)
  · exact freeRetry_settled dst n h

theorem settleRetry_eq (dst n : Nat) (s : State) :
    settleRetry dst n s =
      ((s.onHw (answeredHw dst n)).mapAll fun _ g => answered n dst g).mapAll (fenceStep (answeredHw dst n s.cpu.hw)) := by rfl

theorem answered_keepsPlace (n module : Nat) : KeepsPlace (answered n module) := fun g => by
  unfold answered
  split
  · next h => split <;> exact ⟨rfl, rfl, by simp [h]⟩
  · exact SamePlace.refl g

theorem fenceStep_keepsPlace (h : Module) (ctx : Nat) : KeepsPlace (fenceStep h ctx) := fun g => by
  unfold fenceStep
  split
  · next hs =>
    split
    · exact ⟨rfl, rfl, by simp [Group.fenceDone, hs]⟩
    · exact SamePlace.refl g
  · exact SamePlace.refl g

theorem NoneSaved.settleRetry {s : State} (h : NoneSaved s) (dst n : Nat) : NoneSaved (settleRetry dst n s) :=
  ((h.onHw _).mapAll fun _ => answered_keepsPlace n dst).mapAll (fenceStep_keepsPlace _)

theorem settleRetry_hw (dst n : Nat) (s : State) : (settleRetry dst n s).cpu.hw = answeredHw dst n s.cpu.hw := by
  rw [settleRetry_eq]
  rfl

theorem settleRetry_grp {dst n : Nat} {s : State} (h : s.cpu.grp.status ≠ .absent) :
    (settleRetry dst n s).cpu.grp = fenceStep (answeredHw dst n s.cpu.hw) s.cpu.ctx.key (answered n dst s.cpu.grp) := by
  have hanswered : (((s.onHw (answeredHw dst n)).mapAll fun _ g => answered n dst g).cpu).grp = answered n dst s.cpu.grp :=
    Cpu.mapGroups_grp (c := (s.onHw (answeredHw dst n)).cpu) _ h
  rw [settleRetry_eq]
  refine (Cpu.mapGroups_grp _ ?_).trans (congrArg _ hanswered)
  rw [hanswered]
  exact mt (answered_keepsPlace n dst _).absent.1 h

/-- A group that waits for none of this is as it was. -/
theorem settleRetry_grp_same {dst n : Nat} {s : State} (h : s.cpu.grp.status ≠ .absent) (hremote : ∀ q, s.cpu.grp.status ≠ .remote q)
    (hfence : s.cpu.grp.status ≠ .fence) : (settleRetry dst n s).cpu.grp = s.cpu.grp := by
  have hanswered : answered n dst s.cpu.grp = s.cpu.grp := by
    unfold answered
    split
    · next asked hs => exact absurd hs (hremote asked)
    · rfl
  rw [settleRetry_grp h, hanswered]
  unfold fenceStep
  split
  · next hs => exact absurd hs hfence
  · rfl

/-- The end of an answer's arrival: the packet that it answers is free, the answer is acknowledged, and counts as received. -/
def answerTaken (p : Packet) (n : Nat) (s : State) : State :=
  ((settleRetry p.src n s).onHw (ackPacket p)).onHw (countReceived p.ctx p.leg p.src p.seq)

theorem answerTaken_hw (p : Packet) (n : Nat) (s : State) :
    (answerTaken p n s).cpu.hw = countReceived p.ctx p.leg p.src p.seq (ackPacket p (answeredHw p.src n s.cpu.hw)) := by
  rw [← settleRetry_hw]
  rfl

theorem answerTaken_settled (p : Packet) (n : Nat) (s : State) : Settled p.src n (answerTaken p n s).cpu.hw := by
  rw [answerTaken_hw]
  exact answeredHw_settled p.src n s.cpu.hw

theorem ackOf_mem_ackPacket (p : Packet) (h : Module) : ackOf h p ∈ (ackPacket p h).outbox := List.mem_append_right _ (List.mem_singleton.2 rfl)

theorem answerTaken_acks (p : Packet) (n : Nat) (s : State) : ackOf s.cpu.hw p ∈ (answerTaken p n s).cpu.hw.outbox := by
  have hnumber : (answeredHw p.src n s.cpu.hw).number = s.cpu.hw.number := (congrArg Module.number (answeredHw_frees _ _ _).rest :)
  have hack := ackOf_mem_ackPacket p (answeredHw p.src n s.cpu.hw)
  rw [ackOf, hnumber] at hack
  rw [answerTaken_hw]
  exact hack

theorem answerTaken_held (p : Packet) (n : Nat) (s : State) : (answerTaken p n s).cpu.hw.held = s.cpu.hw.held := by
  rw [answerTaken_hw]
  exact (congrArg Module.held (answeredHw_frees p.src n s.cpu.hw).rest :)

/-! ### Wakes (R87) -/

theorem fireWait_keepsPlace (P : Group → Wait → Bool) (f : Stamp) : KeepsPlace (fireWait P f) := fun g => by
  unfold fireWait
  split
  · next h =>
    split
    · exact ⟨rfl, rfl, by simp [h]⟩
    · exact SamePlace.refl g
  · exact SamePlace.refl g

theorem fireWait_of_ceded {P : Group → Wait → Bool} {f : Stamp} {g : Group} {w : Nat} {wait : Wait} (h : g.status = .ceded w wait none) :
    fireWait P f g = if P g wait then { g with status := .ceded w wait (some f) } else g := by
  unfold fireWait
  rw [h]

theorem fireWait_of_not_ceded {P : Group → Wait → Bool} {f : Stamp} {g : Group} (h : ∀ w wait, g.status ≠ .ceded w wait none) :
    fireWait P f g = g := by
  unfold fireWait
  split
  · next w wait hs => exact absurd hs (h w wait)
  · rfl

/-- d is c after the waits that a test admits have fired: beside groups, watches have ended, and packets are sent. -/
structure Woke (P : Group → Wait → Bool) (f : Stamp) (c d : Cpu) : Prop where
  grp : d.grp = (c.mapGroups (fireWait P f)).grp
  groups : d.ctx.groups = c.ctx.groups.map (fireWait P f)
  ctx : d.ctx = { c.ctx with groups := d.ctx.groups, watchers := d.ctx.watchers }
  hw : d.hw = sentHw c.hw d.hw

theorem NoneSaved.woke {s t : State} (h : NoneSaved s) {P : Group → Wait → Bool} {f : Stamp} (hw : Woke P f s.cpu t.cpu)
    (hothers : t.others = s.others) : NoneSaved t :=
  h.step (fireWait_keepsPlace P f) hw.grp hw.groups (congrArg Ctx.blocks hw.ctx :) (congrArg Ctx.status hw.ctx :)
    (congrArg Ctx.imaged hw.ctx :) (hothers ▸ h.others)

/-- Packets sent one after another change nothing but what the module has sent. -/
theorem foldl_send {α : Type} (typ : Nat) (dst : α → Nat) (body : α → PBody) (l : List α) (c : Cpu) :
    let d := l.foldl (fun c a => c.send typ (dst a) (body a)) c
    d.grp = c.grp ∧ d.ctx = c.ctx ∧ d.hw = sentHw c.hw d.hw := by
  induction l generalizing c with
  | nil => exact ⟨rfl, rfl, rfl⟩
  | cons a l ih =>
    obtain ⟨hgrp, hctx, hhw⟩ := ih (c.send typ (dst a) (body a))
    exact ⟨hgrp, hctx, hhw.trans rfl⟩

/-- The waits on lines of memory that a write of these lines ends. -/
def onLines (lines : List Nat) (_ : Group) : Wait → Bool
  | .line sc a => sc != .block && decide (lineOf a ∈ lines)
  | _ => false

theorem wakeLines_woke (c : Cpu) (f : Stamp) (lines : List Nat) : Woke (onLines lines) f c (c.wakeLines f lines) := by
  obtain ⟨hgrp, hctx, hhw⟩ := foldl_send (α := Watcher) 5 (fun w => w.module) (fun w => .wake w.gid w.line w.since f)
    (c.ctx.watchers.filter fun w => decide (w.line ∈ lines))
    { c.mapGroups (fireWait (onLines lines) f) with
      ctx := { (c.mapGroups (fireWait (onLines lines) f)).ctx with watchers := c.ctx.watchers.filter fun w => !decide (w.line ∈ lines) } }
  exact ⟨hgrp, congrArg Ctx.groups hctx, hctx.trans (by rw [show (c.wakeLines f lines).ctx = _ from hctx]; rfl), hhw⟩

/-- A release that has performed wakes at most the waits that some test admits. -/
theorem wakeReleased_woke (m : Cells) (c : Cpu) (f : Stamp) (ls : List Nat) : ∃ P, Woke P f c (c.wakeReleased m f ls) := by
  have hhere : ∃ P, Woke P f c (if (linesHere m c ls).isEmpty then c else c.wakeLines f (linesHere m c ls)) := by
    split
    · have hid : fireWait (fun _ _ => false) f = id := by
        funext g
        unfold fireWait
        split <;> rfl
      exact ⟨fun _ _ => false, by rw [hid, Cpu.mapGroups_id], by rw [hid, List.map_id], rfl, rfl⟩
    · exact ⟨_, wakeLines_woke c f _⟩
  unfold Cpu.wakeReleased
  dsimp only
  generalize (if (linesHere m c ls).isEmpty then c else c.wakeLines f (linesHere m c ls)) = c' at hhere ⊢
  obtain ⟨P, hP⟩ := hhere
  obtain ⟨hgrp, hctx, hhw⟩ := foldl_send (α := Nat × List Nat) 5 (fun p => p.1) (fun p => .performed f p.2) (linesAway m c' ls) c'
  exact ⟨P, hgrp.trans hP.grp, (congrArg Ctx.groups hctx).trans hP.groups, by rw [hctx]; exact hP.ctx, hhw.trans (by rw [hP.hw]; rfl)⟩

end Sys2Proof.Machine


/-! SUPPORT. Answers of other modules (R335, R340): a read response, the result of a turn, and the wakes of R87; what each makes of the group
in hand. -/

namespace Sys2Proof.Machine

/-! ### What the result of a turn makes of its group (R81, R182) -/

theorem Group.writeLanes_rest (g : Group) (wide : Bool) (n : BitVec 8) (mask : Word) (x : Vector Dword 32) :
    g.writeLanes wide n mask x = { g with main := (g.writeLanes wide n mask x).main, win := (g.writeLanes wide n mask x).win } := by
  unfold Group.writeLanes Group.writeV
  split
  · rw [Group.onBank_rest (g.onBank _), Group.onBank_rest g]
  · exact Group.onBank_rest g _

theorem Group.writeK_rest (g : Group) (n : BitVec 8) (x : Word) :
    g.writeK n x = { g with main := (g.writeK n x).main, win := (g.writeK n x).win } := by
  unfold Group.writeK
  split
  · exact Group.onBank_rest g _
  · rfl

/-- The group after its turn, but for its registers. -/
theorem turnDone_rest (t : TurnWait) (val : Dword) (g : Group) : turnDone t val g = { g with
    main := (turnDone t val g).main, win := (turnDone t val g).win, pc := g.pc + BitVec.ofNat 64 t.len, lc := g.lc + t.weight, cmask := 0
    fills := [], status := .running } := by
  unfold turnDone
  cases t.vdst <;> cases t.kdst <;> dsimp only
  · rw [Group.writeK_rest]
  · rw [Group.writeLanes_rest]
  · rw [Group.writeK_rest, Group.writeLanes_rest]

theorem turnDone_samePlace {t : TurnWait} {g : Group} (val : Dword) (h : g.status ≠ .absent) : SamePlace g (turnDone t val g) := by
  rw [turnDone_rest]
  exact ⟨rfl, rfl, by simp [h]⟩

theorem turnGroup_keepsPlace (e : Entry) (ok : Bool) (val : Dword) : KeepsPlace (turnGroup e ok val) := fun g => by
  unfold turnGroup
  generalize hg1 : (if opReleases e.op then { g with sketch := [] } else g) = g1
  have hplace : SamePlace g g1 := by
    subst hg1
    split
    · exact ⟨rfl, rfl, Iff.rfl⟩
    · exact SamePlace.refl g
  refine hplace.trans ?_
  dsimp only
  split
  · next t op _ _ _ _ _ _ hs _ =>
    split
    · exact ⟨rfl, rfl, by simp [hs]⟩
    · have hne : g1.status ≠ .absent := by simp [hs]
      split
      · exact SamePlace.trans (h := { g1 with view := some (e.stamp, e.scope) }) ⟨rfl, rfl, Iff.rfl⟩ (turnDone_samePlace val hne)
      · exact turnDone_samePlace val hne
  · next hs _ => exact turnDone_samePlace val (by simp [hs])
  · exact SamePlace.refl g1

/-- The group goes on with the value in its registers; its sketch and its view may have changed at the turn. -/
theorem turnDone_goesOn {g : Group} {w : TurnWait} (sk : List (Nat × Cells)) (v : Option (Stamp × Scope)) (val : Dword) (h : Takes g w) :
    GoesOn w val.toNat g (turnDone w val { g with sketch := sk, view := v }) := by
  obtain ⟨hdst, hk⟩ := h
  have hretired : Retired w.weight (g.pc + BitVec.ofNat 64 w.len) g (turnDone w val { g with sketch := sk, view := v }) := by
    rw [turnDone_rest]
    exact ⟨rfl, rfl, rfl, rfl⟩
  have hskip : ∀ k : Group, SameGroup [] k
      { k with pc := k.pc + BitVec.ofNat 64 w.len, lc := k.lc + w.weight, cmask := 0, fills := [], status := .running } := fun k =>
    ⟨⟨fun _ _ _ => rfl, fun _ _ _ _ => rfl, fun _ _ => rfl, fun _ _ => rfl, fun _ _ => rfl, fun _ => rfl, fun _ => rfl, fun _ => rfl,
      fun _ => rfl⟩, by split <;> rfl, rfl⟩
  refine ⟨hretired, ?_⟩
  cases hv : w.vdst with
  | none =>
    simp only [turnDone, hv, hk]
    exact hskip { g with sketch := sk, view := v }
  | some d =>
    obtain ⟨hwritable, hpair⟩ := hdst d hv
    have hval : Vector.replicate 32 val = Vector.ofFn fun _ : Fin 32 => BitVec.ofNat 64 val.toNat := by
      ext i hi
      simp
    simp only [turnDone, hv, hk, hval]
    let k : Group := { g with sketch := sk, view := v }
    have hsame := k.sameGroup_writeLanes w.wide w.act (Vector.ofFn fun _ : Fin 32 => BitVec.ofNat 64 val.toNat) hwritable hpair
    have hrest := k.writeLanes_rest w.wide d w.act (Vector.ofFn fun _ : Fin 32 => BitVec.ofNat 64 val.toNat)
    refine ⟨?_, k.shifted_writeLanes w.wide w.act _ hwritable hpair, k.laneResults_writeLanes w.wide w.act (fun _ => _) hwritable hpair⟩
    have hk : { g with sketch := (k.writeLanes w.wide d w.act (Vector.ofFn fun _ : Fin 32 => BitVec.ofNat 64 val.toNat)).sketch
                       view := (k.writeLanes w.wide d w.act (Vector.ofFn fun _ : Fin 32 => BitVec.ofNat 64 val.toNat)).view } = k := by
      rw [hrest]
    exact hk ▸ (hsame.trans (hskip _)).mono (by simp)

/-- A turn that does not fail its check lets its group go on (R185). -/
theorem turnGroup_goesOn {e : Entry} {ok : Bool} (val : Dword) {g : Group} {w : TurnWait} {op : AOp} {c : BitVec 4} {a : Nat} {wd sg : Bool}
    {sr k : Dword} (hop : e.op = .atomic op c a wd sg sr k) (hok : op = .waita → ok = true) (hs : g.status = .turn w) (h : Takes g w) :
    GoesOn w val.toNat g (turnGroup e ok val g) := by
  have hdone : ∃ sk v, turnGroup e ok val g = turnDone w val { g with sketch := sk, view := v } := by
    have hcheck : (decide (op = .waita) && !ok) = false := by
      rw [Bool.and_eq_false_imp]
      exact fun hw => by rw [hok (of_decide_eq_true hw)]; rfl
    have hsketch : ∃ sk, (if opReleases e.op then { g with sketch := [] } else g) = { g with sketch := sk } := by
      split
      · exact ⟨[], rfl⟩
      · exact ⟨g.sketch, rfl⟩
    obtain ⟨sk, hsk⟩ := hsketch
    unfold turnGroup
    rw [hsk]
    simp only [hs, hop, hcheck, Bool.false_eq_true, if_false]
    split
    · exact ⟨sk, _, rfl⟩
    · exact ⟨sk, g.view, rfl⟩
  obtain ⟨sk, v, heq⟩ := hdone
  rw [heq]
  exact turnDone_goesOn sk v val h

/-! ### The arrival of a result (R259, R340) -/

theorem launchAnswer_rest (e : Entry) (val : Dword) (x : Ctx) :
    launchAnswer e val x = { x with launches := (launchAnswer e val x).launches, nextOrd := (launchAnswer e val x).nextOrd } := by
  unfold launchAnswer
  split
  · split
    · split <;> rfl
    · rfl
  · rfl

/-- The processor before the wakes of the release: the entry has left its queue, a launch has joined its own, and the group goes on. -/
def resulted (e : Entry) (ok : Bool) (val : Dword) (c : Cpu) : Cpu :=
  ({ c with ctx := launchAnswer e val { c.ctx with queue := c.ctx.queue.filter fun f => f != e } } : Cpu).onGid e.stamp.gid (turnGroup e ok val)

theorem resultArrive_woke (m : Cells) (e : Entry) (ok : Bool) (val : Dword) (c : Cpu) :
    ∃ P, Woke P e.stamp (resulted e ok val c) (resultArrive m e ok val c) := wakeReleased_woke m _ _ _

theorem NoneSaved.resultArrive {s : State} (h : NoneSaved s) (m : Cells) (e : Entry) (ok : Bool) (val : Dword) :
    NoneSaved (s.onCpu (resultArrive m e ok val)) := by
  obtain ⟨P, hP⟩ := resultArrive_woke m e ok val s.cpu
  have hrest := launchAnswer_rest e val { s.cpu.ctx with queue := s.cpu.ctx.queue.filter fun f => f != e }
  have hresulted : NoneSaved (s.onCpu (resulted e ok val)) :=
    h.step ((turnGroup_keepsPlace e ok val).onGid e.stamp.gid) rfl (by exact congrArg (List.map _) (congrArg Ctx.groups hrest :))
      (congrArg Ctx.blocks hrest :) (congrArg Ctx.status hrest :) (congrArg Ctx.imaged hrest :) h.others
  exact hresulted.woke hP rfl

/-- The group in hand after the result of its own turn. -/
theorem resultArrive_grp {m : Cells} {e : Entry} {ok : Bool} {val : Dword} {c : Cpu} (hc : c.grp.status ≠ .absent)
    (hgid : e.stamp.gid = c.grp.gid) (hrun : (turnGroup e ok val c.grp).status = .running) :
    (resultArrive m e ok val c).grp = turnGroup e ok val c.grp := by
  obtain ⟨P, hP⟩ := resultArrive_woke m e ok val c
  have hgrp : (resulted e ok val c).grp = turnGroup e ok val c.grp := (Cpu.mapGroups_grp _ hc).trans (if_pos hgid.symm)
  rw [hP.grp, Cpu.mapGroups_grp _ (by rw [hgrp, hrun]; decide), hgrp]
  exact fireWait_of_not_ceded fun w wait hw => by rw [hrun] at hw; cases hw

/-- The context after a result: its groups and its watches aside, what `launchAnswer` leaves. -/
theorem resultArrive_ctx (m : Cells) (e : Entry) (ok : Bool) (val : Dword) (c : Cpu) :
    ∃ gs ws, (resultArrive m e ok val c).ctx =
      { launchAnswer e val { c.ctx with queue := c.ctx.queue.filter fun f => f != e } with groups := gs, watchers := ws } := by
  obtain ⟨P, hP⟩ := resultArrive_woke m e ok val c
  exact ⟨_, _, hP.ctx⟩

theorem resultArrive_hw (m : Cells) (e : Entry) (ok : Bool) (val : Dword) (c : Cpu) :
    (resultArrive m e ok val c).hw = sentHw c.hw (resultArrive m e ok val c).hw := by
  obtain ⟨P, hP⟩ := resultArrive_woke m e ok val c
  exact hP.hw

/-! ### The packets -/

section
variable {p : Packet} {s : State} (hdst : p.dst = s.cpu.hw.number) (hx : s.cpu.ctx.status ≠ .absent) (hk : s.cpu.ctx.key = p.ctx)
  (hsaved : NoneSaved s) (hfresh : FreshPk s.cpu.hw p) (hleg : thisLeg p s = true)
include hdst hx hk hsaved hfresh hleg

/-- A read response adds its line to those that the load of its group has been given. -/
theorem readResponse_answers {n line line' gid : Nat} {cells : Cells} {lost : Bool} {view : Option (Stamp × Scope)} {use : ReadUse} {q : Packet}
    (hbody : p.body = .readResp n line cells lost) (hfind : s.cpu.hw.retry.find? (fun q => q.dst == p.src && q.seq == n) = some q)
    (hreq : q.body = .readReq line' gid view use) :
    readResponse p s = answerTaken p n (s.onCpu fun c => c.onGid gid fun g => { g with fills := put g.fills line (if lost then none else some cells) }) := by
  have hfilled : NoneSaved (s.onCpu fun c => c.onGid gid fun g => { g with fills := put g.fills line (if lost then none else some cells) }) :=
    hsaved.mapGroups
      (KeepsPlace.onGid (f := fun g => { g with fills := put g.fills line (if lost then none else some cells) }) (fun _ => ⟨rfl, rfl, Iff.rfl⟩) gid)
  unfold readResponse
  refine receive_applied hdst hfresh hleg ((hfilled.settleRetry p.src n).onHw (ackPacket p)) ?_
  simp only [hbody, hfind, Option.bind_some, hreq, State.byNumber_self hx hk]

theorem turnResult_answers {n gid : Nat} {val : Dword} {ok : Bool} {e : Entry} (hbody : p.body = .result n gid val ok)
    (hfind : s.cpu.ctx.queue.find? (fun e => e.home == p.src && e.stamp.gid == gid) = some e) :
    turnResult p s = answerTaken p n (s.onCpu (resultArrive s.mem e ok val)) := by
  unfold turnResult
  refine receive_applied hdst hfresh hleg (((hsaved.resultArrive s.mem e ok val).settleRetry p.src n).onHw (ackPacket p)) ?_
  simp only [State.byNumber_self hx hk, hbody, hfind]

/-- A wake for a group that does not await the result of its own check is the wake of the wait that it names. -/
theorem turnResult_wakes {gid line since : Nat} {st : Stamp} (hbody : p.body = .wake gid line since st)
    (hnot : (s.cpu.find gid).any (fun g => awaitsTurn g && g.lc == since) = false) :
    turnResult p s = ((s.onCpu fun c => c.onGid gid (fireSince line since st)).onHw (ackPacket p)).onHw
      (countReceived p.ctx p.leg p.src p.seq) := by
  have hwoken : NoneSaved (s.onCpu fun c => c.onGid gid (fireSince line since st)) :=
    hsaved.mapGroups (KeepsPlace.onGid (fireWait_keepsPlace _ st) gid)
  unfold turnResult
  refine receive_applied hdst hfresh hleg (hwoken.onHw (ackPacket p)) ?_
  simp only [State.byNumber_self hx hk, hbody, hnot, Bool.false_eq_true, if_false]

/-- One that overtakes that result is held. -/
theorem turnResult_holds {gid line since : Nat} {st : Stamp} (hbody : p.body = .wake gid line since st)
    (hwaits : (s.cpu.find gid).any (fun g => awaitsTurn g && g.lc == since) = true) :
    turnResult p s = s.onHw fun h => { h with held := insertNew h.held p } := by
  unfold turnResult
  refine receive_held hdst hfresh hleg hsaved ?_
  simp only [State.byNumber_self hx hk, hbody, hwaits, if_true]

theorem turnResult_performed {st : Stamp} {lines : List Nat} (hbody : p.body = .performed st lines) :
    turnResult p s = ((s.onCpu fun c => c.wakeLines st lines).onHw (ackPacket p)).onHw (countReceived p.ctx p.leg p.src p.seq) := by
  have hwoken : NoneSaved (s.onCpu fun c => c.wakeLines st lines) := hsaved.woke (wakeLines_woke s.cpu st lines) rfl
  unfold turnResult
  refine receive_applied hdst hfresh hleg (hwoken.onHw (ackPacket p)) ?_
  simp only [State.byNumber_self hx hk, hbody]

end

end Sys2Proof.Machine


/-! SUPPORT. Control packets and passing packets: machine checks (R347 to R349), acknowledgements (R338, R352), agreements (R346), the combining
table (R345), and the write-combining buffer's timer (R344). -/

namespace Sys2Proof.Machine

/-! ### A packet of a reserved type (R335, R348) -/

/-- SUSP and ANY are set, and every other bit stays (R349). -/
theorem fstatSusp_eq (x : Word) : fstatSusp x = x ||| 0x11 := by
  have hset : (x ||| 0x10) &&& 0x1E ≠ 0 := fun h => by
    have hbit := congrArg (fun y : Word => y.getLsbD 4) h
    simp at hbit
  rw [fstatSusp, fstatAny, if_neg hset]
  apply BitVec.eq_of_getLsbD_eq
  intro i hi
  have hmask : ∀ i < 32, (0xFFFFFFFE : Word).getLsbD i = !(1 : Word).getLsbD i := by decide
  have hbits : ∀ i < 32, (0x11 : Word).getLsbD i = ((0x10 : Word).getLsbD i || (1 : Word).getLsbD i) := by decide
  simp only [BitVec.getLsbD_or, BitVec.getLsbD_and, hmask i hi, hbits i hi]
  generalize x.getLsbD i = a, (0x10 : Word).getLsbD i = b, (1 : Word).getLsbD i = c
  revert a b c
  decide

theorem suspendR1_ctx (code : Nat) (detail : Dword) (c : Cpu) : (suspendR1 code detail c).ctx =
    { c.ctx with r1off := true, groups := c.ctx.groups.map fun g => { g with fstat := g.fstat ||| 0x11 } } := by
  simp only [← fstatSusp_eq]
  rfl

theorem suspendR1_grp (code : Nat) (detail : Dword) {c : Cpu} (h : c.grp.status ≠ .absent) :
    (suspendR1 code detail c).grp = { c.grp with fstat := c.grp.fstat ||| 0x11 } := by
  rw [← fstatSusp_eq]
  exact Cpu.mapGroups_grp (c := checkR1 35 code detail c) _ h

theorem logLost_events (id : Word) (lost : List Nat) (h : Module) : (logLost id lost h).events = h.events := by
  unfold logLost
  induction lost generalizing h with
  | nil => rfl
  | cons l lost ih => exact ih _

/-- Attempts to write marked lines are logged; they are no events. -/
theorem State.keepAll_events (f : State → State) (s : State) : (s.keepAll f).cpu.hw.events = (f s).cpu.hw.events := by
  have hstep : ∀ (l : List Ctx) (h : Module), (l.foldl (fun h x => match s.contexts.find? fun o => o.number == x.number && o.dpart == x.dpart with
      | some o => logLost (ctxId x) (resaveLost h o x o.groups x.groups (f s).mem) h
      | none => h) h).events = h.events := fun l => by
    induction l with
    | nil => exact fun h => rfl
    | cons x l ih =>
      intro h
      rw [List.foldl_cons, ih]
      split
      · exact logLost_events _ _ h
      · rfl
  exact hstep _ _

theorem badPacket_lost {p : Packet} {s : State} (hx : s.cpu.ctx.status ≠ .absent) (hk : s.cpu.ctx.key = p.ctx) :
    R1Lost 35 4 (BitVec.ofNat 64 p.seq) s (badPacket p s) := by
  have hbad : badPacket p s = s.keepAll fun _ => s.onCpu (suspendR1 4 (BitVec.ofNat 64 p.seq)) := by
    simp only [badPacket, State.keepAll, State.byNumber_self hx hk]
  have hkept : NoneSaved s → badPacket p s = s.onCpu (suspendR1 4 (BitVec.ofNat 64 p.seq)) := fun hsaved => by
    rw [hbad]
    exact State.keepAll_of_noneSaved (f := fun _ => _) (hsaved.step (f := fun g => { g with fstat := fstatSusp g.fstat })
      (fun _ => ⟨rfl, rfl, Iff.rfl⟩) rfl rfl rfl rfl rfl hsaved.others)
  refine ⟨fun hsaved => by rw [hkept hsaved]; rfl, ?_, fun hg => ?_, ?_, fun hsaved => by rw [hkept hsaved]; rfl⟩
  · rw [hbad]
    exact suspendR1_ctx 4 _ s.cpu
  · rw [hbad]
    exact suspendR1_grp 4 _ hg
  · rw [hbad, State.keepAll_events]
    rfl

/-! ### Acknowledgements (R338, R352) -/

/-- An acknowledgement of one packet settles it. -/
theorem ackArrive_one {p : Packet} {s : State} {n : Nat} (hdst : p.dst = s.cpu.hw.number) (hsaved : NoneSaved s) (hbody : p.body = .ack [n]) :
    ackArrive p s = settleRetry p.src n s := by
  unfold ackArrive
  rw [if_neg (not_not.2 hdst), hbody]
  exact State.keepAll_of_noneSaved (f := settleRetry p.src n) (hsaved.settleRetry p.src n)

/-- Where the packet was the last one that a `fence.sys` waited for, the fence retires. -/
theorem settleRetry_fence {dst n : Nat} {s : State} (hs : s.cpu.grp.status = .fence)
    (hlast : ∀ q ∈ s.cpu.hw.retry, q.ctx = s.cpu.ctx.key → s.cpu.grp.gid ∈ packetGids q.body → q.dst = dst ∧ q.seq = n) :
    (settleRetry dst n s).cpu.grp = s.cpu.grp.fenceDone := by
  have hanswered : answered n dst s.cpu.grp = s.cpu.grp := by simp only [answered, hs]
  have hnone : outstanding (answeredHw dst n s.cpu.hw) s.cpu.ctx.key s.cpu.grp.gid = [] := List.filter_eq_nil_iff.2 fun q hq hout => by
    rw [Bool.and_eq_true, beq_iff_eq, decide_eq_true_iff] at hout
    exact answeredHw_settled dst n s.cpu.hw q hq (hlast q ((answeredHw_frees dst n s.cpu.hw).retry q hq) hout.1 hout.2)
  rw [settleRetry_grp (by rw [hs]; decide), hanswered]
  simp only [fenceStep, hs, hnone, List.isEmpty_nil, if_true]

theorem settleRetry_windows (dst n : Nat) (s : State) : (settleRetry dst n s).cpu.hw.windows = s.cpu.hw.windows := by
  rw [settleRetry_hw]
  exact (congrArg Module.windows (answeredHw_frees dst n s.cpu.hw).rest :)

/-! ### Agreements (R346) -/

/-- What a module says replaces its report; what it found at a leg end, and whether it is out of reach, stay known. -/
def Peer.heard (q r : Peer) : Peer := { q with found := q.found.or r.found, lost := r.lost }

section
variable {ps : List Peer} {q r : Peer}

theorem hearPeer_of_new (h : ∀ y ∈ ps, y.module ≠ q.module) : hearPeer ps q = ps ++ [q] := by
  have hnone : ps.find? (fun y => y.module == q.module) = none := List.find?_eq_none.2 fun y hy => by simp [h y hy]
  rw [hearPeer, hnone]

variable (h : ps.find? (fun y => y.module == q.module) = some r)
include h

theorem hearPeer_of_older (ho : olderReport q.toReport r.toReport = true) : hearPeer ps q = ps := by
  rw [hearPeer, h]
  exact if_pos ho

theorem mem_hearPeer_of_not_older (ho : ¬ olderReport q.toReport r.toReport = true) (y : Peer) :
    y ∈ hearPeer ps q ↔ y ∈ ps ∧ y.module ≠ q.module ∨ y = q.heard r := by
  have hmem : r ∈ ps := List.mem_of_find?_eq_some h
  have hmodule : r.module = q.module := by simpa using List.find?_some h
  have hmap : hearPeer ps q = ps.map fun y => if y.module = q.module then q.heard r else y := by
    rw [hearPeer, h]
    exact if_neg ho
  rw [hmap, List.mem_map]
  constructor
  · rintro ⟨z, hz, rfl⟩
    split
    · exact .inr rfl
    · next hne => exact .inl ⟨hz, hne⟩
  · rintro (⟨hy, hne⟩ | rfl)
    · exact ⟨y, hy, if_neg hne⟩
    · exact ⟨r, hmem, if_pos hmodule⟩

/-- A module that is in reach stays so. -/
theorem module_mem_livePeers_hearPeer {x : Ctx} (hx : x.peers = hearPeer ps q) (hlost : r.lost = false) :
    q.module ∈ (livePeers x).map fun y => y.module := by
  have hmodule : r.module = q.module := by simpa using List.find?_some h
  by_cases ho : olderReport q.toReport r.toReport = true
  · refine List.mem_map.2 ⟨r, List.mem_filter.2 ⟨?_, by simp [hlost]⟩, hmodule⟩
    rw [hx, hearPeer_of_older h ho]
    exact List.mem_of_find?_eq_some h
  · refine List.mem_map.2 ⟨q.heard r, List.mem_filter.2 ⟨?_, by simp [Peer.heard, hlost]⟩, rfl⟩
    rw [hx, mem_hearPeer_of_not_older h ho]
    exact .inr rfl

end

theorem olderReport_iff {a b : Report} : olderReport a b = true ↔
    a.leg < b.leg ∨ a.leg = b.leg ∧ (a.phase < b.phase ∨ a.phase = b.phase ∧ a.serial < b.serial) := by
  simp [olderReport]

/-- Reports said again go out, one to each module. -/
theorem foldl_repeatReport (ctx : Nat) (r : Report) (l : List Nat) (h : Module) : l.foldl (repeatReport ctx r) h =
    { h with outbox := h.outbox ++ l.map fun t => ⟨11, h.number, t, 0, r.leg % 65536, 0, ctx, .agree r⟩ } := by
  induction l generalizing h with
  | nil => simp
  | cons t l ih =>
    rw [List.foldl_cons, ih]
    simp [repeatReport, sendControl]

theorem sayAgain_rest (again : Nat → Bool) (h : Module) (x : Ctx) : sayAgain again h x = { h with outbox := (sayAgain again h x).outbox } := by
  unfold sayAgain
  split
  · rfl
  · rw [foldl_repeatReport]

theorem sayAgain_outbox {again : Nat → Bool} {h : Module} {x : Ctx} {r : Report} {t : Nat} (hsaid : x.said = some r)
    (ht : t ∈ (livePeers x).map fun y => y.module) (ha : again t = true) :
    (⟨11, h.number, t, 0, r.leg % 65536, 0, x.key, .agree r⟩ : Packet) ∈ (sayAgain again h x).outbox := by
  simp only [sayAgain, hsaid, foldl_repeatReport]
  exact List.mem_append_right _ (List.mem_map.2 ⟨t, List.mem_filter.2 ⟨ht, ha⟩, rfl⟩)

/-- The context after a report of a module has come. -/
def Ctx.hears (x : Ctx) (w : Report) (module : Nat) : Ctx := { x with peers := hearPeer x.peers ⟨w, module, false⟩ }

/-- The module that hears it: one not heard before is told again what this one last said. -/
def hearHw (x : Ctx) (w : Report) (module : Nat) (h : Module) : Module :=
  if unheard x.peers module then sayAgain (· == module) h (x.hears w module) else h

theorem agreementArrive_eq {p : Packet} {s : State} {w : Report} (hdst : p.dst = s.cpu.hw.number) (hx : s.cpu.ctx.status ≠ .absent)
    (hk : s.cpu.ctx.key = p.ctx) (hbody : p.body = .agree w) :
    agreementArrive p s = (s.onCtx fun x => x.hears w p.src).onHw (hearHw s.cpu.ctx w p.src) := by
  unfold agreementArrive
  rw [if_neg (not_not.2 hdst)]
  simp only [State.byNumber_self hx hk, hbody]
  unfold hearHw
  split <;> rfl

section
variable (x : Ctx) (w : Report) (n : Nat) (h : Module)

theorem hearHw_rest : hearHw x w n h = { h with outbox := (hearHw x w n h).outbox } := by
  unfold hearHw
  split
  · exact sayAgain_rest _ h _
  · rfl

variable {x n}

theorem hearHw_silent (hsilent : x.said = none ∨ ∀ y ∈ x.peers, y.module = n → y.serial ≠ 0) : hearHw x w n h = h := by
  unfold hearHw
  split
  · next hun =>
    obtain ⟨y, hy, hmatch⟩ := List.any_eq_true.1 hun
    rw [Bool.and_eq_true, beq_iff_eq, beq_iff_eq] at hmatch
    rcases hsilent with hnone | hheard
    · have hnone' : (x.hears w n).said = none := hnone
      simp only [sayAgain, hnone']
    · exact absurd hmatch.2 (hheard y hy hmatch.1)
  · rfl

theorem hearHw_answers {r : Report} {y : Peer} (hsaid : x.said = some r) (hfind : x.peers.find? (fun y => y.module == n) = some y)
    (hserial : y.serial = 0) (hlost : y.lost = false) :
    (⟨11, h.number, n, 0, r.leg % 65536, 0, x.key, .agree r⟩ : Packet) ∈ (hearHw x w n h).outbox := by
  have hun : unheard x.peers n = true := List.any_eq_true.2 ⟨y, List.mem_of_find?_eq_some hfind, by
    have hmodule := List.find?_some hfind
    simp_all⟩
  rw [hearHw, if_pos hun]
  exact sayAgain_outbox (x := x.hears w n) hsaid (module_mem_livePeers_hearPeer (q := ⟨w, n, false⟩) hfind rfl hlost) (beq_self_eq_true n)

end

/-! ### The combining table of the router (R345) -/

/-- A passing contribution agrees with an entry of the table. -/
def agreesWith (p : Packet) (k : Contrib) (e : Combine) : Bool :=
  e.dst == p.dst && e.line == lineOf k.addr && e.leg == p.leg && e.op == k.op && e.ety == k.ety && e.ctx == p.ctx

/-- An entry once a passing reduction has joined it. -/
def Combine.joined (e : Combine) (p : Packet) (k : Contrib) : Combine :=
  { e with parts := e.parts ++ [(p.src, p.seq)], cs := e.cs ++ [k] }

theorem sendCombined_combining (h : Module) (e : Combine) : e ∉ (sendCombined h e).combining := fun he => by
  have hout := (List.mem_filter.1 he).2
  simp at hout

section
variable {p : Packet} {k : Contrib} {h : Module}

theorem routerCombine_joins (hbody : p.body = .reduction k) {e : Combine} (hfind : h.combining.find? (agreesWith p k) = some e)
    (hroom : e.parts.length ≤ 15) :
    routerCombine p h =
      let h' := { h with combining := h.combining.map fun y => if y = e then e.joined p k else y }
      if e.parts.length = 15 then sendCombined h' (e.joined p k) else h' := by
  unfold agreesWith at hfind
  have hnot : ¬ 16 < e.parts.length + 1 := by omega
  have hfull : 16 ≤ e.parts.length + 1 ↔ e.parts.length = 15 := by omega
  simp [routerCombine, combineParts, hbody, hfind, hnot, hfull, Combine.joined]

/-- A packet that agrees with no entry opens one, where there is room. -/
theorem routerCombine_opens {parts via : List (Nat × Nat)} {cs : List Contrib} (hparts : combineParts p = (parts, via, k :: cs))
    (hfind : h.combining.find? (agreesWith p k) = none) (hroom : h.combining.length < 1024) (hlen : parts.length < 16) :
    routerCombine p h =
      { h with combining := h.combining ++ [⟨p.dst, lineOf k.addr, p.leg, k.op, k.ety, p.ctx, parts, via, k :: cs⟩] } := by
  unfold agreesWith at hfind
  simp [routerCombine, hparts, hfind, Nat.not_le.2 hroom, Nat.not_le.2 hlen]

theorem routerCombine_passes (hbody : p.body = .reduction k) (hfind : h.combining.find? (agreesWith p k) = none)
    (hfull : 1024 ≤ h.combining.length) : routerCombine p h = passOn p h := by
  unfold agreesWith at hfind
  simp [routerCombine, combineParts, hbody, hfind, hfull]

end

/-! ### The write-combining buffer (R344) -/

theorem wcTimer_eq {n : Nat} {s : State} {e : WcEntry} (hn : s.cpu.hw.wcb[n]? = some e) (hx : s.cpu.ctx.status ≠ .absent)
    (hk : s.cpu.ctx.key = e.ctx) : wcTimer n s = s.onCpu fun c => sendWc c e := by
  simp only [wcTimer, hn, State.byNumber_self hx hk]

end Sys2Proof.Machine


/-! SUPPORT. What a read response, the result of a turn and a wake make of the group in hand and of what the module keeps (R87, R259, R335,
R340). -/

namespace Sys2Proof.Machine

/-! ### Answers to the module (R259, R335, R340) -/

theorem answerTaken_mem (p : Packet) (n : Nat) (s : State) : (answerTaken p n s).mem = s.mem := rfl

theorem answerTaken_grp (p : Packet) (n : Nat) (s : State) : (answerTaken p n s).cpu.grp = (settleRetry p.src n s).cpu.grp := rfl

theorem answerTaken_ctx (p : Packet) (n : Nat) (s : State) :
    (answerTaken p n s).cpu.ctx = { s.cpu.ctx with groups := (answerTaken p n s).cpu.ctx.groups } := rfl

/-- A packet that is acknowledged and counted makes nothing held. -/
theorem deliverHeld_counted {p : Packet} {s : State} (h : s.cpu.hw.held = []) :
    deliverHeld ((s.onHw (ackPacket p)).onHw (countReceived p.ctx p.leg p.src p.seq)) =
      (s.onHw (ackPacket p)).onHw (countReceived p.ctx p.leg p.src p.seq) := deliverHeld_of_nil h

theorem ackOf_congr {h k : Module} (hn : h.number = k.number) (p : Packet) : ackOf h p = ackOf k p := by rw [ackOf, ackOf, hn]

section
variable {p : Packet} {s : State} (hdst : p.dst = s.cpu.hw.number) (hx : s.cpu.ctx.status ≠ .absent) (hk : s.cpu.ctx.key = p.ctx)
  (hsaved : NoneSaved s) (hfresh : FreshPk s.cpu.hw p) (hleg : thisLeg p s = true)
include hdst hx hk hsaved hfresh hleg

/-- A load that waited for this line alone goes on. -/
theorem readResponse_resumes {n line line' : Nat} {cells : Cells} {lost : Bool} {view : Option (Stamp × Scope)} {use : ReadUse} {q : Packet}
    (hbody : p.body = .readResp n line cells lost) (hwaits : s.cpu.grp.status = .remote [(n, p.src)])
    (hfind : s.cpu.hw.retry.find? (fun q => q.dst == p.src && q.seq == n) = some q) (hreq : q.body = .readReq line' s.cpu.grp.gid view use) :
    (readResponse p s).mem = s.mem ∧ Settled p.src n (readResponse p s).cpu.hw ∧ ackOf s.cpu.hw p ∈ (readResponse p s).cpu.hw.outbox ∧
      (readResponse p s).cpu.grp =
        { s.cpu.grp with status := .running, fills := put s.cpu.grp.fills line (if lost then none else some cells) } := by
  rw [readResponse_answers hdst hx hk hsaved hfresh hleg hbody hfind hreq]
  refine ⟨rfl, answerTaken_settled p n _, answerTaken_acks p n _, ?_⟩
  let filled : Group := { s.cpu.grp with fills := put s.cpu.grp.fills line (if lost then none else some cells) }
  have hgrp : (s.cpu.onGid s.cpu.grp.gid fun g => { g with fills := put g.fills line (if lost then none else some cells) }).grp = filled :=
    (Cpu.mapGroups_grp _ (by rw [hwaits]; simp)).trans (if_pos rfl)
  have hanswered : answered n p.src filled = { filled with status := .running } := by
    have hfilled : filled.status = .remote [(n, p.src)] := hwaits
    simp [answered, hfilled]
  refine (settleRetry_grp (s := s.onCpu fun c => c.onGid s.cpu.grp.gid _) ?_).trans ?_
  · exact (congrArg Group.status hgrp).trans_ne (by rw [show filled.status = _ from hwaits]; simp)
  · refine (congrArg (fun g => fenceStep _ _ (answered n p.src g)) hgrp).trans ?_
    rw [hanswered]
    rfl

section
variable (hheld : s.cpu.hw.held = [])
include hheld

/-- The result of a turn has arrived, and nothing was held for it. -/
theorem turnResult_settles {n gid : Nat} {val : Dword} {ok : Bool} {e : Entry} (hbody : p.body = .result n gid val ok)
    (hfind : s.cpu.ctx.queue.find? (fun e => e.home == p.src && e.stamp.gid == gid) = some e) :
    deliverHeld (turnResult p s) = answerTaken p n (s.onCpu (resultArrive s.mem e ok val)) := by
  rw [turnResult_answers hdst hx hk hsaved hfresh hleg hbody hfind]
  refine deliverHeld_of_nil ((answerTaken_held p n _).trans ?_)
  exact (congrArg Module.held (resultArrive_hw s.mem e ok val s.cpu)).trans hheld

/-- After an atomic's turn its entry has left the queue, and the group has the value. -/
theorem turnResult_atomic {n : Nat} {val : Dword} {ok : Bool} {e : Entry} {w : TurnWait} {op : AOp} {c : BitVec 4} {a : Nat} {wd sg : Bool}
    {sr k : Dword} (hbody : p.body = .result n s.cpu.grp.gid val ok)
    (hfind : s.cpu.ctx.queue.find? (fun e => e.home == p.src && e.stamp.gid == s.cpu.grp.gid) = some e)
    (hop : e.op = .atomic op c a wd sg sr k) (hok : op = .waita → ok = true) (hs : s.cpu.grp.status = .turn w) (htakes : Takes s.cpu.grp w) :
    let t := deliverHeld (turnResult p s)
    t.mem = s.mem ∧ Settled p.src n t.cpu.hw ∧ ackOf s.cpu.hw p ∈ t.cpu.hw.outbox ∧
      t.cpu.ctx.queue = s.cpu.ctx.queue.filter (fun f => f != e) ∧ GoesOn w val.toNat s.cpu.grp t.cpu.grp := by
  have hgoes := turnGroup_goesOn val hop hok hs htakes
  have hrun : (turnGroup e ok val s.cpu.grp).status = .running := hgoes.1.running
  have hgid : e.stamp.gid = s.cpu.grp.gid := by
    have hfound := List.find?_some hfind
    rw [Bool.and_eq_true, beq_iff_eq, beq_iff_eq] at hfound
    exact hfound.2
  have hgrp : (s.onCpu (resultArrive s.mem e ok val)).cpu.grp = turnGroup e ok val s.cpu.grp :=
    resultArrive_grp (by rw [hs]; simp) hgid hrun
  have hnumber : (s.onCpu (resultArrive s.mem e ok val)).cpu.hw.number = s.cpu.hw.number :=
    (congrArg Module.number (resultArrive_hw s.mem e ok val s.cpu) :)
  have hack := answerTaken_acks p n (s.onCpu (resultArrive s.mem e ok val))
  rw [ackOf_congr hnumber p] at hack
  obtain ⟨gs, ws, hctx⟩ := resultArrive_ctx s.mem e ok val s.cpu
  have hqueue : (resultArrive s.mem e ok val s.cpu).ctx.queue = s.cpu.ctx.queue.filter fun f => f != e := by
    rw [hctx, launchAnswer_rest]
  dsimp only
  rw [turnResult_settles hdst hx hk hsaved hfresh hleg hheld hbody hfind]
  refine ⟨answerTaken_mem p n _, ?_, ?_, ?_, ?_⟩
  · exact answerTaken_settled p n _
  · exact hack
  · exact (congrArg Ctx.queue (answerTaken_ctx p n _)).trans hqueue
  · rw [answerTaken_grp, settleRetry_grp_same] <;> rw [hgrp]
    · exact hgoes
    all_goals rw [hrun]; simp

/-- The launch whose turn it was joins the queue here with the ordinal that it got. -/
theorem turnResult_launch {n : Nat} {val : Dword} {ok : Bool} {e : Entry} {r : List Word} {k : Nat} (hbody : p.body = .result n s.cpu.grp.gid val ok)
    (hfind : s.cpu.ctx.queue.find? (fun e => e.home == p.src && e.stamp.gid == s.cpu.grp.gid) = some e) (hop : e.op = .launch r)
    (hcores : coresFor (lrecOf r) s.cpu.ctx.dq = some k) (hval : val.toNat < 2 ^ 24) :
    let t := deliverHeld (turnResult p s)
    t.mem = s.mem ∧ Settled p.src n t.cpu.hw ∧ t.cpu.ctx.launches = s.cpu.ctx.launches ++ [⟨val.toNat, r, s.cpu.ctx.leg, 0, 1, k, false⟩] ∧
      t.cpu.ctx.nextOrd = max s.cpu.ctx.nextOrd (val.toNat + 1) := by
  obtain ⟨gs, ws, hctx⟩ := resultArrive_ctx s.mem e ok val s.cpu
  have hqueued : launchAnswer e val { s.cpu.ctx with queue := s.cpu.ctx.queue.filter fun f => f != e } = { s.cpu.ctx with
      queue := s.cpu.ctx.queue.filter fun f => f != e
      launches := s.cpu.ctx.launches ++ [⟨val.toNat, r, s.cpu.ctx.leg, 0, 1, k, false⟩]
      nextOrd := max s.cpu.ctx.nextOrd (val.toNat + 1) } := by
    simp only [launchAnswer, hop, hcores, if_pos hval]
  rw [hqueued] at hctx
  dsimp only
  rw [turnResult_settles hdst hx hk hsaved hfresh hleg hheld hbody hfind]
  exact ⟨answerTaken_mem p n _, answerTaken_settled p n _, (congrArg Ctx.launches (answerTaken_ctx p n _)).trans (congrArg Ctx.launches hctx),
    (congrArg Ctx.nextOrd (answerTaken_ctx p n _)).trans (congrArg Ctx.nextOrd hctx)⟩

/-! ### Wakes (R87; DESIGN CHOICE, log 15) -/

/-- A wake for the group in hand, where it has ceded. -/
theorem turnResult_wake {line since : Nat} {st : Stamp} {w : Nat} {wait : Wait} (hbody : p.body = .wake s.cpu.grp.gid line since st)
    (hceded : s.cpu.grp.status = .ceded w wait none) :
    let t := deliverHeld (turnResult p s)
    t.mem = s.mem ∧ t.cpu.grp = fireSince line since st s.cpu.grp ∧ ackOf s.cpu.hw p ∈ t.cpu.hw.outbox := by
  have hpresent : s.cpu.grp.status ≠ .absent := by rw [hceded]; simp
  have hnot : (s.cpu.find s.cpu.grp.gid).any (fun g => awaitsTurn g && g.lc == since) = false := by
    rw [Cpu.find_self hpresent]
    simp [awaitsTurn, hceded]
  have hheld' : (s.onCpu fun c => c.onGid s.cpu.grp.gid (fireSince line since st)).cpu.hw.held = [] := hheld
  dsimp only
  rw [turnResult_wakes hdst hx hk hsaved hfresh hleg hbody hnot, deliverHeld_counted hheld']
  exact ⟨rfl, (Cpu.mapGroups_grp _ hpresent).trans (if_pos rfl), ackOf_mem_ackPacket p s.cpu.hw⟩

/-- The word that a release has performed fires the wait of the group in hand on one of its lines. -/
theorem turnResult_performedWakes {lines : List Nat} {st : Stamp} {w a : Nat} {sc : Scope} (hbody : p.body = .performed st lines)
    (hceded : s.cpu.grp.status = .ceded w (.line sc a) none) (hscope : sc ≠ .block) (ha : lineOf a ∈ lines) :
    let t := deliverHeld (turnResult p s)
    t.mem = s.mem ∧ t.cpu.grp = { s.cpu.grp with status := .ceded w (.line sc a) (some st) } ∧ ackOf s.cpu.hw p ∈ t.cpu.hw.outbox := by
  obtain ⟨hgrp, -, -, hhw⟩ := wakeLines_woke s.cpu st lines
  have hfired : fireWait (onLines lines) st s.cpu.grp = { s.cpu.grp with status := .ceded w (.line sc a) (some st) } := by
    rw [fireWait_of_ceded hceded]
    exact if_pos (by simp [onLines, hscope, ha])
  have hnumber : (s.cpu.wakeLines st lines).hw.number = s.cpu.hw.number := (congrArg Module.number hhw :)
  have hheld' : (s.onCpu fun c => c.wakeLines st lines).cpu.hw.held = [] := (congrArg Module.held hhw).trans hheld
  have hack := ackOf_mem_ackPacket p (s.cpu.wakeLines st lines).hw
  rw [ackOf_congr hnumber p] at hack
  dsimp only
  rw [turnResult_performed hdst hx hk hsaved hfresh hleg hbody, deliverHeld_counted hheld']
  refine ⟨rfl, ?_, hack⟩
  exact hgrp.trans ((Cpu.mapGroups_grp _ (by rw [hceded]; simp)).trans hfired)

/-- A wake that overtakes the result of the group's failed check stays held. -/
theorem turnResult_overtakes {line : Nat} {st : Stamp} {w : TurnWait} (hbody : p.body = .wake s.cpu.grp.gid line s.cpu.grp.lc st)
    (hturn : s.cpu.grp.status = .turn w) (htype : p.typ = 5) :
    deliverHeld (turnResult p s) = s.onHw fun h => { h with held := [p] } := by
  have hwaits : (s.cpu.find s.cpu.grp.gid).any (fun g => awaitsTurn g && g.lc == s.cpu.grp.lc) = true := by
    rw [Cpu.find_self (by rw [hturn]; simp)]
    simp [awaitsTurn, hturn]
  have hholds : turnResult p s = s.onHw fun h => { h with held := [p] } := by
    rw [turnResult_holds hdst hx hk hsaved hfresh hleg hbody hwaits, State.onHw, hheld]
    rfl
  have hempty : (s.onHw fun h => { h with held := [] }) = s := by
    rw [State.onHw, ← hheld]
  have honce : deliverOnce (s.onHw fun h => { h with held := [p] }) = s.onHw fun h => { h with held := [p] } := by
    have hagain : deliver s p = turnResult p s := by simp only [deliver, htype]
    change deliver (s.onHw fun h => { h with held := [] }) p = _
    rw [hempty, hagain, hholds]
  rw [hholds, deliverHeld, honce, honce]

end
end
end Sys2Proof.Machine


/-! SUPPORT. O52, clause by clause: which wait a wake names, control packets, passing reductions, and the write-combining timer. -/

namespace Sys2Proof.Machine

/-! ### The steps -/

theorem exec_readResponse (p : Packet) (s : State) : exec (.readResponse p) s = .next (readResponse p s) := by rfl

theorem exec_turnResult (p : Packet) (s : State) : exec (.turnResult p) s = .next (deliverHeld (turnResult p s)) := by rfl

theorem exec_acknowledgement (p : Packet) (s : State) : exec (.acknowledgement p) s = .next (ackArrive p s) := by rfl

theorem exec_failureNotice (p : Packet) (s : State) : exec (.failureNotice p) s = .next (failureNotice p s) := by rfl

theorem exec_legEndAgreement (p : Packet) (s : State) : exec (.legEndAgreement p) s = .next (agreementArrive p s) := by rfl

theorem exec_reservedPacketType (p : Packet) (s : State) : exec (.reservedPacketType p) s = .next (badPacket p s) := by rfl

theorem exec_writeCombiningTimer (n : Nat) (s : State) : exec (.writeCombiningTimer n) s = .next (wcTimer n s) := by rfl

/-- A passing packet is the router's. -/
theorem exec_routerCombine_passing {p : Packet} {s : State} (h : p.dst ≠ s.cpu.hw.number) :
    exec (.routerCombine p) s = .next (s.onHw (routerCombine p)) := congrArg Host.Outcome.next (if_neg h)

/-- A control packet for another module passes on (R333). -/
theorem exec_control_passes {i : Instr} {p : Packet} {s : State} (hi : i = .acknowledgement p ∨ i = .failureNotice p ∨ i = .legEndAgreement p)
    (h : p.dst ≠ s.cpu.hw.number) : exec i s = .next (s.onHw (passOn p)) := by
  rcases hi with rfl | rfl | rfl
  · exact congrArg Host.Outcome.next (if_pos h)
  · exact congrArg Host.Outcome.next (if_pos h)
  · exact congrArg Host.Outcome.next (if_pos h)

/-! ### Which wait a wake packet names (DESIGN CHOICE, log 15) -/

theorem fireSince_named {g : Group} {st : Stamp} {w a : Nat} {sc : Scope} (hceded : g.status = .ceded w (.line sc a) none) (hsc : sc ≠ .block) :
    fireSince (lineOf a) g.lc st g = { g with status := .ceded w (.line sc a) (some st) } := by
  rw [fireSince, fireWait_of_ceded hceded]
  exact if_pos (by simp [hsc])

/-- The wake of a wait that began at another clock fires nothing. -/
theorem fireSince_stale {g : Group} {st : Stamp} {line since : Nat} (h : since ≠ g.lc) : fireSince line since st g = g := by
  unfold fireSince fireWait
  split
  · refine if_neg ?_
    dsimp only
    split
    · simp [Ne.symm h]
    · simp
  · rfl

/-! ### Control packets -/

section
variable {p : Packet} {s : State}

/-- A report of another module has come. -/
theorem agreementArrive_hears {w : Report} (hdst : p.dst = s.cpu.hw.number) (hx : s.cpu.ctx.status ≠ .absent)
    (hk : s.cpu.ctx.key = p.ctx) (hbody : p.body = .agree w) :
    let h := s.cpu.hw
    let x := s.cpu.ctx
    let t := agreementArrive p s
    let q : Peer := ⟨w, p.src, false⟩
    StepOf { s with cpu := { s.cpu with hw := { h with outbox := t.cpu.hw.outbox } } } t ∧ t.cpu.ctx = { x with peers := t.cpu.ctx.peers } ∧
      (x.said = none ∨ (∀ y ∈ x.peers, y.module = p.src → y.serial ≠ 0) → t.cpu.hw.outbox = h.outbox) ∧
      (∀ r y, x.said = some r → x.peers.find? (fun y => y.module == p.src) = some y → y.serial = 0 → y.lost = false →
        (⟨11, h.number, p.src, 0, r.leg % 65536, 0, x.key, .agree r⟩ : Packet) ∈ t.cpu.hw.outbox) ∧
      t.cpu.ctx.peers = hearPeer x.peers q := by
  dsimp only
  rw [agreementArrive_eq hdst hx hk hbody]
  refine ⟨⟨rfl, hearHw_rest s.cpu.ctx w p.src s.cpu.hw, rfl, rfl, fun _ => rfl⟩, rfl, fun hsilent => ?_, fun r y hsaid hfind hserial hlost => ?_, rfl⟩
  · exact congrArg Module.outbox (hearHw_silent w s.cpu.hw hsilent)
  · exact hearHw_answers w s.cpu.hw hsaid hfind hserial hlost

/-- Peers by the age of the report (R346). -/
theorem hearPeer_spec (ps : List Peer) (q : Peer) :
    let older := fun a b : Report => a.leg < b.leg ∨ a.leg = b.leg ∧ (a.phase < b.phase ∨ a.phase = b.phase ∧ a.serial < b.serial)
    ((∀ y ∈ ps, y.module ≠ q.module) → hearPeer ps q = ps ++ [q]) ∧
    ∀ r, ps.find? (fun y => y.module == q.module) = some r →
      (older q.toReport r.toReport → hearPeer ps q = ps) ∧
      (¬ older q.toReport r.toReport → ∀ y, y ∈ hearPeer ps q ↔ y ∈ ps ∧ y.module ≠ q.module ∨ y = q.heard r) :=
  ⟨hearPeer_of_new, fun _ hfind => ⟨fun ho => hearPeer_of_older hfind (olderReport_iff.2 ho),
    fun ho => mem_hearPeer_of_not_older hfind (mt olderReport_iff.1 ho)⟩⟩

end

/-! ### Passing reductions (R345) -/

section
variable {p : Packet} {s : State} (hdst : p.dst ≠ s.cpu.hw.number)
include hdst

theorem routerCombine_reduction {k : Contrib} (hbody : p.body = .reduction k) :
    let h := s.cpu.hw
    ∃ t, exec (.routerCombine p) s = .next t ∧ HwOnly s t ∧
      (∀ e, h.combining.find? (agreesWith p k) = some e →
        (e.parts.length < 15 → t.cpu.hw = { h with combining := h.combining.map fun y => if y = e then e.joined p k else y }) ∧
        (e.parts.length = 15 → e.joined p k ∉ t.cpu.hw.combining ∧
          t.cpu.hw.retry = h.retry ++ [⟨7, h.number, e.dst, nextSeq h e.dst, e.leg % 65536, 0, e.ctx,
            .combined (e.joined p k).parts (e.joined p k).via (e.joined p k).cs⟩])) ∧
      (h.combining.find? (agreesWith p k) = none →
        (h.combining.length < 1024 → t.cpu.hw = { h with
          combining := h.combining ++ [⟨p.dst, lineOf k.addr, p.leg, k.op, k.ety, p.ctx, [(p.src, p.seq)], [], [k]⟩] }) ∧
        (1024 ≤ h.combining.length → t.cpu.hw = { h with outbox := h.outbox ++ [{ p with hop := p.hop + 1 }] })) := by
  refine ⟨_, exec_routerCombine_passing hdst, HwOnly.onHw s _, fun e hfind => ⟨fun hlen => ?_, fun hlen => ?_⟩,
    fun hnone => ⟨fun hroom => ?_, fun hfull => ?_⟩⟩
  · exact (routerCombine_joins hbody hfind (Nat.le_of_lt hlen)).trans (if_neg hlen.ne)
  · have hsent := (routerCombine_joins hbody hfind hlen.le).trans (if_pos hlen)
    refine ⟨fun he => ?_, congrArg Module.retry hsent⟩
    rw [show (s.onHw (routerCombine p)).cpu.hw = _ from hsent] at he
    exact sendCombined_combining _ _ he
  · exact routerCombine_opens (by rw [combineParts, hbody]) hnone hroom (by simp)
  · exact routerCombine_passes hbody hnone hfull

theorem routerCombine_combined {parts via : List (Nat × Nat)} {k : Contrib} {cs : List Contrib} (hbody : p.body = .combined parts via (k :: cs))
    (hlen : parts.length < 16) (hnone : ∀ e ∈ s.cpu.hw.combining, ¬ agreesWith p k e = true) (hroom : s.cpu.hw.combining.length < 1024) :
    ∃ t, exec (.routerCombine p) s = .next t ∧ HwOnly s t ∧ t.cpu.hw = { s.cpu.hw with combining := s.cpu.hw.combining ++
      [⟨p.dst, lineOf k.addr, p.leg, k.op, k.ety, p.ctx, parts, via ++ [(p.src, p.seq)], k :: cs⟩] } :=
  ⟨_, exec_routerCombine_passing hdst, HwOnly.onHw s _,
    routerCombine_opens (by rw [combineParts, hbody]) (List.find?_eq_none.2 hnone) hroom hlen⟩

end

theorem agreesWith_iff {p : Packet} {k : Contrib} {e : Combine} : agreesWith p k e = true ↔
    e.dst = p.dst ∧ e.line = lineOf k.addr ∧ e.leg = p.leg ∧ e.op = k.op ∧ e.ety = k.ety ∧ e.ctx = p.ctx := by
  simp [agreesWith, and_assoc]

/-- An aged entry of the write-combining buffer goes to its home, in the name of its own context and leg (R344). -/
theorem writeCombiningTimer_sends {n : Nat} {s : State} {e : WcEntry} (hn : s.cpu.hw.wcb[n]? = some e) (hx : s.cpu.ctx.status ≠ .absent)
    (hk : s.cpu.ctx.key = e.ctx) :
    let h := s.cpu.hw
    ∃ t, exec (.writeCombiningTimer n) s = .next t ∧ HwOnly s t ∧
      let a : Packet := ⟨2, h.number, e.module, nextSeq h e.module, e.leg % 65536, 0, e.ctx, .lineWrite e.gid none e.cells []⟩
      t.cpu.hw = { h with
        wcb := h.wcb.filter (fun y => y != e), retry := h.retry ++ [a], seqs := t.cpu.hw.seqs, outbox := t.cpu.hw.outbox
        sentLog := t.cpu.hw.sentLog } ∧
      (inSendWindow h e.module (nextSeq h e.module) = true → a ∈ t.cpu.hw.outbox) := by
  refine ⟨_, (exec_writeCombiningTimer n s).trans (congrArg Host.Outcome.next (wcTimer_eq hn hx hk)), ⟨rfl, rfl, rfl, rfl, rfl⟩, rfl, fun hw => ?_⟩
  have hout : (sendWc s.cpu e).hw.outbox = s.cpu.hw.outbox ++
      [⟨2, s.cpu.hw.number, e.module, nextSeq s.cpu.hw e.module, e.leg % 65536, 0, e.ctx, .lineWrite e.gid none e.cells []⟩] := if_pos hw
  exact hout ▸ List.mem_append_right _ (List.mem_singleton.2 rfl)

/-- Settles O52: each packet at its destination is one of the answers above; the rest the router and the timer send. -/
theorem fabricAnswers : Obligations.FabricAnswers := by
  unfold Obligations.FabricAnswers
  intro p s
  dsimp only
  refine ⟨fun i hi hdst => ⟨_, exec_control_passes hi hdst, HwOnly.onHw s _, rfl⟩, fun hx hk => ⟨_, exec_reservedPacketType p s, badPacket_lost hx hk⟩,
    fun hdst hx hk hsaved => ⟨fun hfresh hlegs => ?_, fun n hbody => ?_, fun w hbody => ?_⟩, fun k hdst hbody => routerCombine_reduction hdst hbody,
    fun parts via k cs hdst hbody hlen hnone hroom => routerCombine_combined hdst hbody hlen (fun e he => mt agreesWith_iff.1 (hnone e he)) hroom,
    fun n e hn hx hk => writeCombiningTimer_sends hn hx hk⟩
  · have hleg := thisLeg_of_here hx hk hlegs
    refine ⟨fun n line cells lost line' view use q hbody hwaits hfind hreq => ?_, fun hheld => ⟨?_, ?_, ?_, ?_, ?_, ?_⟩⟩
    · exact ⟨_, exec_readResponse p s, readResponse_resumes hdst hx hk hsaved hfresh hleg hbody hwaits hfind hreq⟩
    · intro n val ok e w op c a wd sg sr k hbody hfind hop hok hs htakes
      exact ⟨_, exec_turnResult p s, turnResult_atomic hdst hx hk hsaved hfresh hleg hheld hbody hfind hop hok hs htakes⟩
    · intro n val ok e r k hbody hfind hop hcores hval
      exact ⟨_, exec_turnResult p s, turnResult_launch hdst hx hk hsaved hfresh hleg hheld hbody hfind hop hcores hval⟩
    · intro st w sc a hbody hceded hsc
      obtain ⟨hmem, hgrp, hack⟩ := turnResult_wake hdst hx hk hsaved hfresh hleg hheld hbody hceded
      exact ⟨_, exec_turnResult p s, hmem, hgrp.trans (fireSince_named hceded hsc), hack⟩
    · intro st w line since hbody hceded _ hsince
      obtain ⟨hmem, hgrp, hack⟩ := turnResult_wake hdst hx hk hsaved hfresh hleg hheld hbody hceded
      exact ⟨_, exec_turnResult p s, hmem, hgrp.trans (fireSince_stale hsince), hack⟩
    · intro st w line hbody hturn htype
      refine ⟨_, exec_turnResult p s, ?_⟩
      rw [turnResult_overtakes hdst hx hk hsaved hfresh hleg hheld hbody hturn htype]
      exact ⟨⟨rfl, rfl, rfl, rfl, fun _ => rfl⟩, rfl⟩
    · intro st lines w sc a hbody hceded hsc ha
      exact ⟨_, exec_turnResult p s, turnResult_performedWakes hdst hx hk hsaved hfresh hleg hheld hbody hceded hsc ha⟩
  · refine ⟨_, exec_acknowledgement p s, ?_⟩
    rw [ackArrive_one hdst hsaved hbody]
    exact ⟨rfl, settleRetry_hw p.src n s ▸ answeredHw_settled p.src n s.cpu.hw, settleRetry_windows p.src n s, settleRetry_fence⟩
  · obtain ⟨hstep, hctx, hsilent, hsaid, hpeers⟩ := agreementArrive_hears hdst hx hk hbody
    refine ⟨_, exec_legEndAgreement p s, hstep, hctx, hsilent, hsaid, ?_⟩
    rw [hpeers]
    exact hearPeer_spec s.cpu.ctx.peers ⟨w, p.src, false⟩

end Sys2Proof.Machine
